-- ==== Sys2Proof/Word.lean ====
section
/-! DEFINITION. Sys2Proof/Word.lean: the words of the Z9 (R51, R103, R105) and the sets of names its
syllables and events use (R53, R55, R76, R77). -/

namespace Sys2Proof

/-- One byte of memory (R51). -/
abbrev Byte := BitVec 8

/-- A 32-bit word (R51). -/
abbrev Word := BitVec 32

/-- A scalar register's 64 bits (R103). -/
abbrev DWord := BitVec 64

/-- A lane mask's 128 bits (R105). -/
abbrev Mask := BitVec 128

/-- The nine slots of a bundle, in slot order (R52). -/
inductive Slot where
  | X | Y | C | V | W | M | K | L | E
  deriving DecidableEq, Repr

/-- The static formats FMT of R55. -/
inductive Fmt where
  | f32 | bf16 | f16 | i32 | n32 | i8 | n8 | ln6
  deriving DecidableEq, Repr

/-- The condition codes of R76. Code 4 is `.ltu` for `cmp` and `cmpi` and `.le` for the rest, code 5 `.geu` or `.gt`. -/
inductive Cond where
  | eq | ne | lt | ge | c4 | c5 | unord | ord
  deriving DecidableEq, Repr

/-- The rounding modes of R77 and R98. -/
inductive RMode where
  | rne | rz | ru | rd | rna | rnes | rzs
  deriving DecidableEq, Repr

/-- The conditions of `waita` (R82, R217): unsigned comparisons. -/
inductive WCond where
  | eq | ne | ge | lt
  deriving DecidableEq, Repr

/-- The extension of the V and W forms (R78), less the slide distance. -/
structure VExt where
  qa : Bool
  qb : Bool
  qd : Bool
  ke : Bool
  km : Nat
  deriving DecidableEq, Repr

/-- No extension: every operand is a view and every lane is written. -/
def VExt.none : VExt := ⟨false, false, false, false, 0⟩

/-- A token as it reaches a port (R282, R314): the header's words and the payload's bytes. -/
structure Token where
  win : Nat
  job : Nat
  dmember : Nat
  zlen : Nat
  sec : Nat
  nsec : Nat
  rsv : Nat
  payload : List Byte
  deriving DecidableEq, Repr

/-- Who a module's PTP master is (R272). -/
inductive Master where
  | none | grandmaster | z9 | other | self
  deriving DecidableEq, Repr

/-- What an Announce tells of the grandmaster and of its sender (R270): domain, the grandmaster's priority1, clockQuality, priority2 and
clockIdentity, steps removed from it, the sender's clockIdentity, and the module that sends it, if a Z9 port does. -/
structure Announce where
  domain : Nat
  prio1 : Nat
  quality : Nat
  prio2 : Nat
  gm : Nat
  steps : Nat
  sender : Nat
  from_ : Option Nat
  deriving DecidableEq, Repr

/-- An Announce as it arrives at a port. -/
structure PortAnnounce where
  port : Nat
  a : Announce
  deriving DecidableEq, Repr

/-- What a Sync brings (R270, R272): the module that sends it, if a Z9 port does, its offset bound U in ns, and n of its interval of 2^-n s. -/
structure SyncMsg where
  from_ : Option Nat
  u : Nat
  log : Nat
  deriving DecidableEq, Repr

/-- The peer delay messages, and the Delay_Req of the other mechanism (R270): times in ns of the requester's clock, the responder's turnaround. -/
inductive PeerMsg where
  | pdelayReq (t1 : Nat)
  | pdelayResp (t1 turnaround : Nat)
  | delayReq
  deriving DecidableEq, Repr

/-- A PTP message that a module sends (R270, R272): a Sync with its offset bound U and its interval, an Announce, or a peer delay message. -/
inductive PtpMsg where
  | sync (u log : Nat)
  | announce (a : Announce)
  | peer (x : PeerMsg)
  deriving DecidableEq, Repr

/-- Where a stored bit lies (R393), for an event that changes one. -/
inductive BitLoc where
  | regspace (core addr : Nat)
  | scratch (cluster addr : Nat)
  | weight (die addr : Nat)
  | hbm (module addr : Nat)
  | array (core row col : Nat)
  /-- a byte of a block that a core's fetch cache holds, by its core-local address -/
  | fcache (core addr : Nat)
  /-- the TLB entry of an engine for a page of a member's space -/
  | tlb (cluster engine va : Nat)
  /-- the n-th contribution kept in the fold buffers of a module -/
  | fold (module n : Nat)
  /-- SRAM of a module's I/O die -/
  | ioSram (module : Nat)
  deriving DecidableEq, Repr

/-- What DBGWRITE writes on a frozen core (R371). -/
inductive DbgTarget where
  | scalar (n : Nat) (v : DWord)
  | pred (n : Nat) (v : Bool)
  | mask (n : Nat) (v : Mask)
  | bytes (addr : Nat) (bs : List Byte)
  deriving DecidableEq, Repr

/-- What DBGREAD reads of a frozen job (R371). -/
inductive DbgSource where
  | scalar (core n : Nat)
  | pred (core n : Nat)
  | mask (core n : Nat)
  | view (core cls n : Nat)
  | pc (core : Nat)
  | handler (core : Nat)
  | pending (core : Nat)
  | trace (core : Nat)
  | kitty (core : Nat)
  | journal (core : Nat)
  | regspace (core addr n : Nat)
  | scratch (cluster addr n : Nat)
  | weight (die addr n : Nat)
  | queue (cluster engine : Nat)
  /-- the sequencer: what it does, its next issue, the stall watchdog's count, sys.sched -/
  | sequencer (core : Nat)
  | sysreg (core n : Nat)
  | loops (core : Nat)
  | regions (core : Nat)
  /-- the state words of a channel (R241) -/
  | channel (core ch : Nat)
  /-- a stream register (R184, R189) -/
  | stream (core n : Nat)
  /-- the array: B, the checksum row and the latches (R165 to R169) -/
  | array (core : Nat)
  /-- the checksum column of an accumulator row (R169) -/
  | rowSum (core row : Nat)
  /-- the tag of a granule of the register space, and the dirty bit of its line (R102, R126) -/
  | granule (core g : Nat)
  /-- stores not yet performed, held exclusive bindings, and `rel`s in the background -/
  | memory (core : Nat)
  /-- the chunk in hand of an engine (R205) -/
  | chunk (cluster engine : Nat)
  | tlb (cluster engine : Nat)
  /-- an entry of the binding table (R208), and which half is visible -/
  | binding (cluster b : Nat)
  /-- a graph slot (R318): run, counters, states of its operations -/
  | graph (cluster slot : Nat)
  /-- what the launch unit set for the cluster (R46) -/
  | task (cluster : Nat)
  /-- memory of the job at a virtual address on the module -/
  | virt (m job addr n : Nat)
  deriving DecidableEq, Repr

/-- The part a device fault stops (R397). -/
inductive FaultPart where
  | engine (cluster e : Nat)
  | die (d : Nat)
  deriving DecidableEq, Repr

end Sys2Proof
end

