-- ==== Sys2Proof/Config.lean ====
section
/-! DEFINITION. Sys2Proof/Config.lean: what the manual leaves open and the model does not fix (log 9), and what the
signed configuration records hold (R8, log 5). -/

namespace Sys2Proof

/-- The free choices of the manual: the n-th open value the machine meets (fetch and wake delays, call and access
latencies, which of two allowed bytes a fetch returns, ...). It has no body: nothing is known of any value of it (log 9). -/
opaque Config.freeNat : Nat → Nat

/-- The n-th open value, kept in the range lo to hi that the manual gives (log 9). -/
def Config.freeIn (lo hi n : Nat) : Nat := lo + Config.freeNat n % (hi - lo + 1)

/-- The wiring of the fabric: the module and the port at the other end of a Dolsel port of a module (log 76). -/
opaque Config.linked : Nat → Nat → Option (Nat × Nat)

/-- The cycles that a PTP message takes over the link between two ports, named by 33 × module + port, the lower first, less 1 and modulo 1,000 (log 76). -/
opaque Config.linkCycles : Nat → Nat → Nat

/-- What IEEE 1588 lets a module's clock announce of itself besides its priorities: clockQuality (class, accuracy and variance as one number of 8, 8
and 16 bits, the lower the better) and clockIdentity (log 76). -/
opaque Config.clockQuality : Nat → Nat
@[inherit_doc Config.clockQuality] opaque Config.clockIdentity : Nat → Nat

/-- The time of a grandmaster outside the pod, in ns, as the machine's true time begins (log 76). -/
opaque Config.tai : Nat

/-- The rank of a pseudo-channel that holds a 64-byte line of a module's HBM, by line number, in the numbering of its erasure tables (R395, log 113). -/
opaque Config.rankOf : Nat → Nat

/-- The fields whose Reset is `cfg` (R8): what the signed configuration records of a module hold, loaded at bring-up (R402). -/
structure CfgRecords where
  mtol : Nat
  wsPhase : Nat
  tmcfg : Nat
  tmport : Nat
  limit : Nat
  wlog : Nat
  vact : Nat
  tver : Nat
  deriving DecidableEq, Repr

/-- The records of a module of which the spec tells nothing: zeros, but for the fields whose range excludes zero:
HOLDMAX is 1 s and LIMIT is the nominal power of R25 (DESIGN CHOICE, log 5). -/
def CfgRecords.initial : CfgRecords :=
  { mtol := 0, wsPhase := 0, tmcfg := 1 * 2 ^ 40, tmport := 0, limit := 2700, wlog := 0, vact := 0, tver := 0 }

end Sys2Proof
end

