-- ==== Sys2Proof/Syntax.lean ====
section
/-! DEFINITION. Sys2Proof/Syntax.lean: one constructor for each row of spec/opcode_table.json: the syllables of
R74 to R82 and the part's own events and operations (95_what_each_step_holds.md).

Syllables carry their guard predicate g first (R54). Register and table numbers are naturals, limited by
WellFormed.lean. A displacement or an offset is the signed value of its field (R57, R73): displacements count 4 bytes,
`sld`/`sst` offsets count the access size (R109) and L-slot offsets 32 bytes (R137).

Events name their place by global numbers: core K = 768 m + core number, cluster K / 8, die K / 96, module m (R11). An
event of one place only has no operand: it happens at the place that `State.place` holds (a core, a cluster, a die, a
module or an item in flight). `caller` is the calling partition, 0 for the hypervisor (R383). -/

namespace Sys2Proof

/-- The instructions and events of the Z9, one constructor per row of the opcode table. -/
inductive Instr where
  -- the part's events (R402, R58, ...)
  | coldReset (m : Nat) (ok : Bool) (hostTime : Nat)
  | wsRefreshWindow (d grp : Nat)
  | streamUnitMove (k u : Nat)
  | chunkPerform (c e : Nat)
  | requestFinish (c e : Nat)
  | publishSwap (c b : Nat)
  | agreementDeadlineExpiry (job ch : Nat)
  | syncReceive (m port : Nat) (x : SyncMsg)
  | tmcfgWrite (m v : Nat)
  | tickFiring (m tg : Nat)
  | tokenArrival (m port : Nat) (t : Token)
  | slotClose (m w : Nat)
  | graphRunFinish (c slot : Nat)
  | queueDoorbell (m q : Nat)
  | queuePollTimer (m q : Nat)
  | packetRead (m q : Nat)
  | queueGo (m caller q : Nat)
  | queueErrClear (m caller q : Nat) (err flt : Bool)
  | queueCompletionAck (m caller q v : Nat)
  | dependenceTest (m q : Nat)
  | jobCreate (m caller job : Nat) (members : List Nat) (root : Nat) (decls : List (List Nat))
  | jobRemove (m caller job : Nat)
  | jobShrink (m caller job member : Nat)
  | tickSet (m caller tg : Nat) (words : List Nat)
  | winOpen (m caller job c : Nat) (decl : List Nat)
  | winClose (m caller w : Nat)
  | cvAllot (m caller n : Nat) (words : List Nat)
  | shootdown (m caller job member va bytes : Nat)
  | pageReady (m caller job member va bytes : Nat)
  | fabSched (m caller job src dst hops rate : Nat) (ports : List Nat)
  | partAssign (c part : Nat)
  | partPreempt (m part : Nat)
  | partResume (m part : Nat)
  | wsownWrite (d part : Nat)
  | swapCommand (m caller : Nat) (words : List Nat)
  | halt (m caller job : Nat)
  | haltWaveTrigger (m job : Nat)
  | dbgRead (m caller job : Nat) (src : DbgSource)
  | dbgWrite (k caller : Nat) (t : DbgTarget)
  | stepCycle (k caller : Nat)
  | stepBundle (k caller : Nat)
  | resume (m caller job : Nat)
  | resumeReleaseStage (m job stage : Nat)
  | fwload (m : Nat) (signed accepts : Bool) (version : Nat)
  | dieFirmwareRejoin (d lo hi : Nat) (neighbours : List (Nat × Nat))
  | registerWrite (m caller off : Nat) (v : Option Nat)
  | errorCounterClear (m part : Nat)
  | flitRetry (m port : Nat)
  | linkDownTimeout (m port : Nat)
  | erasureAdd (m rank sym : Nat)
  | hbmRepair (m rank frame : Nat) (bringUp : Bool)
  | patrolScrub (loc : BitLoc)
  -- X and Y slots (R74, R107 to R112)
  | add (g d a b : Nat)
  | sub (g d a b : Nat)
  | mul (g d a b : Nat)
  | mulh (g d a b : Nat)
  | and (g d a b : Nat)
  | or (g d a b : Nat)
  | xor (g d a b : Nat)
  | shl (g d a b : Nat)
  | shr (g d a b : Nat)
  | sra (g d a b : Nat)
  | min (g d a b : Nat)
  | max (g d a b : Nat)
  | clz (g d a : Nat)
  | popc (g d a : Nat)
  | addi (g d a : Nat) (imm : Int)
  | addiWide (g d a : Nat) (imm : Int)
  | movi (g d : Nat) (imm : Int)
  | moviWide (g d : Nat) (imm : Int)
  | movhi (g d imm : Nat)
  | sext (g d a w : Nat)
  | zext (g d a w : Nat)
  | bfx (g d a pos len : Nat)
  | bfi (g d a pos len : Nat)
  | madd (g d a b c : Nat)
  | sld (g d a sz : Nat) (off : Int)
  | sldWide (g d a sz : Nat) (off : Int)
  | sst (g v a sz : Nat) (off : Int)
  | sstWide (g v a sz : Nat) (off : Int)
  | rdsys (g d n : Nat)
  | wrsys (g a n : Nat)
  -- X slot alone (R75, R117, R120)
  | endOp (g : Nat)
  | br (g : Nat) (disp : Int)
  | brWide (g : Nat) (disp : Int)
  | brr (g a : Nat)
  | call (g d : Nat) (disp : Int)
  | callWide (g d : Nat) (disp : Int)
  | ret (g a : Nat)
  | loop (g a : Nat) (disp : Int)
  | loopWide (g a : Nat) (disp : Int)
  | brk (g n : Nat) (disp : Int)
  -- C slot (R76, R114)
  | cmp (g p : Nat) (cond : Cond) (a b : Nat)
  | cmpi (g p : Nat) (cond : Cond) (a : Nat) (imm : Int)
  | cmpiWide (g p : Nat) (cond : Cond) (a : Nat) (imm : Int)
  | fcmp (g p : Nat) (cond : Cond) (f : Fmt) (a b : Nat)
  | pand (g p a b : Nat) (na nb : Bool)
  | por (g p a b : Nat) (na nb : Bool)
  | pxor (g p a b : Nat) (na nb : Bool)
  | vany (g p km : Nat)
  | vall (g p km : Nat)
  -- V and W slots (R77, R78)
  | vadd (g : Nat) (f : Fmt) (d a b : Nat)
  | vaddExt (g : Nat) (f : Fmt) (d a b : Nat) (e : VExt)
  | vsub (g : Nat) (f : Fmt) (d a b : Nat)
  | vsubExt (g : Nat) (f : Fmt) (d a b : Nat) (e : VExt)
  | vmul (g : Nat) (f : Fmt) (d a b : Nat)
  | vmulExt (g : Nat) (f : Fmt) (d a b : Nat) (e : VExt)
  | vmin (g : Nat) (f : Fmt) (d a b : Nat)
  | vminExt (g : Nat) (f : Fmt) (d a b : Nat) (e : VExt)
  | vmax (g : Nat) (f : Fmt) (d a b : Nat)
  | vmaxExt (g : Nat) (f : Fmt) (d a b : Nat) (e : VExt)
  | vand (g : Nat) (f : Fmt) (d a b : Nat)
  | vandExt (g : Nat) (f : Fmt) (d a b : Nat) (e : VExt)
  | vor (g : Nat) (f : Fmt) (d a b : Nat)
  | vorExt (g : Nat) (f : Fmt) (d a b : Nat) (e : VExt)
  | vxor (g : Nat) (f : Fmt) (d a b : Nat)
  | vxorExt (g : Nat) (f : Fmt) (d a b : Nat) (e : VExt)
  | vshl (g : Nat) (f : Fmt) (d a b : Nat)
  | vshlExt (g : Nat) (f : Fmt) (d a b : Nat) (e : VExt)
  | vshr (g : Nat) (f : Fmt) (d a b : Nat)
  | vshrExt (g : Nat) (f : Fmt) (d a b : Nat) (e : VExt)
  | vsra (g : Nat) (f : Fmt) (d a b : Nat)
  | vsraExt (g : Nat) (f : Fmt) (d a b : Nat) (e : VExt)
  | vfma (g : Nat) (f : Fmt) (d a b : Nat)
  | vfmaExt (g : Nat) (f : Fmt) (d a b : Nat) (e : VExt)
  | vfms (g : Nat) (f : Fmt) (d a b : Nat)
  | vfmsExt (g : Nat) (f : Fmt) (d a b : Nat) (e : VExt)
  | vperm (g : Nat) (f : Fmt) (d a b : Nat)
  | vpermExt (g : Nat) (f : Fmt) (d a b : Nat) (e : VExt)
  | vslide (g : Nat) (f : Fmt) (d a b : Nat) (e : VExt) (n : Nat)
  | vabs (g : Nat) (f : Fmt) (d a : Nat)
  | vabsExt (g : Nat) (f : Fmt) (d a : Nat) (e : VExt)
  | vneg (g : Nat) (f : Fmt) (d a : Nat)
  | vnegExt (g : Nat) (f : Fmt) (d a : Nat) (e : VExt)
  | vmov (g d a : Nat)
  | vmovExt (g d a : Nat) (e : VExt)
  | vexp2 (g : Nat) (f : Fmt) (d a : Nat)
  | vexp2Ext (g : Nat) (f : Fmt) (d a : Nat) (e : VExt)
  | vlog2 (g : Nat) (f : Fmt) (d a : Nat)
  | vlog2Ext (g : Nat) (f : Fmt) (d a : Nat) (e : VExt)
  | vrcp (g : Nat) (f : Fmt) (d a : Nat)
  | vrcpExt (g : Nat) (f : Fmt) (d a : Nat) (e : VExt)
  | vrsq (g : Nat) (f : Fmt) (d a : Nat)
  | vrsqExt (g : Nat) (f : Fmt) (d a : Nat) (e : VExt)
  | vtanh (g : Nat) (f : Fmt) (d a : Nat)
  | vtanhExt (g : Nat) (f : Fmt) (d a : Nat) (e : VExt)
  | vsum (g : Nat) (f : Fmt) (d a : Nat)
  | vsumExt (g : Nat) (f : Fmt) (d a : Nat) (e : VExt)
  | vmaxr (g : Nat) (f : Fmt) (d a : Nat)
  | vmaxrExt (g : Nat) (f : Fmt) (d a : Nat) (e : VExt)
  | vcvt (g : Nat) (f : Fmt) (d a : Nat) (sf : Fmt) (rm : RMode)
  | vcvtExt (g : Nat) (f : Fmt) (d a : Nat) (sf : Fmt) (rm : RMode) (e : VExt)
  | vsel (g : Nat) (f : Fmt) (d a b km : Nat)
  | vselExt (g : Nat) (f : Fmt) (d a b km : Nat) (e : VExt)
  | vcmp (g : Nat) (f : Fmt) (kd : Nat) (cond : Cond) (a b : Nat)
  | vcmpExt (g : Nat) (f : Fmt) (kd : Nat) (cond : Cond) (a b : Nat) (e : VExt)
  | vsplat (g : Nat) (f : Fmt) (d a : Nat)
  -- M slot (R79)
  | mpush (g kr : Nat) (s : Bool) (src : Nat)
  | mfeed (g : Nat) (s : Bool) (src ad row : Nat)
  | mshiftDown (g n : Nat)
  | mshiftAcross (g n : Nat)
  | mdrain (g : Nat) (f : Fmt) (td trow ad arow : Nat)
  | mzero (g ad arow : Nat)
  -- K slot (R80)
  | kset (g : Nat) (edgeB : Bool) (l col : Nat) (sc : Int)
  | kld (g : Nat) (edgeB : Bool) (l a : Nat)
  -- L slot (R81)
  | vwset (g cls idx a : Nat)
  | vwclr (g cls idx : Nat)
  | vwget (g cls idx d w : Nat)
  | vld (g : Nat) (f : Fmt) (d a : Nat) (off : Int)
  | vldWide (g : Nat) (f : Fmt) (d a : Nat) (off : Int)
  | vst (g : Nat) (f : Fmt) (v a : Nat) (off : Int)
  | vstWide (g : Nat) (f : Fmt) (v a : Nat) (off : Int)
  | tsr (g : Nat) (f : Fmt) (v t : Nat) (col : Bool) (i : Nat)
  | tsw (g : Nat) (f : Fmt) (v t : Nat) (col : Bool) (i : Nat)
  | wsld (g : Nat) (f : Fmt) (d a : Nat) (off : Int)
  | wsldWide (g : Nat) (f : Fmt) (d a : Nat) (off : Int)
  | qbind (g q a : Nat) (write : Bool) (u : Nat)
  | qbindNone (g q : Nat) (write : Bool) (u : Nat)
  | qadv (g q n : Nat)
  | amoAdd (g : Nat) (f : Fmt) (d a b : Nat) (w : Bool)
  | amoMin (g : Nat) (f : Fmt) (d a b : Nat) (w : Bool)
  | amoMax (g : Nat) (f : Fmt) (d a b : Nat) (w : Bool)
  | amoSwap (g : Nat) (f : Fmt) (d a b : Nat) (w : Bool)
  | amoCas (g : Nat) (f : Fmt) (d a b c : Nat) (w : Bool)
  | vmovPop (g v q : Nat)
  | vmovPush (g v q : Nat)
  -- E slot (R82)
  | cpy (g a d : Nat)
  | cpyw (g a b c : Nat)
  | pub (g b : Nat)
  | acq (g b : Nat)
  | rel (g b : Nat)
  | fenceCore (g : Nat)
  | fenceCluster (g : Nat)
  | fenceModule (g : Nat)
  | waita (g a b : Nat) (cond : WCond) (w : Bool)
  | gemv (g a d : Nat)
  | cgload (g a slot : Nat)
  | cgrun (g slot a : Nat)
  | abr (g ch p : Nat) (h : Bool) (disp : Int)
  | abrWide (g ch p : Nat) (h : Bool) (disp : Int)
  | agreeAnd (g ch x : Nat)
  | agreeOr (g ch x : Nat)
  | agreeMin (g ch x : Nat)
  | agreeMax (g ch x : Nat)
  | agreeSum (g ch x : Nat)
  | acall (g d ch : Nat)
  | xchk (g cls idx : Nat)
  | tnow (g d : Nat)
  | waitt (g a : Nat)
  | waittk (g tg : Nat)
  | tokget (g d w a : Nat)
  | tokrel (g w a : Nat)
  | cvget (g d : Nat)
  | cvsample (g a : Nat)
  | live (g a : Nat)
  | trap (g code : Nat)
  | rte (g : Nat)
  | brkp (g code : Nat)
  | ctopen (g a : Nat)
  | ctclose (g : Nat)
  | sysYield (g a : Nat)
  | sysSubmit (g a : Nat)
  | sysNotify (g a : Nat)
  -- further events (R270, R272, R350, ...)
  | announceReceive (m : Nat) (x : PortAnnounce)
  | peerDelayMessage (m port : Nat) (msg : PeerMsg)
  | dolselLinkUp (m port : Nat)
  | softError (loc : BitLoc) (b : Nat) (second : Bool)
  | deviceFault (part : FaultPart)
  -- events of one place: `State.place` names the core, cluster, die or module, or the item in flight
  | issueBundle
  | fetchBlockFill
  | broadcastGroupReturn
  | resultLand
  | storePerform
  | stallWatchdogExpiry
  | asyncTrap
  | sequencerRetire
  | waitaWake
  | waittWake
  | waittkWake
  | acqAttempt
  | windowChunkArrival
  | remoteAtomicPerform
  | relComplete
  | fenceComplete
  | bidArrival
  | callDelivery
  | kittyRelease
  | memberDeath
  | announceReceiptTimeout
  | offsetBoundExpiry
  | holdoverExpiry
  | reconstructionPhase
  | graphSignalArrival
  | signalRetry
  | foldContributionArrival
  | launchDecision
  | launchLoading
  | weightStoreWriteLaunch
  | launchComplete
  | launchWatchdogExpiry
  | taskSave
  | wholeContextSave
  | taskRestore
  | weightStoreScrubDone
  | firmwareTakeover
  | powerHold
  | dieOff
  | moduleStandby
  | syncInterval
  | clusterScrubDone
  | diePowerUp
  | moduleStandbyExit
  | accessArrival
  | graphOperationComplete
  | tokgetResult
  | abandonHoldoffExpiry
  deriving DecidableEq, Repr

end Sys2Proof
end

