-- ==== Sys2Proof/WellFormed.lean ====
section
/-! DEFINITION. Sys2Proof/WellFormed.lean: the limits R72 to R82 put on a syllable's operands (reason 11 of R70), and
the places an event may name (R5, R10, R48, R184, R200). -/

namespace Sys2Proof

/-- The formats of the floating-point forms (R77). -/
def Fmt.isFloat : Fmt → Bool
  | .f32 | .bf16 | .f16 => true
  | _ => false

/-- The formats of the integer-only forms (R77, R150). -/
def Fmt.isInt : Fmt → Bool
  | .i32 | .n32 | .i8 | .n8 => true
  | _ => false

/-- All formats but LN6 (R77). -/
def Fmt.notLn6 : Fmt → Bool
  | .ln6 => false
  | _ => true

/-- The formats of `vsum` (R77). -/
def Fmt.sums : Fmt → Bool
  | .f32 | .bf16 | .f16 | .i32 | .n32 => true
  | _ => false

/-- The formats of `amo` (R81). -/
def Fmt.isAmo : Fmt → Bool
  | .i32 | .n32 => true
  | _ => false

/-- x fits a two's-complement field of n bits (R73). -/
def fits (n : Nat) (x : Int) : Bool := decide (-(2 ^ (n - 1) : Int) ≤ x) && decide (x < 2 ^ (n - 1))

/-- The limits of an extension (R78): an operand that names a stream register is below 16, and km is 0 when KE = 0. -/
def VExt.wf (e : VExt) (d a b : Nat) : Bool :=
  (!e.qa || decide (a < 16)) && (!e.qb || decide (b < 16)) && (!e.qd || decide (d < 16)) &&
  decide (e.km < 8) && (e.ke || e.km == 0)

/-- The cond codes of `cmp` and `cmpi` (R76). -/
def Cond.isCmp : Cond → Bool
  | .unord | .ord => false
  | _ => true

/-- The conditions of `vcmp` in a format (R76). -/
def Cond.okFor (c : Cond) (f : Fmt) : Bool := c.isCmp || f.isFloat

/-- The system registers of R113. -/
def sysExists (n : Nat) : Bool :=
  decide (n ≤ 0x00A) || (decide (0x010 ≤ n) && decide (n ≤ 0x017)) || (decide (0x020 ≤ n) && decide (n ≤ 0x022)) ||
  (decide (0x030 ≤ n) && decide (n ≤ 0x035)) || (decide (0x040 ≤ n) && decide (n ≤ 0x041)) || n == 0x050 ||
  (decide (0x060 ≤ n) && decide (n ≤ 0x06F))

/-- The system registers that `wrsys` may name (R113). -/
def sysWritable (n : Nat) : Bool :=
  n == 0x034 || n == 0x050 || (decide (0x060 ≤ n) && decide (n ≤ 0x06F))

/-- A register index of a view class (R72, R81): v 0 to 31, t and a 0 to 15. -/
def okView (cls idx : Nat) : Bool :=
  (cls == 0 && decide (idx < 32)) || (cls == 1 && decide (idx < 16)) || (cls == 2 && decide (idx < 16))

/-- A register of `xchk` (R82): s, v, t, a. -/
def okXchk (cls idx : Nat) : Bool :=
  (cls == 0 && decide (idx < 64)) || (cls == 1 && decide (idx < 32)) || (cls == 2 && decide (idx < 16)) ||
  (cls == 3 && decide (idx < 16))

/-- n is below m, as a check. -/
def lt (n m : Nat) : Bool := decide (n < m)

/-- Modules of a pod (R48). -/
def podSize : Nat := 512

/-- A core, cluster, die or module of the pod (R5, R11). -/
def okCore (k : Nat) : Bool := lt k (768 * podSize)
@[inherit_doc okCore] def okCluster (c : Nat) : Bool := lt c (96 * podSize)
@[inherit_doc okCore] def okDie (d : Nat) : Bool := lt d (8 * podSize)
@[inherit_doc okCore] def okMod (m : Nat) : Bool := lt m podSize

/-- A place of a stored bit that exists (R10, R125, R178, R196, R222, R164). -/
def BitLoc.wf : BitLoc → Bool
  | .regspace k a => okCore k && lt a 0x380000
  | .scratch c a => okCluster c && lt a 0x800000
  | .weight d a => okDie d && lt a 0x40000000
  | .hbm m a => okMod m && lt a 0xC000000000
  | .array k r c => okCore k && lt r 128 && lt c 64
  | .fcache k a => okCore k && lt a 0x80000000
  | .tlb c e va => okCluster c && lt e 4 && lt va (2 ^ 57)
  | .fold m _ => okMod m
  | .ioSram m => okMod m

/-- A target of DBGWRITE that exists (R371). -/
def DbgTarget.wf : DbgTarget → Bool
  | .scalar n _ => lt n 64
  | .pred n _ => lt n 16
  | .mask n _ => lt n 8
  | .bytes a bs => lt (a + bs.length) 0x380001

/-- A part that a device fault may stop (R397). -/
def FaultPart.wf : FaultPart → Bool
  | .engine c e => okCluster c && lt e 4
  | .die d => okDie d

/-- Limits of a two-source vector form and of its extension (R72, R77, R78). -/
def wfV2 (g d a b : Nat) : Bool := lt g 16 && lt d 32 && lt a 32 && lt b 32
@[inherit_doc wfV2] def wfV1 (g d a : Nat) : Bool := lt g 16 && lt d 32 && lt a 32

/-- Limits of a scalar form (R72). -/
def wfS3 (g d a b : Nat) : Bool := lt g 16 && lt d 64 && lt a 64 && lt b 64
@[inherit_doc wfS3] def wfS2 (g d a : Nat) : Bool := lt g 16 && lt d 64 && lt a 64
@[inherit_doc wfS3] def wfS1 (g d : Nat) : Bool := lt g 16 && lt d 64

/-- Limits of a predicate pair destination (R72): pairs 1 to 7. -/
def wfP (g p : Nat) : Bool := lt g 16 && lt p 8 && lt 0 p

/-- Limits of the extension of a VU form (R78): QB is outside limits. -/
def wfE1 (e : VExt) (d a : Nat) : Bool := e.wf d a 0 && !e.qb

/-- Every syllable and event whose operands are inside the limits of R72 to R82 and of R5, R10 and R48. -/
def Instr.wf : Instr → Bool
  | .coldReset m _ _ => okMod m
  | .wsRefreshWindow d grp => okDie d && lt grp 16
  | .streamUnitMove k u => okCore k && lt u 4
  | .chunkPerform c e => okCluster c && lt e 4
  | .requestFinish c e => okCluster c && lt e 4
  | .publishSwap c b => okCluster c && lt b 64
  | .agreementDeadlineExpiry job ch => lt job 65536 && lt ch 8
  | .syncReceive m port x => okMod m && lt port 33 && lt x.log 8 && (match x.from_ with | some q => okMod q | none => true)
  | .tmcfgWrite m v => okMod m && lt v (2 ^ 64)
  | .tickFiring m tg => okMod m && lt tg 16
  | .tokenArrival m port t => okMod m && lt port 33 && lt t.win 64 && lt t.payload.length 4097
  | .slotClose m w => okMod m && lt w 64
  | .graphRunFinish c slot => okCluster c && lt slot 16
  | .queueDoorbell m q | .queuePollTimer m q | .packetRead m q | .dependenceTest m q => okMod m && lt q 64
  | .queueGo m caller q => okMod m && lt caller 256 && lt q 64
  | .queueErrClear m caller q _ _ => okMod m && lt caller 256 && lt q 64
  | .queueCompletionAck m caller q v => okMod m && lt caller 256 && lt q 64 && lt v (2 ^ 32)
  | .jobCreate m caller job members root decls =>
      okMod m && lt caller 256 && lt job 65536 && lt 0 members.length && lt members.length 513 &&
      members.all okMod && lt root (2 ^ 52) && lt decls.length 9 && decls.all fun d => d.length == 4
  | .jobRemove m caller job => okMod m && lt caller 256 && lt job 65536
  | .jobShrink m caller job member => okMod m && lt caller 256 && lt job 65536 && lt member 512
  | .tickSet m caller tg ws => okMod m && lt caller 256 && lt tg 16 && ws.length == 5
  | .winOpen m caller job c ws => okMod m && lt caller 256 && lt job 65536 && lt c 96 && ws.length == 16
  | .winClose m caller w => okMod m && lt caller 256 && lt w 64
  | .cvAllot m caller n ws => okMod m && lt caller 256 && lt n 16 && ws.length == 4
  | .shootdown m caller job member va n => okMod m && lt caller 256 && lt job 65536 && lt member 512 && lt (va + n) (2 ^ 57 + 1)
  | .pageReady m caller job member va n => okMod m && lt caller 256 && lt job 65536 && lt member 512 && lt (va + n) (2 ^ 57 + 1)
  | .fabSched m caller job src dst hops rate ports =>
      okMod m && lt caller 256 && lt job 65536 && lt src 512 && lt dst 512 && lt hops 5 && lt rate 401 && ports.all fun p => lt p 32
  | .partAssign c part => okCluster c && lt part 256
  | .partPreempt m part | .partResume m part => okMod m && lt part 256
  | .wsownWrite d part => okDie d && lt part 256
  | .swapCommand m caller ws => okMod m && lt caller 256 && ws.length == 16
  | .halt m caller job => okMod m && lt caller 256 && lt job 65536
  | .haltWaveTrigger m job => okMod m && lt job 65536
  | .dbgRead m caller job _ => okMod m && lt caller 256 && lt job 65536
  | .dbgWrite k caller t => okCore k && lt caller 256 && t.wf
  | .stepCycle k caller | .stepBundle k caller => okCore k && lt caller 256
  | .resume m caller job => okMod m && lt caller 256 && lt job 65536
  | .resumeReleaseStage m job stage => okMod m && lt job 65536 && lt stage 4
  | .fwload m _ _ v => okMod m && lt v 65536
  | .dieFirmwareRejoin d lo hi _ => (okDie d || (decide (2 ^ 16 ≤ d) && lt d (2 ^ 16 + 12 * podSize))) && decide (lo ≤ hi)
  | .registerWrite m caller off v => okMod m && lt caller 256 && lt off (2 ^ 32 + 2 ^ 51) && (match v with | some v => lt v (2 ^ 64) | none => true)
  | .errorCounterClear m part => okMod m && lt part 256
  | .flitRetry m port | .linkDownTimeout m port | .dolselLinkUp m port => okMod m && lt port 32
  | .erasureAdd m _ sym => okMod m && lt sym 72
  | .hbmRepair m _ frame _ => okMod m && lt frame (2 ^ 52)
  | .patrolScrub loc => loc.wf
  | .announceReceive m x => okMod m && lt x.port 33 && (match x.a.from_ with | some q => okMod q | none => true)
  | .peerDelayMessage m port _ => okMod m && lt port 33
  | .softError loc b _ => loc.wf && (match loc with | .hbm .. => lt b 16 | _ => lt b 8)
  | .deviceFault p => p.wf
  -- X and Y
  | .add g d a b | .sub g d a b | .mul g d a b | .mulh g d a b | .and g d a b | .or g d a b | .xor g d a b
  | .shl g d a b | .shr g d a b | .sra g d a b | .min g d a b | .max g d a b => wfS3 g d a b
  | .clz g d a | .popc g d a => wfS2 g d a
  | .addi g d a i => wfS2 g d a && fits 10 i
  | .addiWide g d a i => wfS2 g d a && fits 41 i
  | .movi g d i => wfS1 g d && fits 16 i
  | .moviWide g d i => wfS1 g d && fits 47 i
  | .movhi g d i => wfS1 g d && lt i 65536
  | .sext g d a w | .zext g d a w => wfS2 g d a && lt 0 w && lt w 65
  | .bfx g d a pos len | .bfi g d a pos len => wfS2 g d a && lt 0 len && lt (pos + len) 65
  | .madd g d a b c => wfS3 g d a b && lt c 64
  | .sld g d a sz off | .sst g d a sz off => wfS2 g d a && lt sz 3 && fits 8 off
  | .sldWide g d a sz off | .sstWide g d a sz off => wfS2 g d a && lt sz 3 && fits 39 off
  | .rdsys g d n => wfS1 g d && sysExists n
  | .wrsys g a n => wfS1 g a && sysWritable n
  | .endOp g => lt g 16
  | .br g disp => lt g 16 && fits 22 disp
  | .brWide g disp => lt g 16 && fits 53 disp
  | .brr g a | .ret g a => wfS1 g a
  | .call g d disp => wfS1 g d && fits 16 disp
  | .callWide g d disp => wfS1 g d && fits 47 disp
  | .loop g a disp => wfS1 g a && fits 16 disp && decide (1 ≤ disp)
  | .loopWide g a disp => wfS1 g a && fits 47 disp && decide (1 ≤ disp)
  | .brk g n disp => lt g 16 && lt 0 n && lt n 7 && fits 19 disp
  -- C
  | .cmp g p c a b => wfP g p && c.isCmp && lt a 64 && lt b 64
  | .cmpi g p c a i => wfP g p && c.isCmp && lt a 64 && fits 9 i
  | .cmpiWide g p c a i => wfP g p && c.isCmp && lt a 64 && fits 40 i
  | .fcmp g p _ f a b => wfP g p && f.isFloat && lt a 64 && lt b 64
  | .pand g p a b _ _ | .por g p a b _ _ | .pxor g p a b _ _ => wfP g p && lt a 16 && lt b 16
  | .vany g p km | .vall g p km => wfP g p && lt km 8
  -- V and W
  | .vadd g f d a b | .vsub g f d a b | .vmul g f d a b | .vmin g f d a b | .vmax g f d a b => wfV2 g d a b && f.notLn6
  | .vaddExt g f d a b e | .vsubExt g f d a b e | .vmulExt g f d a b e | .vminExt g f d a b e | .vmaxExt g f d a b e =>
      wfV2 g d a b && f.notLn6 && e.wf d a b
  | .vand g f d a b | .vor g f d a b | .vxor g f d a b | .vshl g f d a b | .vshr g f d a b | .vsra g f d a b =>
      wfV2 g d a b && f.isInt
  | .vandExt g f d a b e | .vorExt g f d a b e | .vxorExt g f d a b e | .vshlExt g f d a b e | .vshrExt g f d a b e
  | .vsraExt g f d a b e => wfV2 g d a b && f.isInt && e.wf d a b
  | .vfma g f d a b | .vfms g f d a b => wfV2 g d a b && f.isFloat
  | .vfmaExt g f d a b e | .vfmsExt g f d a b e => wfV2 g d a b && f.isFloat && e.wf d a b && !e.qd
  | .vperm g _ d a b => wfV2 g d a b
  | .vpermExt g _ d a b e => wfV2 g d a b && e.wf d a b
  | .vslide g _ d a b e n => wfV2 g d a b && e.wf d a b && lt n 128
  | .vabs g f d a | .vneg g f d a => wfV1 g d a && f.notLn6
  | .vabsExt g f d a e | .vnegExt g f d a e => wfV1 g d a && f.notLn6 && wfE1 e d a
  | .vmov g d a => wfV1 g d a
  | .vmovExt g d a e => wfV1 g d a && wfE1 e d a
  | .vexp2 g f d a | .vlog2 g f d a | .vrcp g f d a | .vrsq g f d a | .vtanh g f d a => wfV1 g d a && f.isFloat
  | .vexp2Ext g f d a e | .vlog2Ext g f d a e | .vrcpExt g f d a e | .vrsqExt g f d a e | .vtanhExt g f d a e =>
      wfV1 g d a && f.isFloat && wfE1 e d a
  | .vsum g f d a => wfV1 g d a && f.sums
  | .vsumExt g f d a e => wfV1 g d a && f.sums && wfE1 e d a
  | .vmaxr g f d a => wfV1 g d a && f.notLn6
  | .vmaxrExt g f d a e => wfV1 g d a && f.notLn6 && wfE1 e d a
  | .vcvt g _ d a _ _ => wfV1 g d a
  | .vcvtExt g _ d a _ _ e => wfV1 g d a && wfE1 e d a && !e.ke
  | .vsel g _ d a b km => wfV2 g d a b && lt km 8
  | .vselExt g _ d a b km e => wfV2 g d a b && lt km 8 && e.wf d a b
  | .vcmp g f kd c a b => lt g 16 && lt kd 8 && lt a 32 && lt b 32 && f.notLn6 && c.okFor f
  | .vcmpExt g f kd c a b e =>
      lt g 16 && lt kd 8 && lt a 32 && lt b 32 && f.notLn6 && c.okFor f && e.wf 0 a b && !e.qd
  | .vsplat g _ d a => lt g 16 && lt d 32 && lt a 64
  -- M and K
  | .mpush g kr s src => lt g 16 && lt kr 128 && lt src 32 && (!s || lt src 16)
  | .mfeed g s src ad row => lt g 16 && lt src 32 && (!s || lt src 16) && lt ad 16 && lt row 512
  | .mshiftDown g n | .mshiftAcross g n => lt g 16 && lt 0 n && lt n 64
  | .mdrain g f td trow ad arow => lt g 16 && f.isFloat && lt td 16 && lt trow 512 && lt ad 16 && lt arow 512
  | .mzero g ad arow => lt g 16 && lt ad 16 && lt arow 512
  | .kset g eb l col sc => lt g 16 && lt l 4 && lt col 64 && (eb || col == 0) && fits 8 sc
  | .kld g _ l a => lt g 16 && lt l 4 && lt a 64
  -- L
  | .vwset g cls idx a => lt g 16 && okView cls idx && lt a 64
  | .vwclr g cls idx => lt g 16 && okView cls idx
  | .vwget g cls idx d w => lt g 16 && okView cls idx && lt d 64 && lt w 4
  | .vld g _ d a off | .vst g _ d a off | .wsld g _ d a off => lt g 16 && lt d 32 && lt a 64 && fits 8 off
  | .vldWide g _ d a off | .vstWide g _ d a off | .wsldWide g _ d a off => lt g 16 && lt d 32 && lt a 64 && fits 39 off
  | .tsr g _ v t _ i | .tsw g _ v t _ i => lt g 16 && lt v 32 && lt t 16 && lt i 512
  | .qbind g q a _ u => lt g 16 && lt q 16 && lt a 64 && lt 0 a && lt u 4
  | .qbindNone g q _ u => lt g 16 && lt q 16 && lt u 4
  | .qadv g q n => lt g 16 && lt q 16 && lt 0 n && lt n 32768
  | .amoAdd g f d a b _ | .amoMin g f d a b _ | .amoMax g f d a b _ | .amoSwap g f d a b _ => wfS3 g d a b && f.isAmo
  | .amoCas g f d a b c _ => wfS3 g d a b && lt c 64 && f.isAmo
  | .vmovPop g v q | .vmovPush g v q => lt g 16 && lt v 32 && lt q 16
  -- E
  | .cpy g a d | .gemv g a d => wfS2 g a d
  | .cpyw g a b c => wfS3 g a b c
  | .pub g b | .acq g b | .rel g b => wfS1 g b
  | .fenceCore g | .fenceCluster g | .fenceModule g => lt g 16
  | .waita g a b _ _ => wfS2 g a b
  | .cgload g a slot | .cgrun g slot a => lt g 16 && lt a 64 && lt slot 16
  | .abr g ch p _ disp => lt g 16 && lt ch 8 && lt p 16 && fits 14 disp
  | .abrWide g ch p _ disp => lt g 16 && lt ch 8 && lt p 16 && fits 45 disp
  | .agreeAnd g ch x | .agreeOr g ch x | .agreeMin g ch x | .agreeMax g ch x | .agreeSum g ch x =>
      lt g 16 && lt ch 8 && lt x 64
  | .acall g d ch => lt g 16 && lt d 64 && lt ch 8
  | .xchk g cls idx => lt g 16 && okXchk cls idx
  | .tnow g d | .cvget g d => wfS1 g d
  | .waitt g a | .cvsample g a | .live g a | .ctopen g a | .sysYield g a | .sysSubmit g a | .sysNotify g a => wfS1 g a
  | .waittk g tg => lt g 16 && lt tg 16
  | .tokget g d w a => wfS3 g d w a
  | .tokrel g w a => wfS2 g w a
  | .trap g code | .brkp g code => lt g 16 && lt code 65536
  | .rte g | .ctclose g => lt g 16
  -- events of one place: the place is checked by Place.wf below
  | .issueBundle | .fetchBlockFill | .broadcastGroupReturn | .resultLand | .storePerform | .stallWatchdogExpiry
  | .asyncTrap | .sequencerRetire | .waitaWake | .waittWake | .waittkWake | .acqAttempt | .windowChunkArrival
  | .remoteAtomicPerform | .relComplete | .fenceComplete | .bidArrival | .callDelivery | .kittyRelease
  | .memberDeath | .announceReceiptTimeout | .offsetBoundExpiry | .holdoverExpiry | .reconstructionPhase
  | .graphSignalArrival | .signalRetry | .foldContributionArrival | .launchDecision | .launchLoading
  | .weightStoreWriteLaunch | .launchComplete | .launchWatchdogExpiry | .taskSave | .wholeContextSave
  | .taskRestore | .weightStoreScrubDone | .firmwareTakeover | .powerHold | .dieOff | .moduleStandby
  | .syncInterval | .clusterScrubDone | .diePowerUp | .moduleStandbyExit | .accessArrival | .graphOperationComplete
  | .tokgetResult | .abandonHoldoffExpiry => true

/-- The place of an event of one place exists (R5, R11); the item of an event about an item in flight may be any number. -/
def Instr.placeOk (i : Instr) (p : Nat) : Bool :=
  match i with
  | .issueBundle | .fetchBlockFill | .resultLand | .storePerform | .stallWatchdogExpiry | .asyncTrap
  | .sequencerRetire | .waitaWake | .waittWake | .waittkWake | .acqAttempt | .relComplete | .fenceComplete
  | .kittyRelease | .tokgetResult => okCore p
  | .broadcastGroupReturn | .reconstructionPhase | .launchLoading | .taskSave | .wholeContextSave
  | .taskRestore | .powerHold | .clusterScrubDone | .abandonHoldoffExpiry => okCluster p
  | .weightStoreScrubDone | .dieOff | .diePowerUp => okDie p
  | .memberDeath | .announceReceiptTimeout | .offsetBoundExpiry | .holdoverExpiry | .launchDecision
  | .weightStoreWriteLaunch | .launchComplete | .launchWatchdogExpiry | .firmwareTakeover | .moduleStandby
  | .syncInterval | .moduleStandbyExit => okMod p
  | _ => true

end Sys2Proof
end

