-- ==== Sys2Proof/Decode.lean ====
section
/-! DEFINITION. Sys2Proof/Decode.lean: from the words of a bundle to its syllables, and back.

`decodeSyl` reads one syllable and its extension against the slot that holds it (R72 to R84) and answers the instruction
or the reason number of R70 (8 to 11). `decodeBundle` reads a header and the words after it (R52, R53) and answers the
slots or the lowest reason (1 to 11). `encode` is written from the same layouts of R73. -/

namespace Sys2Proof

/-- The field x[hi:lo] (R1). -/
def fld (x hi lo : Nat) : Nat := x / 2 ^ lo % 2 ^ (hi + 1 - lo)

/-- Bit n of x (R1). -/
def bit (x n : Nat) : Bool := x / 2 ^ n % 2 == 1

/-- A Bool as the integer 0 or 1. -/
def b2n (b : Bool) : Nat := if b then 1 else 0

/-- The low n bits of x read as a two's-complement integer (R73). -/
def signed (n x : Nat) : Int :=
  if x % 2 ^ n < 2 ^ (n - 1) then ((x % 2 ^ n : Nat) : Int) else ((x % 2 ^ n : Nat) : Int) - ((2 ^ n : Nat) : Int)

/-- An integer taken modulo 2^n (R6). -/
def wrap (n : Nat) (x : Int) : Nat := (x % ((2 ^ n : Nat) : Int)).toNat

/-- What decoding one syllable answers: the instruction or a reason number of R70. -/
abbrev Dec := Except Nat Instr

/-- A decode check: reason r unless b. -/
def chk (r : Nat) (b : Bool) (k : Dec) : Dec := if b then k else .error r

/-- A form that takes no extension (R84, reason 10). -/
def noExt (ext : Option Nat) (k : Dec) : Dec :=
  match ext with
  | none => k
  | some _ => .error 10

/-- A form whose extension is required. -/
def needExt (ext : Option Nat) (k : Nat → Dec) : Dec :=
  match ext with
  | none => .error 10
  | some e => k e

/-- A form with an optional extension. -/
def optExt (ext : Option Nat) (short : Dec) (long : Nat → Dec) : Dec :=
  match ext with
  | none => short
  | some e => long e

/-- The widened immediate of R57: ext[30:0] followed by the n bits of the field. -/
def wide (n e x : Nat) : Int := signed (31 + n) (e * 2 ^ n + x)

/-! ### Codes of R55, R76, R77, R82 -/

/-- FMT (R55). -/
def Fmt.ofCode : Nat → Fmt
  | 0 => .f32 | 1 => .bf16 | 2 => .f16 | 3 => .i32 | 4 => .n32 | 5 => .i8 | 6 => .n8 | _ => .ln6
@[inherit_doc Fmt.ofCode] def Fmt.code : Fmt → Nat
  | .f32 => 0 | .bf16 => 1 | .f16 => 2 | .i32 => 3 | .n32 => 4 | .i8 => 5 | .n8 => 6 | .ln6 => 7

/-- The condition code of R76. -/
def Cond.ofCode : Nat → Option Cond
  | 0 => some .eq | 1 => some .ne | 2 => some .lt | 3 => some .ge | 4 => some .c4 | 5 => some .c5
  | 6 => some .unord | 7 => some .ord | _ => none
@[inherit_doc Cond.ofCode] def Cond.code : Cond → Nat
  | .eq => 0 | .ne => 1 | .lt => 2 | .ge => 3 | .c4 => 4 | .c5 => 5 | .unord => 6 | .ord => 7

/-- The rounding mode of R77. -/
def RMode.ofCode : Nat → Option RMode
  | 0 => some .rne | 1 => some .rz | 2 => some .ru | 3 => some .rd | 4 => some .rna | 5 => some .rnes | 6 => some .rzs
  | _ => none
@[inherit_doc RMode.ofCode] def RMode.code : RMode → Nat
  | .rne => 0 | .rz => 1 | .ru => 2 | .rd => 3 | .rna => 4 | .rnes => 5 | .rzs => 6

/-- The condition of `waita` (R82). -/
def WCond.ofCode : Nat → Option WCond
  | 0 => some .eq | 1 => some .ne | 2 => some .ge | 3 => some .lt | _ => none
@[inherit_doc WCond.ofCode] def WCond.code : WCond → Nat
  | .eq => 0 | .ne => 1 | .ge => 2 | .lt => 3

/-- The format of `fcmp` (R76): ft = 11 is outside limits. -/
def ftOf : Nat → Option Fmt
  | 0 => some .f32 | 1 => some .bf16 | 2 => some .f16 | _ => none

/-- The V and W extension (R78); the slide distance is read apart. -/
def VExt.ofNat (e : Nat) : VExt := ⟨bit e 0, bit e 1, bit e 2, bit e 3, fld e 6 4⟩
@[inherit_doc VExt.ofNat] def VExt.toNat (e : VExt) : Nat :=
  b2n e.qa + b2n e.qb * 2 + b2n e.qd * 4 + b2n e.ke * 8 + e.km * 16

/-! ### One syllable -/

/-- A vector form with the optional extension of R78, n = 0: reason 9 on the format, then 11 on the extension's limits. -/
def vform (f : Bool) (ext : Option Nat) (short : Instr) (long : VExt → Instr) : Dec :=
  chk 9 f <| optExt ext (chk 11 short.wf (.ok short)) fun e =>
    chk 11 (fld e 30 7 == 0) <| chk 11 (long (VExt.ofNat e)).wf (.ok (long (VExt.ofNat e)))

/-- A form whose operands are checked by WellFormed alone (reason 11). -/
def fin (i : Instr) : Dec := chk 11 i.wf (.ok i)

/-- OP 000001 of X and Y (R74). -/
def decodeSR (w : Nat) : Dec :=
  let g := fld w 3 0; let d := fld w 25 20; let a := fld w 19 14; let b := fld w 13 8
  match fld w 7 4 with
  | 0 => fin (.add g d a b) | 1 => fin (.sub g d a b) | 2 => fin (.mul g d a b) | 3 => fin (.mulh g d a b)
  | 4 => fin (.and g d a b) | 5 => fin (.or g d a b) | 6 => fin (.xor g d a b) | 7 => fin (.shl g d a b)
  | 8 => fin (.shr g d a b) | 9 => fin (.sra g d a b) | 10 => fin (.min g d a b) | 11 => fin (.max g d a b)
  | 12 => chk 11 (b == 0) (fin (.clz g d a)) | 13 => chk 11 (b == 0) (fin (.popc g d a))
  | _ => .error 11

/-- The X and Y slots (R74), and the X slot alone (R75). -/
def decodeXY (isX : Bool) (w : Nat) (ext : Option Nat) : Dec :=
  let g := fld w 3 0; let d := fld w 25 20; let a := fld w 19 14; let b := fld w 13 8
  match fld w 31 26 with
  | 1 => noExt ext (decodeSR w)
  | 8 => optExt ext (fin (.addi g d a (signed 10 (fld w 13 4)))) fun e => fin (.addiWide g d a (wide 10 e (fld w 13 4)))
  | 9 => optExt ext (fin (.movi g d (signed 16 (fld w 19 4)))) fun e => fin (.moviWide g d (wide 16 e (fld w 19 4)))
  | 10 => noExt ext (fin (.movhi g d (fld w 19 4)))
  | 11 => noExt ext (chk 11 (fld w 7 4 == 0) (fin (.sext g d a (b + 1))))
  | 12 => noExt ext (chk 11 (fld w 7 4 == 0) (fin (.zext g d a (b + 1))))
  | 13 => needExt ext fun e => chk 11 (fld w 7 4 == 0 && fld e 30 6 == 0) (fin (.bfx g d a b (fld e 5 0 + 1)))
  | 14 => needExt ext fun e => chk 11 (fld w 7 4 == 0 && fld e 30 6 == 0) (fin (.bfi g d a b (fld e 5 0 + 1)))
  | 15 => needExt ext fun e => chk 11 (fld w 7 4 == 0 && fld e 30 6 == 0) (fin (.madd g d a b (fld e 5 0)))
  | 16 => optExt ext (fin (.sld g d a (fld w 13 12) (signed 8 (fld w 11 4)))) fun e =>
      fin (.sldWide g d a (fld w 13 12) (wide 8 e (fld w 11 4)))
  | 17 => optExt ext (fin (.sst g d a (fld w 13 12) (signed 8 (fld w 11 4)))) fun e =>
      fin (.sstWide g d a (fld w 13 12) (wide 8 e (fld w 11 4)))
  | 18 => noExt ext (chk 11 (fld w 7 4 == 0) (fin (.rdsys g d (fld w 19 8))))
  | 19 => noExt ext (chk 11 (fld w 7 4 == 0) (fin (.wrsys g d (fld w 19 8))))
  | 48 => chk 8 isX <| noExt ext (chk 11 (fld w 25 4 == 0) (fin (.endOp g)))
  | 49 => chk 8 isX <| optExt ext (fin (.br g (signed 22 (fld w 25 4)))) fun e => fin (.brWide g (wide 22 e (fld w 25 4)))
  | 50 => chk 8 isX <| noExt ext (chk 11 (fld w 19 4 == 0) (fin (.brr g d)))
  | 51 => chk 8 isX <| optExt ext (fin (.call g d (signed 16 (fld w 19 4)))) fun e =>
      fin (.callWide g d (wide 16 e (fld w 19 4)))
  | 52 => chk 8 isX <| noExt ext (chk 11 (fld w 19 4 == 0) (fin (.ret g d)))
  | 53 => chk 8 isX <| optExt ext (fin (.loop g d (signed 16 (fld w 19 4)))) fun e =>
      fin (.loopWide g d (wide 16 e (fld w 19 4)))
  | 54 => chk 8 isX <| noExt ext (fin (.brk g (fld w 25 23) (signed 19 (fld w 22 4))))
  | _ => .error 8

/-- The C slot (R76). -/
def decodeC (w : Nat) (ext : Option Nat) : Dec :=
  let g := fld w 3 0; let p := fld w 25 23
  match fld w 31 26 with
  | 1 => noExt ext (chk 11 (fld w 6 4 == 0) (match Cond.ofCode (fld w 10 7) with
      | some c => fin (.cmp g p c (fld w 22 17) (fld w 16 11))
      | none => .error 11))
  | 2 => match Cond.ofCode (fld w 16 13) with
      | some c => optExt ext (fin (.cmpi g p c (fld w 22 17) (signed 9 (fld w 12 4)))) fun e =>
          fin (.cmpiWide g p c (fld w 22 17) (wide 9 e (fld w 12 4)))
      | none => .error 11
  | 3 => noExt ext (chk 11 (fld w 4 4 == 0) (match Cond.ofCode (fld w 10 7), ftOf (fld w 6 5) with
      | some c, some f => fin (.fcmp g p c f (fld w 22 17) (fld w 16 11))
      | _, _ => .error 11))
  | 4 => noExt ext (chk 11 (fld w 12 4 == 0) (fin (.pand g p (fld w 22 19) (fld w 18 15) (bit w 14) (bit w 13))))
  | 5 => noExt ext (chk 11 (fld w 12 4 == 0) (fin (.por g p (fld w 22 19) (fld w 18 15) (bit w 14) (bit w 13))))
  | 6 => noExt ext (chk 11 (fld w 12 4 == 0) (fin (.pxor g p (fld w 22 19) (fld w 18 15) (bit w 14) (bit w 13))))
  | 7 => noExt ext (chk 11 (fld w 19 4 == 0) (fin (.vany g p (fld w 22 20))))
  | 8 => noExt ext (chk 11 (fld w 19 4 == 0) (fin (.vall g p (fld w 22 20))))
  | _ => .error 8

/-- OP 000001 of V and W (R77). -/
def decodeVR (w : Nat) (ext : Option Nat) : Dec :=
  let g := fld w 3 0; let f := Fmt.ofCode (fld w 25 23); let d := fld w 22 18; let a := fld w 17 13; let b := fld w 12 8
  match fld w 7 4 with
  | 0 => vform f.notLn6 ext (.vadd g f d a b) (.vaddExt g f d a b)
  | 1 => vform f.notLn6 ext (.vsub g f d a b) (.vsubExt g f d a b)
  | 2 => vform f.notLn6 ext (.vmul g f d a b) (.vmulExt g f d a b)
  | 3 => vform f.notLn6 ext (.vmin g f d a b) (.vminExt g f d a b)
  | 4 => vform f.notLn6 ext (.vmax g f d a b) (.vmaxExt g f d a b)
  | 5 => vform f.isInt ext (.vand g f d a b) (.vandExt g f d a b)
  | 6 => vform f.isInt ext (.vor g f d a b) (.vorExt g f d a b)
  | 7 => vform f.isInt ext (.vxor g f d a b) (.vxorExt g f d a b)
  | 8 => vform f.isInt ext (.vshl g f d a b) (.vshlExt g f d a b)
  | 9 => vform f.isInt ext (.vshr g f d a b) (.vshrExt g f d a b)
  | 10 => vform f.isInt ext (.vsra g f d a b) (.vsraExt g f d a b)
  | 11 => vform f.isFloat ext (.vfma g f d a b) (.vfmaExt g f d a b)
  | 12 => vform f.isFloat ext (.vfms g f d a b) (.vfmsExt g f d a b)
  | 13 => vform true ext (.vperm g f d a b) (.vpermExt g f d a b)
  | 14 => needExt ext fun e => chk 11 (fld e 30 14 == 0) (fin (.vslide g f d a b (VExt.ofNat e) (fld e 13 7)))
  | _ => .error 11

/-- OP 000010 of V and W (R77): a W-only function in V is outside limits. -/
def decodeVU (isW : Bool) (w : Nat) (ext : Option Nat) : Dec :=
  let g := fld w 3 0; let f := Fmt.ofCode (fld w 25 23); let d := fld w 22 18; let a := fld w 17 13
  let z := fld w 12 8 == 0
  match fld w 7 4 with
  | 0 => chk 9 f.notLn6 (chk 11 z (vform true ext (.vabs g f d a) (.vabsExt g f d a)))
  | 1 => chk 9 f.notLn6 (chk 11 z (vform true ext (.vneg g f d a) (.vnegExt g f d a)))
  | 2 => chk 9 (f == .f32) (chk 11 z (vform true ext (.vmov g d a) (.vmovExt g d a)))
  | 3 => chk 9 (!isW || f.isFloat) (chk 11 (isW && z) (vform true ext (.vexp2 g f d a) (.vexp2Ext g f d a)))
  | 4 => chk 9 (!isW || f.isFloat) (chk 11 (isW && z) (vform true ext (.vlog2 g f d a) (.vlog2Ext g f d a)))
  | 5 => chk 9 (!isW || f.isFloat) (chk 11 (isW && z) (vform true ext (.vrcp g f d a) (.vrcpExt g f d a)))
  | 6 => chk 9 (!isW || f.isFloat) (chk 11 (isW && z) (vform true ext (.vrsq g f d a) (.vrsqExt g f d a)))
  | 7 => chk 9 (!isW || f.isFloat) (chk 11 (isW && z) (vform true ext (.vtanh g f d a) (.vtanhExt g f d a)))
  | 8 => chk 9 f.sums (chk 11 z (vform true ext (.vsum g f d a) (.vsumExt g f d a)))
  | 9 => chk 9 f.notLn6 (chk 11 z (vform true ext (.vmaxr g f d a) (.vmaxrExt g f d a)))
  | _ => .error 11

/-- The V and W slots (R77). -/
def decodeVW (isW : Bool) (w : Nat) (ext : Option Nat) : Dec :=
  let g := fld w 3 0; let f := Fmt.ofCode (fld w 25 23); let d := fld w 22 18; let a := fld w 17 13; let b := fld w 12 8
  match fld w 31 26 with
  | 1 => decodeVR w ext
  | 2 => decodeVU isW w ext
  | 3 => chk 8 isW <| chk 11 (fld w 6 4 == 0) (match RMode.ofCode (fld w 9 7) with
      | some rm => vform true ext (.vcvt g f d a (Fmt.ofCode (fld w 12 10)) rm) (.vcvtExt g f d a (Fmt.ofCode (fld w 12 10)) rm)
      | none => .error 11)
  | 4 => chk 11 (fld w 4 4 == 0) (vform true ext (.vsel g f d a b (fld w 7 5)) (.vselExt g f d a b (fld w 7 5)))
  | 5 => chk 9 f.notLn6 <| chk 11 (fld w 19 18 == 0) (match Cond.ofCode (fld w 7 4) with
      | some c => vform true ext (.vcmp g f (fld w 22 20) c a b) (.vcmpExt g f (fld w 22 20) c a b)
      | none => .error 11)
  | 6 => noExt ext (chk 11 (fld w 11 4 == 0) (fin (.vsplat g f d (fld w 17 12))))
  | _ => .error 8

/-- The M slot (R79). -/
def decodeM (w : Nat) (ext : Option Nat) : Dec :=
  let g := fld w 3 0; let f := Fmt.ofCode (fld w 25 23)
  match fld w 31 26 with
  | 1 => chk 9 (f == .ln6) <| noExt ext (chk 11 (fld w 9 4 == 0) (fin (.mpush g (fld w 22 16) (bit w 15) (fld w 14 10))))
  | 2 => chk 9 (f == .ln6) <| noExt ext (fin (.mfeed g (bit w 22) (fld w 21 17) (fld w 16 13) (fld w 12 4)))
  | 3 => chk 9 (f == .f32) <| noExt ext (chk 11 (fld w 15 4 == 0)
      (if bit w 22 then fin (.mshiftAcross g (fld w 21 16)) else fin (.mshiftDown g (fld w 21 16))))
  | 4 => chk 9 f.isFloat <| needExt ext fun e => chk 11 (fld w 5 4 == 0 && fld e 30 9 == 0)
      (fin (.mdrain g f (fld w 9 6) (fld e 8 0) (fld w 22 19) (fld w 18 10)))
  | 5 => chk 9 (f == .f32) <| noExt ext (chk 11 (fld w 9 4 == 0) (fin (.mzero g (fld w 22 19) (fld w 18 10))))
  | _ => .error 8

/-- The K slot (R80). -/
def decodeK (w : Nat) (ext : Option Nat) : Dec :=
  let g := fld w 3 0; let f := Fmt.ofCode (fld w 25 23)
  match fld w 31 26 with
  | 1 => chk 9 (f == .f32) <| noExt ext (chk 11 (fld w 5 4 == 0)
      (fin (.kset g (bit w 22) (fld w 21 20) (fld w 19 14) (signed 8 (fld w 13 6)))))
  | 2 => chk 9 (f == .f32) <| noExt ext (chk 11 (fld w 13 4 == 0) (fin (.kld g (bit w 22) (fld w 21 20) (fld w 19 14))))
  | _ => .error 8

/-- `amo` by its op (R81): the sc field of the extension is 0 unless op is `cas`. -/
def decodeAmo (w e : Nat) : Dec :=
  let g := fld w 3 0; let f := Fmt.ofCode (fld w 25 23)
  let d := fld w 22 17; let a := fld w 16 11; let b := fld w 10 5; let c := fld e 8 3; let W := bit w 4
  match fld e 2 0 with
  | 0 => chk 11 (c == 0) (fin (.amoAdd g f d a b W))
  | 1 => chk 11 (c == 0) (fin (.amoMin g f d a b W))
  | 2 => chk 11 (c == 0) (fin (.amoMax g f d a b W))
  | 3 => chk 11 (c == 0) (fin (.amoSwap g f d a b W))
  | 4 => fin (.amoCas g f d a b c W)
  | _ => .error 11

/-- The L slot (R81). -/
def decodeL (w : Nat) (ext : Option Nat) : Dec :=
  let g := fld w 3 0; let f := Fmt.ofCode (fld w 25 23); let n := f == .f32
  let v := fld w 22 18; let a := fld w 17 12; let off := fld w 11 4
  match fld w 31 26 with
  | 1 => chk 9 n <| noExt ext (chk 11 (fld w 9 8 == 0 && fld w 7 4 == 0) (fin (.vwset g (fld w 22 21) (fld w 20 16) (fld w 15 10))))
  | 2 => chk 9 n <| noExt ext (chk 11 (fld w 15 4 == 0) (fin (.vwclr g (fld w 22 21) (fld w 20 16))))
  | 3 => chk 9 n <| noExt ext (chk 11 (fld w 7 4 == 0) (fin (.vwget g (fld w 22 21) (fld w 20 16) (fld w 15 10) (fld w 9 8))))
  | 4 => optExt ext (fin (.vld g f v a (signed 8 off))) fun e => fin (.vldWide g f v a (wide 8 e off))
  | 5 => optExt ext (fin (.vst g f v a (signed 8 off))) fun e => fin (.vstWide g f v a (wide 8 e off))
  | 6 => noExt ext (fin (.tsr g f v (fld w 17 14) (bit w 13) (fld w 12 4)))
  | 7 => noExt ext (fin (.tsw g f v (fld w 17 14) (bit w 13) (fld w 12 4)))
  | 8 => optExt ext (fin (.wsld g f v a (signed 8 off))) fun e => fin (.wsldWide g f v a (wide 8 e off))
  | 9 => chk 9 n <| noExt ext (chk 11 (fld w 9 4 == 0)
      (if fld w 18 13 = 0 then fin (.qbindNone g (fld w 22 19) (bit w 12) (fld w 11 10))
       else fin (.qbind g (fld w 22 19) (fld w 18 13) (bit w 12) (fld w 11 10))))
  | 10 => chk 9 n <| noExt ext (fin (.qadv g (fld w 22 19) (fld w 18 4)))
  | 11 => chk 9 f.isAmo <| needExt ext fun e => chk 11 (fld e 30 9 == 0) (decodeAmo w e)
  | 12 => chk 9 n <| noExt ext (chk 11 (fld w 12 4 == 0)
      (if bit w 22 then fin (.vmovPush g (fld w 21 17) (fld w 16 13)) else fin (.vmovPop g (fld w 21 17) (fld w 16 13))))
  | _ => .error 8

/-- `agree` by its op (R82). -/
def decodeAgree (w : Nat) : Dec :=
  let g := fld w 3 0; let c := fld w 25 23; let x := fld w 22 17
  match fld w 16 14 with
  | 0 => fin (.agreeAnd g c x) | 1 => fin (.agreeOr g c x) | 2 => fin (.agreeMin g c x) | 3 => fin (.agreeMax g c x)
  | 4 => fin (.agreeSum g c x)
  | _ => .error 11

/-- `fence` by its scope (R82). -/
def decodeFence (w : Nat) : Dec :=
  match fld w 25 24 with
  | 0 => fin (.fenceCore (fld w 3 0)) | 1 => fin (.fenceCluster (fld w 3 0)) | 2 => fin (.fenceModule (fld w 3 0))
  | _ => .error 11

/-- `sys` by its function (R82, R353). -/
def decodeSys (w : Nat) : Dec :=
  match fld w 25 18 with
  | 0 => fin (.sysYield (fld w 3 0) (fld w 17 12)) | 1 => fin (.sysSubmit (fld w 3 0) (fld w 17 12))
  | 2 => fin (.sysNotify (fld w 3 0) (fld w 17 12))
  | _ => .error 11

/-- The E slot (R82). Only `abr` takes an extension. -/
def decodeE (w : Nat) (ext : Option Nat) : Dec :=
  let g := fld w 3 0; let r1 := fld w 25 20; let r2 := fld w 19 14; let r3 := fld w 13 8
  match fld w 31 26 with
  | 1 => noExt ext (chk 11 (fld w 13 4 == 0) (fin (.cpy g r1 r2)))
  | 2 => noExt ext (chk 11 (fld w 7 4 == 0) (fin (.cpyw g r1 r2 r3)))
  | 3 => noExt ext (chk 11 (fld w 19 4 == 0) (fin (.pub g r1)))
  | 4 => noExt ext (chk 11 (fld w 19 4 == 0) (fin (.acq g r1)))
  | 5 => noExt ext (chk 11 (fld w 19 4 == 0) (fin (.rel g r1)))
  | 6 => noExt ext (chk 11 (fld w 23 4 == 0) (decodeFence w))
  | 7 => noExt ext (chk 11 (fld w 9 4 == 0) (match WCond.ofCode (fld w 13 11) with
      | some c => fin (.waita g r1 r2 c (bit w 10))
      | none => .error 11))
  | 8 => noExt ext (chk 11 (fld w 13 4 == 0) (fin (.gemv g r1 r2)))
  | 9 => noExt ext (chk 11 (fld w 15 4 == 0) (fin (.cgload g r1 (fld w 19 16))))
  | 10 => noExt ext (chk 11 (fld w 15 4 == 0) (fin (.cgrun g (fld w 25 22) (fld w 21 16))))
  | 16 => optExt ext (fin (.abr g (fld w 25 23) (fld w 22 19) (bit w 18) (signed 14 (fld w 17 4)))) fun e =>
      fin (.abrWide g (fld w 25 23) (fld w 22 19) (bit w 18) (wide 14 e (fld w 17 4)))
  | 17 => noExt ext (chk 11 (fld w 13 4 == 0) (decodeAgree w))
  | 18 => noExt ext (chk 11 (fld w 16 4 == 0) (fin (.acall g r1 (fld w 19 17))))
  | 19 => noExt ext (chk 11 (fld w 16 4 == 0) (fin (.xchk g (fld w 25 23) (fld w 22 17))))
  | 24 => noExt ext (chk 11 (fld w 19 4 == 0) (fin (.tnow g r1)))
  | 25 => noExt ext (chk 11 (fld w 19 4 == 0) (fin (.waitt g r1)))
  | 26 => noExt ext (chk 11 (fld w 21 4 == 0) (fin (.waittk g (fld w 25 22))))
  | 27 => noExt ext (chk 11 (fld w 7 4 == 0) (fin (.tokget g r1 r2 r3)))
  | 28 => noExt ext (chk 11 (fld w 13 4 == 0) (fin (.tokrel g r1 r2)))
  | 32 => noExt ext (chk 11 (fld w 19 4 == 0) (fin (.cvget g r1)))
  | 33 => noExt ext (chk 11 (fld w 19 4 == 0) (fin (.cvsample g r1)))
  | 40 => noExt ext (chk 11 (fld w 19 4 == 0) (fin (.live g r1)))
  | 41 => noExt ext (chk 11 (fld w 9 4 == 0) (fin (.trap g (fld w 25 10))))
  | 42 => noExt ext (chk 11 (fld w 25 4 == 0) (fin (.rte g)))
  | 43 => noExt ext (chk 11 (fld w 9 4 == 0) (fin (.brkp g (fld w 25 10))))
  | 48 => noExt ext (chk 11 (fld w 19 4 == 0) (fin (.ctopen g r1)))
  | 49 => noExt ext (chk 11 (fld w 25 4 == 0) (fin (.ctclose g)))
  | 50 => noExt ext (chk 11 (fld w 11 4 == 0) (decodeSys w))
  | _ => .error 8

/-- A syllable read against its slot (R72 to R84): the instruction, or reason 8 to 11. The words are 32 bits. -/
def decodeSyl (sl : Slot) (w : Nat) (ext : Option Nat) : Dec :=
  match sl with
  | .X => decodeXY true w ext
  | .Y => decodeXY false w ext
  | .C => decodeC w ext
  | .V => decodeVW false w ext
  | .W => decodeVW true w ext
  | .M => decodeM w ext
  | .K => decodeK w ext
  | .L => decodeL w ext
  | .E => decodeE w ext

/-! ### The encoder (R73) -/

/-- A syllable: OP, the operand field, GUARD (R54). The operand field is given at its place. -/
def syl (op opnd g : Nat) : Nat := op * 2 ^ 26 + opnd + g

/-- Layout SR and its like: three six-bit registers and four bits. -/
def lay3 (x25 x19 x13 x7 : Nat) : Nat := x25 * 2 ^ 20 + x19 * 2 ^ 14 + x13 * 2 ^ 8 + x7 * 2 ^ 4

/-- Layout VR (R73). -/
def layV (f : Fmt) (d a b x7 : Nat) : Nat := f.code * 2 ^ 23 + d * 2 ^ 18 + a * 2 ^ 13 + b * 2 ^ 8 + x7 * 2 ^ 4

/-- Layout LM (R73). -/
def layLM (f : Fmt) (v a x : Nat) : Nat := f.code * 2 ^ 23 + v * 2 ^ 18 + a * 2 ^ 12 + x * 2 ^ 4

/-- Layout LT (R73). -/
def layLT (f : Fmt) (v t : Nat) (col : Bool) (i : Nat) : Nat :=
  f.code * 2 ^ 23 + v * 2 ^ 18 + t * 2 ^ 14 + b2n col * 2 ^ 13 + i * 2 ^ 4

/-- Layout LV (R73). -/
def layLV (cls idx s wd : Nat) : Nat := cls * 2 ^ 21 + idx * 2 ^ 16 + s * 2 ^ 10 + wd * 2 ^ 8

/-- Layout LO (R73). -/
def layLO (f : Fmt) (d a b : Nat) (w : Bool) : Nat :=
  f.code * 2 ^ 23 + d * 2 ^ 17 + a * 2 ^ 11 + b * 2 ^ 5 + b2n w * 2 ^ 4

/-- Layout CP (R73). -/
def layCP (p a b : Nat) (na nb : Bool) : Nat :=
  p * 2 ^ 23 + a * 2 ^ 19 + b * 2 ^ 15 + b2n na * 2 ^ 14 + b2n nb * 2 ^ 13

/-- The field and the extension of a widened immediate (R57): the low n bits, and the 31 bits above them. -/
def lowW (n : Nat) (x : Int) : Nat := wrap (31 + n) x % 2 ^ n
@[inherit_doc lowW] def highW (n : Nat) (x : Int) : Nat := wrap (31 + n) x / 2 ^ n

/-- The words of a syllable of the X and Y slots (R74, R75) and of its extension; none for any other instruction. -/
def encodeXY : Instr → Option (Nat × Option Nat)
  | .add g d a b => some (syl 1 (lay3 d a b 0) g, none)
  | .sub g d a b => some (syl 1 (lay3 d a b 1) g, none)
  | .mul g d a b => some (syl 1 (lay3 d a b 2) g, none)
  | .mulh g d a b => some (syl 1 (lay3 d a b 3) g, none)
  | .and g d a b => some (syl 1 (lay3 d a b 4) g, none)
  | .or g d a b => some (syl 1 (lay3 d a b 5) g, none)
  | .xor g d a b => some (syl 1 (lay3 d a b 6) g, none)
  | .shl g d a b => some (syl 1 (lay3 d a b 7) g, none)
  | .shr g d a b => some (syl 1 (lay3 d a b 8) g, none)
  | .sra g d a b => some (syl 1 (lay3 d a b 9) g, none)
  | .min g d a b => some (syl 1 (lay3 d a b 10) g, none)
  | .max g d a b => some (syl 1 (lay3 d a b 11) g, none)
  | .clz g d a => some (syl 1 (lay3 d a 0 12) g, none)
  | .popc g d a => some (syl 1 (lay3 d a 0 13) g, none)
  | .addi g d a i => some (syl 8 (d * 2 ^ 20 + a * 2 ^ 14 + wrap 10 i * 2 ^ 4) g, none)
  | .addiWide g d a i => some (syl 8 (d * 2 ^ 20 + a * 2 ^ 14 + lowW 10 i * 2 ^ 4) g, some (highW 10 i))
  | .movi g d i => some (syl 9 (d * 2 ^ 20 + wrap 16 i * 2 ^ 4) g, none)
  | .moviWide g d i => some (syl 9 (d * 2 ^ 20 + lowW 16 i * 2 ^ 4) g, some (highW 16 i))
  | .movhi g d i => some (syl 10 (d * 2 ^ 20 + i * 2 ^ 4) g, none)
  | .sext g d a w => some (syl 11 (lay3 d a (w - 1) 0) g, none)
  | .zext g d a w => some (syl 12 (lay3 d a (w - 1) 0) g, none)
  | .bfx g d a pos len => some (syl 13 (lay3 d a pos 0) g, some (len - 1))
  | .bfi g d a pos len => some (syl 14 (lay3 d a pos 0) g, some (len - 1))
  | .madd g d a b c => some (syl 15 (lay3 d a b 0) g, some c)
  | .sld g d a sz off => some (syl 16 (d * 2 ^ 20 + a * 2 ^ 14 + sz * 2 ^ 12 + wrap 8 off * 2 ^ 4) g, none)
  | .sldWide g d a sz off =>
      some (syl 16 (d * 2 ^ 20 + a * 2 ^ 14 + sz * 2 ^ 12 + lowW 8 off * 2 ^ 4) g, some (highW 8 off))
  | .sst g d a sz off => some (syl 17 (d * 2 ^ 20 + a * 2 ^ 14 + sz * 2 ^ 12 + wrap 8 off * 2 ^ 4) g, none)
  | .sstWide g d a sz off =>
      some (syl 17 (d * 2 ^ 20 + a * 2 ^ 14 + sz * 2 ^ 12 + lowW 8 off * 2 ^ 4) g, some (highW 8 off))
  | .rdsys g d n => some (syl 18 (d * 2 ^ 20 + n * 2 ^ 8) g, none)
  | .wrsys g a n => some (syl 19 (a * 2 ^ 20 + n * 2 ^ 8) g, none)
  | .endOp g => some (syl 48 0 g, none)
  | .br g disp => some (syl 49 (wrap 22 disp * 2 ^ 4) g, none)
  | .brWide g disp => some (syl 49 (lowW 22 disp * 2 ^ 4) g, some (highW 22 disp))
  | .brr g a => some (syl 50 (a * 2 ^ 20) g, none)
  | .call g d disp => some (syl 51 (d * 2 ^ 20 + wrap 16 disp * 2 ^ 4) g, none)
  | .callWide g d disp => some (syl 51 (d * 2 ^ 20 + lowW 16 disp * 2 ^ 4) g, some (highW 16 disp))
  | .ret g a => some (syl 52 (a * 2 ^ 20) g, none)
  | .loop g a disp => some (syl 53 (a * 2 ^ 20 + wrap 16 disp * 2 ^ 4) g, none)
  | .loopWide g a disp => some (syl 53 (a * 2 ^ 20 + lowW 16 disp * 2 ^ 4) g, some (highW 16 disp))
  | .brk g n disp => some (syl 54 (n * 2 ^ 23 + wrap 19 disp * 2 ^ 4) g, none)
  | _ => none

/-- The words of a syllable of the C slot (R76) and of its extension; none for any other instruction. -/
def encodeC : Instr → Option (Nat × Option Nat)
  | .cmp g p c a b => some (syl 1 (p * 2 ^ 23 + a * 2 ^ 17 + b * 2 ^ 11 + c.code * 2 ^ 7) g, none)
  | .cmpi g p c a i => some (syl 2 (p * 2 ^ 23 + a * 2 ^ 17 + c.code * 2 ^ 13 + wrap 9 i * 2 ^ 4) g, none)
  | .cmpiWide g p c a i =>
      some (syl 2 (p * 2 ^ 23 + a * 2 ^ 17 + c.code * 2 ^ 13 + lowW 9 i * 2 ^ 4) g, some (highW 9 i))
  | .fcmp g p c f a b => some (syl 3 (p * 2 ^ 23 + a * 2 ^ 17 + b * 2 ^ 11 + c.code * 2 ^ 7 + f.code * 2 ^ 5) g, none)
  | .pand g p a b na nb => some (syl 4 (layCP p a b na nb) g, none)
  | .por g p a b na nb => some (syl 5 (layCP p a b na nb) g, none)
  | .pxor g p a b na nb => some (syl 6 (layCP p a b na nb) g, none)
  | .vany g p km => some (syl 7 (p * 2 ^ 23 + km * 2 ^ 20) g, none)
  | .vall g p km => some (syl 8 (p * 2 ^ 23 + km * 2 ^ 20) g, none)
  | _ => none

/-- The words of a syllable of the V and W slots, two sources (R77) and of its extension; none for any other instruction. -/
def encodeV : Instr → Option (Nat × Option Nat)
  | .vadd g f d a b => some (syl 1 (layV f d a b 0) g, none)
  | .vaddExt g f d a b e => some (syl 1 (layV f d a b 0) g, some e.toNat)
  | .vsub g f d a b => some (syl 1 (layV f d a b 1) g, none)
  | .vsubExt g f d a b e => some (syl 1 (layV f d a b 1) g, some e.toNat)
  | .vmul g f d a b => some (syl 1 (layV f d a b 2) g, none)
  | .vmulExt g f d a b e => some (syl 1 (layV f d a b 2) g, some e.toNat)
  | .vmin g f d a b => some (syl 1 (layV f d a b 3) g, none)
  | .vminExt g f d a b e => some (syl 1 (layV f d a b 3) g, some e.toNat)
  | .vmax g f d a b => some (syl 1 (layV f d a b 4) g, none)
  | .vmaxExt g f d a b e => some (syl 1 (layV f d a b 4) g, some e.toNat)
  | .vand g f d a b => some (syl 1 (layV f d a b 5) g, none)
  | .vandExt g f d a b e => some (syl 1 (layV f d a b 5) g, some e.toNat)
  | .vor g f d a b => some (syl 1 (layV f d a b 6) g, none)
  | .vorExt g f d a b e => some (syl 1 (layV f d a b 6) g, some e.toNat)
  | .vxor g f d a b => some (syl 1 (layV f d a b 7) g, none)
  | .vxorExt g f d a b e => some (syl 1 (layV f d a b 7) g, some e.toNat)
  | .vshl g f d a b => some (syl 1 (layV f d a b 8) g, none)
  | .vshlExt g f d a b e => some (syl 1 (layV f d a b 8) g, some e.toNat)
  | .vshr g f d a b => some (syl 1 (layV f d a b 9) g, none)
  | .vshrExt g f d a b e => some (syl 1 (layV f d a b 9) g, some e.toNat)
  | .vsra g f d a b => some (syl 1 (layV f d a b 10) g, none)
  | .vsraExt g f d a b e => some (syl 1 (layV f d a b 10) g, some e.toNat)
  | .vfma g f d a b => some (syl 1 (layV f d a b 11) g, none)
  | .vfmaExt g f d a b e => some (syl 1 (layV f d a b 11) g, some e.toNat)
  | .vfms g f d a b => some (syl 1 (layV f d a b 12) g, none)
  | .vfmsExt g f d a b e => some (syl 1 (layV f d a b 12) g, some e.toNat)
  | .vperm g f d a b => some (syl 1 (layV f d a b 13) g, none)
  | .vpermExt g f d a b e => some (syl 1 (layV f d a b 13) g, some e.toNat)
  | .vslide g f d a b e n => some (syl 1 (layV f d a b 14) g, some (e.toNat + n * 2 ^ 7))
  | _ => none

/-- The words of a syllable of the V and W slots, the other forms (R77) and of its extension; none for any other instruction. -/
def encodeW : Instr → Option (Nat × Option Nat)
  | .vabs g f d a => some (syl 2 (layV f d a 0 0) g, none)
  | .vabsExt g f d a e => some (syl 2 (layV f d a 0 0) g, some e.toNat)
  | .vneg g f d a => some (syl 2 (layV f d a 0 1) g, none)
  | .vnegExt g f d a e => some (syl 2 (layV f d a 0 1) g, some e.toNat)
  | .vmov g d a => some (syl 2 (layV .f32 d a 0 2) g, none)
  | .vmovExt g d a e => some (syl 2 (layV .f32 d a 0 2) g, some e.toNat)
  | .vexp2 g f d a => some (syl 2 (layV f d a 0 3) g, none)
  | .vexp2Ext g f d a e => some (syl 2 (layV f d a 0 3) g, some e.toNat)
  | .vlog2 g f d a => some (syl 2 (layV f d a 0 4) g, none)
  | .vlog2Ext g f d a e => some (syl 2 (layV f d a 0 4) g, some e.toNat)
  | .vrcp g f d a => some (syl 2 (layV f d a 0 5) g, none)
  | .vrcpExt g f d a e => some (syl 2 (layV f d a 0 5) g, some e.toNat)
  | .vrsq g f d a => some (syl 2 (layV f d a 0 6) g, none)
  | .vrsqExt g f d a e => some (syl 2 (layV f d a 0 6) g, some e.toNat)
  | .vtanh g f d a => some (syl 2 (layV f d a 0 7) g, none)
  | .vtanhExt g f d a e => some (syl 2 (layV f d a 0 7) g, some e.toNat)
  | .vsum g f d a => some (syl 2 (layV f d a 0 8) g, none)
  | .vsumExt g f d a e => some (syl 2 (layV f d a 0 8) g, some e.toNat)
  | .vmaxr g f d a => some (syl 2 (layV f d a 0 9) g, none)
  | .vmaxrExt g f d a e => some (syl 2 (layV f d a 0 9) g, some e.toNat)
  | .vcvt g f d a sf rm =>
      some (syl 3 (f.code * 2 ^ 23 + d * 2 ^ 18 + a * 2 ^ 13 + sf.code * 2 ^ 10 + rm.code * 2 ^ 7) g, none)
  | .vcvtExt g f d a sf rm e =>
      some (syl 3 (f.code * 2 ^ 23 + d * 2 ^ 18 + a * 2 ^ 13 + sf.code * 2 ^ 10 + rm.code * 2 ^ 7) g, some e.toNat)
  | .vsel g f d a b km => some (syl 4 (f.code * 2 ^ 23 + d * 2 ^ 18 + a * 2 ^ 13 + b * 2 ^ 8 + km * 2 ^ 5) g, none)
  | .vselExt g f d a b km e =>
      some (syl 4 (f.code * 2 ^ 23 + d * 2 ^ 18 + a * 2 ^ 13 + b * 2 ^ 8 + km * 2 ^ 5) g, some e.toNat)
  | .vcmp g f kd c a b =>
      some (syl 5 (f.code * 2 ^ 23 + kd * 2 ^ 20 + a * 2 ^ 13 + b * 2 ^ 8 + c.code * 2 ^ 4) g, none)
  | .vcmpExt g f kd c a b e =>
      some (syl 5 (f.code * 2 ^ 23 + kd * 2 ^ 20 + a * 2 ^ 13 + b * 2 ^ 8 + c.code * 2 ^ 4) g, some e.toNat)
  | .vsplat g f d a => some (syl 6 (f.code * 2 ^ 23 + d * 2 ^ 18 + a * 2 ^ 12) g, none)
  | _ => none

/-- The words of a syllable of the M and K slots (R79, R80) and of its extension; none for any other instruction. -/
def encodeMK : Instr → Option (Nat × Option Nat)
  | .mpush g kr s src => some (syl 1 (7 * 2 ^ 23 + kr * 2 ^ 16 + b2n s * 2 ^ 15 + src * 2 ^ 10) g, none)
  | .mfeed g s src ad row =>
      some (syl 2 (7 * 2 ^ 23 + b2n s * 2 ^ 22 + src * 2 ^ 17 + ad * 2 ^ 13 + row * 2 ^ 4) g, none)
  | .mshiftDown g n => some (syl 3 (n * 2 ^ 16) g, none)
  | .mshiftAcross g n => some (syl 3 (2 ^ 22 + n * 2 ^ 16) g, none)
  | .mdrain g f td trow ad arow =>
      some (syl 4 (f.code * 2 ^ 23 + ad * 2 ^ 19 + arow * 2 ^ 10 + td * 2 ^ 6) g, some trow)
  | .mzero g ad arow => some (syl 5 (ad * 2 ^ 19 + arow * 2 ^ 10) g, none)
  | .kset g eb l col sc => some (syl 1 (b2n eb * 2 ^ 22 + l * 2 ^ 20 + col * 2 ^ 14 + wrap 8 sc * 2 ^ 6) g, none)
  | .kld g eb l a => some (syl 2 (b2n eb * 2 ^ 22 + l * 2 ^ 20 + a * 2 ^ 14) g, none)
  | _ => none

/-- The words of a syllable of the L slot (R81) and of its extension; none for any other instruction. -/
def encodeL : Instr → Option (Nat × Option Nat)
  | .vwset g cls idx a => some (syl 1 (layLV cls idx a 0) g, none)
  | .vwclr g cls idx => some (syl 2 (layLV cls idx 0 0) g, none)
  | .vwget g cls idx d w => some (syl 3 (layLV cls idx d w) g, none)
  | .vld g f d a off => some (syl 4 (layLM f d a (wrap 8 off)) g, none)
  | .vldWide g f d a off => some (syl 4 (layLM f d a (lowW 8 off)) g, some (highW 8 off))
  | .vst g f d a off => some (syl 5 (layLM f d a (wrap 8 off)) g, none)
  | .vstWide g f d a off => some (syl 5 (layLM f d a (lowW 8 off)) g, some (highW 8 off))
  | .tsr g f v t c i => some (syl 6 (layLT f v t c i) g, none)
  | .tsw g f v t c i => some (syl 7 (layLT f v t c i) g, none)
  | .wsld g f d a off => some (syl 8 (layLM f d a (wrap 8 off)) g, none)
  | .wsldWide g f d a off => some (syl 8 (layLM f d a (lowW 8 off)) g, some (highW 8 off))
  | .qbind g q a w u => some (syl 9 (q * 2 ^ 19 + a * 2 ^ 13 + b2n w * 2 ^ 12 + u * 2 ^ 10) g, none)
  | .qbindNone g q w u => some (syl 9 (q * 2 ^ 19 + b2n w * 2 ^ 12 + u * 2 ^ 10) g, none)
  | .qadv g q n => some (syl 10 (q * 2 ^ 19 + n * 2 ^ 4) g, none)
  | .amoAdd g f d a b w => some (syl 11 (layLO f d a b w) g, some 0)
  | .amoMin g f d a b w => some (syl 11 (layLO f d a b w) g, some 1)
  | .amoMax g f d a b w => some (syl 11 (layLO f d a b w) g, some 2)
  | .amoSwap g f d a b w => some (syl 11 (layLO f d a b w) g, some 3)
  | .amoCas g f d a b c w => some (syl 11 (layLO f d a b w) g, some (4 + c * 8))
  | .vmovPop g v q => some (syl 12 (v * 2 ^ 17 + q * 2 ^ 13) g, none)
  | .vmovPush g v q => some (syl 12 (2 ^ 22 + v * 2 ^ 17 + q * 2 ^ 13) g, none)
  | _ => none

/-- The words of a syllable of the E slot (R82) and of its extension; none for any other instruction. -/
def encodeE : Instr → Option (Nat × Option Nat)
  | .cpy g a d => some (syl 1 (lay3 a d 0 0) g, none)
  | .cpyw g a b c => some (syl 2 (lay3 a b c 0) g, none)
  | .pub g b => some (syl 3 (lay3 b 0 0 0) g, none)
  | .acq g b => some (syl 4 (lay3 b 0 0 0) g, none)
  | .rel g b => some (syl 5 (lay3 b 0 0 0) g, none)
  | .fenceCore g => some (syl 6 0 g, none)
  | .fenceCluster g => some (syl 6 (2 ^ 24) g, none)
  | .fenceModule g => some (syl 6 (2 * 2 ^ 24) g, none)
  | .waita g a b c w => some (syl 7 (a * 2 ^ 20 + b * 2 ^ 14 + c.code * 2 ^ 11 + b2n w * 2 ^ 10) g, none)
  | .gemv g a d => some (syl 8 (lay3 a d 0 0) g, none)
  | .cgload g a slot => some (syl 9 (a * 2 ^ 20 + slot * 2 ^ 16) g, none)
  | .cgrun g slot a => some (syl 10 (slot * 2 ^ 22 + a * 2 ^ 16) g, none)
  | .abr g ch p h disp => some (syl 16 (ch * 2 ^ 23 + p * 2 ^ 19 + b2n h * 2 ^ 18 + wrap 14 disp * 2 ^ 4) g, none)
  | .abrWide g ch p h disp =>
      some (syl 16 (ch * 2 ^ 23 + p * 2 ^ 19 + b2n h * 2 ^ 18 + lowW 14 disp * 2 ^ 4) g, some (highW 14 disp))
  | .agreeAnd g ch x => some (syl 17 (ch * 2 ^ 23 + x * 2 ^ 17) g, none)
  | .agreeOr g ch x => some (syl 17 (ch * 2 ^ 23 + x * 2 ^ 17 + 2 ^ 14) g, none)
  | .agreeMin g ch x => some (syl 17 (ch * 2 ^ 23 + x * 2 ^ 17 + 2 * 2 ^ 14) g, none)
  | .agreeMax g ch x => some (syl 17 (ch * 2 ^ 23 + x * 2 ^ 17 + 3 * 2 ^ 14) g, none)
  | .agreeSum g ch x => some (syl 17 (ch * 2 ^ 23 + x * 2 ^ 17 + 4 * 2 ^ 14) g, none)
  | .acall g d ch => some (syl 18 (d * 2 ^ 20 + ch * 2 ^ 17) g, none)
  | .xchk g cls idx => some (syl 19 (cls * 2 ^ 23 + idx * 2 ^ 17) g, none)
  | .tnow g d => some (syl 24 (d * 2 ^ 20) g, none)
  | .waitt g a => some (syl 25 (a * 2 ^ 20) g, none)
  | .waittk g tg => some (syl 26 (tg * 2 ^ 22) g, none)
  | .tokget g d w a => some (syl 27 (lay3 d w a 0) g, none)
  | .tokrel g w a => some (syl 28 (lay3 w a 0 0) g, none)
  | .cvget g d => some (syl 32 (d * 2 ^ 20) g, none)
  | .cvsample g a => some (syl 33 (a * 2 ^ 20) g, none)
  | .live g a => some (syl 40 (a * 2 ^ 20) g, none)
  | .trap g code => some (syl 41 (code * 2 ^ 10) g, none)
  | .rte g => some (syl 42 0 g, none)
  | .brkp g code => some (syl 43 (code * 2 ^ 10) g, none)
  | .ctopen g a => some (syl 48 (a * 2 ^ 20) g, none)
  | .ctclose g => some (syl 49 0 g, none)
  | .sysYield g a => some (syl 50 (a * 2 ^ 12) g, none)
  | .sysSubmit g a => some (syl 50 (2 ^ 18 + a * 2 ^ 12) g, none)
  | .sysNotify g a => some (syl 50 (2 * 2 ^ 18 + a * 2 ^ 12) g, none)
  | _ => none

/-- The words of a syllable and of its extension (R52, R73); an event has none. -/
def encode (i : Instr) : Nat × Option Nat :=
  match encodeXY i with
  | some w => w
  | none => match encodeC i with
  | some w => w
  | none => match encodeV i with
  | some w => w
  | none => match encodeW i with
  | some w => w
  | none => match encodeMK i with
  | some w => w
  | none => match encodeL i with
  | some w => w
  | none => match encodeE i with
  | some w => w
  | none => (0, none)

/-- The slots that take an instruction (R74 to R82); none for an event. -/
def Instr.slots : Instr → List Slot
  | .add _ _ _ _ | .sub _ _ _ _ | .mul _ _ _ _ | .mulh _ _ _ _ | .and _ _ _ _ | .or _ _ _ _ | .xor _ _ _ _
  | .shl _ _ _ _ | .shr _ _ _ _ | .sra _ _ _ _ | .min _ _ _ _ | .max _ _ _ _ | .clz _ _ _ | .popc _ _ _
  | .addi _ _ _ _ | .addiWide _ _ _ _ | .movi _ _ _ | .moviWide _ _ _ | .movhi _ _ _ | .sext _ _ _ _
  | .zext _ _ _ _ | .bfx _ _ _ _ _ | .bfi _ _ _ _ _ | .madd _ _ _ _ _ | .sld _ _ _ _ _ | .sldWide _ _ _ _ _
  | .sst _ _ _ _ _ | .sstWide _ _ _ _ _ | .rdsys _ _ _ | .wrsys _ _ _ => [.X, .Y]
  | .endOp _ | .br _ _ | .brWide _ _ | .brr _ _ | .call _ _ _ | .callWide _ _ _ | .ret _ _ | .loop _ _ _
  | .loopWide _ _ _ | .brk _ _ _ => [.X]
  | .cmp _ _ _ _ _ | .cmpi _ _ _ _ _ | .cmpiWide _ _ _ _ _ | .fcmp _ _ _ _ _ _ | .pand _ _ _ _ _ _
  | .por _ _ _ _ _ _ | .pxor _ _ _ _ _ _ | .vany _ _ _ | .vall _ _ _ => [.C]
  | .vadd _ _ _ _ _ | .vaddExt _ _ _ _ _ _ | .vsub _ _ _ _ _ | .vsubExt _ _ _ _ _ _ | .vmul _ _ _ _ _
  | .vmulExt _ _ _ _ _ _ | .vmin _ _ _ _ _ | .vminExt _ _ _ _ _ _ | .vmax _ _ _ _ _ | .vmaxExt _ _ _ _ _ _
  | .vand _ _ _ _ _ | .vandExt _ _ _ _ _ _ | .vor _ _ _ _ _ | .vorExt _ _ _ _ _ _ | .vxor _ _ _ _ _
  | .vxorExt _ _ _ _ _ _ | .vshl _ _ _ _ _ | .vshlExt _ _ _ _ _ _ | .vshr _ _ _ _ _ | .vshrExt _ _ _ _ _ _
  | .vsra _ _ _ _ _ | .vsraExt _ _ _ _ _ _ | .vfma _ _ _ _ _ | .vfmaExt _ _ _ _ _ _ | .vfms _ _ _ _ _
  | .vfmsExt _ _ _ _ _ _ | .vperm _ _ _ _ _ | .vpermExt _ _ _ _ _ _ | .vslide _ _ _ _ _ _ _ | .vabs _ _ _ _
  | .vabsExt _ _ _ _ _ | .vneg _ _ _ _ | .vnegExt _ _ _ _ _ | .vmov _ _ _ | .vmovExt _ _ _ _ | .vsum _ _ _ _
  | .vsumExt _ _ _ _ _ | .vmaxr _ _ _ _ | .vmaxrExt _ _ _ _ _ | .vsel _ _ _ _ _ _ | .vselExt _ _ _ _ _ _ _
  | .vcmp _ _ _ _ _ _ | .vcmpExt _ _ _ _ _ _ _ | .vsplat _ _ _ _ => [.V, .W]
  | .vexp2 _ _ _ _ | .vexp2Ext _ _ _ _ _ | .vlog2 _ _ _ _ | .vlog2Ext _ _ _ _ _ | .vrcp _ _ _ _
  | .vrcpExt _ _ _ _ _ | .vrsq _ _ _ _ | .vrsqExt _ _ _ _ _ | .vtanh _ _ _ _ | .vtanhExt _ _ _ _ _
  | .vcvt _ _ _ _ _ _ | .vcvtExt _ _ _ _ _ _ _ => [.W]
  | .mpush _ _ _ _ | .mfeed _ _ _ _ _ | .mshiftDown _ _ | .mshiftAcross _ _ | .mdrain _ _ _ _ _ _
  | .mzero _ _ _ => [.M]
  | .kset _ _ _ _ _ | .kld _ _ _ _ => [.K]
  | .vwset _ _ _ _ | .vwclr _ _ _ | .vwget _ _ _ _ _ | .vld _ _ _ _ _ | .vldWide _ _ _ _ _ | .vst _ _ _ _ _
  | .vstWide _ _ _ _ _ | .tsr _ _ _ _ _ _ | .tsw _ _ _ _ _ _ | .wsld _ _ _ _ _ | .wsldWide _ _ _ _ _
  | .qbind _ _ _ _ _ | .qbindNone _ _ _ _ | .qadv _ _ _ | .amoAdd _ _ _ _ _ _ | .amoMin _ _ _ _ _ _
  | .amoMax _ _ _ _ _ _ | .amoSwap _ _ _ _ _ _ | .amoCas _ _ _ _ _ _ _ | .vmovPop _ _ _ | .vmovPush _ _ _ => [.L]
  | .cpy _ _ _ | .cpyw _ _ _ _ | .pub _ _ | .acq _ _ | .rel _ _ | .fenceCore _ | .fenceCluster _
  | .fenceModule _ | .waita _ _ _ _ _ | .gemv _ _ _ | .cgload _ _ _ | .cgrun _ _ _ | .abr _ _ _ _ _
  | .abrWide _ _ _ _ _ | .agreeAnd _ _ _ | .agreeOr _ _ _ | .agreeMin _ _ _ | .agreeMax _ _ _ | .agreeSum _ _ _
  | .acall _ _ _ | .xchk _ _ _ | .tnow _ _ | .waitt _ _ | .waittk _ _ | .tokget _ _ _ _ | .tokrel _ _ _
  | .cvget _ _ | .cvsample _ _ | .live _ _ | .trap _ _ | .rte _ | .brkp _ _ | .ctopen _ _ | .ctclose _
  | .sysYield _ _ | .sysSubmit _ _ | .sysNotify _ _ => [.E]
  | _ => []

/-! ### A bundle (R52, R53) -/

/-- The slots in slot order (R52). -/
def Slot.all : List Slot := [.X, .Y, .C, .V, .W, .M, .K, .L, .E]

/-- The number of a slot in slot order, 0 to 8 (R52, R356). -/
def Slot.num : Slot → Nat
  | .X => 0 | .Y => 1 | .C => 2 | .V => 3 | .W => 4 | .M => 5 | .K => 6 | .L => 7 | .E => 8

/-- A header with TAG 1011 (R53). -/
def isHeader (h : Nat) : Bool := fld h 31 28 == 11

/-- Presence and extension bits of a slot (R53). -/
def hasSlot (h : Nat) (sl : Slot) : Bool := bit h (27 - sl.num)
@[inherit_doc hasSlot] def hasExt (h : Nat) (sl : Slot) : Bool := bit h (18 - sl.num)

/-- How many slots a header has of a kind. -/
def countBits (f : Slot → Bool) : Nat := (Slot.all.filter f).length

/-- The words of a bundle, its header among them: 1 to 19 (R52). -/
def bundleWords (h : Nat) : Nat := 1 + countBits (hasSlot h) + countBits (hasExt h)

/-- A syllable as it stands in the bundle: its slot, its word and the word of its extension. -/
abbrev RawSyl := Slot × Nat × Option Nat

/-- The syllables of a header from the words that follow it, in slot order (R52). A word that is not given reads 0. -/
def takeSyls (h : Nat) : List Slot → List Nat → List RawSyl
  | [], _ => []
  | sl :: sls, ws =>
    if hasSlot h sl then
      if hasExt h sl then (sl, ws.headD 0, some (ws.tail.headD 0)) :: takeSyls h sls ws.tail.tail
      else (sl, ws.headD 0, none) :: takeSyls h sls ws.tail
    else takeSyls h sls ws

/-- A register named by a syllable, by class (R64). -/
inductive RegName where
  | s (n : Nat) | p (n : Nat) | k (n : Nat) | v (n : Nat) | t (n : Nat) | a (n : Nat) | q (n : Nat) | sys (n : Nat)
  deriving DecidableEq, Repr

/-- s0 names no destination: writes to it are discarded (R64). -/
def sDest (n : Nat) : Option RegName := if n = 0 then none else some (.s n)

/-- The destination register that a syllable names (R64, R73), from its fields as they stand even where the syllable itself fails
reasons 8 to 11 (log 77); a compare names its pair. -/
def rawDest : RawSyl → Option RegName
  | (sl, w, ext) =>
    let op := fld w 31 26
    let qd := match ext with | some e => bit e 2 | none => false
    match sl with
    | .X | .Y =>
      if op == 1 || (decide (8 ≤ op) && decide (op ≤ 16)) || op == 18 then sDest (fld w 25 20)
      else if op == 19 then some (.sys (fld w 19 8))
      else if op == 51 && sl == .X then sDest (fld w 25 20)
      else none
    | .C => if decide (1 ≤ op) && decide (op ≤ 8) then some (.p (fld w 25 23)) else none
    | .V | .W =>
      if op == 5 then some (.k (fld w 22 20))
      else if op == 6 || op == 1 || op == 2 || op == 4 || (op == 3 && sl == .W) then
        if qd then some (.q (fld w 22 18)) else some (.v (fld w 22 18))
      else none
    | .M =>
      if op == 2 then some (.a (fld w 16 13)) else if op == 4 then some (.t (fld w 9 6))
      else if op == 5 then some (.a (fld w 22 19)) else none
    | .K => none
    | .L =>
      if op == 3 then sDest (fld w 15 10)
      else if op == 4 || op == 6 || op == 8 then some (.v (fld w 22 18))
      else if op == 7 then some (.t (fld w 17 14))
      else if op == 11 then sDest (fld w 22 17)
      else if op == 12 then (if bit w 22 then some (.q (fld w 16 13)) else some (.v (fld w 21 17)))
      else none
    | .E =>
      if op == 1 || op == 8 then sDest (fld w 19 14)
      else if op == 17 then sDest (fld w 22 17)
      else if op == 18 || op == 24 || op == 27 || op == 32 then sDest (fld w 25 20)
      else none

/-- The stream registers that a syllable reads: one named twice is one (R64, R78, R190), from its fields as they stand (log 77). -/
def rawPops : RawSyl → List Nat
  | (sl, w, ext) =>
    let op := fld w 31 26
    match sl with
    | .V | .W =>
      match ext with
      | some e =>
        let a := if bit e 0 && decide (1 ≤ op) && decide (op ≤ 5) then [fld w 17 13] else []
        let b := if bit e 1 && (op == 1 || op == 4 || op == 5) then [fld w 12 8] else []
        if a == b then a else a ++ b
      | none => []
    | .M => if op == 1 && bit w 15 then [fld w 14 10] else if op == 2 && bit w 22 then [fld w 21 17] else []
    | .L => if op == 12 && !bit w 22 then [fld w 16 13] else []
    | _ => []

/-- The stream register that a `qbind` or `qadv` names (R190). -/
def rawCtl : RawSyl → Option Nat
  | (sl, w, _) => if sl == .L && (fld w 31 26 == 9 || fld w 31 26 == 10) then some (fld w 22 19) else none

/-- No element of a list stands twice. -/
def distinct {α : Type} [BEq α] : List α → Bool
  | [] => true
  | x :: xs => !xs.contains x && distinct xs

/-- Two slots name one destination, or two read one stream register, or a `qbind` or `qadv` names a register that
another slot pops or pushes (R64, R190). -/
def namesClash (ss : List RawSyl) : Bool :=
  let ds := ss.filterMap rawDest
  let ps := ss.flatMap rawPops ++ ss.filterMap rawCtl
  !distinct ds || !distinct ps || (ss.filterMap rawCtl).any fun q => ds.contains (.q q)

/-- A control-transfer form of R65: `end`, `br`, `brr`, `call`, `ret`, `loop`, `brk`. -/
def rawControl : RawSyl → Bool
  | (sl, w, _) => sl == .X && decide (48 ≤ fld w 31 26) && decide (fld w 31 26 ≤ 54)

/-- What decoding a bundle answers: its syllables by slot, or the reason of R70 and, from reason 8 on, the slot. -/
inductive Decoded where
  | ok (ss : List (Slot × Instr))
  | bad (reason : Nat) (slot : Nat)
  deriving DecidableEq, Repr

/-- The instruction of a syllable, by its slot. -/
def decodeRaw : RawSyl → Dec
  | (sl, w, ext) => decodeSyl sl w ext

/-- The reason and the slot of each syllable that fails its decode check. -/
def failures : List RawSyl → List (Nat × Nat)
  | [] => []
  | r :: rs => match decodeRaw r with
    | .ok _ => failures rs
    | .error e => (e, r.1.num) :: failures rs

/-- The lowest reason, and the earliest slot that has it (R70): the list is in slot order. -/
def lowest : List (Nat × Nat) → Option (Nat × Nat)
  | [] => none
  | x :: xs => match lowest xs with
    | none => some x
    | some y => if y.1 < x.1 then some y else some x

/-- The instructions of syllables that all decode. -/
def instrs : List RawSyl → List (Slot × Instr)
  | [] => []
  | r :: rs => match decodeRaw r with
    | .ok i => (r.1, i) :: instrs rs
    | .error _ => instrs rs

/-- The checks of R70 on a bundle: its header, whether it was reached by a transfer, and the words after the header. -/
def decodeBundle (h : Nat) (transfer : Bool) (ws : List Nat) : Decoded :=
  let ss := takeSyls h Slot.all ws
  if !isHeader h then .bad (if transfer then 1 else 2) 0
  else if decide (2 ≤ fld h 9 8) || fld h 3 0 != 0 then .bad 3 0
  else if Slot.all.any (fun sl => hasExt h sl && !hasSlot h sl) then .bad 4 0
  else if ss.any (fun r => match r.2.2 with | some e => bit e 31 | none => false) then .bad 5 0
  else if namesClash ss then .bad 6 0
  else if fld h 9 8 == 1 && ss.any rawControl then .bad 7 0
  else match lowest (failures ss) with
    | some (r, sl) => .bad r sl
    | none => .ok (instrs ss)

/-- The header of a bundle that holds one syllable, with or without an extension (R53). -/
def headerOf (sl : Slot) (ext : Bool) : Nat :=
  11 * 2 ^ 28 + 2 ^ (27 - sl.num) + b2n ext * 2 ^ (18 - sl.num)

/-- The words of a bundle that holds the one syllable i in the slot sl. -/
def bundleOf (sl : Slot) (i : Instr) : List Nat :=
  match (encode i).2 with
  | none => [headerOf sl false, (encode i).1]
  | some e => [headerOf sl true, (encode i).1, e]

/-! ### One word of the opcode table (log 3) -/

/-- How many of a word's bits the opcode table fixes for an instruction (masks of spec/opcode_table.json); 6, the OP, for a row
without a mask. -/
def Instr.fixedBits : Instr → Nat
  | .fcmp _ _ _ _ _ _ | .vsel _ _ _ _ _ _ => 7
  | .vcmp _ _ _ _ _ _ => 8
  | .cmp _ _ _ _ _ | .vcvt _ _ _ _ _ _ | .mfeed _ _ _ _ _ | .qadv _ _ _ => 9
  | .add _ _ _ _ | .sub _ _ _ _ | .mul _ _ _ _ | .mulh _ _ _ _ | .and _ _ _ _ | .or _ _ _ _ | .xor _ _ _ _
  | .shl _ _ _ _ | .shr _ _ _ _ | .sra _ _ _ _ | .min _ _ _ _ | .max _ _ _ _ | .sext _ _ _ _ | .zext _ _ _ _
  | .rdsys _ _ _ | .wrsys _ _ _ | .vadd _ _ _ _ _ | .vsub _ _ _ _ _ | .vmul _ _ _ _ _ | .vmin _ _ _ _ _
  | .vmax _ _ _ _ _ | .vand _ _ _ _ _ | .vor _ _ _ _ _ | .vxor _ _ _ _ _ | .vshl _ _ _ _ _ | .vshr _ _ _ _ _
  | .vsra _ _ _ _ _ | .vfma _ _ _ _ _ | .vfms _ _ _ _ _ | .vperm _ _ _ _ _ | .cpyw _ _ _ _ | .tokget _ _ _ _ => 10
  | .kset _ _ _ _ _ => 11
  | .waita _ _ _ _ _ | .trap _ _ | .brkp _ _ => 12
  | .vwget _ _ _ _ _ => 13
  | .vsplat _ _ _ _ => 14
  | .pand _ _ _ _ _ _ | .por _ _ _ _ _ _ | .pxor _ _ _ _ _ _ | .vabs _ _ _ _ | .vneg _ _ _ _ | .vexp2 _ _ _ _
  | .vlog2 _ _ _ _ | .vrcp _ _ _ _ | .vrsq _ _ _ _ | .vtanh _ _ _ _ | .vsum _ _ _ _ | .vmaxr _ _ _ _
  | .mpush _ _ _ _ | .mzero _ _ _ | .vwset _ _ _ _ | .qbind _ _ _ _ _ => 15
  | .clz _ _ _ | .popc _ _ _ | .cpy _ _ _ | .gemv _ _ _ | .tokrel _ _ _ => 16
  | .vmov _ _ _ | .cgload _ _ _ | .cgrun _ _ _ => 18
  | .kld _ _ _ _ | .vmovPop _ _ _ | .vmovPush _ _ _ | .agreeAnd _ _ _ | .agreeOr _ _ _ | .agreeMin _ _ _
  | .agreeMax _ _ _ | .agreeSum _ _ _ | .acall _ _ _ | .xchk _ _ _ => 19
  | .vwclr _ _ _ | .qbindNone _ _ _ _ => 21
  | .brr _ _ | .ret _ _ | .vany _ _ _ | .vall _ _ _ | .mshiftDown _ _ | .mshiftAcross _ _ | .pub _ _ | .acq _ _
  | .rel _ _ | .tnow _ _ | .waitt _ _ | .cvget _ _ | .cvsample _ _ | .live _ _ | .ctopen _ _ | .sysYield _ _
  | .sysSubmit _ _ | .sysNotify _ _ => 22
  | .waittk _ _ => 24
  | .endOp _ | .fenceCore _ | .fenceCluster _ | .fenceModule _ | .rte _ | .ctclose _ => 28
  | _ => 6

/-- What a slot reads in a word of the opcode table with an extension, or with none: the instruction, and the extension of its bundle. Where
the table gives no extension, the words above are zero: a form that requires one has one of 0. -/
def readWord (sl : Slot) (w : Nat) (ext : Option Nat) : Option (Instr × Option Nat) :=
  match ext with
  | some e => match decodeSyl sl w (some e) with
    | .ok i => some (i, some e)
    | .error _ => none
  | none => match decodeSyl sl w none with
    | .ok i => some (i, none)
    | .error 10 => match decodeSyl sl w (some 0) with
      | .ok i => some (i, some 0)
      | .error _ => none
    | .error _ => none

/-- A reading of a word: slot, instruction, extension. -/
abbrev Reading := Slot × Instr × Option Nat

/-- The slots that read a word as a legal syllable, with what they read. -/
def readings (w : Nat) (ext : Option Nat) : List Reading :=
  Slot.all.filterMap fun sl => (readWord sl w ext).map fun r => (sl, r.1, r.2)

/-- The reading with the most fixed bits; the earliest slot among equals (log 3). -/
def bestReading : List Reading → Option Reading
  | [] => none
  | x :: xs => match bestReading xs with
    | none => some x
    | some y => if x.2.1.fixedBits < y.2.1.fixedBits then some y else some x

/-- The reading of a row's word of 32 bits, or of a syllable and its extension of 64. -/
def tableReading (nbits w : Nat) : Option Reading :=
  bestReading (readings (w % 2 ^ 32) (if nbits ≤ 32 then none else some (w / 2 ^ 32 % 2 ^ 32)))

/-- The instruction that a row's word is, bits numbered as spec/opcode_table.json numbers them (log 3). -/
def decodeTableWord (nbits w : Nat) : Option Instr := (tableReading nbits w).map fun r => r.2.1

/-- The words of a bundle that holds a row's word as its one syllable; a word that no slot reads stands in slot X. -/
def tableBundle (nbits w : Nat) : List Nat :=
  match tableReading nbits w with
  | some (sl, _, some e) => [headerOf sl true, w % 2 ^ 32, e]
  | some (sl, _, none) => [headerOf sl false, w % 2 ^ 32]
  | none => [headerOf .X false, w % 2 ^ 32]

end Sys2Proof
end

