-- ==== Sys2Proof/Machine/Numbers.lean ====
section
/-! DEFINITION. Sys2Proof/Machine/Numbers.lean: the numbers of the core (chapter 05, R86 to R101) and the transcendentals of
R159 and R160. A floating-point value is taken as an exact dyadic number, computed on exactly, and rounded once. -/

namespace Sys2Proof.Machine

/-- A floating-point value: NaN, an infinity, or (−1)^neg × m × 2^e (R87). A zero has m = 0. -/
inductive FVal where
  | nan
  | inf (neg : Bool)
  | fin (neg : Bool) (m : Nat) (e : Int)
  deriving DecidableEq, Repr

/-- Bytes of a lane (R86); an LN6 lane has 6 bits and is counted apart. -/
def laneBytes : Fmt → Nat
  | .f32 | .i32 | .n32 => 4
  | .bf16 | .f16 => 2
  | .i8 | .n8 => 1
  | .ln6 => 0

/-- Bits of a lane (R86). -/
def laneBits : Fmt → Nat
  | .ln6 => 6
  | f => 8 * laneBytes f

/-- Bytes of 128 lanes (R144). -/
def vecBytes : Fmt → Nat
  | .ln6 => 96
  | f => 128 * laneBytes f

/-- Precision of a floating-point format, hidden bit included (R86). -/
def prec : Fmt → Nat
  | .bf16 => 8
  | .f16 => 11
  | _ => 24

/-- Exponent of the last place of a subnormal (R86). -/
def qmin : Fmt → Int
  | .bf16 => -133
  | .f16 => -24
  | _ => -149

/-- Bits of an encoding less the sign (R86). -/
def magBits : Fmt → Nat
  | .bf16 | .f16 => 15
  | _ => 31

/-- The encoding of +∞ (R86). -/
def infCode : Fmt → Nat
  | .bf16 => 0x7F80
  | .f16 => 0x7C00
  | _ => 0x7F800000

/-- The default NaN (R88). -/
def nanCode : Fmt → Nat
  | .bf16 => 0x7FC0
  | .f16 => 0x7E00
  | _ => 0x7FC00000

/-- The value of an encoding (R86, R87). -/
def unpack (f : Fmt) (x : Nat) : FVal :=
  let neg := bit x (magBits f)
  let mag := x % 2 ^ magBits f
  let ex := mag / 2 ^ (prec f - 1)
  let fr := mag % 2 ^ (prec f - 1)
  if mag = infCode f then .inf neg
  else if infCode f < mag then .nan
  else if ex = 0 then .fin neg fr (qmin f)
  else .fin neg (2 ^ (prec f - 1) + fr) (qmin f + (ex - 1 : Int))

/-- Whether a remainder r of 2^d rounds the magnitude away from zero (R98). -/
def roundsUp (mode : RMode) (neg : Bool) (sig r d : Nat) : Bool :=
  match mode with
  | .rne | .rnes => decide (2 ^ d < 2 * r) || (decide (2 * r = 2 ^ d) && sig % 2 == 1)
  | .rna => decide (2 ^ d ≤ 2 * r)
  | .rz | .rzs => false
  | .ru => !neg && decide (0 < r)
  | .rd => neg && decide (0 < r)

/-- A saturating mode of R98. -/
def modeSat : RMode → Bool
  | .rnes | .rzs => true
  | _ => false

/-- What a magnitude beyond the range gives: an infinity, or the largest finite value (R98). -/
def overflowCode (f : Fmt) (mode : RMode) (neg : Bool) : Nat :=
  match mode with
  | .rne | .rna => infCode f
  | .rz | .rnes | .rzs => infCode f - 1
  | .ru => if neg then infCode f - 1 else infCode f
  | .rd => if neg then infCode f else infCode f - 1

/-- The magnitude's encoding of m × 2^e rounded to a floating-point format (R98). -/
def roundMag (f : Fmt) (mode : RMode) (neg : Bool) (m : Nat) (e : Int) : Nat :=
  if m = 0 then 0 else
  let q := max (e + (m.log2 + 1 : Int) - prec f) (qmin f)
  let sig := if q ≤ e then m * 2 ^ (e - q).toNat
    else
      let d := (q - e).toNat
      m / 2 ^ d + b2n (roundsUp mode neg (m / 2 ^ d) (m % 2 ^ d) d)
  let code := (q - qmin f).toNat * 2 ^ (prec f - 1) + sig
  if code < infCode f then code else overflowCode f mode neg

/-- round(x, fmt, mode) for a floating-point format (R98); NaN is canonical (R88). -/
def pack (f : Fmt) (mode : RMode) : FVal → Nat
  | .nan => nanCode f
  | .inf neg => b2n neg * 2 ^ magBits f + (if modeSat mode then infCode f - 1 else infCode f)
  | .fin neg m e => b2n neg * 2 ^ magBits f + roundMag f mode neg m e

/-- The signed integer m at exponent e, brought to the exponent k ≤ e. -/
def alignTo (k : Int) (neg : Bool) (m : Nat) (e : Int) : Int :=
  let v : Int := ((m * 2 ^ (e - k).toNat : Nat) : Int)
  if neg then -v else v

/-- The exact sum (R87): an exact zero is +0 unless both are −0; ∞ − ∞ is NaN. -/
def FVal.add : FVal → FVal → FVal
  | .nan, _ => .nan
  | _, .nan => .nan
  | .inf a, .inf b => if a = b then .inf a else .nan
  | .inf a, .fin .. => .inf a
  | .fin .., .inf b => .inf b
  | .fin na ma ea, .fin nb mb eb =>
    let k := min ea eb
    let s := alignTo k na ma ea + alignTo k nb mb eb
    if s = 0 then .fin (na && nb && ma == 0 && mb == 0) 0 k
    else .fin (decide (s < 0)) s.natAbs k

/-- The value with its sign inverted. -/
def FVal.neg : FVal → FVal
  | .nan => .nan
  | .inf n => .inf (!n)
  | .fin n m e => .fin (!n) m e

/-- The exact product (R149): ∞ × 0 is NaN. -/
def FVal.mul : FVal → FVal → FVal
  | .nan, _ => .nan
  | _, .nan => .nan
  | .inf a, .inf b => .inf (a != b)
  | .inf a, .fin b m _ => if m = 0 then .nan else .inf (a != b)
  | .fin a m _, .inf b => if m = 0 then .nan else .inf (a != b)
  | .fin a m e, .fin b n k => .fin (a != b) (m * n) (e + k)

/-- The sum of two zeros or of a zero product and a zero keeps the sign rule of R87 in `FVal.add`. a × b + d (R149). -/
def FVal.fma (a b d : FVal) : FVal := (a.mul b).add d

/-- The value is finite. -/
def FVal.finite : FVal → Bool
  | .fin .. => true
  | _ => false

/-- The magnitude of a value. -/
def FVal.abs : FVal → FVal
  | .nan => .nan
  | .inf _ => .inf false
  | .fin _ m e => .fin false m e

/-- x < y on values that are no NaN; a zero of either sign equals a zero. -/
def FVal.lt : FVal → FVal → Bool
  | .nan, _ => false
  | _, .nan => false
  | .inf a, .inf b => a && !b
  | .inf a, .fin .. => a
  | .fin .., .inf b => !b
  | .fin na ma ea, .fin nb mb eb =>
    let k := min ea eb
    decide (alignTo k na ma ea < alignTo k nb mb eb)

/-- x = y as numbers (R115). -/
def FVal.eq (x y : FVal) : Bool :=
  match x, y with
  | .nan, _ => false
  | _, .nan => false
  | x, y => !x.lt y && !y.lt x

/-- The value times 2^k. -/
def FVal.scale (k : Int) : FVal → FVal
  | .fin n m e => .fin n m (e + k)
  | x => x

/-- RNE of the exact sum, difference, product of encodings in a format (R149, R98). -/
def fadd (f : Fmt) (x y : Nat) : Nat := pack f .rne ((unpack f x).add (unpack f y))
@[inherit_doc fadd] def fsub (f : Fmt) (x y : Nat) : Nat := pack f .rne ((unpack f x).add (unpack f y).neg)
@[inherit_doc fadd] def fmul (f : Fmt) (x y : Nat) : Nat := pack f .rne ((unpack f x).mul (unpack f y))

/-- a × b + d rounded once, and d − a × b rounded once (R149). -/
def ffma (f : Fmt) (a b d : Nat) : Nat := pack f .rne ((unpack f a).fma (unpack f b) (unpack f d))
@[inherit_doc ffma] def ffms (f : Fmt) (a b d : Nat) : Nat := pack f .rne ((unpack f a).neg.fma (unpack f b) (unpack f d))

/-- The sign of a value; −0 counts below +0 (R149). -/
def FVal.isNeg : FVal → Bool
  | .nan => false
  | .inf n => n
  | .fin n _ _ => n

/-- a is chosen by the lesser-of order of R149, in which −0 counts below +0. -/
def FVal.below (x y : FVal) : Bool := x.lt y || (x.eq y && x.isNeg)

/-- `vmin` and `vmax` on encodings: a NaN in either gives the default NaN (R149). -/
def fmin (f : Fmt) (x y : Nat) : Nat :=
  let a := unpack f x
  let b := unpack f y
  if a = .nan ∨ b = .nan then nanCode f else if a.below b then x else y
@[inherit_doc fmin] def fmax (f : Fmt) (x y : Nat) : Nat :=
  let a := unpack f x
  let b := unpack f y
  if a = .nan ∨ b = .nan then nanCode f else if a.below b then y else x

/-! ### Integers (R89) -/

/-- The integer a lane holds, by the signedness of its format. -/
def laneInt (f : Fmt) (x : Nat) : Int :=
  match f with
  | .i32 => signed 32 x
  | .i8 => signed 8 x
  | _ => (x : Int)

/-! ### LN6 (R90 to R92) -/

/-- The mantissas of T and of B, in units of 2^−23 (R92, R101). -/
def tableT (f : Nat) : Nat :=
  match f with
  | 0 => 0x800000
  | 1 => 0x9837F0
  | 2 => 0xB504F3
  | _ => 0xD744FD
@[inherit_doc tableT] def tableB (f : Nat) : Nat :=
  match f with
  | 0 => 0x8B95C2
  | 1 => 0xA5FED7
  | 2 => 0xC5672A
  | _ => 0xEAC0C7

/-- ln6_value(s, q) (R92). -/
def ln6Value (s : Bool) (q : Int) : FVal := .fin s (tableT (q % 4).toNat) (q / 4 - 23)

/-- LQ of a code (R90). -/
def ln6Q (c : Nat) : Int := signed 5 c

/-- The value of an LN6 code with no scale (R90): zero is +0, NaR is NaN (R99). -/
def ln6Unpack (c : Nat) : FVal :=
  if c % 64 = 0x10 then .fin false 0 0
  else if c % 64 = 0x30 then .nan
  else ln6Value (bit c 5) (ln6Q c)

/-- The product of an A code and a B code with their scales, exact in FP32 (R94). -/
def ln6Prod (a b : Nat) (sa sb : Int) : FVal :=
  if a % 64 = 0x30 ∨ b % 64 = 0x30 then .nan
  else if a % 64 = 0x10 ∨ b % 64 = 0x10 then .fin false 0 0
  else ln6Value (bit a 5 != bit b 5) (ln6Q a + ln6Q b + sa + sb)

/-- The elements of groups of three bytes (R91). -/
def ln6Lanes : List Nat → List Nat
  | a :: b :: c :: rest =>
    let g := a + b * 256 + c * 65536
    g % 64 :: g / 64 % 64 :: g / 4096 % 64 :: g / 262144 % 64 :: ln6Lanes rest
  | _ => []

/-- The bytes of groups of four elements (R91). -/
def ln6Bytes : List Nat → List Nat
  | a :: b :: c :: d :: rest =>
    let g := a % 64 + b % 64 * 64 + c % 64 * 4096 + d % 64 * 262144
    g % 256 :: g / 256 % 256 :: g / 65536 % 256 :: ln6Bytes rest
  | _ => []

/-! ### Conversions (R99 to R101) -/

/-- The exact value of a lane in a source format (R99). -/
def laneValue (f : Fmt) (x : Nat) : FVal :=
  match f with
  | .f32 | .bf16 | .f16 => unpack f x
  | .ln6 => ln6Unpack x
  | f => .fin (decide (laneInt f x < 0)) (laneInt f x).natAbs 0

/-- A finite value rounded to an integer under a mode (R100). -/
def toInt (mode : RMode) (neg : Bool) (m : Nat) (e : Int) : Int :=
  let mag := if 0 ≤ e then m * 2 ^ e.toNat
    else
      let d := (-e).toNat
      m / 2 ^ d + b2n (roundsUp mode neg (m / 2 ^ d) (m % 2 ^ d) d)
  if neg then -(mag : Int) else (mag : Int)

/-- The bounds of an integer format (R86). -/
def intLo : Fmt → Int
  | .i32 => -2147483648
  | .i8 => -128
  | _ => 0
@[inherit_doc intLo] def intHi : Fmt → Int
  | .i32 => 2147483647
  | .n32 => 4294967295
  | .i8 => 127
  | _ => 255

/-- Conversion to an integer format (R100). -/
def cvtInt (f : Fmt) (mode : RMode) : FVal → Nat
  | .nan => 0
  | .inf neg => if modeSat mode then wrap (laneBits f) (if neg then intLo f else intHi f) else 0
  | .fin neg m e =>
    let y := toInt mode neg m e
    if modeSat mode then wrap (laneBits f) (max (intLo f) (min (intHi f) y)) else wrap (laneBits f) y

/-- The largest index f with T[f] ≤ mant × 2^−l, for a mantissa with l + 1 bits (R101). -/
def lowerIndex (mant l : Nat) : Nat :=
  if tableT 3 * 2 ^ l ≤ mant * 2 ^ 23 then 3
  else if tableT 2 * 2 ^ l ≤ mant * 2 ^ 23 then 2
  else if tableT 1 * 2 ^ l ≤ mant * 2 ^ 23 then 1
  else 0

/-- The code of a nonzero magnitude 2^(q/4) of sign neg, resolved at the ends of the range (R101). -/
def ln6Code (mode : RMode) (neg : Bool) (q : Int) : Nat :=
  let away := (mode == .ru && !neg) || (mode == .rd && neg)
  if q ≤ -16 then (if away then b2n neg * 32 + wrap 5 (-15) else 0x10)
  else if 16 ≤ q then (if modeSat mode then b2n neg * 32 + 15 else 0x30)
  else b2n neg * 32 + wrap 5 q

/-- Conversion to LN6 (R101). -/
def cvtLn6 (mode : RMode) : FVal → Nat
  | .nan => 0x30
  | .inf neg => if modeSat mode then b2n neg * 32 + 15 else 0x30
  | .fin neg m e =>
    if m = 0 then 0x10 else
    let l := m.log2
    let f := lowerIndex m l
    let qlo : Int := 4 * (e + l) + f
    if tableT f * 2 ^ l = m * 2 ^ 23 then ln6Code mode neg qlo
    else
      let up := match mode with
        | .rne | .rna | .rnes => decide (tableB f * 2 ^ l ≤ m * 2 ^ 23)
        | .rz | .rzs => false
        | .ru => !neg
        | .rd => neg
      ln6Code mode neg (if up then qlo + 1 else qlo)

/-- `vcvt` on one lane (R99): an FP lane to its own format and an exact widening do not depend on the mode. -/
def cvtLane (df sf : Fmt) (mode : RMode) (x : Nat) : Nat :=
  match df with
  | .ln6 => cvtLn6 mode (laneValue sf x)
  | .f32 | .bf16 | .f16 =>
    let v := laneValue sf x
    if sf = df then (if v = .nan then nanCode df else x)
    else if df = .f32 && (sf == .bf16 || sf == .f16 || sf == .ln6) then pack .f32 .rne v
    else pack df mode v
  | df => cvtInt df mode (laneValue sf x)

/-! ### Fixed trees and the pair (R95, R96) -/

/-- One level of a pairwise tree. -/
def pairUp (op : Nat → Nat → Nat) : List Nat → List Nat
  | a :: b :: rest => op a b :: pairUp op rest
  | xs => xs

/-- d levels of a pairwise tree. -/
def treeLevels (op : Nat → Nat → Nat) : Nat → List Nat → List Nat
  | 0, xs => xs
  | d + 1, xs => treeLevels op d (pairUp op xs)

/-- The fixed pairwise tree of seven levels (R95, R161). -/
def tree128 (op : Nat → Nat → Nat) (xs : List Nat) : Nat := (treeLevels op 7 xs).headD 0

/-- The fixed pairwise tree of six levels over 64 inputs (R170). -/
def tree64 (xs : List Nat) : Nat := (treeLevels (fadd .f32) 6 xs).headD 0

/-- twosum() (R96). -/
def twosum (hi lo x : Nat) : Nat × Nat :=
  let s := fadd .f32 hi x
  if !(unpack .f32 s).finite then (s, 0)
  else
    let bp := fsub .f32 s hi
    let err := fadd .f32 (fsub .f32 hi (fsub .f32 s bp)) (fsub .f32 x bp)
    (s, fadd .f32 lo err)

/-! ### Transcendentals (R159, R160)

The exact value is enclosed within one unit of 2^−400 of a fixed-point number and rounded from there with a sticky bit below;
that 400 bits settle every rounding is PRESUMED (log 10). -/

/-- Bits after the point. -/
def fix : Nat := 400

/-- ln 2 in fixed point: ⌊ln 2 × 2^400⌋. -/
def ln2Fix : Nat :=
  1789879222497203190815761498240779176894896805856420935579692301363062920687047601279850318367644315849030039181347319086

/-- n terms of the series of e^y from the k-th on, for y in fixed point. -/
def expSeries (y : Nat) : Nat → Nat → Nat → Nat
  | 0, _, _ => 0
  | n + 1, k, term => term + expSeries y n (k + 1) (term * y / 2 ^ fix / k)

/-- x squared n times, in fixed point. -/
def sqTimes : Nat → Nat → Nat
  | 0, x => x
  | n + 1, x => sqTimes n (x * x / 2 ^ fix)

/-- 2^f for f in [0, 1), in fixed point. -/
def exp2Frac (f : Nat) : Nat :=
  sqTimes 8 (expSeries (f * ln2Fix / 2 ^ fix / 2 ^ 8) 48 1 (2 ^ fix))

/-- n terms of the series of artanh z. -/
def artanhSeries (z2 : Nat) : Nat → Nat → Nat → Nat
  | 0, _, _ => 0
  | n + 1, k, zp => zp / k + artanhSeries z2 n (k + 2) (zp * z2 / 2 ^ fix)

/-- log2 of m in [1, 2), in fixed point: 2 artanh((m − 1) / (m + 1)) / ln 2. -/
def log2Frac (m : Nat) : Nat :=
  let z := (m - 2 ^ fix) * 2 ^ fix / (m + 2 ^ fix)
  2 * artanhSeries (z * z / 2 ^ fix) 140 1 z * 2 ^ fix / ln2Fix

/-- A value just above x × 2^−fix: the bit below it set, so that it rounds as an inexact number. -/
def sticky (neg : Bool) (x : Nat) (e : Int) : FVal := .fin neg (2 * x + 1) (e - 1)

/-- ⌊√n⌋, by its bits from 2^b down. -/
def isqrt (n : Nat) : Nat → Nat → Nat
  | 0, acc => acc
  | b + 1, acc => isqrt n b (if (acc + 2 ^ b) * (acc + 2 ^ b) ≤ n then acc + 2 ^ b else acc)

/-- 2^x (R160). -/
def exp2Val : FVal → FVal
  | .nan => .nan
  | .inf neg => if neg then .fin false 0 0 else .inf false
  | .fin neg m e =>
    if m = 0 then .fin false 1 0
    else if 0 ≤ e + m.log2 - 8 then (if neg then .fin false 1 (-600) else .inf false)
    else
      let x := alignTo (-fix) neg m e
      let n := x / ((2 ^ fix : Nat) : Int)
      let f := (x % ((2 ^ fix : Nat) : Int)).toNat
      if f = 0 then .fin false 1 n else sticky false (exp2Frac f) (n - fix)

/-- log2 x (R160). -/
def log2Val : FVal → FVal
  | .nan => .nan
  | .inf neg => if neg then .nan else .inf false
  | .fin neg m e =>
    if m = 0 then .inf true
    else if neg then .nan
    else
      let l := m.log2
      let k := e + l
      if m = 2 ^ l then .fin (decide (k < 0)) k.natAbs 0
      else
        let v : Int := k * ((2 ^ fix : Nat) : Int) + (log2Frac (m * 2 ^ (fix - l)) : Int)
        sticky (decide (v < 0)) (if v < 0 then v.natAbs - 1 else v.natAbs) (-fix)

/-- 1 / x (R160). -/
def rcpVal : FVal → FVal
  | .nan => .nan
  | .inf neg => .fin neg 0 0
  | .fin neg m e =>
    if m = 0 then .inf neg
    else
      let k := 2 * m.log2 + 40
      if 2 ^ k % m = 0 then .fin neg (2 ^ k / m) (-e - k) else sticky neg (2 ^ k / m) (-e - k)

/-- 1 / √x (R160). -/
def rsqVal : FVal → FVal
  | .nan => .nan
  | .inf neg => if neg then .nan else .fin false 0 0
  | .fin neg m e =>
    if m = 0 then .inf neg
    else if neg then .nan
    else
      let m2 := if e % 2 = 0 then m else 2 * m
      let e2 := if e % 2 = 0 then e else e - 1
      let k := m2.log2 + 40
      let r := isqrt (2 ^ (2 * k) / m2) (k + 1) 0
      if r * r * m2 = 2 ^ (2 * k) then .fin false r (-(e2 / 2) - k) else sticky false r (-(e2 / 2) - k)

/-- tanh x (R160): (1 − e^(−2|x|)) / (1 + e^(−2|x|)); below 2^−60 the value lies just under |x|, above 2^6 just under 1. -/
def tanhVal : FVal → FVal
  | .nan => .nan
  | .inf neg => .fin neg 1 0
  | .fin neg m e =>
    if m = 0 then .fin neg 0 0
    else if e + m.log2 < -60 then .fin neg (m * 2 ^ 100 - 1) (e - 100)
    else if 6 ≤ e + m.log2 then .fin neg (2 ^ 100 - 1) (-100)
    else
      let x := (alignTo (-fix) false m e).toNat
      let t := 2 * x * 2 ^ fix / ln2Fix
      let n := t / 2 ^ fix + 1
      let y := exp2Frac (n * 2 ^ fix - t) / 2 ^ n
      sticky neg ((2 ^ fix - y) * 2 ^ fix / (2 ^ fix + y)) (-fix)

/-! ### Bytes (R51) -/

/-- Bytes as a little-endian number. -/
def leNat : List Nat → Nat
  | [] => 0
  | b :: bs => b % 256 + 256 * leNat bs

/-- The n bytes of a number, little-endian. -/
def leBytes : Nat → Nat → List Nat
  | 0, _ => []
  | n + 1, x => x % 256 :: leBytes n (x / 256)

/-- The lanes of w bytes in a list of bytes: n of them. -/
def lanesOf (w : Nat) : Nat → List Nat → List Nat
  | 0, _ => []
  | n + 1, bs => leNat (bs.take w) :: lanesOf w n (bs.drop w)

/-- n lanes of a format in a list of bytes (R86, R91, R144). -/
def toLanes (f : Fmt) (n : Nat) (bs : List Nat) : List Nat :=
  match f with
  | .ln6 => (ln6Lanes bs).take n
  | f => lanesOf (laneBytes f) n bs

/-- The bytes of lanes of a format. -/
def fromLanes (f : Fmt) (xs : List Nat) : List Nat :=
  match f with
  | .ln6 => ln6Bytes xs
  | f => xs.flatMap (leBytes (laneBytes f))

end Sys2Proof.Machine
end

