-- ==== Sys2Proof/Machine/State.lean ====
section
/-! DEFINITION. Sys2Proof/Machine/State.lean: the whole state of a pod of Z9 modules, as plain data (INVENTORY.md, '## State').

Cores, clusters, dies and modules stand in tables by their global numbers: core K = 768 m + core number, cluster K / 8,
die K / 96, module m (R5, R11). A key that a table does not list has the value right after a module cold reset. -/

namespace Sys2Proof.Machine

/-! ### Tables -/

/-- A table: keys in rising order with their values. -/
abbrev Tbl (α : Type) := List (Nat × α)

/-- The value of a key; d where the table does not list it. -/
def Tbl.get {α : Type} (d : α) : Tbl α → Nat → α
  | [], _ => d
  | (j, v) :: t, k => if j = k then v else Tbl.get d t k

/-- The table with the value v at key k. -/
def Tbl.set {α : Type} : Tbl α → Nat → α → Tbl α
  | [], k, v => [(k, v)]
  | (j, w) :: t, k, v => if k < j then (k, v) :: (j, w) :: t else if j = k then (k, v) :: t else (j, w) :: Tbl.set t k v

/-- Bytes of memory by address, addresses rising, no byte equal to 0: an unlisted byte reads 0 (log 4). -/
abbrev Mem := List Host.Cell

/-! ### A core -/

/-- A deferred fault (R102): its cause and the address of the bundle that raised it. -/
structure Poison where
  cause : Nat
  addr : Nat
  deriving DecidableEq, Repr

/-- The checksum column of an accumulator row (R169): FP32 encodings and two marks. -/
structure ChkCol where
  cphi : Nat
  cplo : Nat
  cwhi : Nat
  cwlo : Nat
  unchk : Bool
  taint : Bool
  deriving DecidableEq, Repr

/-- The checksum column of a clean row (R169). -/
def ChkCol.clean : ChkCol := ⟨0, 0, 0, 0, false, false⟩

/-- A view register (R129). -/
structure View where
  base : Nat
  cls : Nat
  cfg : Bool
  rows : Nat
  cols : Nat
  tfmt : Fmt
  pitch : Nat
  deriving DecidableEq, Repr

/-- The unconfigured view: every field zero (R129). -/
def View.none : View := ⟨0, 0, false, 0, 0, .f32, 0⟩

/-- What the journal returns to its values from before a run-ahead (R253, R255, R139): the register files with their tags,
the register space with its tags and its dirty map, the checksum columns, the coverage walker and the request count. -/
structure Regs where
  /-- s0 to s63 (R103) and their tags -/
  s : Tbl DWord
  sTag : Tbl (Option Poison)
  /-- p0 to p15 (R104) and their tags -/
  p : Tbl Bool
  pTag : Tbl (Option Poison)
  /-- k0 to k7 (R105) and their tags -/
  k : Tbl Mask
  kTag : Tbl (Option Poison)
  /-- the register space (R125) -/
  mem : Mem
  /-- the dirty map by line (R126) -/
  dirty : Tbl Bool
  /-- the tags by 32-byte granule (R102) -/
  mTag : Tbl (Option Poison)
  /-- checksum columns by accumulator row (R169) -/
  chk : Tbl ChkCol
  /-- the coverage walker (R298) -/
  walker : Nat
  /-- the request count (R203) -/
  reqCount : Nat
  deriving DecidableEq, Repr

/-- The register files at the first bundle of a launch, less s1 (R106, R126). -/
def Regs.clean : Regs :=
  { s := [], sTag := [], p := [], pTag := [], k := [], kTag := [], mem := [], dirty := [], mTag := [], chk := [],
    walker := 0, reqCount := 0 }

/-- A loop entry (R27). -/
structure Loop where
  count : Nat
  start : Nat
  stop : Nat
  deriving DecidableEq, Repr

/-- What a load reads, and how: cells of a core-local range, gathered into pieces (R109, R137, R138). -/
structure LoadReq where
  /-- core-local byte ranges in the order in which their bytes are gathered: address and length -/
  src : List (Nat × Nat)
  /-- bytes that follow the gathered ones -/
  pad : List Nat
  /-- a column of an LN6 tile: the sources are groups of three bytes, of which this element is taken (R138); pad holds codes then -/
  pick : Option Nat
  deriving DecidableEq, Repr

/-- What a pending result does when it lands (R61, R62). -/
inductive Eff where
  /-- a scalar register -/
  | sreg (d : Nat) (v : DWord) (tag : Option Poison)
  /-- a predicate pair p(2n), p(2n+1): the result and its complement, or poison -/
  | pair (n : Nat) (c : Bool) (tag : Option Poison)
  /-- the bits of a lane mask that sel selects -/
  | kmask (n : Nat) (v sel : Mask) (tag : Option Poison)
  /-- bytes of the register space: pieces by address; a store of R62 holds the cycle of its bundle in program order -/
  | bytes (segs : List (Nat × List Nat)) (tag : Option Poison) (store : Option Nat)
  /-- LN6 lanes of a view at an address: the lanes that sel selects, merged at the landing (R147) -/
  | ln6 (base : Nat) (lanes : List Nat) (sel : Mask)
  /-- a load into a scalar register: its bytes are read at the cycle `readAt` -/
  | loadS (d : Nat) (r : LoadReq) (readAt : Nat)
  /-- the old value that an `amo` returns, once its update is performed (R183) -/
  | amoS (d : Nat) (v : Option DWord)
  /-- a load into the register space at an address -/
  | loadV (base : Nat) (r : LoadReq) (readAt : Nat)
  /-- a beat on an accumulator row (R170) -/
  | mfeed (row : Nat) (y : List Nat) (yP yW : Nat) (bad : Bool) (tag : Option Poison)
  /-- `mzero` of an accumulator row (R171) -/
  | mzero (row : Nat)
  /-- an accumulator row with its checksum column, as fixed when a trap or a freeze came between (R359, R369) -/
  | accRow (row : Nat) (bs : List Nat) (chk : ChkCol) (tag : Option Poison)
  /-- a store of the register space that the kitty has released: its pieces, its tag, the cycle of its bundle in program order, and the ranges
  that younger writes of the core have taken (R62, R254), marked where the write is of the run-ahead that stands -/
  | released (segs : List (Nat × List Nat)) (tag : Option Poison) (seq : Nat) (later : List (Bool × Nat × Nat))
  /-- a view register (R132) -/
  | view (cls idx : Nat) (v : View)
  /-- scale latches: edge B or A, block, column, value (R168) -/
  | latch (ws : List (Bool × Nat × Nat × Int))
  /-- the filling of a slot of a stream register that was reserved under a number (R190) -/
  | fill (q res : Nat) (entry : List Nat)
  /-- a system register (R112) -/
  | sysw (n : Nat) (v : Nat)
  /-- the region stack after `ctopen` or `ctclose` (R364) -/
  | regions (rs : List (Nat × Nat))
  /-- a release of a token window (R289) -/
  | rel (w : Nat) (slot : Int)
  deriving DecidableEq, Repr

/-- A result that has not landed: its visible cycle, the cycle and slot of its issue, and whether it belongs to a run-ahead. -/
structure Pend where
  vis : Nat
  seq : Nat
  slot : Nat
  ra : Bool
  eff : Eff
  deriving DecidableEq, Repr

/-- A store or update on the scratchpad, performed at T + 3 (R62, R183). -/
inductive StoreOp where
  | bytes (addr : Nat) (bs : List Nat)
  | amo (op : Nat) (sgn : Bool) (addr size x y d : Nat)
  deriving DecidableEq, Repr

/-- A pending store: the cycle of its performance, the cycle and slot of its issue. -/
structure PStore where
  perf : Nat
  seq : Nat
  slot : Nat
  op : StoreOp
  deriving DecidableEq, Repr

/-- A stream pattern (R185). -/
structure Pattern where
  base : Nat
  len : Nat
  cnt : List Nat
  stride : List Int
  deriving DecidableEq, Repr

/-- The state of an entry of a stream register (R189, R190, R194). -/
inductive EState where
  /-- a read entry that can be popped from a cycle on -/
  | ready (from_ : Nat)
  /-- a read entry that lies outside the space of its BASE -/
  | outside
  /-- a read entry whose fetch met an uncorrectable error -/
  | marked (from_ : Nat)
  /-- a write slot reserved under a number -/
  | reserved (res : Nat)
  /-- a write slot filled in a cycle -/
  | filled (at_ : Nat)
  /-- a slot popped or written in a cycle, free from the next on -/
  | gone (at_ : Nat)
  deriving DecidableEq, Repr

/-- An entry: its position in the pattern, its 512 bytes, its state. -/
structure SEntry where
  pos : Nat
  bs : List Nat
  st : EState
  deriving DecidableEq, Repr

/-- A bound stream register (R184, R189). -/
structure Stream where
  unit : Nat
  write : Bool
  pat : Pattern
  /-- the next position to fetch, or to push -/
  pos : Nat
  moves : Nat
  ops : Nat
  slots : List SEntry
  /-- entries popped in the current run-ahead, whose slots are not freed (R195) -/
  taken : Nat
  deriving DecidableEq, Repr

/-- The channel state words of R241. -/
structure Chan where
  enr : Bool
  outst : Bool
  failed : Bool
  place : Nat
  seq : Nat
  call : Nat
  deriving DecidableEq, Repr

/-- The words at the start of a launch (R106). -/
def Chan.zero : Chan := ⟨false, false, false, 0, 0, 0⟩

/-- What a request asks of an engine (R201, R207, R236, R318). -/
inductive ReqKind where
  | copy
  | atomic (op : Nat) (sgn : Bool) (size arg1 arg2 : Nat)
  | gemv (m n k : Nat) (args : List Nat)
  | graph (slot op : Nat)
  deriving DecidableEq, Repr

/-- One side of a request (R201). -/
inductive Side where
  | local_ (addr : Nat)
  | virt (member : Nat) (addr : Nat)
  | window (member key off : Nat)
  deriving DecidableEq, Repr

/-- A request (R201, R203). -/
structure Req where
  tag : Nat
  core : Nat
  issued : Nat
  kind : ReqKind
  src : Side
  dst : Side
  len : Nat
  cnt : List Nat
  sstr : List Int
  dstr : List Int
  shd : Bool
  pub : Bool
  bind : Nat
  /-- completion word: address and value -/
  cw : Option (Nat × Nat)
  deriving DecidableEq, Repr

/-- An entry of the kitty (R254): what a held syllable does at its release. -/
inductive KEntry where
  /-- a store: its cycle and slot, its pieces, the tag that they carry into the register space, and the ranges that younger writes of the
  core have taken since (R62, R109), marked where the write is of the run-ahead that stands -/
  | store (seq slot : Nat) (segs : List (Nat × List Nat)) (tag : Option Poison) (later : List (Bool × Nat × Nat))
  | req (r : Req) (journal : Nat)
  | pub (b : Nat)
  | rel (b : Nat)
  deriving DecidableEq, Repr

/-- A run-ahead (R251): the agreement it stems from and what a discard returns. -/
structure RunAhead where
  ch : Nat
  agree : Bool
  sx : Nat
  /-- the predicted arm's value: the arm of `abr`, the guess of `agree` -/
  guess : Nat
  signedCall : Bool
  /-- address of the agreement bundle -/
  addr : Nat
  /-- PC, reached by transfer, and loop stack of the fall-through arm -/
  fallPc : Nat
  fallXfer : Bool
  fallEnd : Bool
  loops : List Loop
  /-- the taken arm: its PC and its loop stack (R123, R247) -/
  takenPc : Nat
  takenLoops : List Loop
  idleTo : Nat
  shadow : Regs
  jbytes : Nat
  /-- kitty entries from before the run-ahead, which go on draining (R254) -/
  old : Nat
  /-- the count of bundle issues when the run-ahead began (R400) -/
  sched0 : Nat
  /-- the cycle of the agreement bundle, and its present slots as a completion mask (R257) -/
  issued : Nat
  mask : Nat
  /-- the call, where it has arrived before those of the other cores of a broadcast group (R41) -/
  call : Option Nat
  deriving DecidableEq, Repr

/-- A trace ring entry (R374). -/
structure Trace where
  kind : Nat
  sched : Nat
  addr : Nat
  data : Nat
  deriving DecidableEq, Repr

/-- Why a sequencer sleeps or waits after a bundle has issued (R32, R33). -/
inductive Wait where
  | none
  /-- `waita`: address, bytes, condition, comparand, address of its bundle, cycle of the first test, and the wake cycle once satisfied -/
  | waita (addr n : Nat) (c : WCond) (x bundle test : Nat) (wake : Option Nat)
  /-- `waitt`: target module time, and the wake cycle once it is reached -/
  | waitt (target : Nat) (wake : Option Nat)
  /-- `waittk`: generator, module time of the issue, and the wake cycle once it has fired -/
  | waittk (tg t0 : Nat) (wake : Option Nat)
  /-- `tokget`: window, destination, slot, the result as of the issue, the cycle of the sample, that of the result and the last in which it may come, and what a fault needs: the
  bundle's address, the mask of its other slots (none where the bundle has trapped in one of them, R358), the loop stack and the trace before it
  completed -/
  | tokget (w d slot word q L last addr : Nat) (mask : Option Nat) (loops : List Loop) (trace : List Trace)
  /-- `acq` of an exclusive binding: the cycle of the next attempt, if one is set -/
  | acq (b : Nat) (next : Option Nat)
  /-- `pub`: the binding whose fill count is awaited -/
  | pub (b : Nat)
  /-- `fence`: scope 0 core, 1 cluster, 2 module, and the cycle of issue -/
  | fence (scope t : Nat)
  /-- an agreement bundle whose fall-through arm is `end` (R118), or a stalled syllable's call -/
  | call
  /-- `cgload` or `cgrun` until its image or run block has been read (R326, R327): slot, address, cycle of issue, and what a fault needs:
  the bundle's address, the mask of its other slots as for `tokget`, the loop stack and the trace before it completed -/
  | graph (load : Bool) (slot ea t addr : Nat) (mask : Option Nat) (loops : List Loop) (trace : List Trace)
  deriving DecidableEq, Repr

/-- What the sequencer does. -/
inductive Seq where
  /-- no launch -/
  | off
  /-- filling the blocks of the entry bundle (R60) -/
  | entry
  | running
  /-- after `end`, before it retires (R118) -/
  | ending
  | retired
  /-- stopped by a fatal trap (R361), or by the failure of its launch -/
  | fatal
  /-- landed at a landing point: position and live data await the save (R31) -/
  | landed
  /-- saved; its task is not on the cluster -/
  | saved
  deriving DecidableEq, Repr

/-- A `rel` in the background (R214): binding, the cycle of its issue, and the cycle from which it may complete, once it is chosen. -/
structure RelOp where
  b : Nat
  issued : Nat
  due : Option Nat
  deriving DecidableEq, Repr

/-- A publish that waits for its swap (R211): binding, the earliest cycle, the number below which the requests lie whose fills it
awaits, the core, the request it belongs to, and whether the kitty waits on it. -/
structure PubOp where
  b : Nat
  from_ : Nat
  before : Nat
  core : Nat
  req : Option Nat
  kitty : Bool
  deriving DecidableEq, Repr

/-- What the X slot asks of the position when its bundle completes (R358): nothing, a transfer with its trace kind, a loop
push, a loop leave, an end. -/
inductive Ctl where
  | seq
  | jump (target kind : Nat) (hi : Bool)
  | push (l : Loop)
  | leave (n target : Nat)
  | endd
  deriving DecidableEq, Repr

/-- The position after a bundle: PC, reached by a transfer, loops, and whether the sequencer ends. -/
structure Next where
  pc : Nat
  xfer : Bool
  loops : List Loop
  ends : Bool
  deriving DecidableEq, Repr

/-- A bundle the lead of a broadcast group has sent (R39, R42): its address and words, whether it was reached by a transfer, the cycle in
which the core issues it if the group is not held, its IDLE, what the lead's X slot asked of the position, and whether the lead landed on
it (R43). -/
structure Sent where
  addr : Nat
  ws : List Nat
  xfer : Bool
  due : Nat
  idle : Nat
  ctl : Ctl
  land : Bool
  deriving DecidableEq, Repr

/-- One core (R26, R27). -/
structure Core where
  regs : Regs
  views : Tbl View
  pc : Nat
  /-- the PC was reached by a taken transfer, a loop-back or `rte` (R70) -/
  xfer : Bool
  /-- the loop stack, newest first (R27) -/
  loops : List Loop
  pend : List Pend
  stores : List PStore
  arrB : Tbl Nat
  arrSum : Tbl Nat
  sa : Tbl Int
  sb : Tbl Int
  streams : Tbl (Option Stream)
  /-- the next reservation number of a push -/
  nextRes : Nat
  handler : Bool
  /-- loop depth at trap entry (R362) -/
  trapDepth : Nat
  /-- the cycle T of the trap (R357) -/
  trapT : Nat
  /-- pending writes held by the trap, each with its delay (R359) -/
  held : List (Nat × Pend)
  /-- pending writes held by a freeze (R369) -/
  frozenHeld : List (Nat × Pend)
  /-- a freeze or a save has stopped the sequencer, and the last cycle in which it could issue (R369) -/
  frozen : Bool
  frozenAt : Nat
  /-- after a single step of a frozen core, the cycle of that step: its accesses are due in steps from then on (R372) -/
  stepT : Option Nat
  /-- at a landing point, the position after it (R343) -/
  resumeAt : Option Next
  /-- the position to which `rte` returns after an agreement fault that a call raised (R257) -/
  callAt : Option Next
  /-- the completion mask under which `rte` reissues the trapped bundle (R362) -/
  replay : Option Nat
  regions : List (Nat × Nat)
  trapcause : Nat
  trapaddr : Nat
  trapdetail : Nat
  trapmask : Nat
  tvec : Nat
  sched : Nat
  mtol : Nat
  evsel : Tbl Nat
  evcnt : Tbl Nat
  chans : Tbl Chan
  ra : Option RunAhead
  kitty : List KEntry
  /-- journal bytes of held requests after a kept call (R253) -/
  kittyBytes : Nat
  /-- the cycle from which the kitty drains (R254), and the last cycle of a stall of R252 -/
  kittyFrom : Nat
  raStall : Nat
  /-- one more than the last cycle of a stall on a stream register (R404) -/
  strStall : Nat
  heldBind : List Nat
  rels : List RelOp
  wait : Wait
  /-- the stall watchdog's count (R35) -/
  wd : Nat
  fcache : List Nat
  /-- blocks under way to the fetch cache with their cycle (R60) -/
  fills : List (Nat × Nat)
  seq : Seq
  /-- the first cycle in which the next bundle may issue (R58) -/
  nextIssue : Nat
  trace : List Trace
  /-- asynchronous traps that wait: cause and detail (R360) -/
  async : List (Nat × Nat)
  /-- a fatal trap kept for resume (R361) -/
  fatalCause : Option (Nat × Nat)
  /-- the live-set descriptor of the landing point reached (R341); none where the core landed with its group under a guard of 0 (R43) -/
  liveAddr : Option Nat
  /-- the completed slots of the landing bundle, E aside, for a live fault (R343) -/
  liveMask : Nat
  /-- the bundles sent to the core in broadcast mode that it has not issued -/
  line : List Sent
  /-- events of this cycle by source, counted from the next cycle on (R399) -/
  evnew : List (Nat × Nat)
  /-- the cycle of the last landing, and the lines it made dirty (R136) -/
  fresh : Nat × List Nat
  deriving DecidableEq, Repr

/-- A core right after reset: the values of the start of a launch where the spec gives no reset value (log 6). -/
def Core.reset : Core :=
  { regs := .clean, views := [], pc := 0, xfer := false, loops := [], pend := [], stores := [], arrB := [], arrSum := [],
    sa := [], sb := [], streams := [], nextRes := 0, handler := false, trapDepth := 0, trapT := 0, held := [], frozenHeld := [], frozen := false, frozenAt := 0, stepT := .none,
    resumeAt := .none, callAt := .none, replay := .none, regions := [], trapcause := 0, trapaddr := 0, trapdetail := 0, trapmask := 0, tvec := 0, sched := 0,
    mtol := CfgRecords.initial.mtol, evsel := [], evcnt := [], chans := [], ra := .none, kitty := [], kittyBytes := 0, kittyFrom := 0, raStall := 0, strStall := 0,
    heldBind := [], rels := [], wait := .none, wd := 0, fcache := [], fills := [], seq := .off, nextIssue := 0,
    trace := [], async := [], fatalCause := .none, liveAddr := .none, liveMask := 0, line := [], evnew := [], fresh := (0, []) }

/-! ### Engines and clusters -/

/-- A page fault that pauses a request (R230): member, virtual address, write. -/
structure PFault where
  member : Nat
  va : Nat
  write : Bool
  /-- the retried walk has succeeded: ready to resume (R231) -/
  ready : Bool
  deriving DecidableEq, Repr

/-- The translation of a page for a chunk (R229): for a write, the virtual page with its size, module and physical address. -/
structure PageMap where
  write : Bool
  va : Nat
  size : Nat
  m : Nat
  pa : Nat
  job : Nat
  member : Nat
  deriving DecidableEq, Repr

/-- A request in an engine's queue (R200): progress in chunks (R205). -/
structure QReq where
  id : Nat
  /-- the launch of the issuing core: a paused request stays in its queue while its task is saved (R230) -/
  uid : Nat
  r : Req
  /-- the next chunk not started -/
  next : Nat
  /-- chunks started and not yet performed -/
  active : Nat
  /-- chunks performed -/
  done : Nat
  /-- STATUS of R204; 0 while nothing has failed -/
  status : Nat
  paused : Option PFault
  /-- pinned frames: module and granule (R228) -/
  pins : List (Nat × Nat)
  /-- the publish of a PUB request has taken place (R211) -/
  published : Bool
  /-- the completion word has been handed to the engine's writes -/
  cwSent : Bool
  /-- the completion word has been performed -/
  cwDone : Bool
  /-- at its acceptance its engine's queue held no other unstarted chunk, and it has one chunk: R313 may bound it -/
  bounded : Bool
  /-- of a graph's FSEND, what its chunks have read, by place; of an FRECV and a `gemv`, their translations -/
  acc : List (Nat × List Nat)
  maps : List PageMap
  deriving DecidableEq, Repr

/-- The chunk in hand of an engine (R205): its request, its place in the pattern, and the bytes moved. -/
structure Chunk where
  id : Nat
  /-- engine whose queue holds the request, and the request -/
  home : Nat
  req : Nat
  src : Nat
  dst : Nat
  len : Nat
  off : Nat
  /-- bytes read and not yet written -/
  buf : Option (List Nat)
  /-- an access in flight is awaited -/
  flight : Bool
  maps : List PageMap
  deriving DecidableEq, Repr

/-- A TLB entry (R226). -/
structure Tlb where
  job : Nat
  member : Nat
  /-- virtual address of the page, and its size: 65,536 or 2,097,152 -/
  va : Nat
  size : Nat
  pa : Nat
  rd : Bool
  wr : Bool
  dirty : Bool
  /-- physical address of the leaf entry -/
  pte : Nat
  deriving DecidableEq, Repr

/-- What follows a write through an engine once it has been performed (R181). -/
inductive After where
  | nothing
  /-- the completion word of a request (R204): home engine and request -/
  | finish (e req : Nat)
  /-- the completion record of a graph run, then its word (R323) -/
  | graph (slot step : Nat)
  /-- the last write of a window chunk: the flight it belongs to -/
  | chunk (flight : Nat)
  /-- the bytes at SADDR of an atomic that another engine has taken: that engine (R179) -/
  | piece (thief : Nat)
  deriving DecidableEq, Repr

/-- A write due through an engine, other than its chunk in hand (R181): class 1 to 6, order within the class. -/
structure DueWrite where
  engine : Nat
  cls : Nat
  ord : Nat
  addr : Nat
  bs : List Nat
  /-- the write goes to the shadow of its buffer pair (R210) -/
  shadow : Bool
  after : After
  deriving DecidableEq, Repr

/-- An entry of the binding table (R208). -/
structure Binding where
  pair : Bool
  win : Bool
  excl : Bool
  virt : Bool
  wkey : Nat
  base : Nat
  size : Nat
  alt : Nat
  sync : Nat
  deriving DecidableEq, Repr

/-- An operation of a graph image (R317). -/
structure GOp where
  kind : Nat
  ffmt : Nat
  ord : Nat
  cnt : Nat
  thr : Nat
  icnt : Nat
  ien : Bool
  rmt : Bool
  inc : Nat
  mem : Nat
  fm : Nat
  nc : Nat
  sb : Nat
  db : Nat
  dop : Nat
  len : Nat
  soff : Nat
  doff : Nat
  deriving DecidableEq, Repr

/-- The state of an operation in a run (R315). -/
inductive OpState where
  | armed | fired | completed
  deriving DecidableEq, Repr

/-- A graph slot (R315, R318): image, run, counters, operations, run block, and what the record reports (R324). -/
structure GSlot where
  ops : List GOp
  ncnt : Nat
  run : Nat
  active : Bool
  counters : List Nat
  states : List OpState
  bases : List (Bool × Nat)
  recAddr : Nat
  cwaddr : Nat
  cwval : Nat
  irq : Nat
  irqen : Bool
  core : Nat
  failed : Option (Nat × Nat)
  dead : Bool
  moved : Bool
  sig : Nat
  /-- contributors applied, by operation: member numbers -/
  applied : Tbl (List Nat)
  finishing : Bool
  deriving DecidableEq, Repr

/-- The state of a task (R336). -/
inductive TaskState where
  | none | loading | running | landing | saving | saved | restoring | recon | done
  deriving DecidableEq, Repr

/-- What the launch unit set for a cluster at LOADING (R46, R38, R44): constant during the launch. -/
structure Ctx where
  uid : Nat
  lid : Nat
  job : Nat
  member : Nat
  nmembers : Nat
  lcl : Nat
  ncl : Nat
  nranks : Nat
  bcast : Bool
  skew : List Nat
  level : Nat
  code : Nat
  wdog : Nat
  arg : Nat
  entry : Nat
  cvdesc : Nat
  cvctl : Option Nat
  deriving DecidableEq, Repr

/-- No launch: every register of R46 reads 0 (R113). -/
def Ctx.none : Ctx :=
  { uid := 0, lid := 0, job := 0, member := 0, nmembers := 0, lcl := 0, ncl := 0, nranks := 0, bcast := false, skew := [],
    level := 0, code := 0, wdog := 26, arg := 0, entry := 0, cvdesc := 0, cvctl := .none }

/-- The coverage descriptor as read at launch (R296): GX, GY, BR and BC as the fields hold them, and m of R298. -/
structure CvDesc where
  gx : Nat
  gy : Nat
  br : Nat
  bc : Nat
  fmt : Fmt
  rmode : Bool
  sen : Bool
  obase : Nat
  apitch : Nat
  mexp : Nat
  deriving DecidableEq, Repr

/-- A byte of a bound virtual region that the cluster's engines may hold (R212). -/
structure Cached where
  b : Nat
  member : Nat
  va : Nat
  v : Nat
  deriving DecidableEq, Repr

/-- One cluster (R37). -/
structure Cluster where
  scratch : Mem
  /-- the scratchpad as it stood when the launch began, for R29 -/
  codeOld : Mem
  bindings : List Binding
  /-- bindings whose ALT half is the visible one (R210) -/
  swapped : Tbl Bool
  pubs : List PubOp
  queues : Tbl (List QReq)
  /-- fired graph operations that wait for a place in the queue of an engine, oldest first: engine and request (R200, R319) -/
  backlog : List (Nat × QReq)
  chunks : Tbl (Option Chunk)
  tlbs : Tbl (List Tlb)
  due : List DueWrite
  cache : List Cached
  graphs : Tbl (Option GSlot)
  ctx : Ctx
  task : TaskState
  preempt : Bool
  /-- module time until which no pre-emption request goes to the task (R335) -/
  holdoff : Nat
  /-- a page fault asks for a whole-context save (R230) -/
  wholeSave : Bool
  cv : Option CvDesc
  /-- the next block of the reconstruction phase (R300) -/
  recon : Nat
  /-- the cycle from which that block may be done, once chosen -/
  reconAt : Option Nat
  /-- broadcast: bundles sent, newest first (R42: at least 16) -/
  history : List Sent
  /-- broadcast: the lead sends no further bundle (R42, R43) -/
  stopped : Bool
  part : Nat
  /-- the module time at which a scrub ends (R350), and the partition that the cluster takes then -/
  scrub : Option Nat
  newPart : Nat
  evsel : Tbl Nat
  evcnt : Tbl Nat
  evrem : Tbl Nat
  /-- one more than the last cycle chosen for a power hold (R404) -/
  hold : Nat
  /-- one more than the cycle of the last wake of one of its sequencers (R404) -/
  lastWake : Nat
  failedCopy : Bool
  /-- the last cycle with a write into the scratchpad, and what was written in it (R180, R400) -/
  wrote : Nat × List (Nat × Nat)
  deriving DecidableEq, Repr

/-- A cluster right after reset (log 4, log 6). -/
def Cluster.reset : Cluster :=
  { scratch := [], codeOld := [], bindings := [], swapped := [], pubs := [], queues := [], backlog := [], chunks := [], tlbs := [], due := [],
    cache := [], graphs := [], ctx := .none, task := .none, preempt := false, holdoff := 0, wholeSave := false, cv := .none,
    recon := 0, reconAt := .none, history := [], stopped := false, part := 0, scrub := .none, newPart := 0, evsel := [], evcnt := [], evrem := [], hold := 0, lastWake := 0,
    failedCopy := false, wrote := (0, []) }

/-! ### Dies -/

/-- The power state of a die (R403). -/
inductive DiePower where
  | active | idle | off
  deriving DecidableEq, Repr

/-- One compute die. -/
structure Die where
  weights : Mem
  /-- WSOWN (R351) -/
  owner : Nat
  /-- the module time at which a scrub of the store ends (R351) -/
  scrub : Option Nat
  /-- bank groups in refresh, with the time of the die's copy at which the window ends (R198) -/
  refresh : Tbl Nat
  /-- offset of its copy of module time, in ns: -1, 0 or 1 (R265) -/
  copyOff : Int
  power : DiePower
  /-- module time at which a die that is powered up is ready; 0 while it is not (R403) -/
  powerAt : Nat
  /-- a weight-store packet is being served (R330) -/
  writing : Bool
  /-- the protocol versions its firmware accepts, and whether it is in service (R392) -/
  fwLo : Nat
  fwHi : Nat
  inService : Bool
  deriving DecidableEq, Repr

/-- A die right after reset (log 4, log 8): at module time 0 the window of bank group 0 is open, PHASE being 0 (R198, log 5). -/
def Die.reset : Die :=
  { weights := [], owner := 0, scrub := .none, refresh := [(0, 800)], copyOff := 0, power := .idle, powerAt := 0, writing := false,
    fwLo := 0, fwHi := 0, inService := true }

/-! ### Modules -/

/-- The discipline state (R272). -/
inductive Disc where
  | free | acquiring | locked | holdover
  deriving DecidableEq, Repr

/-- The time unit (R265 to R272). Time is kept in units of 1 / (19 × 10^9) ns, so that a core cycle of 10/19 ns and a rate
adjustment in parts per 10^9 are exact. -/
structure TimeUnit where
  now : Nat
  /-- rate adjustment in parts per 10^9 -/
  adj : Int
  disc : Disc
  master : Master
  /-- the port of the master, the module that it is, if a Z9 module, and what its Announce said (R270) -/
  mport : Nat
  mfrom : Option Nat
  parent : Option Announce
  /-- the last Announce of each port, while it counts for master selection (R270) -/
  records : Tbl Announce
  /-- module times of the last two Announces of each port's present sender, and of the last from the master, or, without one, of the time since which
  the unit listens (R270, R272) -/
  heard : Tbl (Nat × Option Nat)
  heardAt : Nat
  /-- module time of the last entry into LOCKED (R273) -/
  lockedAt : Option Nat
  /-- module time of the last Announce and the last Sync that the module sent (R270), and of the last Sync that counted as an interval (R272, R273) -/
  lastAnn : Nat
  lastSent : Nat
  lastGood : Nat
  /-- |offset| at the last Sync, in ns, and the module time of that Sync -/
  offset : Nat
  lastSync : Nat
  good : Nat
  heldSince : Nat
  tmcfg : Nat
  tmport : Nat
  /-- measured peer delays by port, in ns (R270) -/
  delays : Tbl Nat
  deriving DecidableEq, Repr

/-- A tick generator (R275). -/
structure Tick where
  en : Bool
  kind : Nat
  gate : Bool
  gwin : Nat
  part : Nat
  job : Nat
  period : Nat
  phase : Nat
  waddr : Nat
  wcl : Nat
  queue : Nat
  lpkt : Nat
  fcnt : Nat
  miss : Nat
  skip : Nat
  /-- the next firing -/
  k : Nat
  /-- module time f(k) of the newest firing delivered (R278) -/
  last : Option Nat
  deriving DecidableEq, Repr

/-- Every register 0 (R275). -/
def Tick.reset : Tick := ⟨false, 0, false, 0, 0, 0, 0, 0, 0, 0, 0, 0, 0, 0, 0, 0, none⟩

/-- The status of a slot (R285, R287). -/
inductive SlotStatus where
  | open_ | present | substituted | missing | late
  deriving DecidableEq, Repr

/-- A slot of a token window (R283, R284). -/
structure WSlot where
  s : Int
  cached : Bool
  status : SlotStatus
  /-- the token held, or what the close gave: stamp, arrival, payload -/
  tok : Option (Nat × Nat × List Nat)
  deriving DecidableEq, Repr

/-- A token window (R279 to R289). -/
structure Window where
  job : Nat
  cluster : Nat
  pol : Nat
  nopen : Nat
  ncache : Nat
  z : Nat
  depth : Nat
  origin : Nat
  period : Nat
  guard : Nat
  cbase : Nat
  sbase : Nat
  sinkva : Nat
  h0 : Int
  h : Int
  /-- REL: the greatest slot released, none at first -/
  rel : Option Int
  slots : List WSlot
  /-- the slots that closed MISSING (R277) -/
  missing : List Int
  pres : Nat
  subst : Nat
  miss : Nat
  late : Nat
  early : Nat
  dup : Nat
  stale : Nat
  badst : Nat
  ovr : Nat
  /-- the translations of its sink pages, whose frames it pins -/
  maps : List PageMap
  deriving DecidableEq, Repr

/-- A coverage controller (R305). -/
structure CvCtl where
  en : Bool
  umode : Bool
  level : Nat
  lmin : Nat
  lmax : Nat
  mexp : Nat
  uexp : Nat
  below : Bool
  job : Nat
  part : Nat
  low : Nat
  high : Nat
  sse : Nat
  nel : Nat
  nsmp : Nat
  ninst : Nat
  ndn : Nat
  nup : Nat
  orph : Nat
  deriving DecidableEq, Repr

/-- Every register 0 (R305). -/
def CvCtl.reset : CvCtl := ⟨false, false, 0, 0, 0, 0, 0, false, 0, 0, 0, 0, 0, 0, 0, 0, 0, 0, 0⟩

/-- A launch packet taken into a queue (R330): its sixteen words, whether a core or a generator submitted it, and whether its job has been removed
since (R354). -/
structure Packet where
  words : List Nat
  device : Bool
  gone : Bool
  deriving DecidableEq, Repr

/-- A queue (R333, R384). -/
structure Queue where
  qbase : Nat
  qlog : Nat
  qcbase : Nat
  qroot : Nat
  go : Bool
  err : Bool
  flt : Bool
  irqen : Bool
  irqv : Nat
  qpos : Nat
  qcpos : Nat
  qcack : Nat
  en : Bool
  part : Nat
  lwdog : Nat
  age : Nat
  /-- repeated reads of the packet at QPOS (R387) -/
  retries : Nat
  /-- the queue pauses, until GO is written (R387, R389) -/
  pause : Bool
  /-- module time of the next poll or retry -/
  poll : Nat
  pkts : List Packet
  /-- completion records that wait for their write (R388, R389): the launch, if clusters wait on it -/
  comps : List (Nat × List Nat)
  deriving DecidableEq, Repr

/-- A queue right after reset (R333, R384). -/
def Queue.reset : Queue :=
  { qbase := 0, qlog := 0, qcbase := 0, qroot := 0, go := false, err := false, flt := false, irqen := false, irqv := 0,
    qpos := 0, qcpos := 0, qcack := 0, en := false, part := 0, lwdog := 34, age := 10, retries := 0, pause := false, poll := 0, pkts := [],
    comps := [] }

/-- The state of a launch (R336). -/
inductive LState where
  | waiting | ready | loading | running | recon | failing | done
  deriving DecidableEq, Repr

/-- A launch from the head of its queue to its completion record (R336). -/
structure Launch where
  uid : Nat
  queue : Nat
  words : List Nat
  tmpl : List Nat
  state : LState
  level : Nat
  clusters : List Nat
  /-- module time since which it is eligible (R334), of LOADING (R347), and of the first bundle (R332) -/
  eligible : Nat
  loadedAt : Nat
  tstart : Option Nat
  /-- the time for which its job had been frozen at LOADING -/
  frozen : Nat
  nsave : Nat
  status : Nat
  cause : Nat
  sse : Nat
  nel : Nat
  nsmp : Nat
  /-- module time of the next test of DEPW (R337); of a weight-store write under way, the cycle in which its copy ends -/
  depTest : Nat
  /-- DEPL and DEPW have been met at a test (R337) -/
  depMet : Bool
  wordMet : Bool
  deriving DecidableEq, Repr

/-- A saved task (R344, R346): what its frame holds. -/
structure Saved where
  uid : Nat
  cluster : Nat
  part : Nat
  frame : Nat
  whole : Bool
  hyper : Bool
  /-- the cores as the restore gives them back -/
  cores : Tbl Core
  /-- scratchpad ranges of a save at a landing point -/
  ranges : List (Nat × List Nat)
  /-- the cluster at the save: context, binding table, graph slots, publishes; for a whole-context save its scratchpad -/
  cl : Cluster
  /-- module time since which it is restorable (R345); 2^64 while one of its paused requests is not ready to resume -/
  since : Nat
  /-- bytes of its frame (R344) -/
  size : Nat
  /-- the uncorrectable words among what it holds (R394) -/
  marks : List (Nat × Nat × Nat)
  deriving DecidableEq, Repr

/-- A dump as written to its partition's dump area (R377): what its header and its records hold of the cores. -/
structure Dump where
  cause : Nat
  detail : Nat
  job : Nat
  lid : Nat
  member : Nat
  coreNo : Nat
  time : Nat
  bytes : Nat
  cores : Tbl Core
  deriving DecidableEq, Repr

/-- A partition's registers (R348, R376, R352). -/
structure Part where
  frbase : Nat
  frsize : Nat
  nframes : Nat
  used : List Nat
  abandon : Nat
  dbase : Nat
  dsize : Nat
  ndump : Nat
  trunc : Bool
  dumps : List Dump
  act : Bool
  dir : Bool
  frame : Nat
  lcl : Nat
  offset : Nat
  preempted : Bool
  /-- what the save engine works on (R352): the launch, whether the save is a whole-context save, the bytes of its frame, and the cycle in which the
  next 4,096 bytes are done -/
  uid : Nat
  whole : Bool
  size : Nat
  due : Nat
  deriving DecidableEq, Repr

/-- A partition right after reset (R348, R376, R352). -/
def Part.reset : Part := ⟨0, 0, 0, [], 0, 0, 0, 0, false, [], false, false, 0, 0, 0, false, 0, false, 0, 0⟩

/-- The state of the halt wave on a member (R366, R368). -/
inductive WaveState where
  | running | freezing | frozen | stepping | resuming
  deriving DecidableEq, Repr

/-- The cause record of R370. -/
structure CauseRec where
  cause : Nat
  count : Nat
  detail : Nat
  member : Nat
  core : Nat
  addr : Nat
  time : Nat
  sched : Nat
  deriving DecidableEq, Repr

/-- The record right after reset. -/
def CauseRec.zero : CauseRec := ⟨0, 0, 0, 0, 0, 0, 0, 0⟩

/-- A job slot: HWCTL and the cause record (R366, R370). -/
structure JobSlot where
  arm : Bool
  cmask : Nat
  state : WaveState
  job : Nat
  causeRec : CauseRec
  /-- the slot carries a job -/
  used : Bool
  /-- module time at which the freeze reached the member, and the time frozen before it -/
  since : Nat
  total : Nat
  /-- a trigger held while the wave resumes (R368) -/
  pending : Option CauseRec
  /-- module time Q of a resume, and the last stage released (R373) -/
  q : Nat
  stage : Nat
  /-- calls held during the freeze (R262): channel, core and record -/
  calls : List (Nat × Nat × Nat)
  /-- the cycle in which the root accepted the trigger (R368) -/
  accepted : Nat
  /-- the cycle in which the freeze reached the member (R369) -/
  stopAt : Nat
  /-- the freeze has reached the member: sequencers, engines and receivers of the job have stopped, up to the stage released -/
  stopped : Bool
  /-- the accepted cause record in a freeze signal of the root that has not reached the member (R368) -/
  incoming : Option CauseRec
  deriving DecidableEq, Repr

/-- A job slot right after reset. -/
def JobSlot.reset : JobSlot := ⟨false, 0, .running, 0, .zero, false, 0, 0, .none, 0, 0, [], 0, 0, false, .none⟩

/-- A frame-table entry (R228). -/
structure Frame where
  owner : Nat
  pin : Nat
  swap : Bool
  deriving DecidableEq, Repr

/-- What a swap engine does (R232, R233): its command, the cycle at which the exchange ends, the accesses parked in order. -/
structure Swap where
  words : List Nat
  ends : Nat
  park : List Nat
  deriving DecidableEq, Repr

/-- A contribution on its way, in the pending table or in the fold buffer (R320 to R322). It reaches the slot of the same number on the
cluster that runs the same logical cluster of the job (log 12). -/
structure Contribution where
  job : Nat
  lcl : Nat
  slot : Nat
  run : Nat
  op : Nat
  member : Nat
  bs : List Nat
  /-- where the sender's operation completes: cluster, slot, operation -/
  from_ : Nat × Nat × Nat
  deriving DecidableEq, Repr

/-- A contribution of which bytes have arrived (R321): the contribution without its bytes, its length, and the pieces by offset. -/
structure Partial where
  k : Contribution
  len : Nat
  parts : List (Nat × List Nat)
  deriving DecidableEq, Repr

/-- A graph signal on its way or held (R320, R322). -/
structure Signal where
  job : Nat
  lcl : Nat
  slot : Nat
  run : Nat
  cnt : Nat
  inc : Nat
  from_ : Nat × Nat × Nat
  deriving DecidableEq, Repr

/-- A message to the host die (R382, R388), in the order of issue. -/
inductive HostMsg where
  | interrupt (m vec part arg : Nat)
  /-- NOTIFY with its operand (R353) -/
  | notify (m part arg : Nat)
  | answer (m : Nat) (status : Nat) (data : List Nat)
  | pageFault (m part : Nat) (words : List Nat)
  | abandoned (m part uid cluster : Nat)
  | swapDone (m status : Nat)
  | bootFailed (m : Nat)
  /-- the report of a step (R372): core, ISSUED, PC, `sys.sched`, the pending writes with their delays -/
  | step (m core : Nat) (issued : Bool) (pc sched : Nat) (pending : List (List Nat))
  /-- what a register read returns (R383): module, offset, value -/
  | register (m off v : Nat)
  /-- a PTP message on the host port (R270) -/
  | ptp (m : Nat) (x : PtpMsg)
  | fatal (m : Nat)
  deriving DecidableEq, Repr

/-- An event of the agenda: the place at which it happens, and the event. -/
structure Move where
  at_ : Nat
  i : Instr
  deriving DecidableEq, Repr

/-- One module. -/
structure Module where
  up : Bool
  standby : Bool
  time : TimeUnit
  hbm : Mem
  host : Mem
  /-- words marked uncorrectable in HBM, by line (R394) -/
  marks : List Nat
  frames : Tbl Frame
  swaps : Tbl (Option Swap)
  /-- shoot-downs that wait for the chunks translated through the entries they dropped (R227): operands and chunk numbers -/
  shoots : List (List Nat × List Nat)
  queues : Tbl Queue
  launches : List Launch
  nextUid : Nat
  /-- completions by job: identifier and status, newest first (R337) -/
  recent : List (Nat × Nat × Nat)
  /-- the reservations that stand, the oldest first: launch, and 0 or one more than the cluster of its saved task; and the queue last served by
  effective priority (R334) -/
  reserved : List (Nat × Nat)
  served : Tbl Nat
  saves : List Saved
  slots : Tbl JobSlot
  ticks : Tbl Tick
  windows : Tbl (Option Window)
  ctls : Tbl CvCtl
  parts : Tbl Part
  contribs : List Contribution
  partials : List Partial
  signals : List Signal
  fab : List (Nat × Nat × Nat × Nat × Nat × List Nat)
  /-- Dolsel ports down, with the module time since which they are (R394) -/
  down : Tbl Nat
  act : Bool
  sbst : Nat
  vact : Nat
  vsby : Nat
  tver : Nat
  /-- the module time until which a takeover holds operations (R391), and what it holds, in the order of arrival (R382) -/
  fwPause : Nat
  fwHeld : List Move
  /-- the die whose controller is being updated, whether the updates have halted, the protocol versions that the I/O die accepts, the common version
  of each die's pair with it, and the base dies out of service (R392; log 109) -/
  updating : Option Nat
  updHalted : Bool
  ioLo : Nat
  ioHi : Nat
  pairs : Tbl Nat
  baseOut : List Nat
  /-- page-fault records that wait for space in the fault ring of their partition, the oldest first (R355) -/
  faultWait : List (Nat × List Nat)
  errs : Tbl Nat
  shared : Tbl Nat
  evsel : Tbl Nat
  evcnt : Tbl Nat
  /-- bytes counted that do not yet make 64, by source (R400) -/
  evrem : Tbl Nat
  limit : Nat
  wlog : Nat
  erasures : Tbl (List Nat)
  repaired : List Nat
  /-- the symbol positions in error of each HBM line that its code still corrects (R393), by line, and the corrections of the last 10^12 ns by rank,
  position and module time (R395) -/
  symErrs : Tbl (List Nat)
  corrected : List (Nat × Nat × Nat)
  /-- granules that a swap has moved away (R395) -/
  vacated : List Nat
  /-- contributions in the fold buffers that an uncorrectable error has hit, without their bytes (R394) -/
  badFolds : List Contribution
  /-- the patrol's interval of 2^46 ns and what it has read in it of the places in error (R396) -/
  patrolAt : Nat
  patrolled : List BitLoc
  /-- module time at which the module leaves STANDBY; 0 while it does not (R403) -/
  exitAt : Nat
  cfg : CfgRecords
  deriving DecidableEq, Repr

/-- A module right after a cold reset (R402): the fields whose Reset is cfg hold what its records hold (log 5). -/
def Module.reset : Module :=
  { up := true, standby := false,
    time := { now := 0, adj := 0, disc := .free, master := .none, mport := 0, mfrom := .none, parent := .none, records := [], heard := [], heardAt := 0, lockedAt := .none, lastAnn := 0, lastSent := 0, lastGood := 0, offset := 0, lastSync := 0, good := 0, heldSince := 0,
              tmcfg := CfgRecords.initial.tmcfg, tmport := CfgRecords.initial.tmport, delays := [] },
    hbm := [], host := [], marks := [], frames := [], swaps := [], shoots := [], queues := [], launches := [], nextUid := 1, recent := [],
    reserved := [], served := [], saves := [], slots := [], ticks := [], windows := [], ctls := [], parts := [],
    contribs := [], partials := [], signals := [], fab := [], down := [], act := false, sbst := 0, vact := CfgRecords.initial.vact, vsby := 0,
    tver := CfgRecords.initial.tver, fwPause := 0, fwHeld := [], updating := .none, updHalted := false, ioLo := 0, ioHi := 0, pairs := [], baseOut := [],
    faultWait := [], errs := [], shared := [], evsel := [], evcnt := [], evrem := [],
    limit := CfgRecords.initial.limit, wlog := CfgRecords.initial.wlog, erasures := [], repaired := [], symErrs := [], corrected := [], vacated := [], badFolds := [],
    patrolAt := 0, patrolled := [], exitAt := 0,
    cfg := .initial }

/-! ### Jobs -/

/-- A channel declaration (R239). -/
structure Decl where
  ch : Nat
  bop : Nat
  late : Nat
  shrink : Bool
  npm : Nat
  absv : Nat
  deadline : Nat
  deriving DecidableEq, Repr

/-- A place of a channel on a member module (R238): 1 held, 2 finished; whose it is; the trick from which it is expected. -/
structure Place where
  member : Nat
  place : Nat
  finished : Bool
  core : Nat
  uid : Nat
  /-- it was empty when its core took it: it is expected all along (R242) -/
  fresh : Bool
  from_ : Option Nat
  deriving DecidableEq, Repr

/-- A bid in a trick: core and launch, value, whether it counts with ABSV (R246). -/
structure Bid where
  core : Nat
  uid : Nat
  member : Nat
  v : Int
  absv : Bool
  deriving DecidableEq, Repr

/-- The open or gathering trick of a channel, and the history (R245, R246). -/
structure Channel where
  n : Nat
  gather : Bool
  /-- signature: 0 for `abr`, 1 + op for `agree` -/
  sig : Nat
  bids : List Bid
  t0 : Nat
  frozen0 : Nat
  mism : Bool
  dead : Bool
  failed : Bool
  /-- trick numbers and records, newest first, at most 64 -/
  history : List (Nat × Nat)
  places : List Place
  deriving DecidableEq, Repr

/-- A channel at job creation. -/
def Channel.fresh : Channel := ⟨0, false, 0, [], 0, 0, false, false, false, [], []⟩

/-- A job (R48, R221, R238). -/
structure Job where
  id : Nat
  members : List Nat
  /-- translation roots by member number; a member without one does not hold the job (R221) -/
  roots : Tbl (Option Nat)
  part : Tbl Nat
  decls : List Decl
  chans : Tbl Channel
  dead : List Nat
  deriving DecidableEq, Repr

/-! ### Items in flight -/

/-- An access to HBM or host memory, or its return (R215). -/
inductive AccOp where
  | read (n : Nat)
  | write (bs : List Nat)
  deriving DecidableEq, Repr

/-- What is in flight. -/
inductive FKind where
  /-- an access of an engine's chunk: module, physical address, engine that waits -/
  | access (m pa : Nat) (op : AccOp) (c e : Nat)
  | atomic (m pa : Nat) (c e req : Nat)
  | window (member job key off : Nat) (bs : List Nat) (shd : Bool) (c e : Nat)
  | bid (job ch core uid : Nat) (joining : Bool) (seq sig : Nat) (v : Int) (t0 : Nat)
  | call (job ch core uid record trick : Nat)
  | signal (m : Nat) (g : Signal)
  /-- a contribution without bytes (R325) -/
  | contribution (m : Nat) (g : Contribution)
  /-- a chunk of an FSEND (R320): its contribution without the bytes, of `len` in all, the chunk's place in it, its bytes, the engine that waits -/
  | fold (m : Nat) (g : Contribution) (len off : Nat) (bs : List Nat) (c e : Nat)
  /-- a graph operation that completes with a STATUS -/
  | graphDone (c slot op status : Nat)
  deriving DecidableEq, Repr

/-- An item in flight: its number, the cycle at which it arrives, and whether a park or a receiver holds it. -/
structure Flight where
  id : Nat
  due : Nat
  held : Bool
  kind : FKind
  deriving DecidableEq, Repr

/-! ### The machine -/

/-- Why a bundle does not issue in a cycle (R32): whether the stall watchdog counts it (R35), and its event source (R400). -/
structure Stall where
  wd : Bool
  src : Nat
  deriving DecidableEq, Repr

/-- The outcome of the E slot that changes the position (R247, R362). -/
inductive ECtl where
  | none
  | call (ra : RunAhead) (taken : Bool)
  /-- a group of one (R260): the arm is known -/
  | arm (taken : Nat)
  | rte
  | trap (cause code : Nat)
  | wave (code : Nat)
  | landing (addr : Nat)
  deriving DecidableEq, Repr

/-- The bundle that issues: its core, the slot that runs, what its slots have asked for so far. -/
structure Focus where
  core : Nat
  slot : Nat
  addr : Nat
  len : Nat
  loopBottom : Bool
  idle : Nat
  /-- faults in slot order: slot, cause, detail (R71) -/
  faults : List (Nat × Nat × Nat)
  /-- uncorrectable errors consumed, in slot order: slot, cause, detail (R365) -/
  consumed : List (Nat × Nat × Nat)
  /-- deferred faults taken (R111) -/
  deferred : List Poison
  stall : Option Stall
  ctl : Ctl
  /-- in broadcast mode, what the lead's X slot asked of the position: the core follows it (R39) -/
  follow : Option Ctl
  /-- in broadcast mode, whether the lead landed on the bundle (R43) -/
  land : Option Bool
  ectl : ECtl
  /-- journal and kitty room asked for (R253) -/
  jbytes : Nat
  kentries : Nat
  wait : Wait
  trace : List Trace
  /-- the bundle has completed (R358) -/
  done : Bool
  /-- the issue of the bundle has been counted, and the bundle's entries of the trace ring still take the count before it (R374, R406; log 39) -/
  counted : Bool
  deriving DecidableEq, Repr

/-- No bundle issues. -/
def Focus.idleAt (k : Nat) : Focus :=
  { core := k, slot := 0, addr := 0, len := 0, loopBottom := false, idle := 0, faults := [], consumed := [], deferred := [],
    stall := .none, ctl := .seq, follow := .none, land := .none, ectl := .none, jbytes := 0, kentries := 0, wait := .none, trace := [], done := false, counted := false }

/-- The state of the machine: a pod of modules, and the model's own fields (log 1). -/
structure State where
  cores : Tbl Core
  clusters : Tbl Cluster
  dies : Tbl Die
  mods : Tbl Module
  jobs : List Job
  flights : List Flight
  /-- stored words marked uncorrectable outside HBM: place kind, owner, word address (R394) -/
  marks : List (Nat × Nat × Nat)
  hostMsgs : List HostMsg
  /-- true time in core cycles -/
  cycle : Nat
  /-- the moves left in this cycle -/
  agenda : List Move
  /-- outside events by cycle -/
  inputs : List (Nat × Move)
  /-- the place of the move that happens -/
  place : Nat
  focus : Focus
  /-- how many open values the machine has met (log 9) -/
  free : Nat
  /-- the next number of a request or an item in flight -/
  nextId : Nat
  deriving DecidableEq, Repr

/-- The machine right after a cold reset of its modules: no launch, no job, nothing in flight. -/
def State.reset : State :=
  { cores := [], clusters := [], dies := [], mods := [], jobs := [], flights := [], marks := [], hostMsgs := [], cycle := 0,
    agenda := [], inputs := [], place := 0, focus := .idleAt 0, free := 0, nextId := 1 }

/-- Why the machine stops: it never does, so there is no reason. Every fault of the specification is a trap, a STATUS or a refused answer. -/
inductive Fault where
  deriving DecidableEq, Repr

/-- Why an instruction has no meaning. -/
inductive Refusal where
  /-- Raised by `exec` for an instruction without a meaning, by its mnemonic. Safe. -/
  | notModelled (mnemonic : String)
  deriving DecidableEq, Repr

end Sys2Proof.Machine
end

