-- ==== Sys2Proof/Machine/Ops.lean ====
section
/-! DEFINITION. Sys2Proof/Machine/Ops.lean: the named operations over tables, memory, time, registers and pending results; the
faults of a slot; the halt wave's trigger; taking a trap (R357, R361, R365) and returning from one (R362). -/

namespace Sys2Proof.Machine

/-! ### Tables of the state -/

/-- The core, cluster, die or module of a number. -/
def getCore (s : State) (k : Nat) : Core := Tbl.get Core.reset s.cores k
@[inherit_doc getCore] def getCluster (s : State) (c : Nat) : Cluster := Tbl.get Cluster.reset s.clusters c
@[inherit_doc getCore] def getDie (s : State) (d : Nat) : Die := Tbl.get Die.reset s.dies d

/-- A module that no table lists, in a cycle: as after reset, but for its time, which runs on at the rate of the core clock (R265). -/
def Module.unlisted (cycle : Nat) : Module := { Module.reset with time := { Module.reset.time with now := 10 ^ 10 * cycle } }

@[inherit_doc getCore] def getMod (s : State) (m : Nat) : Module := Tbl.get (Module.unlisted s.cycle) s.mods m

/-- The state with one core, cluster, die or module replaced. -/
def setCore (s : State) (k : Nat) (c : Core) : State := { s with cores := Tbl.set s.cores k c }
@[inherit_doc setCore] def setCluster (s : State) (k : Nat) (c : Cluster) : State := { s with clusters := Tbl.set s.clusters k c }
@[inherit_doc setCore] def setDie (s : State) (k : Nat) (c : Die) : State := { s with dies := Tbl.set s.dies k c }
@[inherit_doc setCore] def setMod (s : State) (k : Nat) (c : Module) : State := { s with mods := Tbl.set s.mods k c }

/-- The state with a function applied to one core, cluster, die or module. -/
def updCore (s : State) (k : Nat) (f : Core → Core) : State := setCore s k (f (getCore s k))
@[inherit_doc updCore] def updCluster (s : State) (k : Nat) (f : Cluster → Cluster) : State := setCluster s k (f (getCluster s k))
@[inherit_doc updCore] def updDie (s : State) (k : Nat) (f : Die → Die) : State := setDie s k (f (getDie s k))
@[inherit_doc updCore] def updMod (s : State) (k : Nat) (f : Module → Module) : State := setMod s k (f (getMod s k))

/-- The cluster, die, module of a core, its rank, its core number (R11). -/
def clusterOf (k : Nat) : Nat := k / 8
@[inherit_doc clusterOf] def dieOf (k : Nat) : Nat := k / 96
@[inherit_doc clusterOf] def modOf (k : Nat) : Nat := k / 768
@[inherit_doc clusterOf] def rankOf (k : Nat) : Nat := k % 8
@[inherit_doc clusterOf] def coreNo (k : Nat) : Nat := k % 768

/-- The next open value, kept in the range lo to hi, and the state that has met it (log 9). -/
def openValue (lo hi : Nat) (s : State) : Nat × State := (Config.freeIn lo hi s.free, { s with free := s.free + 1 })

/-- The next open value without a bound of the manual's, and the state that has met it (log 9). -/
def openAny (s : State) : Nat × State := (Config.freeNat s.free, { s with free := s.free + 1 })

/-- A new number for a request or an item in flight. -/
def newId (s : State) : Nat × State := (s.nextId, { s with nextId := s.nextId + 1 })

/-- An element put before the first that does not precede it, and a list sorted so; equal elements keep their places. -/
def insertBy {α : Type} (le : α → α → Bool) (x : α) : List α → List α
  | [] => [x]
  | y :: ys => if le x y then x :: y :: ys else y :: insertBy le x ys
@[inherit_doc insertBy] def sortBy {α : Type} (le : α → α → Bool) : List α → List α
  | [] => []
  | x :: xs => insertBy le x (sortBy le xs)

/-! ### Memory -/

/-- The byte at an address; 0 where nothing has been written (log 4). -/
def Mem.byte : Mem → Nat → Nat
  | [], _ => 0
  | (b, v) :: t, a => if b = a then v.toNat else Mem.byte t a

/-- n bytes from an address on, from cells in rising order at or above it. -/
def Mem.readFrom : Mem → Nat → Nat → List Nat
  | _, _, 0 => []
  | [], a, n + 1 => 0 :: Mem.readFrom [] (a + 1) n
  | (b, v) :: t, a, n + 1 =>
    if b = a then v.toNat :: Mem.readFrom t (a + 1) n else 0 :: Mem.readFrom ((b, v) :: t) (a + 1) n

/-- The n bytes from an address on. -/
def Mem.read (m : Mem) (a n : Nat) : List Nat := Mem.readFrom (m.dropWhile fun c => decide (c.1 < a)) a n

/-- The cells of bytes from an address on: a byte of 0 is not listed. -/
def Mem.cells : Nat → List Nat → Mem
  | _, [] => []
  | a, b :: bs => if b % 256 = 0 then Mem.cells (a + 1) bs else (a, BitVec.ofNat 8 b) :: Mem.cells (a + 1) bs

/-- Bytes written from an address on. -/
def Mem.write (m : Mem) (a : Nat) (bs : List Nat) : Mem :=
  m.filter (fun c => decide (c.1 < a)) ++ (Mem.cells a bs ++ m.filter (fun c => decide (a + bs.length ≤ c.1)))

/-- The canonical form: addresses rising, no byte equal to what an unlisted address reads as. -/
def Mem.wf : Mem → Bool
  | [] => true
  | [(_, v)] => v != 0
  | (a, v) :: (b, w) :: t => v != 0 && decide (a < b) && Mem.wf ((b, w) :: t)

/-! ### Spaces of the core-local map (R18) -/

/-- The bytes a .. a+n−1 lie in the register space, the operand file, the accumulator store, the scratchpad, the weight store. -/
def inReg (a n : Nat) : Bool := decide (a + n ≤ 0x380000)
@[inherit_doc inReg] def inOperand (a n : Nat) : Bool := decide (a + n ≤ 0x200000)
@[inherit_doc inReg] def inScratch (a n : Nat) : Bool := decide (0x1000000 ≤ a) && decide (a + n ≤ 0x1800000)
@[inherit_doc inReg] def inWeight (a n : Nat) : Bool := decide (0x40000000 ≤ a) && decide (a + n ≤ 0x80000000)

/-- Two ranges of bytes meet. -/
def meets (a n b m : Nat) : Bool := decide (a < b + m) && decide (b < a + n)

/-- The range touches the ALT half of a buffer pair of the cluster (R210). -/
def touchesAlt (cl : Cluster) (a n : Nat) : Bool := cl.bindings.any fun b => b.pair && meets a n b.alt b.size

/-- Where a named scratchpad address lies: in the visible half of its pair, or in the shadow (R210). -/
def physAddr (shadow : Bool) (sw : Tbl Bool) : List Binding → Nat → Nat → Nat
  | [], _, a => a
  | b :: bs, i, a =>
    if b.pair && decide (b.base ≤ a) && decide (a < b.base + b.size) then
      if (Tbl.get false sw i) != shadow then b.alt + (a - b.base) else a
    else physAddr shadow sw bs (i + 1) a

/-- Some half of the cluster is mapped away from its named range. -/
def anySwapped (cl : Cluster) (shadow : Bool) : Bool := shadow || cl.swapped.any fun x => x.2

/-- The n bytes at a named scratchpad address, through the visible halves. -/
def readScratch (cl : Cluster) (a n : Nat) : List Nat :=
  if anySwapped cl false then (List.range n).map fun i => Mem.byte cl.scratch (physAddr false cl.swapped cl.bindings 0 (a + i))
  else Mem.read cl.scratch a n

/-- Bytes written one by one at mapped addresses. -/
def writeMapped (f : Nat → Nat) : Mem → Nat → List Nat → Mem
  | m, _, [] => m
  | m, a, b :: bs => writeMapped f (Mem.write m (f a) [b]) (a + 1) bs

/-- The scratchpad with bytes written at a named address, through the visible halves or into the shadow. -/
def writeHalf (cl : Cluster) (shadow : Bool) (a : Nat) (bs : List Nat) : Mem :=
  if anySwapped cl shadow then writeMapped (physAddr shadow cl.swapped cl.bindings 0) cl.scratch a bs
  else Mem.write cl.scratch a bs

/-! ### Marks of uncorrectable errors (R394) -/

/-- A mark of kind k (1 register space, 2 scratchpad, 3 weight store) in a range of an owner's store; a scratchpad's range is a named one (R210). -/
def isMarked (s : State) (kind owner a n : Nat) : Bool :=
  let hit := fun (a n : Nat) => s.marks.any fun x => x.1 == kind && x.2.1 == owner && meets x.2.2 8 a n
  let cl := getCluster s owner
  if kind == 2 && !s.marks.isEmpty && anySwapped cl false then
    (List.range n).any fun i => hit (physAddr false cl.swapped cl.bindings 0 (a + i)) 1
  else hit a n

/-- A write clears the marks of the words it covers whole (R394). -/
def clearMarks (s : State) (kind owner a n : Nat) : State :=
  { s with marks := s.marks.filter fun x =>
      !(x.1 == kind && x.2.1 == owner && decide (a ≤ x.2.2) && decide (x.2.2 + 8 ≤ a + n)) }

/-- Ranges that are written together clear the marks of the words they cover whole (R394). -/
def clearCovered (s : State) (kind owner : Nat) (rs : List (Nat × Nat)) : State :=
  if s.marks.isEmpty then s else
  { s with marks := s.marks.filter fun x =>
      !(x.1 == kind && x.2.1 == owner && (List.range 8).all fun i => rs.any fun r => decide (r.1 ≤ x.2.2 + i) && decide (x.2.2 + i < r.1 + r.2)) }

/-- A write at a named scratchpad address clears the marks of the words it covers whole, in the halves it goes to (R210, R394). -/
def clearScratchMarks (s : State) (c : Nat) (shadow : Bool) (a n : Nat) : State :=
  let cl := getCluster s c
  if !s.marks.isEmpty && anySwapped cl shadow then
    (List.range ((a + n) / 8 - (a + 7) / 8)).foldl (fun s i =>
      clearMarks s 2 c (physAddr shadow cl.swapped cl.bindings 0 (8 * ((a + 7) / 8 + i))) 8) s
  else clearMarks s 2 c a n

/-! ### Module time (R265, R266) -/

/-- Units of the time unit in a nanosecond. -/
def nsUnits : Nat := 19 * 1000000000

/-- Module time in ns: the master copy of a module. -/
def timeOf (s : State) (m : Nat) : Nat := (getMod s m).time.now / nsUnits

/-- Module time as a die's copy holds it (R265). -/
def dieTime (s : State) (d : Nat) : Nat := ((timeOf s (d / 8) : Int) + (getDie s d).copyOff).toNat

/-- The time unit one core cycle later: 10/19 ns at its rate. -/
def TimeUnit.tick (t : TimeUnit) : TimeUnit := { t with now := t.now + (10 * (1000000000 + t.adj)).toNat }

/-- The cycles in which a time unit advances by at least n ns at its present rate (R4). -/
def TimeUnit.cyclesFor (t : TimeUnit) (n : Nat) : Nat :=
  let r := (10 * (1000000000 + t.adj)).toNat
  (n * 19000000000 + r - 1) / r

/-! ### Register files -/

/-- A scalar register: s0 reads 0 (R103). -/
def Regs.getS (r : Regs) (n : Nat) : DWord := if n = 0 then 0 else Tbl.get 0 r.s n
/-- A predicate: p0 reads 1 and p1 reads 0 (R104). -/
def Regs.getP (r : Regs) (n : Nat) : Bool := if n = 0 then true else if n = 1 then false else Tbl.get false r.p n
/-- A lane mask (R105). -/
def Regs.getK (r : Regs) (n : Nat) : Mask := Tbl.get 0 r.k n
/-- The tag of a scalar register, a predicate, a lane mask (R102): s0, p0 and p1 carry none. -/
def Regs.tagS (r : Regs) (n : Nat) : Option Poison := if n = 0 then none else Tbl.get none r.sTag n
@[inherit_doc Regs.tagS] def Regs.tagP (r : Regs) (n : Nat) : Option Poison := if n ≤ 1 then none else Tbl.get none r.pTag n
@[inherit_doc Regs.tagS] def Regs.tagK (r : Regs) (n : Nat) : Option Poison := Tbl.get none r.kTag n

/-- A scalar result lands: a write to s0 is discarded; poison writes zero and sets the tag (R102, R103). -/
def Regs.putS (r : Regs) (n : Nat) (v : DWord) (tag : Option Poison) : Regs :=
  if n = 0 then r else { r with s := Tbl.set r.s n (if tag.isSome then 0 else v), sTag := Tbl.set r.sTag n tag }

/-- A compare's result lands in its pair: the result and its complement, or poison in both (R104, R116). -/
def Regs.putPair (r : Regs) (n : Nat) (c : Bool) (tag : Option Poison) : Regs :=
  if n = 0 then r else
  { r with p := Tbl.set (Tbl.set r.p (2 * n) (c && tag.isNone)) (2 * n + 1) (!c && tag.isNone),
           pTag := Tbl.set (Tbl.set r.pTag (2 * n) tag) (2 * n + 1) tag }

/-- A lane mask's selected bits land; poison takes all 128 (R147, R162). -/
def Regs.putK (r : Regs) (n : Nat) (v sel : Mask) (tag : Option Poison) : Regs :=
  { r with k := Tbl.set r.k n (if tag.isSome then 0 else (v &&& sel) ||| (r.getK n &&& ~~~sel)),
           kTag := if tag.isSome then Tbl.set r.kTag n tag else if sel = BitVec.allOnes 128 then Tbl.set r.kTag n none else r.kTag }

/-- The 32-byte granules that a range touches, and those it covers whole (R102). -/
def granules (a n : Nat) : List Nat := if n = 0 then [] else List.range' (a / 32) ((a + n - 1) / 32 + 1 - a / 32)
@[inherit_doc granules] def wholeGranules (a n : Nat) : List Nat :=
  List.range' ((a + 31) / 32) ((a + n) / 32 - (a + 31) / 32)

/-- The tag of the lowest tagged granule of a range (R102, R250). -/
def Regs.tagMem (r : Regs) (a n : Nat) : Option Poison :=
  (granules a n).foldr (fun g t => match Tbl.get none r.mTag g with | some p => some p | none => t) none

/-- The lines of 512 bytes that a range touches (R126). -/
def lines (a n : Nat) : List Nat := if n = 0 then [] else List.range' (a / 512) ((a + n - 1) / 512 + 1 - a / 512)

/-- A table with one value at several keys. -/
def setAll {α : Type} (t : Tbl α) (ks : List Nat) (v : α) : Tbl α := ks.foldl (fun t k => Tbl.set t k v) t

/-- One value of an accumulator row's checksum column changed. -/
def updChk (t : Tbl ChkCol) (row : Nat) (f : ChkCol → ChkCol) : Tbl ChkCol := Tbl.set t row (f (Tbl.get .clean t row))

/-- A piece of a result lands in the register space: bytes, dirty lines (R126), tags (R102, R139), UNCHK of accumulator rows (R172).
Poison writes zeros and tags every granule it touches. -/
def Regs.putBytes (r : Regs) (a : Nat) (bs : List Nat) (tag : Option Poison) : Regs :=
  let n := bs.length
  let rows := (lines a n).filter fun l => decide (4096 ≤ l)
  { r with
    mem := Mem.write r.mem a (if tag.isSome then List.replicate n 0 else bs)
    dirty := setAll r.dirty (lines a n) true
    mTag := if tag.isSome then setAll r.mTag (granules a n) tag else setAll r.mTag (wholeGranules a n) none
    chk := rows.foldl (fun t l => updChk t (l - 4096) fun c => { c with unchk := true }) r.chk }

/-- Pieces whose ends meet, joined. -/
def mergeSegs : List (Nat × List Nat) → List (Nat × List Nat)
  | [] => []
  | (a, x) :: rest =>
    match mergeSegs rest with
    | [] => [(a, x)]
    | (b, y) :: more => if a + x.length = b then (a, x ++ y) :: more else (a, x) :: (b, y) :: more

/-- A result of several pieces lands. -/
def Regs.putSegs (r : Regs) (segs : List (Nat × List Nat)) (tag : Option Poison) : Regs :=
  (mergeSegs segs).foldl (fun r x => r.putBytes x.1 x.2 tag) r

/-- The pair of an accumulator entry: 64 hi and lo words of a row (R125). -/
def pairsOf : List Nat → List (Nat × Nat)
  | h :: l :: rest => (h, l) :: pairsOf rest
  | _ => []

/-- A beat lands on the row at an address (R170, R177): the row as it stood before this cycle is `old`. -/
def Regs.landFeed (r old : Regs) (row : Nat) (y : List Nat) (yP yW : Nat) (bad : Bool) (tag : Option Poison) : Regs :=
  let rowTag := match tag with | some t => some t | none => r.tagMem row 512
  let line := row / 512 - 4096
  match rowTag with
  | some t => r.putBytes row (List.replicate 512 0) (some t)
  | none =>
    let ps := (pairsOf (lanesOf 4 128 (Mem.read old.mem row 512))).zip y
    let ps := ps.map fun x => twosum x.1.1 x.1.2 x.2
    let c := Tbl.get ChkCol.clean old.chk line
    let p := twosum c.cphi c.cplo yP
    let w := twosum c.cwhi c.cwlo yW
    { r with
      mem := Mem.write r.mem row (ps.flatMap fun x => leBytes 4 x.1 ++ leBytes 4 x.2)
      dirty := Tbl.set r.dirty (row / 512) true
      mTag := setAll r.mTag (wholeGranules row 512) none
      chk := updChk r.chk line fun q =>
        { q with cphi := p.1, cplo := p.2, cwhi := w.1, cwlo := w.2, taint := c.taint || bad } }

/-- A zeroing of a row lands (R171). -/
def Regs.landZero (r : Regs) (row : Nat) : Regs :=
  { r with
    mem := Mem.write r.mem row (List.replicate 512 0)
    dirty := Tbl.set r.dirty (row / 512) true
    mTag := setAll r.mTag (wholeGranules row 512) none
    chk := Tbl.set r.chk (row / 512 - 4096) .clean }

/-- The bit of a mask that governs a lane (R105). -/
def lane (m : Mask) (i : Nat) : Bool := m.getLsbD i

/-- Groups of four LN6 lanes merged at the landing (R91, R147): a group with a selected lane is written whole. -/
def ln6Merge (old new : List Nat) (sel : Mask) : Nat → Nat → List (Nat × List Nat)
  | 0, _ => []
  | n + 1, g =>
    let pick := fun j => if lane sel (4 * g + j) then new.getD (4 * g + j) 0 else old.getD (4 * g + j) 0
    if lane sel (4 * g) || lane sel (4 * g + 1) || lane sel (4 * g + 2) || lane sel (4 * g + 3) then
      (3 * g, ln6Bytes [pick 0, pick 1, pick 2, pick 3]) :: ln6Merge old new sel n (g + 1)
    else ln6Merge old new sel n (g + 1)

/-- An accumulator row lands as it was fixed, with its checksum column (R359). -/
def Regs.putRow (r : Regs) (row : Nat) (bs : List Nat) (chk : ChkCol) (tag : Option Poison) : Regs :=
  let r := r.putBytes row bs tag
  { r with chk := Tbl.set r.chk (row / 512 - 4096) chk }

/-- The bytes of a piece at addresses that a list of ranges leaves out. -/
def outsideRanges (later : List (Nat × Nat)) (a : Nat) (bs : List Nat) : List (Nat × List Nat) :=
  if later.isEmpty then [(a, bs)]
  else (bs.zipIdx.filter fun y => !later.any fun r => decide (r.1 ≤ a + y.2) && decide (a + y.2 < r.1 + r.2)).map fun y => (a + y.2, [y.1])

/-- The pieces of a store without the bytes that younger writes have taken. -/
def keptSegs (later : List (Bool × Nat × Nat)) (segs : List (Nat × List Nat)) : List (Nat × List Nat) :=
  segs.flatMap fun x => outsideRanges (later.map Prod.snd) x.1 x.2

/-- A result lands in the register files (R61); the other kinds land elsewhere. `old` is the file as it stood before this cycle. -/
def Regs.land (r old : Regs) : Eff → Regs
  | .sreg d v tag => r.putS d v tag
  | .pair n c tag => r.putPair n c tag
  | .kmask n v sel tag => r.putK n v sel tag
  | .bytes segs tag _ => r.putSegs segs tag
  | .ln6 base lanes sel =>
    r.putSegs ((ln6Merge (ln6Lanes (Mem.read r.mem base 96)) lanes sel 32 0).map fun x => (base + x.1, x.2)) none
  | .mfeed row y yP yW bad tag => r.landFeed old row y yP yW bad tag
  | .mzero row => r.landZero row
  | .accRow row bs chk tag => r.putRow row bs chk tag
  | .released segs tag _ later => r.putSegs (keptSegs later segs) tag
  | _ => r

/-! ### Event counters (R399, R400) -/

/-- Counters whose select word names an enabled source rise by n. -/
def countIn (sel cnt : Tbl Nat) (src n : Nat) : Tbl Nat :=
  sel.foldl (fun t x => if x.2 % 512 = 256 + src then Tbl.set t x.1 ((Tbl.get 0 t x.1 + n) % 2 ^ 64) else t) cnt

/-- The events of a cycle reach a core's counters (R399). -/
def Core.countNew (c : Core) : Core :=
  { c with evcnt := c.evnew.foldl (fun t x => countIn c.evsel t x.1 x.2) c.evcnt, evnew := [] }

/-- An event of a core, of a cluster, of a module is counted: for a core, from the next cycle on. -/
def countCore (s : State) (k src n : Nat) : State := updCore s k fun c => { c with evnew := (src, n) :: c.evnew }
@[inherit_doc countCore] def countCluster (s : State) (c src n : Nat) : State :=
  updCluster s c fun x => { x with evcnt := countIn x.evsel x.evcnt src n }
@[inherit_doc countCore] def countMod (s : State) (m src n : Nat) : State :=
  updMod s m fun x => { x with evcnt := countIn x.evsel x.evcnt src n }

/-- Bytes counted in units of 64 (R400): what is left over stays for the next; while nothing is selected, nothing is kept. -/
def Module.countBytes (src n : Nat) (x : Module) : Module :=
  if x.evsel.isEmpty then x else
  let b := Tbl.get 0 x.evrem src + n
  { x with evcnt := countIn x.evsel x.evcnt src (b / 64), evrem := Tbl.set x.evrem src (b % 64) }
@[inherit_doc Module.countBytes] def Cluster.countBytes (src n : Nat) (x : Cluster) : Cluster :=
  if x.evsel.isEmpty then x else
  let b := Tbl.get 0 x.evrem src + n
  { x with evcnt := countIn x.evsel x.evcnt src (b / 64), evrem := Tbl.set x.evrem src (b % 64) }
@[inherit_doc Module.countBytes] def countBytes (s : State) (m src n : Nat) : State := updMod s m (Module.countBytes src n)

/-- Flits of packets that carry n bytes (R311): a header for each 512, and one for each 64. -/
def flitsFor (n : Nat) : Nat := max 1 ((n + 511) / 512) + (n + 63) / 64

/-- Flits that leave a module, over an Oliash edge or, toward another module, over a Dolsel port too (R400); they are counted while the module counts
anything. -/
def countFlits (m dest : Nat) (control : Bool) (n : Nat) (s : State) : State :=
  if (getMod s m).evsel.isEmpty then s else
  let s := countMod s m 0x04 n
  if m = dest then s else countMod s m (if control then 0x06 else 0x05) n

/-- An error counter of a partition rises (R398); partition 0 has none: the error is shared. -/
def countErr (s : State) (m part word n : Nat) : State :=
  updMod s m fun x =>
    if part = 0 then { x with shared := Tbl.set x.shared word ((Tbl.get 0 x.shared word + n) % 2 ^ 32) }
    else { x with errs := Tbl.set x.errs (16 * part + word) ((Tbl.get 0 x.errs (16 * part + word) + n) % 2 ^ 32) }

/-! ### The bundle that issues -/

/-- The core whose bundle issues. -/
def focusCore (s : State) : Core := getCore s s.focus.core

/-- A sequencer of the core's cluster wakes in a cycle (R404). -/
def noteWake (k t : Nat) (s : State) : State := updCluster s (clusterOf k) fun c => { c with lastWake := max c.lastWake (t + 1) }

/-- The focus with a function applied. -/
def updFocus (s : State) (f : Focus → Focus) : State := { s with focus := f s.focus }

/-- The core is in run-ahead (R251). -/
def inRa (s : State) : Bool := (focusCore s).ra.isSome

/-- The kitty drains (R254). -/
def draining (s : State) : Bool := !(focusCore s).kitty.isEmpty && (focusCore s).ra.isNone

/-- A result of the slot, visible L cycles after the issue (R62). -/
def post (L : Nat) (e : Eff) (s : State) : State :=
  updCore s s.focus.core fun c =>
    { c with pend := c.pend ++ [{ vis := s.cycle + L, seq := s.cycle, slot := s.focus.slot, ra := c.ra.isSome, eff := e }] }

/-- The slot raises an execution fault (R71). -/
def raise (cause detail : Nat) (s : State) : State :=
  updFocus s fun f => { f with faults := f.faults ++ [(f.slot, cause, detail)] }

/-- The bundle stalls in this cycle (R32); a stall by a stream register and by another cause at once is not counted (log 74). -/
def stallOn (wd : Bool) (src : Nat) (s : State) : State :=
  updFocus s fun f => { f with stall := match f.stall with | some x => some { x with wd := x.wd && wd } | none => some ⟨wd, src⟩ }

/-- An execution fault that no destination can carry as poison: in run-ahead the bundle stalls until the call (R256). -/
def hardFault (cause detail : Nat) (s : State) : State :=
  if inRa s then stallOn false 5 s else raise cause detail s

/-- An execution fault that a destination carries as poison in run-ahead (R256). -/
def softFault (cause detail : Nat) (poison : Poison → State) (s : State) : State :=
  if inRa s then poison ⟨cause, s.focus.addr⟩ else raise cause detail s

/-- One of the faults (cause and detail) whose conditions hold on a slot: where there are several, which one is reported is open (log 14). -/
def oneFault (fs : List (Nat × Nat)) (s : State) : (Nat × Nat) × State :=
  match fs.eraseDups with
  | [f] => (f, s)
  | gs => let (i, s) := openValue 0 (gs.length - 1) s; (gs.getD i (0, 0), s)

/-- `hardFault` and `softFault` on one of several faults. -/
def hardFaults (fs : List (Nat × Nat)) (s : State) : State := let (f, s) := oneFault fs s; hardFault f.1 f.2 s
@[inherit_doc hardFaults] def softFaults (fs : List (Nat × Nat)) (poison : Poison → State → State) (s : State) : State :=
  let (f, s) := oneFault fs s
  softFault f.1 f.2 (fun p => poison p s) s

/-- `hardFault` and `softFault` on the first of several faults, in the order in which the instruction's own rule tests them. -/
def hardFirst (fs : List (Nat × Nat)) (s : State) : State :=
  match fs with
  | f :: _ => hardFault f.1 f.2 s
  | [] => s
@[inherit_doc hardFirst] def softFirst (fs : List (Nat × Nat)) (poison : Poison → State → State) (s : State) : State :=
  match fs with
  | f :: _ => softFault f.1 f.2 (fun p => poison p s) s
  | [] => s

/-- The details of a cause whose conditions hold. -/
def detailsOf (cause : Nat) (ds : List (Bool × Nat)) : List (Nat × Nat) := (ds.filter fun d => d.1).map fun d => (cause, d.2)

/-- A tagged source of an instruction that carries the value out of the registers (R111): in run-ahead the bundle stalls, otherwise
the deferred fault is taken and no slot completes. -/
def takeDeferred (p : Poison) (s : State) : State :=
  if inRa s then stallOn false 5 s else updFocus s fun f => { f with deferred := f.deferred ++ [p] }

/-- R111 on a list of tags in operand order: the first tagged one, or go on. -/
def unlessTagged (tags : List (Option Poison)) (s : State) (k : State → State) : State :=
  match tags.findSome? id with
  | some p => takeDeferred p s
  | none => k s

/-- The first tag in operand order (R102). -/
def firstTag (tags : List (Option Poison)) : Option Poison := tags.findSome? id

/-- A syllable acts when its guard reads 1 and has no effect at all when it reads 0; a tagged guard is handled by R111 (R59). -/
def guarded (g : Nat) (s : State) (k : State → State) : State :=
  match (focusCore s).regs.tagP g with
  | some p => takeDeferred p s
  | none => if (focusCore s).regs.getP g then k s else s

/-- Journal bytes of a write during run-ahead (R253). -/
def journal (n : Nat) (s : State) : State :=
  if inRa s then updFocus s fun f => { f with jbytes := f.jbytes + n } else s

/-- Journal bytes for n bytes of register space (R253). -/
def journalMem (n : Nat) (s : State) : State := journal ((16 + n + 31) / 32 * 32) s

/-- Entries of the kitty drain, in a second run-ahead too, or one of the run-ahead's own is a store that has joined them: a store into the register
space joins the tail (R254). -/
def joinsKitty (s : State) : Bool :=
  !(focusCore s).kitty.isEmpty && (match (focusCore s).ra with
    | some r => decide (0 < r.old) || (focusCore s).kitty.any fun e => match e with
        | .store _ _ segs _ _ => segs.any fun x => inReg x.1 x.2.length
        | _ => false
    | none => true)

/-- A store into the register space joins a draining kitty, or is a pending write at T + 3 with its journal entry (R62, R139, R254). -/
def storeReg (segs : List (Nat × List Nat)) (tag : Option Poison) (n : Nat) (s : State) : State :=
  if joinsKitty s then
    updFocus (updCore s s.focus.core fun c => { c with kitty := c.kitty ++ [.store s.cycle s.focus.slot segs tag []] })
      fun f => { f with kentries := f.kentries + 1 }
  else post 3 (.bytes segs tag (some s.cycle)) (journalMem n s)

/-- A syllable that stalls in run-ahead (R252). -/
def notInRa (s : State) (k : State → State) : State := if inRa s then stallOn false 5 s else k s

/-- A syllable that stalls while the kitty drains (R254). -/
def notDraining (s : State) (k : State → State) : State := if draining s then stallOn false (if inRa s then 5 else 0) s else k s

/-- The journal entry of a write to a scalar register (R253): a write to s0 is discarded and needs none. -/
def journalS (d : Nat) (s : State) : State := if d = 0 then s else journal 16 s

/-- A scalar result with its journal entry. -/
def postS (L d : Nat) (v : DWord) (tag : Option Poison) (s : State) : State := post L (.sreg d v tag) (journalS d s)

/-- An uncorrectable error consumed by the slot (R365): in run-ahead it is poison. -/
def consume (cause detail : Nat) (s : State) : State :=
  updFocus s fun f => { f with consumed := f.consumed ++ [(f.slot, cause, detail)] }

/-- A trace entry of the bundle (R374). -/
def traceFocus (kind data : Nat) (s : State) : State :=
  updFocus s fun f => { f with trace := f.trace ++ [⟨kind, (focusCore s).sched % 2 ^ 24, f.addr, data⟩] }

/-- The count of issues before a core's bundle in hand, as its `rdsys` reads it (R374, R406; log 39). -/
def schedAt (s : State) (k : Nat) : Nat :=
  let n := (getCore s k).sched
  if s.focus.counted && s.focus.core == k then (n + (2 ^ 64 - 1)) % 2 ^ 64 else n

/-- A trace entry of a core beside those of its slots. -/
def traceCore (s : State) (k kind addr data : Nat) : State :=
  let n := schedAt s k
  updCore s k fun c => { c with trace := (⟨kind, n % 2 ^ 24, addr, data⟩ :: c.trace).take 1024 }

/-! ### The core's own reads (R62, R110) -/

/-- Bytes of a piece laid over bytes that begin at an address. -/
def overlay (a : Nat) (bs : List Nat) (b : Nat) (x : List Nat) : List Nat :=
  if meets a bs.length b x.length then
    (bs.zipIdx).map fun y => if b ≤ a + y.2 && decide (a + y.2 < b + x.length) then x.getD (a + y.2 - b) 0 else y.1
  else bs

/-- A store of the core's own that has not been performed: its place in program order (cycle and slot), its pieces and their tag. -/
abbrev OwnStore := Nat × Nat × List (Nat × List Nat) × Option Poison

/-- One own store precedes another in program order. -/
def OwnStore.before (x y : OwnStore) : Bool := decide (x.1 < y.1) || (x.1 == y.1 && decide (x.2.1 ≤ y.2.1))

/-- A pending write as a store of the core's own, without the bytes that younger writes of the core have taken since. -/
def Pend.ownStore (p : Pend) : Option OwnStore :=
  match p.eff with
  | .bytes segs tag (some t) => some (t, p.slot, segs, tag)
  | .released segs tag t later => some (t, p.slot, keptSegs later segs, tag)
  | _ => none

/-- The core's own stores that have not been performed, issued before a cycle, in program order: pending writes of the register space,
scratchpad stores, and held stores without the bytes that a younger write of the core has taken since. What a trap holds is seen by the loads issued
up to its bundle: the handler reads the old values (R359). -/
def ownStores (c : Core) (before : Nat) : List OwnStore :=
  let trapped := if before ≤ c.trapT then c.held.map Prod.snd else []
  let ps : List OwnStore := (c.pend ++ trapped ++ c.frozenHeld.map Prod.snd).filterMap Pend.ownStore
  let ss : List OwnStore := c.stores.filterMap fun p => match p.op with
    | .bytes a bs => some (p.seq, p.slot, [(a, bs)], none)
    | .amo .. => none
  let ks : List OwnStore := c.kitty.filterMap fun e => match e with
    | .store seq slot segs tag later => some (seq, slot, keptSegs later segs, tag)
    | _ => none
  sortBy OwnStore.before ((ps ++ ss ++ ks).filter fun x => decide (x.1 < before))

/-- The register files as the core's own read sees them: its stores issued before that read are in them. -/
def ownRegs (c : Core) (before : Nat) : Regs :=
  (ownStores c before).foldl (fun r x => r.putSegs (x.2.2.1.filter fun y => inReg y.1 y.2.length) x.2.2.2) c.regs

/-- The bytes of a core-local range as memory holds them: register space, scratchpad through the visible halves, weight store. -/
def plainRead (s : State) (k a n : Nat) : List Nat :=
  if inReg a n then Mem.read (getCore s k).regs.mem a n
  else if inScratch a n then readScratch (getCluster s (clusterOf k)) a n
  else if inWeight a n then Mem.read (getDie s (dieOf k)).weights a n
  else List.replicate n 0

/-- The bytes of a core-local range as the core's own read at a cycle sees them: its stores issued before that read are seen. -/
def ownRead (s : State) (k a n before : Nat) : List Nat :=
  let c := getCore s k
  if inReg a n then Mem.read (ownRegs c before).mem a n
  else ((ownStores c before).flatMap fun x => x.2.2.1).foldl (fun bs x => overlay a bs x.1 x.2) (plainRead s k a n)

/-- The tag of a core-local range as the core's own read sees it: only the register space carries tags (R102). -/
def ownTag (c : Core) (a n before : Nat) : Option Poison := if inReg a n then (ownRegs c before).tagMem a n else none

/-- The word of 4 bytes at an index in a list of bytes. -/
def wordAt (bs : List Nat) (i : Nat) : Nat := leNat ((bs.drop (4 * i)).take 4)

/-- The words of a list of bytes. -/
def wordsOf (n : Nat) (bs : List Nat) : List Nat := (List.range n).map (wordAt bs)

/-! ### Waits on scratchpad words (R217, R213) -/

/-- The condition of `waita` (R82): unsigned. -/
def WCond.holds (c : WCond) (w x : Nat) : Bool :=
  match c with
  | .eq => w == x
  | .ne => w != x
  | .ge => decide (x ≤ w)
  | .lt => decide (w < x)

/-- A write to scratchpad bytes as a test of one core's wait (R217): a satisfying write sets the wake within 40 cycles (R33). -/
def testWait (k a n : Nat) (s : State) : State :=
  match (getCore s k).wait with
  | .waita wa wn cond x bundle test none =>
    if meets a n wa wn && decide (test < s.cycle) &&
        WCond.holds cond (leNat (readScratch (getCluster s (clusterOf k)) wa wn)) x then
      let (d, s) := openValue 1 40 s
      updCore s k fun c => { c with wait := .waita wa wn cond x bundle test (some (s.cycle + d)) }
    else s
  | .acq b none =>
    let cl := getCluster s (clusterOf k)
    match cl.bindings[b]? with
    | some bd =>
      if !bd.virt && meets a n bd.sync 8 && leNat (readScratch cl bd.sync 8) / 2 ^ 32 % 2 ^ 19 == 0 then
        let (d, s) := openValue 1 40 s
        updCore s k fun c => { c with wait := .acq b (some (s.cycle + d)) }
      else s
    | none => s
  | _ => s

/-- The writes of this cycle with one more, and whether it meets an earlier one (R180, R400). -/
def Cluster.noteWrite (x : Cluster) (cycle a n : Nat) : Cluster :=
  let old := if x.wrote.1 = cycle then x.wrote.2 else []
  let x := { x with wrote := (cycle, (a, n) :: old), evcnt := countIn x.evsel x.evcnt 0x06 1 }
  if old.any fun y => meets a n y.1 y.2 then { x with evcnt := countIn x.evsel x.evcnt 0x07 1 } else x

/-- Every write into a cluster's scratchpad: the bytes, the marks it clears, and the waits of the cluster's cores, which a write to a shadow does not
test: no visible byte is written (R211, R217). -/
def scratchWrite (c : Nat) (shadow : Bool) (a : Nat) (bs : List Nat) (s : State) : State :=
  let s := updCluster s c fun x => { x.noteWrite s.cycle a bs.length with scratch := writeHalf x shadow a bs }
  let s := clearScratchMarks s c shadow a bs.length
  if shadow then s else (List.range 8).foldl (fun s r => testWait (8 * c + r) a bs.length s) s

/-! ### The halt wave's trigger (R367 to R370) -/

/-- The job of a number. -/
def getJob (s : State) (job : Nat) : Option Job := s.jobs.find? fun j => j.id == job

/-- The state with a function applied to a job. -/
def updJob (s : State) (job : Nat) (f : Job → Job) : State :=
  { s with jobs := s.jobs.map fun j => if j.id = job then f j else j }

/-- The module of a job's member, and the member number of a module. -/
def moduleOf (j : Job) (member : Nat) : Nat := j.members.getD member 0
@[inherit_doc moduleOf] def memberOf (j : Job) (m : Nat) : Nat := j.members.idxOf m

/-- The job slot of a job on a module (R366): its index, or 16 where the module has none. -/
def slotOf (md : Module) (job : Nat) : Nat :=
  match md.slots.find? fun x => x.2.used && x.2.job == job with
  | some x => x.1
  | none => 16

/-- The job slot of a job on a module. -/
def jobSlot (s : State) (m job : Nat) : JobSlot := Tbl.get .reset (getMod s m).slots (slotOf (getMod s m) job)

/-- The receivers of a job on a module are held by the halt wave (R369, R373). -/
def receiversHeld (s : State) (m job : Nat) : Bool := (jobSlot s m job).stopped && decide ((jobSlot s m job).stage < 1)

/-- The halt wave has stopped the engines of the cluster's job (R369, R373). -/
def enginesHeld (s : State) (c : Nat) : Bool :=
  let sl := jobSlot s (c / 96) (getCluster s c).ctx.job
  sl.stopped && decide (sl.stage < 2)

/-- The state with a function applied to the job slot. -/
def updSlot (s : State) (m job : Nat) (f : JobSlot → JobSlot) : State :=
  if slotOf (getMod s m) job < 16 then
    updMod s m fun md => { md with slots := Tbl.set md.slots (slotOf md job) (f (Tbl.get .reset md.slots (slotOf md job))) }
  else s

/-- The time for which a job has been frozen on a module (R347, R369). -/
def frozenTime (s : State) (m job : Nat) : Nat :=
  let sl := jobSlot s m job
  sl.total + if sl.stopped then timeOf s m - sl.since else 0

/-- The bit of CMASK that a cause belongs to (R366); 8 for none. -/
def causeClass (cause : Nat) : Nat :=
  if decide (1 ≤ cause) && decide (cause ≤ 4) then 0
  else if decide (0x10 ≤ cause) && decide (cause ≤ 0x1C) then 1
  else if cause = 0x20 ∨ cause = 0x21 then 2
  else if cause = 0x30 ∨ cause = 0x31 then 3
  else if cause = 0x40 then 4
  else 8

/-- The class of a cause is set in CMASK while ARM = 1 (R367). -/
def armedFor (sl : JobSlot) (cls : Nat) : Bool := sl.arm && bit sl.cmask cls

/-- The trigger is accepted before another of the same cycle (R368): lowest member, then lowest core. -/
def firstOf (a b : CauseRec) : Bool := decide (a.member < b.member) || (a.member == b.member && decide (a.core < b.core))

/-- A further trigger (R368): COUNT rises, and of the triggers of one cycle the first is the accepted one. -/
def CauseRec.further (old rec : CauseRec) (same : Bool) : CauseRec :=
  { (if same && firstOf rec old then rec else old) with count := min 65535 (old.count + 1) }

/-- The root has accepted a trigger, or a further one (R368): its record is on its way to a member that runs, and counted on a member that it has
reached; a member that resumes holds it, of the triggers of one cycle the first. -/
def acceptOn (rec : CauseRec) (cycle : Nat) (sl : JobSlot) : JobSlot :=
  match sl.state, sl.incoming with
  | .running, none => { sl with incoming := some rec, accepted := cycle }
  | .running, some old => { sl with incoming := some (old.further rec (sl.accepted == cycle)) }
  | .resuming, _ => match sl.pending with
    | some p => if sl.accepted = cycle ∧ firstOf rec p then { sl with pending := some rec } else sl
    | none => { sl with pending := some rec, accepted := cycle }
  | _, _ => { sl with causeRec := sl.causeRec.further rec (sl.accepted == cycle) }

/-- A member's own trigger, or the freeze signal that reaches it, begins the freeze there, with the accepted cause record (R368). -/
def JobSlot.takeWave (sl : JobSlot) : JobSlot :=
  match sl.incoming with
  | some rec => { sl with state := .freezing, causeRec := rec, incoming := none }
  | none => sl

/-- The halt wave fires for a job on member module m (R368): m begins to freeze at once, and the others when the freeze signal with the accepted
cause record reaches them, within 1 µs (R369). -/
def fireWave (m job : Nat) (rec : CauseRec) (s : State) : State :=
  match getJob s job with
  | none => s
  | some j =>
    let s := j.members.foldl (fun s mm =>
      updSlot s mm job fun x => if mm = m then (acceptOn rec s.cycle x).takeWave else acceptOn rec s.cycle x) s
    j.members.foldl (fun s mm =>
      if mm = m then { s with inputs := s.inputs ++ [(s.cycle + 1, ⟨mm, .haltWaveTrigger mm job⟩)] }
      else
        let (d, s) := openValue 1 1700 s
        { s with inputs := s.inputs ++ [(s.cycle + d, ⟨mm, .haltWaveTrigger mm job⟩)] }) s

/-- The cause record of a trigger on a core (R370). -/
def causeRecOf (s : State) (k cause detail addr : Nat) : CauseRec :=
  let cx := (getCluster s (clusterOf k)).ctx
  { cause := cause, count := 0, detail := detail, member := cx.member, core := coreNo k, addr := addr,
    time := timeOf s (modOf k), sched := schedAt s k }

/-- A trap, unwind or fatal trap of a class set in CMASK triggers the wave (R367). -/
def triggerIf (k cls cause detail addr : Nat) (s : State) : State :=
  let job := (getCluster s (clusterOf k)).ctx.job
  if armedFor (jobSlot s (modOf k) job) cls then fireWave (modOf k) job (causeRecOf s k cause detail addr) s else s

/-! ### Taking a trap (R357 to R365) -/

/-- A pending result is held by a trap (R359): bytes of register space, a scalar, a pair, a mask, an accumulator row, a view register.
Stream fills, latches, system registers, the region stack and window releases take their own course. -/
def Eff.holdable : Eff → Bool
  | .latch .. | .fill .. | .sysw .. | .regions .. | .rel .. => false
  | _ => true

/-- Results land by visible cycle, then in order of issue and of slot (R62, R63). -/
def landsBefore (a b : Pend) : Bool :=
  decide (a.vis < b.vis) || (a.vis == b.vis && (decide (a.seq < b.seq) || (a.seq == b.seq && decide (a.slot ≤ b.slot))))

/-- The value that an accumulator row takes with a result: what the register file `r` holds of it once the result has landed there. -/
def Eff.fixed (r : Regs) (e : Eff) : Eff :=
  let whole := fun row => Eff.accRow row (Mem.read r.mem row 512) (Tbl.get .clean r.chk (row / 512 - 4096)) (r.tagMem row 512)
  match e with
  | .mfeed row .. => whole row
  | .mzero row => whole row
  | e => e

/-- Results in landing order with the values of accumulator rows fixed (R359): each row as the results before it leave it; those of one cycle
read the accumulators as that cycle finds them (R177). -/
def fixRows : Regs → Regs → Nat → List Pend → List Pend
  | _, _, _, [] => []
  | r, old, v, p :: ps =>
    let old := if p.vis = v then old else r
    let r := r.land old p.eff
    { p with eff := p.eff.fixed r } :: fixRows r old p.vis ps

/-- Results visible later than T are held with their delays, their values fixed from the register file as it stands (R359); the others keep their
course (R357). -/
def holdPend (T : Nat) (r : Regs) (ps : List Pend) : List (Nat × Pend) × List Pend :=
  ((fixRows r r 0 (sortBy landsBefore (ps.filter fun p => decide (T < p.vis) && p.eff.holdable))).map fun p => (p.vis - T, p),
   ps.filter fun p => !(decide (T < p.vis) && p.eff.holdable))

/-- The results of a core visible later than T are held by a trap (R357). -/
def Core.hold (T : Nat) (c : Core) : Core :=
  { c with pend := (holdPend T c.regs c.pend).2, held := c.held ++ (holdPend T c.regs c.pend).1 }

/-- A store's place in program order, moved by n cycles. -/
def Eff.later (n : Nat) (e : Eff) : Eff :=
  match e with
  | .bytes segs tag (some t) => .bytes segs tag (some (t + n))
  | .released segs tag t later => .released segs tag (t + n) later
  | e => e

/-- Held results come back: visible at u + delay; an issue in the trap's cycle T counts as one in u (R362). -/
def releaseHeld (u T : Nat) (hs : List (Nat × Pend)) : List Pend :=
  hs.map fun x => { x.2 with vis := u + x.1, seq := x.2.seq + (u - T), eff := x.2.eff.later (u - T) }

/-- A sequencer stops at A in cycle T with the state of R357 (R361). -/
def Core.stopAt (c : Core) (A T mask cause detail : Nat) : Core :=
  { c.hold T with trapcause := cause, trapdetail := detail, trapaddr := A % 2 ^ 32, trapmask := mask, pc := A, seq := .fatal, wait := .none, wd := 0 }

/-- Every core of the launch on its clusters stops as at a fatal trap of a cause, before its next bundle (R361; log 101). A cluster that another
launch has taken since is not the launch's. -/
def stopLaunch (m uid cause detail : Nat) (s : State) : State :=
  match (getMod s m).launches.find? fun l => l.uid == uid with
  | none => s
  | some l => l.clusters.foldl (fun s c =>
      if (getCluster s c).ctx.uid ≠ uid then s else
      (List.range 8).foldl (fun s r => updCore s (8 * c + r) fun x =>
        match x.seq with
        | .off | .retired | .fatal => x
        | _ => x.stopAt x.pc s.cycle 0 cause detail) s) s

/-- The launch is failing: it completes with this STATUS and cause once its requests have finished (R361, R347); the first failure stands. -/
def failLaunch (m uid status cause : Nat) (s : State) : State :=
  updMod s m fun md => { md with launches := md.launches.map fun l =>
    if l.uid == uid && l.status == 0 then { l with state := .failing, status := status, cause := cause } else l }

/-- The 512 bytes of a line of the register space. -/
def lineBytes (c : Core) (n : Nat) : List Nat := Mem.read c.regs.mem (512 * n) 512

/-- A trace ring entry as its 16 bytes (R374). -/
def Trace.bytes (t : Trace) : List Nat := leBytes 4 (t.kind % 32 + 256 * (t.sched % 2 ^ 24)) ++ leBytes 4 t.addr ++ leBytes 8 t.data

/-- The trace ring as its 16,384 bytes, oldest first; the entries that are still empty follow (R374, R377; log 30). -/
def Core.traceBytes (c : Core) : List Nat :=
  let bs := c.trace.reverse.flatMap Trace.bytes
  bs ++ List.replicate (16384 - bs.length) 0

/-- The dirty map as its 1,024 bytes: line n is bit n mod 8 of byte n / 8 (R377; log 30). -/
def Core.dirtyBytes (c : Core) : List Nat :=
  (List.range 1024).map fun i => ((List.range 8).map fun j => if Tbl.get false c.regs.dirty (8 * i + j) then 2 ^ j else 0).sum

/-- Bytes of the value that a pending write holds (R377). -/
def Eff.dataBytes : Eff → Nat
  | .sreg .. | .loadS .. | .amoS .. => 8
  | .pair .. => 1
  | .kmask .. => 16
  | .bytes segs _ _ | .released segs _ _ _ => (segs.map fun x => x.2.length).sum
  | .ln6 _ ls _ => ls.length
  | .loadV _ r _ => (r.src.map Prod.snd).sum + r.pad.length
  | .mfeed .. | .mzero _ | .accRow .. => 512 + 16
  | .view .. => 16
  | .latch ws => ws.length
  | .fill _ _ e => e.length
  | .sysw .. => 8
  | .regions rs => 8 * rs.length
  | .rel .. => 4

/-- The records of one core in a dump (R377): fault, pending writes, core, trace ring, run-ahead, dirty map, lines, array. A record is its size
with its bytes, or its size alone where the manual does not lay its bytes out. -/
def dumpPieces (c : Core) : List (Nat × Option (List Nat)) :=
  [(64, none)] ++ (c.held.map Prod.snd ++ c.pend).map (fun p => (32 + (p.eff.dataBytes + 31) / 32 * 32, none)) ++
    [(8192, none), (16384, some c.traceBytes), (40960, none), (1024, some c.dirtyBytes)] ++
    (c.regs.dirty.filter fun x => x.2).flatMap (fun x => [(32, none), (512, some (lineBytes c x.1))]) ++ [(8192, none)]

/-- Every frame of the dump area belongs to the partition (R376): host memory has no frames. -/
def areaOwned (md : Module) (part base size : Nat) : Bool :=
  (List.range (size * 32)).all fun i => (Tbl.get ⟨0, 0, false⟩ md.frames (base / 65536 + i)).owner == part

/-- The range of n bytes at a holds what a store holds from an address on. -/
def Mem.blit (m : Mem) (a n base : Nat) (src : Mem) : Mem :=
  m.filter (fun c => decide (c.1 < a)) ++
    (((src.filter fun c => decide (base ≤ c.1)).map fun c => (c.1 - base + a, c.2)).filter fun c => decide (a ≤ c.1) && decide (c.1 < a + n)) ++
    m.filter (fun c => decide (a + n ≤ c.1))

/-- The records of a dump before the scratchpads, one after another from an address on and up to an end (R377): bytes that the manual does not
lay out are open (log 9). -/
def dumpRecords (m stop : Nat) : Nat → List (Nat × Option (List Nat)) → State → State
  | _, [], s => s
  | a, x :: xs, s =>
    let n := min x.1 (stop - a)
    let bs := match x.2 with | some bs => bs.take n | none => (List.range n).map fun i => Config.freeNat (s.free + i) % 256
    let f := match x.2 with | some _ => 0 | none => n
    dumpRecords m stop (a + x.1) xs (updMod { s with free := s.free + f } m fun md => { md with hbm := Mem.write md.hbm a bs })

/-- Scratchpads, one after another, from an address on and up to an end (R377). -/
def dumpScratch (m stop : Nat) : Nat → List Mem → State → State
  | _, [], s => s
  | a, mem :: mems, s =>
    dumpScratch m stop (a + 8388608) mems
      (updMod s m fun md => { md with hbm := Mem.blit md.hbm a (min 8388608 (stop - a)) 0x1000000 mem })

/-- The dump engine writes one dump of an event's cores, with the scratchpads of their clusters, into their partition's area, cut short at its end,
or counts a dump not written (R376, R377); `cl` is the cluster of the first. -/
def dumpWith (cl : Cluster) (ks : Tbl Core) (pads : List Mem) (cause detail : Nat) (s : State) : State :=
  match ks with
  | [] => s
  | (k, _) :: _ =>
    let m := modOf k
    let md := getMod s m
    let p := Tbl.get .reset md.parts cl.part
    if p.dsize = 0 ∨ !areaOwned md cl.part p.dbase p.dsize then countErr s m 0 16 1
    else
      let records := (256, none) :: ks.flatMap fun x => dumpPieces x.2
      let head := (records.map Prod.fst).sum
      let bytes := head + 8388608 * pads.length
      let room := p.dsize * 2097152
      let d : Dump := { cause := cause, detail := detail, job := cl.ctx.job, lid := cl.ctx.lid, member := cl.ctx.member, coreNo := coreNo k,
                        time := timeOf s m, bytes := min bytes room, cores := ks }
      let p := { p with ndump := (p.ndump + 1) % 2 ^ 32, trunc := decide (room < bytes), dumps := d :: p.dumps }
      let s := dumpRecords m (p.dbase + room) p.dbase records s
      let s := dumpScratch m (p.dbase + room) (p.dbase + head) pads s
      updMod s m fun md => { md with
        parts := Tbl.set md.parts cl.part p
        marks := md.marks.filter fun l => !(decide (p.dbase ≤ 64 * l) && decide (64 * l + 64 ≤ p.dbase + min bytes room))
        symErrs := md.symErrs.filter fun x => !meets (64 * x.1) 64 p.dbase (min bytes room) }

/-- The dump of cores as they stand. -/
def dumpCores (ks : List Nat) (cause detail : Nat) (s : State) : State :=
  dumpWith (getCluster s (clusterOf (ks.headD 0))) (ks.map fun k => (k, getCore s k)) ((ks.map clusterOf).eraseDups.map fun c => (getCluster s c).scratch)
    cause detail s

/-- A fatal trap at A (R361): the sequencer stops with the state of R357, a dump is written, and the wave fires, armed for fatal traps or for the
class of an uncorrectable error (R366), or the launch fails. -/
def fatalTrap (k A T mask cause detail : Nat) (s : State) : State :=
  let cl := getCluster s (clusterOf k)
  let s := updCore s k fun c => { c.stopAt A T mask cause detail with fatalCause := some (cause, detail) }
  let s := traceCore (countCore s k 0x0E 1) k 5 A (cause + detail % 2 ^ 32 * 2 ^ 32)
  let s := dumpCores [k] cause detail s
  let sl := jobSlot s (modOf k) cl.ctx.job
  if armedFor sl 5 || (causeClass cause == 3 && armedFor sl 3) then
    fireWave (modOf k) cl.ctx.job (causeRecOf s k cause detail A) s
  else failLaunch (modOf k) cl.ctx.uid 3 cause (stopLaunch (modOf k) cl.ctx.uid cause detail s)

/-- What a core holds right after a trap on the bundle at A in cycle T (R357). -/
def Core.trapEntry (c : Core) (A T mask cause detail : Nat) : Core :=
  { c.hold T with
    trapcause := cause, trapdetail := detail, trapaddr := A % 2 ^ 32, trapmask := mask
    handler := true, trapDepth := c.loops.length, trapT := T, replay := none, resumeAt := none, callAt := none
    pc := c.tvec, xfer := true, nextIssue := T + 4, wait := .none, wd := 0 }

/-- Taking a trap on the bundle at A, detected in cycle T (R357). -/
def takeTrap (k A T mask cause detail : Nat) (s : State) : State :=
  if (getCore s k).handler then fatalTrap k A T mask 0x60 cause s
  else if (getCore s k).tvec = 0 then fatalTrap k A T mask 0x61 cause s
  else
    let s := updCore s k fun c => c.trapEntry A T mask cause detail
    let s := traceCore (countCore s k 0x0E 1) k 5 A (cause + detail % 2 ^ 32 * 2 ^ 32)
    triggerIf k (causeClass cause) cause detail A s

/-- The last cycle in which a pending result of a core becomes visible. -/
def lastVis (ps : List Pend) (t : Nat) : Nat := ps.foldl (fun t p => max t p.vis) t

/-- The region stack once the `ctopen` or `ctclose` of the bundle in hand has landed; where that leaves none, the stack as it stands (R365;
log 102). -/
def Core.landedRegions (c : Core) : List (Nat × Nat) :=
  match c.pend.reverse.findSome? fun p => match p.eff with | .regions rs => some rs | _ => none with
  | some (x :: xs) => x :: xs
  | _ => c.regions

/-- An unwind on the bundle at A in cycle T to the region (h, d), the regions under it `rest` (R365). -/
def Core.unwindTo (c : Core) (h d : Nat) (rest : List (Nat × Nat)) (A T mask cause detail : Nat) : Core :=
  { c with trapcause := cause, trapdetail := detail, trapaddr := A % 2 ^ 32, trapmask := mask, regions := rest
           pend := c.pend.filter fun p => match p.eff with | .regions _ => false | _ => true
           loops := c.loops.drop (c.loops.length - d), pc := h, xfer := true, replay := none, resumeAt := none, callAt := none, wait := .none, wd := 0
           nextIssue := max (T + 4) (lastVis c.pend T + 1) }

/-- An uncorrectable word that a core's agent meets in a register space or scratchpad is counted against the partition; one in a weight store or a fetch
cache is shared (R398). A stream's is counted as its unit fetches it, a fetch's in `issueFetched`. -/
def countCoreErr (s : State) (k place : Nat) : State :=
  countErr s (modOf k) (if place < 3 then (getCluster s (clusterOf k)).part else 0) 1 1

/-- An uncorrectable error consumed on the bundle at A in cycle T (R365): it unwinds to the top region's handler, which issues after every
issued result has landed; in handler mode or with no region open it is a fatal trap. -/
def consumeError (k A T mask cause detail : Nat) (s : State) : State :=
  let c := getCore s k
  let s := if cause = 0x31 ∧ detail ≤ 3 then countCoreErr s k detail else s
  match !c.handler && !c.regions.isEmpty, c.landedRegions with
  | true, (h, d) :: rest =>
    let s := updCore s k fun c => c.unwindTo h d rest A T mask cause detail
    let s := traceCore s k 7 A (cause + detail % 2 ^ 32 * 2 ^ 32)
    triggerIf k (causeClass cause) cause detail A s
  | _, _ => fatalTrap k A T mask cause detail s

/-- Returning from a trap (R362): u is the cycle after every result of bundles issued in handler mode has landed; the trapped bundle is reissued in
u with the slots whose bits in the mask are 0. -/
def Core.returnTrap (c : Core) (T : Nat) : Core :=
  { c with pc := c.trapaddr, xfer := true, replay := some c.trapmask, nextIssue := lastVis (c.pend.filter fun p => decide (c.trapT < p.seq)) T + 1 }

/-- In cycle u, the first of the reissue: handler mode ends and the held writes take their course again (R362). -/
def Core.resumeHeld (c : Core) (u : Nat) : Core :=
  { c with handler := false, pend := c.pend ++ releaseHeld u c.trapT c.held, held := [] }

end Sys2Proof.Machine
end

