-- ==== Sys2Proof/Machine/Operands.lean ====
section
/-! DEFINITION. Sys2Proof/Machine/Operands.lean: the operand forms of the syllables: scalar sources and local addresses (R20, R109,
R137), views (R129 to R133), stream registers (R184 to R195), and the frame of the vector forms (R146 to R148, R162, R163). -/

namespace Sys2Proof.Machine

/-! ### Scalar sources and core-local addresses -/

/-- A scalar source of the bundle that issues. -/
def srcS (s : State) (n : Nat) : DWord := (focusCore s).regs.getS n

/-- The tag of a scalar source. -/
def tagOfS (s : State) (n : Nat) : Option Poison := (focusCore s).regs.tagS n

/-- The detail of an address fault (R20), or none: a core-local address ea of n bytes from a register whose upper half is hi. `al` is
the alignment, `ok` says that the range lies in the spaces the form allows. -/
def addrFault (s : State) (hi : Bool) (ea : Int) (n al : Nat) (store : Bool) (ok : Bool) : Option Nat :=
  if hi then some 2
  else if ea % al ≠ 0 then some 3
  else if store && decide (0 ≤ ea) && meets ea.toNat n 0x40000000 0x40000000 then some 4
  else if decide (0 ≤ ea) && touchesAlt (getCluster s (clusterOf s.focus.core)) ea.toNat n then some 5
  else if decide (ea < 0) || decide (2 ^ 32 < ea + n) || !ok then some 1
  else none

/-- R351 refuses the read: detail 6 stands before detail 1 (R20). -/
def refusedFault (refused : Bool) (f : Option Nat) : Option Nat := if refused && (f == none || f == some 1) then some 6 else f

/-- The lower half of a scalar source and whether its upper half is nonzero (R18). -/
def lowHalf (v : DWord) : Nat := v.toNat % 2 ^ 32
@[inherit_doc lowHalf] def highSet (v : DWord) : Bool := decide (2 ^ 32 ≤ v.toNat)

/-- A range in the register space or the scratchpad (R109, R137). -/
def inLocal (ea : Int) (n : Nat) : Bool := decide (0 ≤ ea) && (inReg ea.toNat n || inScratch ea.toNat n)
/-- A range in the operand file or the scratchpad (R134, R188). -/
def inDesc (ea : Int) (n : Nat) : Bool := decide (0 ≤ ea) && (inOperand ea.toNat n || inScratch ea.toNat n)

/-- The die's weight store is assigned to the core's partition (R351). -/
def ownsWeights (s : State) (k : Nat) : Bool :=
  let o := (getDie s (dieOf k)).owner
  o != 0 && o == (getCluster s (clusterOf k)).part

/-- A read of core-local bytes meets an uncorrectable error (R394): the detail of cause 0x31 (R356). -/
def errorIn (s : State) (k a n : Nat) : Option Nat :=
  if inReg a n then (if isMarked s 1 k a n then some 1 else none)
  else if inScratch a n then (if isMarked s 2 (clusterOf k) a n then some 2 else none)
  else if isMarked s 3 (dieOf k) a n then some 3 else none

/-! ### Views (R129 to R133) -/

/-- The place of a view register in the table: v0 to v31, t0 to t15, a0 to a15. -/
def viewKey (cls idx : Nat) : Nat := if cls = 0 then idx else if cls = 1 then 32 + idx else 48 + idx

/-- A view register in effect. -/
def viewOf (c : Core) (cls idx : Nat) : View := Tbl.get .none c.views (viewKey cls idx)

/-- Bytes of n lanes of a format (R86, R130). -/
def lanesBytes (f : Fmt) (n : Nat) : Nat := if f = .ln6 then n / 4 * 3 else n * laneBytes f

/-- The length of a view's extent (R130). -/
def View.extent (v : View) : Nat :=
  if v.cls = 0 then 512
  else if v.cls = 1 then 32 * v.pitch * v.rows + lanesBytes v.tfmt (v.cols + 1)
  else 512 * (v.rows + 1)

/-- The poison of a view's n first bytes. -/
def viewTag (c : Core) (v : View) (n : Nat) : Option Poison := c.regs.tagMem v.base n

/-- A view fault on a source in run-ahead writes poison to n bytes of the destination (R139); outside it, it is raised. -/
def poisonView (L : Nat) (d : View) (n : Nat) (s : State) (p : Poison) : State :=
  post L (.bytes [(d.base, List.replicate n 0)] (some p) none) (journalMem n s)

/-! ### Stream registers (R184 to R195) -/

/-- Entries of a pattern (R186). -/
def Pattern.total (p : Pattern) : Nat := p.cnt.foldl (· * ·) 1

/-- Σ id × STRIDEd at a position, dimension 0 innermost (R186). -/
def Pattern.offset : List Nat → List Int → Nat → Int
  | n :: cs, d :: ds, pos => (pos % n : Nat) * d + Pattern.offset cs ds (pos / n)
  | _, _, _ => 0

/-- The address of the entry at a position (R186). -/
def Pattern.addr (p : Pattern) (pos : Nat) : Int := p.base + Pattern.offset p.cnt p.stride pos

/-- The entry at a position lies outside the space of BASE, in a weight store of another partition or in an ALT half
(R186, R194, R196, R210). -/
def entryOutside (s : State) (k : Nat) (p : Pattern) (pos : Nat) : Bool :=
  let a := p.addr pos
  decide (a < 0) || !(if inScratch p.base 1 then inScratch a.toNat p.len && !touchesAlt (getCluster s (clusterOf k)) a.toNat p.len else inWeight a.toNat p.len && ownsWeights s k)

/-- A slot of the register is occupied in a cycle (R189, R190). -/
def SEntry.occupied (cycle : Nat) (e : SEntry) : Bool :=
  match e.st with | .gone t => decide (cycle ≤ t) | _ => true

/-- An entry not popped and not written. -/
def SEntry.live (e : SEntry) : Bool := match e.st with | .gone _ => false | _ => true

/-- Slots of the register held, reserved or unwritten in a cycle. -/
def Stream.occupied (st : Stream) (cycle : Nat) : Nat := (st.slots.filter (SEntry.occupied cycle)).length

/-- What a pop or a push of a stream register meets in the issue cycle (R190, R194). -/
inductive QStat where
  | fault (detail : Nat)
  | wait
  | entry (bs : List Nat) (marked : Bool)
  deriving DecidableEq, Repr

/-- The stream register q of a core. -/
def streamOf (c : Core) (q : Nat) : Option Stream := Tbl.get none c.streams q

/-- A pop in the issue cycle (R190, R194, R195). -/
def popStat (s : State) (q : Nat) : QStat :=
  match streamOf (focusCore s) q with
  | none => .fault 2
  | some st =>
    if st.write then .fault 2 else
    match (st.slots.filter SEntry.live)[st.taken]? with
    | none => if st.pat.total ≤ st.pos then .fault 3 else .wait
    | some e => match e.st with
      | .ready t => if t ≤ s.cycle then .entry e.bs false else .wait
      | .marked t => if t ≤ s.cycle then .entry e.bs true else .wait
      | .outside => .fault 4
      | _ => .wait

/-- A push in the issue cycle (R190, R194): the entry it would fill is at the register's position. -/
def pushStat (s : State) (q : Nat) : QStat :=
  match streamOf (focusCore s) q with
  | none => .fault 2
  | some st =>
    if !st.write then .fault 2
    else if st.pat.total ≤ st.pos then .fault 3
    else if entryOutside s s.focus.core st.pat st.pos then .fault 4
    else if 4 ≤ st.occupied s.cycle then .wait
    else .entry [] false

/-- The state with a function applied to a bound stream register of the issuing core. -/
def updStream (q : Nat) (f : Stream → Stream) (s : State) : State :=
  updCore s s.focus.core fun c =>
    match streamOf c q with
    | some st => { c with streams := Tbl.set c.streams q (some (f st)) }
    | none => c

/-- The first live entry is popped in a cycle. -/
def popFirst (t : Nat) : List SEntry → List SEntry
  | [] => []
  | e :: es => if e.live then { e with st := .gone t } :: es else e :: popFirst t es

/-- A pop takes effect: in run-ahead the slot is not freed (R195). -/
def doPop (q : Nat) (s : State) : State :=
  let s := journal 16 s
  if inRa s then updStream q (fun st => { st with taken := st.taken + 1, ops := st.ops + 1 }) s
  else updStream q (fun st => { st with slots := popFirst s.cycle st.slots, ops := st.ops + 1 }) s

/-- A push reserves a slot under the core's next reservation number (R190). -/
def doReserve (q : Nat) (s : State) : State :=
  let r := (focusCore s).nextRes
  let s := updStream q (fun st => { st with slots := st.slots ++ [⟨st.pos, [], .reserved r⟩], pos := st.pos + 1, ops := st.ops + 1 }) s
  updCore s s.focus.core fun c => { c with nextRes := r + 1 }

/-- A reserved slot is filled in a cycle. -/
def fillSlot (r : Nat) (bs : List Nat) (t : Nat) (es : List SEntry) : List SEntry :=
  es.map fun e => if e.st = .reserved r then { e with bs := bs, st := .filled t } else e

/-- Bytes padded with zeros to an entry of 512 (R146). -/
def toEntry (bs : List Nat) : List Nat := bs ++ List.replicate (512 - bs.length) 0

/-! ### Operands of the vector slots -/

/-- A vector operand: a view, or a stream register with QA, QB or QD set (R78). -/
structure VOp where
  str : Bool
  idx : Nat
  deriving DecidableEq, Repr

/-- What an operand gives when it is read in the issue cycle: bytes, tag, and the detail of an error it consumes. -/
structure OpVal where
  bs : List Nat
  tag : Option Poison
  err : Option Nat
  deriving DecidableEq, Repr

/-- The view fault of an operand (R146): detail 1. -/
def VOp.unconfigured (s : State) (o : VOp) : Bool := !o.str && !(viewOf (focusCore s) 0 o.idx).cfg

/-- The stream fault of a source (R194). -/
def VOp.popFault (s : State) (o : VOp) : Option Nat :=
  if o.str then match popStat s o.idx with | .fault d => some d | _ => none else none

/-- The faults of a source (R133, R194). -/
def VOp.faults (s : State) (o : VOp) : List (Nat × Nat) :=
  (if o.unconfigured s then [(0x11, 1)] else []) ++ ((o.popFault s).toList.map fun d => (0x12, d))

/-- A source waits for an entry (R190). -/
def VOp.popWaits (s : State) (o : VOp) : Bool := o.str && popStat s o.idx == .wait

/-- The first n bytes of a source (R144, R146). -/
def VOp.read (s : State) (n : Nat) (o : VOp) : OpVal :=
  if o.str then
    match popStat s o.idx with
    | .entry bs m => ⟨bs.take n, none, if m then some 4 else none⟩
    | _ => ⟨[], none, none⟩
  else
    let c := focusCore s
    let v := viewOf c 0 o.idx
    ⟨Mem.read c.regs.mem v.base n, viewTag c v n, errorIn s s.focus.core v.base n⟩

/-- The stream registers among operands, each once (R190). -/
def popsOf (os : List VOp) : List Nat := ((os.filter fun o => o.str).map fun o => o.idx).eraseDups

/-- Lanes that a mask selects, as pieces of the destination (R147). -/
def laneSegs (f : Fmt) (base : Nat) (m : Mask) (xs : List Nat) : List (Nat × List Nat) :=
  (xs.zipIdx.filter fun x => lane m x.2).map fun x => (base + laneBytes f * x.2, leBytes (laneBytes f) x.1)

/-- The zero of a format (R138, R147). -/
def zeroOf (f : Fmt) : Nat := if f = .ln6 then 0x10 else 0

/-- The effect of a vector result on a view: every lane, or the lanes of a mask (R147). -/
def viewEff (f : Fmt) (base : Nat) (ke : Bool) (m : Mask) (xs : List Nat) : Eff :=
  if !ke then .bytes [(base, fromLanes f xs)] none none
  else if f = .ln6 then .ln6 base xs m
  else .bytes (laneSegs f base m xs) none none

/-- The entry that a vector result pushes (R147). -/
def entryOf (f : Fmt) (ke : Bool) (m : Mask) (xs : List Nat) : List Nat :=
  toEntry (fromLanes f (if ke then xs.zipIdx.map fun x => if lane m x.2 then x.1 else zeroOf f else xs))

/-- A vector result is posted to its destination, a view or a stream register. -/
def postVec (L : Nat) (f : Fmt) (d : VOp) (ke : Bool) (m : Mask) (xs : List Nat) (s : State) : State :=
  if d.str then
    let r := (focusCore s).nextRes
    post L (.fill d.idx r (entryOf f ke m xs)) (doReserve d.idx s)
  else
    let v := viewOf (focusCore s) 0 d.idx
    post L (viewEff f v.base ke m xs) (journalMem (vecBytes f) s)

/-- Poison is posted to the whole destination of a vector form (R162); a stream register carries none, so R111 applies (R195). -/
def poisonVec (L : Nat) (f : Fmt) (d : VOp) (p : Poison) (s : State) : State :=
  if d.str then takeDeferred p s else poisonView L (viewOf (focusCore s) 0 d.idx) (vecBytes f) s p

/-- The mask of a masked form, and its tag: none without KE. -/
def maskOf (s : State) (ke : Bool) (km : Nat) : Mask := if ke then (focusCore s).regs.getK km else BitVec.allOnes 128
@[inherit_doc maskOf] def maskTag (s : State) (ke : Bool) (km : Nat) : Option Poison :=
  if ke then (focusCore s).regs.tagK km else none

/-- The destination of a vector form stalls it: a push that waits, or a push in run-ahead or before a draining kitty (R163, R190, R195, R254). -/
def destReady (d : VOp) (s : State) (k : State → State) : State :=
  if d.str then
    if inRa s || draining s then stallOn false 5 s
    else if pushStat s d.idx == .wait then stallOn true 4 s
    else k s
  else k s

/-- The faults of the destination: a view fault or a stream fault (R146, R194). -/
def destFaults (d : VOp) (s : State) : List (Nat × Nat) :=
  if d.str then match pushStat s d.idx with | .fault x => [(0x12, x)] | _ => []
  else if d.unconfigured s then [(0x11, 1)] else []

/-- Faults of the sources and of what is not a source, in the order of the instructions' own rules: views, then pops and pushes (R148, R170). -/
def viewsFirst (fs hard : List (Nat × Nat)) : List (Nat × Nat) :=
  let views := fun (x : List (Nat × Nat)) => x.filter fun f => f.1 == 0x11
  let streams := fun (x : List (Nat × Nat)) => x.filter fun f => f.1 != 0x11
  views fs ++ views hard ++ streams fs ++ streams hard

/-- The sources of a vector form: waits, faults (with `hard`, those of what is not a source) and errors, then pops; `bad` writes poison to the
destination in run-ahead (R163, R256), `k` goes on with what the sources give. -/
def withSources (hard : List (Nat × Nat)) (os : List (VOp × Nat)) (bad : Poison → State → State) (s : State)
    (k : List OpVal → State → State) : State :=
  let fs := os.flatMap fun o => o.1.faults s
  if os.any fun o => o.1.popWaits s then stallOn true 4 s
  else if !hard.isEmpty then hardFirst (viewsFirst fs hard) s
  else if !fs.isEmpty then softFirst (viewsFirst fs []) bad s
  else
    let vs := os.map fun o => o.1.read s o.2
    let s' := (popsOf (os.map Prod.fst)).foldl (fun s q => doPop q s) s
    match vs.findSome? fun v => v.err with
    | some d => if inRa s then bad ⟨0x31, s.focus.addr⟩ s' else consume 0x31 d s
    | none => k vs s'

/-- A source operand of a vector form and how it is read. -/
abbrev VSrc := VOp × Fmt

/-- The common frame of the vector forms (R148): latency, guard, destination with its format, the sources with theirs, KE with its mask,
the mask of `vsel`, and the lane function on the lists of lanes. The extension's mask comes before the km field's for the cause of a
poisoned result (log 88). -/
def vecForm (L g : Nat) (f : Fmt) (d : VOp) (srcs : List VSrc) (e : VExt) (sel : Option Nat)
    (F : List (List Nat) → Mask → List Nat) (s : State) : State :=
  guarded g s fun s =>
  destReady d s fun s =>
  withSources (destFaults d s) (srcs.map fun o => (o.1, vecBytes o.2)) (poisonVec L f d) s fun vs s =>
  let tags := vs.map (fun v => v.tag) ++ [maskTag s e.ke e.km, maskTag s sel.isSome (sel.getD 0)]
  match firstTag tags with
  | some p => poisonVec L f d p s
  | none =>
    let xs := (srcs.zip vs).map fun x => toLanes x.1.2 128 x.2.bs
    postVec L f d e.ke (maskOf s e.ke e.km) (F xs (maskOf s sel.isSome (sel.getD 0))) s

end Sys2Proof.Machine
end

