-- ==== Sys2Proof/Machine/Flags.lean ====
section
/-! DEFINITION. Sys2Proof/Machine/Flags.lean: the results of compares and of predicate logic (R76, R114, R115, R153). The Z9 has no
flag register: a compare's result goes to a predicate pair or to a lane mask. -/

namespace Sys2Proof.Machine

/-- `cmp` and `cmpi` on 64-bit values: codes 4 and 5 are `.ltu` and `.geu` (R114). -/
def cmpHolds (c : Cond) (a b : DWord) : Bool :=
  match c with
  | .eq => a == b
  | .ne => a != b
  | .lt => decide (a.toInt < b.toInt)
  | .ge => decide (b.toInt ≤ a.toInt)
  | .c4 => decide (a.toNat < b.toNat)
  | .c5 => decide (b.toNat ≤ a.toNat)
  | .unord | .ord => false

/-- Floating-point compare of two values: codes 4 and 5 are `.le` and `.gt`; a NaN gives 0 but for `.ne` and `.unord` (R115). -/
def FVal.cmp (c : Cond) (a b : FVal) : Bool :=
  let un := a == .nan || b == .nan
  match c with
  | .eq => a.eq b
  | .ne => !a.eq b
  | .lt => a.lt b
  | .ge => b.lt a || b.eq a
  | .c4 => a.lt b || a.eq b
  | .c5 => b.lt a
  | .unord => un
  | .ord => !un

/-- Integer lane compare in the format's signedness: codes 4 and 5 are `.le` and `.gt` (R153). -/
def intCmp (c : Cond) (a b : Int) : Bool :=
  match c with
  | .eq => a == b
  | .ne => a != b
  | .lt => decide (a < b)
  | .ge => decide (b ≤ a)
  | .c4 => decide (a ≤ b)
  | .c5 => decide (b < a)
  | .unord | .ord => false

/-- A lane compare (R153). -/
def laneCmp (c : Cond) (f : Fmt) (x y : Nat) : Bool :=
  if f.isFloat then (unpack f x).cmp c (unpack f y) else intCmp c (laneInt f x) (laneInt f y)

/-- A list of bits as a lane mask, bit 0 first. -/
def toMask (bs : List Bool) : Mask := BitVec.ofNat 128 (bs.foldr (fun b n => (if b then 1 else 0) + 2 * n) 0)

/-- A compare posts its pair: the result, or poison from its first tagged source (R104, R114, R116). -/
def postPair (p : Nat) (c : Bool) (tag : Option Poison) (s : State) : State := post 2 (.pair p c tag) (journal 16 s)

end Sys2Proof.Machine
end

