-- ==== Sys2Proof/Machine/Scalar.lean ====
section
/-! DEFINITION. Sys2Proof/Machine/Scalar.lean: the X and Y forms of R74 (R107 to R113). -/

namespace Sys2Proof.Machine

/-- The frame of the scalar forms: sources read in the issue cycle, poison from the first tagged one, a result at latency L (R107, R110). -/
def scalarForm (L g d : Nat) (srcs : List Nat) (f : List DWord → DWord) (s : State) : State :=
  guarded g s fun s => postS L d (f (srcs.map (srcS s))) (firstTag (srcs.map (tagOfS s))) s

/-- A function of one, two or three source values on a list of them. -/
def un (f : DWord → DWord) (xs : List DWord) : DWord := f (xs.headD 0)
@[inherit_doc un] def bin (f : DWord → DWord → DWord) (xs : List DWord) : DWord := f (xs.getD 0 0) (xs.getD 1 0)
@[inherit_doc un] def tern (f : DWord → DWord → DWord → DWord) (xs : List DWord) : DWord := f (xs.getD 0 0) (xs.getD 1 0) (xs.getD 2 0)

/-- The functions of R107. -/
def mulhVal (x y : DWord) : DWord := BitVec.ofInt 64 (x.toInt * y.toInt / 2 ^ 64)
@[inherit_doc mulhVal] def shlVal (x y : DWord) : DWord := x <<< (y.toNat % 64)
@[inherit_doc mulhVal] def shrVal (x y : DWord) : DWord := x >>> (y.toNat % 64)
@[inherit_doc mulhVal] def sraVal (x y : DWord) : DWord := x.sshiftRight (y.toNat % 64)
@[inherit_doc mulhVal] def minVal (x y : DWord) : DWord := if x.toInt ≤ y.toInt then x else y
@[inherit_doc mulhVal] def maxVal (x y : DWord) : DWord := if x.toInt ≤ y.toInt then y else x
@[inherit_doc mulhVal] def clzVal (x : DWord) : DWord := if x.toNat = 0 then 64 else BitVec.ofNat 64 (63 - x.toNat.log2)
@[inherit_doc mulhVal] def popcVal (x : DWord) : DWord :=
  BitVec.ofNat 64 ((List.range 64).filter fun i => x.getLsbD i).length

/-- The functions of R108. -/
def movhiVal (imm : Nat) (x : DWord) : DWord := BitVec.ofNat 64 (x.toNat % 2 ^ 48 + imm * 2 ^ 48)
@[inherit_doc movhiVal] def sextVal (w : Nat) (x : DWord) : DWord := BitVec.ofInt 64 (signed w (x.toNat % 2 ^ w))
@[inherit_doc movhiVal] def zextVal (w : Nat) (x : DWord) : DWord := BitVec.ofNat 64 (x.toNat % 2 ^ w)
@[inherit_doc movhiVal] def bfxVal (pos len : Nat) (x : DWord) : DWord := BitVec.ofNat 64 (x.toNat / 2 ^ pos % 2 ^ len)
@[inherit_doc movhiVal] def bfiVal (pos len : Nat) (x old : DWord) : DWord :=
  BitVec.ofNat 64 (old.toNat - old.toNat / 2 ^ pos % 2 ^ len * 2 ^ pos + x.toNat % 2 ^ len * 2 ^ pos)

/-- `add` (R107). -/
def execAdd (g d a b : Nat) (s : State) : Host.Outcome State Fault Refusal := .next (scalarForm 1 g d [a, b] (bin (· + ·)) s)
/-- `sub` (R107). -/
def execSub (g d a b : Nat) (s : State) : Host.Outcome State Fault Refusal := .next (scalarForm 1 g d [a, b] (bin (· - ·)) s)
/-- `mul` (R107). -/
def execMul (g d a b : Nat) (s : State) : Host.Outcome State Fault Refusal := .next (scalarForm 3 g d [a, b] (bin (· * ·)) s)
/-- `mulh` (R107). -/
def execMulh (g d a b : Nat) (s : State) : Host.Outcome State Fault Refusal := .next (scalarForm 3 g d [a, b] (bin mulhVal) s)
/-- `and` (R107). -/
def execAnd (g d a b : Nat) (s : State) : Host.Outcome State Fault Refusal := .next (scalarForm 1 g d [a, b] (bin (· &&& ·)) s)
/-- `or` (R107). -/
def execOr (g d a b : Nat) (s : State) : Host.Outcome State Fault Refusal := .next (scalarForm 1 g d [a, b] (bin (· ||| ·)) s)
/-- `xor` (R107). -/
def execXor (g d a b : Nat) (s : State) : Host.Outcome State Fault Refusal := .next (scalarForm 1 g d [a, b] (bin (· ^^^ ·)) s)
/-- `shl` (R107). -/
def execShl (g d a b : Nat) (s : State) : Host.Outcome State Fault Refusal := .next (scalarForm 1 g d [a, b] (bin shlVal) s)
/-- `shr` (R107). -/
def execShr (g d a b : Nat) (s : State) : Host.Outcome State Fault Refusal := .next (scalarForm 1 g d [a, b] (bin shrVal) s)
/-- `sra` (R107). -/
def execSra (g d a b : Nat) (s : State) : Host.Outcome State Fault Refusal := .next (scalarForm 1 g d [a, b] (bin sraVal) s)
/-- `min` (R107). -/
def execMin (g d a b : Nat) (s : State) : Host.Outcome State Fault Refusal := .next (scalarForm 1 g d [a, b] (bin minVal) s)
/-- `max` (R107). -/
def execMax (g d a b : Nat) (s : State) : Host.Outcome State Fault Refusal := .next (scalarForm 1 g d [a, b] (bin maxVal) s)
/-- `clz` (R107). -/
def execClz (g d a : Nat) (s : State) : Host.Outcome State Fault Refusal := .next (scalarForm 1 g d [a] (un clzVal) s)
/-- `popc` (R107). -/
def execPopc (g d a : Nat) (s : State) : Host.Outcome State Fault Refusal := .next (scalarForm 1 g d [a] (un popcVal) s)

/-- `addi` (R108). -/
def execAddi (g d a : Nat) (imm : Int) (s : State) : Host.Outcome State Fault Refusal :=
  .next (scalarForm 1 g d [a] (un fun x => x + BitVec.ofInt 64 imm) s)
/-- `addi` with a widening extension (R108). -/
def execAddiWide (g d a : Nat) (imm : Int) (s : State) : Host.Outcome State Fault Refusal :=
  .next (scalarForm 1 g d [a] (un fun x => x + BitVec.ofInt 64 imm) s)
/-- `movi` (R108). -/
def execMovi (g d : Nat) (imm : Int) (s : State) : Host.Outcome State Fault Refusal :=
  .next (scalarForm 1 g d [] (fun _ => BitVec.ofInt 64 imm) s)
/-- `movi` with a widening extension (R108). -/
def execMoviWide (g d : Nat) (imm : Int) (s : State) : Host.Outcome State Fault Refusal :=
  .next (scalarForm 1 g d [] (fun _ => BitVec.ofInt 64 imm) s)
/-- `movhi` (R108): the destination is a source. -/
def execMovhi (g d imm : Nat) (s : State) : Host.Outcome State Fault Refusal := .next (scalarForm 1 g d [d] (un (movhiVal imm)) s)
/-- `sext` (R108). -/
def execSext (g d a w : Nat) (s : State) : Host.Outcome State Fault Refusal := .next (scalarForm 1 g d [a] (un (sextVal w)) s)
/-- `zext` (R108). -/
def execZext (g d a w : Nat) (s : State) : Host.Outcome State Fault Refusal := .next (scalarForm 1 g d [a] (un (zextVal w)) s)
/-- `bfx` (R108). -/
def execBfx (g d a pos len : Nat) (s : State) : Host.Outcome State Fault Refusal :=
  .next (scalarForm 1 g d [a] (un (bfxVal pos len)) s)
/-- `bfi` (R108): the destination is a source, read after sa (log 84). -/
def execBfi (g d a pos len : Nat) (s : State) : Host.Outcome State Fault Refusal :=
  .next (scalarForm 1 g d [a, d] (bin (bfiVal pos len)) s)
/-- `madd` (R108). -/
def execMadd (g d a b c : Nat) (s : State) : Host.Outcome State Fault Refusal :=
  .next (scalarForm 3 g d [a, b, c] (tern fun x y z => x * y + z) s)

/-! ### Loads and stores (R109) -/

/-- Bytes of an access size code (R74). -/
def szBytes (sz : Nat) : Nat := if sz = 0 then 1 else if sz = 1 then 4 else 8

/-- The exact address of a scalar load or store (R109). -/
def scalarEa (s : State) (a sz : Nat) (off : Int) : Int := lowHalf (srcS s a) + off * szBytes sz

/-- `sld` (R109, R110): bytes read at T + 3, visible at T + 8; a tagged address or a fault in run-ahead gives poison. -/
def scalarLoad (g d a sz : Nat) (off : Int) (s : State) : State :=
  guarded g s fun s =>
  match tagOfS s a with
  | some p => postS 8 d 0 (some p) s
  | none =>
    let ea := scalarEa s a sz off
    let n := szBytes sz
    match addrFault s (highSet (srcS s a)) ea n n false (inLocal ea n) with
    | some x => softFault 0x10 x (fun p => postS 8 d 0 (some p) s) s
    | none =>
      match errorIn s s.focus.core ea.toNat n with
      | some x => if inRa s then postS 8 d 0 (some ⟨0x31, s.focus.addr⟩) s else consume 0x31 x s
      | none => post 8 (.loadS d ⟨[(ea.toNat, n)], [], none⟩ (s.cycle + 3)) (journalS d s)

/-- A store of bytes at a core-local address, performed at T + 3 (R62): into the scratchpad, into the register space as a pending write,
or into the kitty while it holds or drains (R252, R254). -/
def storeBytes (kitty : Bool) (a : Nat) (bs : List Nat) (s : State) : State :=
  if kitty then
    updFocus (updCore s s.focus.core fun c => { c with kitty := c.kitty ++ [.store s.cycle s.focus.slot [(a, bs)] none []] })
      fun f => { f with kentries := f.kentries + 1 }
  else if inReg a bs.length then post 3 (.bytes [(a, bs)] none (some s.cycle)) s
  else updCore s s.focus.core fun c => { c with stores := c.stores ++ [⟨s.cycle + 3, s.cycle, s.focus.slot, .bytes a bs⟩] }

/-- `sst` (R109 to R111): held in the kitty during run-ahead and while the kitty drains. -/
def scalarStore (g v a sz : Nat) (off : Int) (s : State) : State :=
  guarded g s fun s =>
  unlessTagged [tagOfS s v, tagOfS s a] s fun s =>
  let ea := scalarEa s a sz off
  let n := szBytes sz
  match addrFault s (highSet (srcS s a)) ea n n true (inLocal ea n) with
  | some x => hardFault 0x10 x s
  | none => storeBytes (inRa s || draining s) ea.toNat (leBytes n (srcS s v).toNat) s

/-- `sld` (R109). -/
def execSld (g d a sz : Nat) (off : Int) (s : State) : Host.Outcome State Fault Refusal := .next (scalarLoad g d a sz off s)
/-- `sld` with a widening extension (R109). -/
def execSldWide (g d a sz : Nat) (off : Int) (s : State) : Host.Outcome State Fault Refusal := .next (scalarLoad g d a sz off s)
/-- `sst` (R109). -/
def execSst (g v a sz : Nat) (off : Int) (s : State) : Host.Outcome State Fault Refusal := .next (scalarStore g v a sz off s)
/-- `sst` with a widening extension (R109). -/
def execSstWide (g v a sz : Nat) (off : Int) (s : State) : Host.Outcome State Fault Refusal := .next (scalarStore g v a sz off s)

/-! ### System registers (R112, R113) -/

/-- `sys.bcast` (R38). -/
def bcastWord (cx : Ctx) : Nat :=
  if cx.bcast then 1 + (cx.skew.zipIdx.map fun x => x.1 % 16 * 2 ^ (4 * x.2 + 4)).sum else 0

/-- `sys.wsref` (R197). -/
def wsrefWord (md : Module) : Nat := md.cfg.wsPhase % 65536 + 0x0FA0 * 2 ^ 16 + 0x320 * 2 ^ 32 + 0xF * 2 ^ 44

/-- The code of a discipline state (R272). -/
def Disc.code : Disc → Nat
  | .free => 0 | .acquiring => 1 | .locked => 2 | .holdover => 3

/-- A system register of a core as it stands (R113). -/
def sysRead (s : State) (k n : Nat) : Nat :=
  let c := getCore s k
  let cl := getCluster s (clusterOf k)
  let md := getMod s (modOf k)
  let cx := cl.ctx
  if n = 0x000 then (if c.seq == .off then 0 else rankOf k)
  else if n = 0x001 then cx.lcl
  else if n = 0x002 then cx.ncl
  else if n = 0x003 then (if c.seq == .off then 0 else coreNo k)
  else if n = 0x004 then cx.lid
  else if n = 0x005 then cx.job
  else if n = 0x006 then cx.member
  else if n = 0x007 then cx.nmembers
  else if n = 0x008 then bcastWord cx
  else if n = 0x009 then cx.nranks
  else if n = 0x00A then cl.part
  else if n = 0x010 then c.sched % 2 ^ 64
  else if n = 0x011 then c.loops.length
  else if 0x012 ≤ n ∧ n ≤ 0x017 then ((c.loops.reverse[n - 0x012]?).map fun l => l.count).getD 0
  else if n = 0x020 then dieTime s (dieOf k) % 2 ^ 64
  else if n = 0x021 then md.time.disc.code
  else if n = 0x022 then wsrefWord md
  else if n = 0x030 then c.trapcause
  else if n = 0x031 then c.trapaddr
  else if n = 0x032 then c.trapdetail % 2 ^ 32
  else if n = 0x033 then c.trapmask
  else if n = 0x034 then c.tvec
  else if n = 0x035 then c.regions.length
  else if n = 0x040 then cx.level
  else if n = 0x041 then cx.code
  else if n = 0x050 then c.mtol
  else if 0x060 ≤ n ∧ n ≤ 0x067 then Tbl.get 0 c.evsel (n - 0x060)
  else if 0x068 ≤ n ∧ n ≤ 0x06F then Tbl.get 0 c.evcnt (n - 0x068)
  else 0

/-- A `wrsys` takes effect on a core (R112, R113, R399): fields have the register's width, and reserved bits of a select word stay 0. -/
def Core.sysWrite (c : Core) (n v : Nat) : Core :=
  if n = 0x034 then { c with tvec := v % 2 ^ 32 }
  else if n = 0x050 then { c with mtol := v % 2 ^ 6 + v / 2 ^ 8 % 4 * 2 ^ 8 }
  else if 0x060 ≤ n ∧ n ≤ 0x067 then { c with evsel := Tbl.set c.evsel (n - 0x060) (v % 2 ^ 9) }
  else if 0x068 ≤ n ∧ n ≤ 0x06F then { c with evcnt := Tbl.set c.evcnt (n - 0x068) (v % 2 ^ 64) }
  else c

/-- `rdsys` (R112). -/
def execRdsys (g d n : Nat) (s : State) : Host.Outcome State Fault Refusal :=
  .next (guarded g s fun s => postS 1 d (BitVec.ofNat 64 (sysRead s s.focus.core n)) none s)
/-- `wrsys` (R111, R112): effective from T + 1; stalls in run-ahead (R252). -/
def execWrsys (g a n : Nat) (s : State) : Host.Outcome State Fault Refusal :=
  .next (guarded g s fun s => notInRa s fun s => unlessTagged [tagOfS s a] s fun s => post 1 (.sysw n (srcS s a).toNat) s)

end Sys2Proof.Machine
end

