-- ==== Sys2Proof/Machine/Agree.lean ====
section
/-! DEFINITION. Sys2Proof/Machine/Agree.lean: the agreement instructions (R238 to R249, R260, R261) and `xchk` (R250). -/

namespace Sys2Proof.Machine

/-! ### Channels, places and call records -/

/-- The declaration of a channel of a job (R239). -/
def declOf (j : Job) (ch : Nat) : Option Decl := j.decls.find? fun d => d.ch == ch

/-- The root's state of a channel. -/
def channelOf (j : Job) (ch : Nat) : Channel := Tbl.get .fresh j.chans ch

/-- The job with a function applied to a channel. -/
def Job.updChannel (j : Job) (ch : Nat) (f : Channel → Channel) : Job := { j with chans := Tbl.set j.chans ch (f (channelOf j ch)) }

/-- A call record (R244). -/
def callRecord (value : Nat) (arm late dead mism abs sat flt : Bool) (present seq : Nat) : Nat :=
  value % 2 ^ 16 + b2n arm * 2 ^ 16 + b2n late * 2 ^ 17 + b2n dead * 2 ^ 18 + b2n mism * 2 ^ 19 + b2n abs * 2 ^ 20 + b2n sat * 2 ^ 21 +
  b2n flt * 2 ^ 22 + present % 2 ^ 19 * 2 ^ 24 + seq % 2 ^ 16 * 2 ^ 48

/-- The result of `agree` in sx from a call's VALUE (R248): signed for min, max and sum. -/
def agreeResult (sgn : Bool) (value : Nat) : DWord := if sgn then BitVec.ofInt 64 (signed 16 value) else BitVec.ofNat 64 value

/-- The place is that of a core's sequencer in a launch of the core's module: with the core's cluster and rank, what identifies a member (R238). -/
def Place.isOf (p : Place) (core uid : Nat) : Bool := p.core == core && p.uid == uid

/-- The places of a channel on a member that are not finished (R242). -/
def Channel.live (c : Channel) : List Place := c.places.filter fun p => !p.finished

/-- The held places expected in trick n: those on members still in the group that were empty before, or whose joining bid reached the root in
time (R242). -/
def expectedIn (j : Job) (c : Channel) (n : Nat) : List Place :=
  c.live.filter fun p => !j.dead.contains p.member &&
    (p.fresh || match p.from_ with | some m => decide ((n + 2 ^ 32 - m) % 2 ^ 32 < 2 ^ 31) | none => false)

/-- The empty places, by member: they are not finished, so a trick expects them (R242; "Common mistakes" of the agreed residual program). -/
def emptyPlaces (j : Job) (npm : Nat) (c : Channel) : List (Nat × Nat) :=
  (((List.range j.members.length).filter fun i => !j.dead.contains i).map fun i => (i, npm - (c.places.filter fun p => p.member == i).length)).filter
    fun x => x.2 != 0

/-- A place for a core: the lowest empty one, else the lowest finished one (R238); none where all are held. -/
def freePlace (c : Channel) (member npm : Nat) : Option Nat :=
  let on := c.places.filter fun p => p.member == member
  match (List.range npm).find? fun n => !on.any fun p => p.place == n with
  | some n => some n
  | none => (List.range npm).find? fun n => on.any fun p => p.place == n && p.finished

/-- The channel with a place given to a core (R238). -/
def takePlace (member n core uid : Nat) (c : Channel) : Channel :=
  let fresh := !c.places.any fun p => p.member == member && p.place == n
  { c with places := ⟨member, n, false, core, uid, fresh, none⟩ :: c.places.filter fun p => !(p.member == member && p.place == n) }

/-- Cycles from a bid to the root and from the root to a member, at most: half the bound of R245 for where the members lie. 1,800 ns of module time pass
in 3,418 whole cycles at the fastest rate (R4, R266). -/
def halfBound (k : Nat) (others : List Nat) : Nat :=
  if others.all fun o => clusterOf o == clusterOf k then 12
  else if others.all fun o => dieOf o == dieOf k then 32
  else if others.all fun o => modOf o == modOf k then 128
  else 128 + 1709

/-- The channel words of a core (R241). -/
def chanOf (c : Core) (ch : Nat) : Chan := Tbl.get .zero c.chans ch

/-- The core with a function applied to its words of a channel. -/
def Core.updChan (c : Core) (ch : Nat) (f : Chan → Chan) : Core := { c with chans := Tbl.set c.chans ch (f (chanOf c ch)) }

/-- An item in flight by its number, once it is due. -/
def dueFlight (s : State) : Option Flight := s.flights.find? fun f => f.id == s.place && decide (f.due ≤ s.cycle)

/-- An item in flight has arrived. -/
def landFlight (s : State) : State := { s with flights := s.flights.filter fun f => f.id != s.place }

/-- The module that holds the root of a job's channels and of its halt wave: that of its lowest-numbered member not declared dead
(R242, R368). -/
def rootModule (j : Job) : Nat :=
  match (List.range j.members.length).find? fun i => !j.dead.contains i with
  | some i => moduleOf j i
  | none => moduleOf j 0

/-- The modules between which an item travels, whether it is of the control class, and its flits (R311): a read's answer is counted with it. A completion
is counted where it arrives (log 114). -/
def flitsOf (s : State) : FKind → Nat × Nat × Bool × Nat
  | .access m _ op c _ => (c / 96, m, false, flitsFor (match op with | .read n => n | .write bs => bs.length))
  | .atomic m _ c _ _ => (c / 96, m, false, flitsFor 8)
  | .window member job _ _ bs _ c _ => (c / 96, match getJob s job with | some j => moduleOf j member | none => c / 96, false, flitsFor bs.length)
  | .fold m _ _ _ bs c _ => (c / 96, m, false, flitsFor bs.length)
  | .contribution m k => (k.from_.1 / 96, m, false, 1)
  | .signal m g => (g.from_.1 / 96, m, true, 1)
  | .bid job _ k .. => (modOf k, match getJob s job with | some j => rootModule j | none => modOf k, true, 1)
  | .call job _ k .. => (match getJob s job with | some j => rootModule j | none => modOf k, modOf k, true, 1)
  | .graphDone c .. => (c / 96, c / 96, false, 1)

/-- An item put in flight, to arrive in a number of cycles. -/
def launchFlight (due : Nat) (k : FKind) (s : State) : State :=
  let (n, s) := newId s
  let f := flitsOf s k
  let s := countFlits f.1 f.2.1 f.2.2.1 f.2.2.2 s
  { s with flights := s.flights ++ [⟨n, due, false, k⟩] }

/-! ### Bidding (R247, R248, R260) -/

/-- The run-ahead that a bid would begin, less what the completion of its bundle adds (R247, R248, R251). -/
def runAheadOf (ch : Nat) (agree : Bool) (sx guess : Nat) (sgn : Bool) (addr takenPc jb : Nat) : RunAhead :=
  { ch := ch, agree := agree, sx := sx, guess := guess, signedCall := sgn, addr := addr, fallPc := 0, fallXfer := false, fallEnd := false,
    loops := [], takenPc := takenPc, takenLoops := [], idleTo := 0, shadow := .clean, jbytes := jb, old := 0, sched0 := 0,
    issued := 0, mask := 0, call := none }

/-- A group of one resolves at issue: the root closes the trick (R260). -/
def resolveAlone (job ch k uid n : Nat) (record : Nat) (s : State) : State :=
  let s := updJob s job fun j => j.updChannel ch fun c =>
    { c with n := (n + 1) % 2 ^ 32, dead := false, history := ((n, record) :: c.history).take 64,
             places := c.places.map fun p => if p.isOf k uid ∧ !p.finished then { p with from_ := some n } else p }
  let s := updCore s k fun c => c.updChan ch fun x => { x with call := record, seq := (n + 1) % 2 ^ 32 }
  countCore s k 0x0C 1

/-- A trick of the issuing core (R242, R247, R248): `sig` its signature, v its bid, `alone` what follows a group of one with the call's
value, `bidden` what follows a bid that is on its way. The tag of the bid is tested after details 1 and 4 (R247). -/
def bidForm (ch sig : Nat) (v : Int) (tag : Option Poison) (alone bidden : State → State) (s : State) : State :=
  let k := s.focus.core
  let cx := (getCluster s (clusterOf k)).ctx
  match getJob s cx.job with
  | none => raise 0x16 1 s
  | some j =>
    match declOf j ch with
    | none => raise 0x16 1 s
    | some d =>
      let c := channelOf j ch
      let x := chanOf (focusCore s) ch
      if x.failed || c.failed then raise 0x16 4 s else
      unlessTagged [tag] s fun s =>
      match (if x.enr then some x.place else freePlace c cx.member d.npm) with
      | none => raise 0x16 2 s
      | some place =>
        let s := if x.enr then s else
          updCore (updJob s cx.job fun j => j.updChannel ch (takePlace cx.member place k cx.uid)) k
            fun c => c.updChan ch fun y => { y with enr := true, place := place }
        let c' := channelOf ((getJob s cx.job).getD j) ch
        let expected := expectedIn j c' (if x.enr then x.seq else c.n)
        let held := expected.map fun p => p.core
        let empty := emptyPlaces j d.npm c'
        let others := held ++ (empty.filter fun y => y.1 != cx.member).map fun y => 768 * moduleOf j y.1
        if !c.gather && !j.dead.contains cx.member && (!x.enr || x.seq == c.n) && expected.all (fun p => p.isOf k cx.uid) && empty.isEmpty then
          alone (resolveAlone cx.job ch k cx.uid (if x.enr then x.seq else c.n)
            (callRecord (wrap 16 v) (sig == 0 && v == 1) false c.dead false false false false 1 (if x.enr then x.seq else c.n)) s)
        else
          let (dly, s) := openValue 1 (halfBound k others) s
          let s := updCore s k fun c => c.updChan ch fun y =>
            { y with outst := true, seq := if x.enr then (y.seq + 1) % 2 ^ 32 else y.seq }
          bidden (countCore (launchFlight (s.cycle + dly)
            (.bid cx.job ch k cx.uid (!x.enr) x.seq sig v (dieTime s (dieOf k))) s) k 0x0C 1)

/-- What the E slot asks of the position. -/
def setECtl (e : ECtl) (s : State) : State := updFocus s fun f => { f with ectl := e }

/-- `abr` (R247). -/
def abrForm (g ch p : Nat) (h : Bool) (disp : Int) (s : State) : State :=
  guarded g s fun s => notInRa s fun s =>
  let v := b2n ((focusCore s).regs.getP p)
  let taken := wrap 32 (s.focus.addr + 4 * disp)
  bidForm ch 0 v ((focusCore s).regs.tagP p)
    (fun s => if v = 1 then setECtl (.arm taken) s else s)
    (fun s => setECtl (.call (runAheadOf ch false 0 (b2n h) false s.focus.addr taken 0) h) s) s

/-- A scalar result of the run-ahead that the bundle begins (R248). -/
def postRa (d : Nat) (v : DWord) (s : State) : State :=
  updCore s s.focus.core fun c => { c with pend := c.pend ++ [⟨s.cycle + 1, s.cycle, s.focus.slot, true, .sreg d v none⟩] }

/-- `agree` (R248): op 0 to 4 is and, or, min, max, sum. -/
def agreeForm (op g ch x : Nat) (s : State) : State :=
  guarded g s fun s => notInRa s fun s =>
  let sgn := decide (2 ≤ op)
  let low := (srcS s x).toNat % 2 ^ 16
  let v : Int := if sgn then signed 16 low else ((low % 2 : Nat) : Int)
  let guess := if sgn then low else low % 2
  bidForm ch (1 + op) v (tagOfS s x)
    (fun s => postS 1 x (agreeResult sgn guess) none s)
    (fun s => setECtl (.call (runAheadOf ch true x guess sgn s.focus.addr 0 16) false) (postRa x (agreeResult sgn guess) s)) s

/-- `acall` (R249). -/
def acallForm (g d ch : Nat) (s : State) : State :=
  guarded g s fun s => notInRa s fun s =>
  match (getJob s (getCluster s (clusterOf s.focus.core)).ctx.job).bind fun j => declOf j ch with
  | none => raise 0x16 1 s
  | some _ => postS 1 d (BitVec.ofNat 64 (chanOf (focusCore s) ch).call) none s

/-- The deferred fault of a tag is taken in the slot (R250): an uncorrectable error unwinds (R365). -/
def takeTag (p : Poison) (s : State) : State :=
  if p.cause = 0x30 ∨ p.cause = 0x31 then consume p.cause p.addr s else raise p.cause p.addr s

/-- `xchk` (R250): cls 0 a scalar, 1 to 3 a vector, tile or accumulator view. -/
def xchkForm (g cls idx : Nat) (s : State) : State :=
  guarded g s fun s => notInRa s fun s =>
  if cls = 0 then
    match tagOfS s idx with
    | some p => takeTag p s
    | none => s
  else
    let v := viewOf (focusCore s) (cls - 1) idx
    if !v.cfg then raise 0x11 1 s else
    match viewTag (focusCore s) v v.extent with
    | some p => takeTag p s
    | none => s

/-- `abr` (R247). -/
def execAbr (g ch p : Nat) (h : Bool) (disp : Int) (s : State) : Host.Outcome State Fault Refusal := .next (abrForm g ch p h disp s)
/-- `abr` with a widening extension (R247). -/
def execAbrWide (g ch p : Nat) (h : Bool) (disp : Int) (s : State) : Host.Outcome State Fault Refusal := .next (abrForm g ch p h disp s)
/-- `agree` and (R248). -/
def execAgreeAnd (g ch x : Nat) (s : State) : Host.Outcome State Fault Refusal := .next (agreeForm 0 g ch x s)
/-- `agree` or (R248). -/
def execAgreeOr (g ch x : Nat) (s : State) : Host.Outcome State Fault Refusal := .next (agreeForm 1 g ch x s)
/-- `agree` min (R248). -/
def execAgreeMin (g ch x : Nat) (s : State) : Host.Outcome State Fault Refusal := .next (agreeForm 2 g ch x s)
/-- `agree` max (R248). -/
def execAgreeMax (g ch x : Nat) (s : State) : Host.Outcome State Fault Refusal := .next (agreeForm 3 g ch x s)
/-- `agree` sum (R248). -/
def execAgreeSum (g ch x : Nat) (s : State) : Host.Outcome State Fault Refusal := .next (agreeForm 4 g ch x s)
/-- `acall` (R249). -/
def execAcall (g d ch : Nat) (s : State) : Host.Outcome State Fault Refusal := .next (acallForm g d ch s)
/-- `xchk` (R250). -/
def execXchk (g cls idx : Nat) (s : State) : Host.Outcome State Fault Refusal := .next (xchkForm g cls idx s)

end Sys2Proof.Machine
end

