-- ==== Sys2Proof/Machine/Root.lean ====
section
/-! DEFINITION. Sys2Proof/Machine/Root.lean: agreement channels at their roots (R242 to R246, R257 to R259): bids, tricks, deadlines and dead
members. -/

namespace Sys2Proof.Machine

/-- The signature of a trick whose bids all came from tricks ahead: no bid of its own has fixed one (R242). -/
def noSig : Nat := 16

/-- A member counted with ABSV contributes it in the bid's form (R243). -/
def absValue (sig absv : Nat) : Int := if sig ≤ 2 then ((absv % 2 : Nat) : Int) else signed 16 absv

/-- The value of a trick from its contributions, and whether a sum was clamped (R243): `bop` is the declaration's operation of `abr`. -/
def combine (sig bop : Nat) (vs : List Int) : Int × Bool :=
  let conj : Int := if vs.all fun v => v == 1 then 1 else 0
  let disj : Int := if vs.any fun v => v == 1 then 1 else 0
  if sig = 1 then (conj, false)
  else if sig = 2 then (disj, false)
  else if sig = 3 then (vs.foldl min (vs.headD 0), false)
  else if sig = 4 then (vs.foldl max (vs.headD 0), false)
  else if sig = 5 then
    let t := vs.sum
    (max (-32768) (min 32767 t), decide (t < -32768) || decide (32767 < t))
  else (if bop = 0 then conj else disj, false)

/-- How many expected members have not bid. -/
def missing (j : Job) (d : Decl) (c : Channel) : Nat :=
  ((expectedIn j c c.n).filter fun p => !c.bids.any fun b => p.isOf b.core b.uid).length + ((emptyPlaces j d.npm c).map Prod.snd).sum

/-- An agreement fault that a call raises at its member (R257, R259): its detail stands above the record's 64 bits. -/
def withDetail (record detail : Nat) : Nat := record + detail * 2 ^ 64

/-- A call on its way to a member that has bid (R245). -/
def sendCall (job ch core uid record trick : Nat) (others : List Nat) (s : State) : State :=
  let (d, s) := openValue 1 (halfBound core others) s
  launchFlight (s.cycle + d) (.call job ch core uid record trick) s

/-- A trick resolves at its root (R243, R246): `absent` members are counted as ABSV, `flt` is the detail of an agreement fault. The value of a
trick that resolves as a fault is stated nowhere: it is open (log 9). -/
def resolve (job ch absent : Nat) (flt : Option Nat) (s : State) : State :=
  match getJob s job with
  | none => s
  | some j =>
    match declOf j ch with
    | none => s
    | some d =>
      let c := channelOf j ch
      let vs := (c.bids.map fun b => if b.absv then absValue c.sig d.absv else b.v) ++ List.replicate absent (absValue c.sig d.absv)
      let (v, sat) := combine c.sig d.bop vs
      let (x, s) := if flt.isSome then openValue 0 (if c.sig ≤ 2 then 1 else 65535) s else (wrap 16 v, s)
      let isAbr := c.sig == 0 || c.sig == noSig
      let record := callRecord x (isAbr && x == 1) false c.dead c.mism (absent != 0) sat flt.isSome c.bids.length c.n
      let full := withDetail record (flt.getD 0)
      let s := updJob s job fun j => j.updChannel ch fun c =>
        { c with n := (c.n + 1) % 2 ^ 32, gather := false, bids := [], mism := false, dead := false, history := ((c.n, full) :: c.history).take 64 }
      let cores := c.bids.map fun b => b.core
      c.bids.foldl (fun s b => sendCall job ch b.core b.uid full c.n cores s) s

/-- A gathering trick resolves once every expected member has bid (R246). -/
def settle (job ch : Nat) (s : State) : State :=
  match getJob s job with
  | none => s
  | some j => match declOf j ch with
    | some d => if (channelOf j ch).gather && missing j d (channelOf j ch) == 0 then resolve job ch 0 none s else s
    | none => s

/-- Places become finished (R238): a trick that waited for no other member resolves. -/
def finishPlaces (job : Nat) (which : Place → Bool) (s : State) : State :=
  let s := updJob s job fun j => { j with chans := j.chans.map fun x =>
    (x.1, { x.2 with places := x.2.places.map fun p => if which p then { p with finished := true } else p }) }
  (List.range 8).foldl (fun s ch => settle job ch s) s

/-- A bid enters the open or gathering trick; `absv` where it mismatches. -/
def enterBid (job ch core uid member : Nat) (joining : Bool) (sig : Nat) (v : Int) (t0 frozen : Nat) (absv : Bool) (s : State) : State :=
  updJob s job fun j => j.updChannel ch fun c =>
    { c with gather := true
             sig := if !c.gather || c.sig == noSig then (if absv then noSig else sig) else c.sig
             bids := c.bids ++ [⟨core, uid, member, v, absv⟩]
             t0 := if c.gather then c.t0 else t0
             frozen0 := if c.gather then c.frozen0 else frozen
             mism := c.mism || absv
             places := c.places.map fun p => if joining && p.isOf core uid && !p.finished then { p with from_ := some c.n } else p }

/-- A bid reaches the root (R242, R246, R257, R258). -/
def bidArrives (job ch core uid : Nat) (joining : Bool) (seq sig : Nat) (v : Int) (t0 : Nat) (s : State) : State :=
  match getJob s job with
  | none => s
  | some j =>
    let c := channelOf j ch
    let member := memberOf j (modOf core)
    let known := c.live.any fun p => p.isOf core uid
    let behind := !joining && seq != c.n && decide ((c.n + 2 ^ 32 - seq) % 2 ^ 32 < 2 ^ 31)
    let ahead := !joining && seq != c.n && !behind
    if j.dead.contains member || !known then s
    else if behind then
      match c.history.find? fun h => h.1 == seq with
      | some h => sendCall job ch core uid (h.2 + 2 ^ 17) seq [core] s
      | none => sendCall job ch core uid (withDetail 0 5) seq [core] s
    else if c.failed then sendCall job ch core uid (withDetail (callRecord 0 false false false false false false true 0 c.n) 4) c.n [core] s
    else
      let mism := ahead || (c.gather && c.sig != noSig && sig != c.sig)
      let frozen := (jobSlot s (rootModule j) job).total
      let s := enterBid job ch core uid member joining sig v t0 frozen mism s
      let s := if mism then
          fireWave (rootModule j) job
            { cause := 0x50, count := 0, detail := ch, member := member, core := coreNo core, addr := match (getCore s core).ra with | some r => r.addr | none => 0,
              time := timeOf s (modOf core), sched := (getCore s core).sched } s
        else s
      settle job ch s

/-- BID_ARRIVAL (R246). -/
def execBidArrival (s : State) : Host.Outcome State Fault Refusal :=
  .next (match dueFlight s with
    | some ⟨_, _, _, .bid job ch core uid joining seq sig v t0⟩ =>
      let root := match getJob s job with | some j => rootModule j | none => 0
      if receiversHeld s root job then s else bidArrives job ch core uid joining seq sig v t0 (landFlight s)
    | _ => s)

/-- The deadline of a gathering trick has passed at its root (R257). -/
def deadlinePassed (s : State) (j : Job) (d : Decl) (c : Channel) : Bool :=
  let sl := jobSlot s (rootModule j) j.id
  c.gather && d.late != 0 && !sl.stopped && decide (c.t0 + d.deadline + (sl.total - c.frozen0) ≤ timeOf s (rootModule j))

/-- AGREEMENT_DEADLINE_EXPIRY (R246, R257). -/
def execAgreementDeadlineExpiry (job ch : Nat) (s : State) : Host.Outcome State Fault Refusal :=
  .next (match getJob s job with
    | none => s
    | some j =>
      match declOf j ch with
      | none => s
      | some d =>
        let c := channelOf j ch
        if !deadlinePassed s j d c then s
        else if d.late = 1 then resolve job ch (missing j d c) none s
        else resolve job ch 0 (some 3) s)

/-- FAILED in the state words of every sequencer of the job (R241). -/
def markFailed (job ch : Nat) (s : State) : State :=
  { s with cores := s.cores.map fun x =>
      let cl := getCluster s (clusterOf x.1)
      if cl.task != .none && cl.ctx.job == job then (x.1, x.2.updChan ch fun y => { y with failed := true }) else x }

/-- A member is declared dead for a job (R259): with SHRINK it leaves every channel, without it the channels fail. -/
def killMember (job member : Nat) (s : State) : State :=
  match getJob s job with
  | none => s
  | some j =>
    if j.members.length ≤ member ∨ j.dead.contains member then s else
    let s := updJob s job fun j => { j with dead := j.dead ++ [member] }
    j.decls.foldl (fun s d =>
      if d.shrink then settle job d.ch (updJob s job fun j => j.updChannel d.ch fun c => { c with dead := true })
      else
        let open_ := (channelOf j d.ch).gather
        let s := if open_ then resolve job d.ch 0 (some 4) s else s
        markFailed job d.ch (updJob s job fun j => j.updChannel d.ch fun c => { c with failed := true })) s

end Sys2Proof.Machine
end

