-- ==== Sys2Proof/Machine/Compare.lean ====
section
/-! DEFINITION. Sys2Proof/Machine/Compare.lean: the C-slot forms (R76, R104, R114 to R116). -/

namespace Sys2Proof.Machine

/-- A C-slot form on scalar sources. -/
def compareForm (g p : Nat) (srcs : List Nat) (f : List DWord → Bool) (s : State) : State :=
  guarded g s fun s => postPair p (f (srcs.map (srcS s))) (firstTag (srcs.map (tagOfS s))) s

/-- A C-slot form on two predicates, each inverted where its bit is set. -/
def predForm (g p a b : Nat) (na nb : Bool) (f : Bool → Bool → Bool) (s : State) : State :=
  guarded g s fun s =>
    let r := (focusCore s).regs
    postPair p (f (r.getP a != na) (r.getP b != nb)) (firstTag [r.tagP a, r.tagP b]) s

/-- A C-slot form on a lane mask. -/
def maskForm (g p km : Nat) (f : Mask → Bool) (s : State) : State :=
  guarded g s fun s => postPair p (f ((focusCore s).regs.getK km)) ((focusCore s).regs.tagK km) s

/-- The low bits of a scalar as an encoding of a format (R114). -/
def lowLane (f : Fmt) (x : DWord) : Nat := x.toNat % 2 ^ laneBits f

/-- `cmp` (R114). -/
def execCmp (g p : Nat) (cond : Cond) (a b : Nat) (s : State) : Host.Outcome State Fault Refusal :=
  .next (compareForm g p [a, b] (fun xs => cmpHolds cond (xs.getD 0 0) (xs.getD 1 0)) s)
/-- `cmpi` (R114). -/
def execCmpi (g p : Nat) (cond : Cond) (a : Nat) (imm : Int) (s : State) : Host.Outcome State Fault Refusal :=
  .next (compareForm g p [a] (fun xs => cmpHolds cond (xs.getD 0 0) (BitVec.ofInt 64 imm)) s)
/-- `cmpi` with a widening extension (R114). -/
def execCmpiWide (g p : Nat) (cond : Cond) (a : Nat) (imm : Int) (s : State) : Host.Outcome State Fault Refusal :=
  .next (compareForm g p [a] (fun xs => cmpHolds cond (xs.getD 0 0) (BitVec.ofInt 64 imm)) s)
/-- `fcmp` (R114, R115). -/
def execFcmp (g p : Nat) (cond : Cond) (f : Fmt) (a b : Nat) (s : State) : Host.Outcome State Fault Refusal :=
  .next (compareForm g p [a, b]
    (fun xs => (unpack f (lowLane f (xs.getD 0 0))).cmp cond (unpack f (lowLane f (xs.getD 1 0)))) s)
/-- `pand` (R114). -/
def execPand (g p a b : Nat) (na nb : Bool) (s : State) : Host.Outcome State Fault Refusal :=
  .next (predForm g p a b na nb (· && ·) s)
/-- `por` (R114). -/
def execPor (g p a b : Nat) (na nb : Bool) (s : State) : Host.Outcome State Fault Refusal :=
  .next (predForm g p a b na nb (· || ·) s)
/-- `pxor` (R114). -/
def execPxor (g p a b : Nat) (na nb : Bool) (s : State) : Host.Outcome State Fault Refusal :=
  .next (predForm g p a b na nb (· != ·) s)
/-- `vany` (R114). -/
def execVany (g p km : Nat) (s : State) : Host.Outcome State Fault Refusal := .next (maskForm g p km (fun m => m != 0) s)
/-- `vall` (R114). -/
def execVall (g p km : Nat) (s : State) : Host.Outcome State Fault Refusal :=
  .next (maskForm g p km (fun m => m == BitVec.allOnes 128) s)

end Sys2Proof.Machine
end

