-- ==== Sys2Proof/Machine/Control.lean ====
section
/-! DEFINITION. Sys2Proof/Machine/Control.lean: the forms of the X slot alone (R75, R117 to R122). A control form only records what it
asks of the position; it takes effect when its bundle completes (R358). In broadcast mode a core other than the lead follows the lead's
outcome (R39). -/

namespace Sys2Proof.Machine

/-- The word of code at an address, and the choice of R29 where a kernel has stored over its code: the bytes as they stood when the
launch began, or as stored. -/
def codeBytes (k a n : Nat) (s : State) : List Nat × State :=
  if inScratch a n then
    let cl := getCluster s (clusterOf k)
    let old := Mem.read cl.codeOld a n
    let new := readScratch cl a n
    if old = new then (new, s) else
      let (x, s) := openValue 0 1 s
      (if x = 0 then old else new, s)
  else (Mem.read (getDie s (dieOf k)).weights a n, s)

/-- A range of fetch addresses (R28). -/
def inFetch (a n : Nat) : Bool := inScratch a n || inWeight a n

/-- The target of a displacement (R83, R117). -/
def dispTarget (s : State) (disp : Int) : Int := s.focus.addr + 4 * disp

/-- What the X slot asks of the position. -/
def setCtl (c : Ctl) (s : State) : State := updFocus s fun f => { f with ctl := c }

/-- A control form: a follower takes the lead's outcome, any other core acts under its own guard (R39, R59). -/
def controlForm (g : Nat) (s : State) (k : State → State) : State :=
  match s.focus.follow with
  | some c => setCtl c s
  | none => guarded g s k

/-- A transfer to a displacement's target. -/
def brForm (g : Nat) (disp : Int) (s : State) : State :=
  controlForm g s fun s => setCtl (.jump (wrap 32 (dispTarget s disp)) 1 false) s

/-- A transfer to a register's value (R117): nonzero upper bits fault at the fetch of the target. -/
def regForm (g a kind : Nat) (s : State) : State :=
  controlForm g s fun s =>
  unlessTagged [tagOfS s a] s fun s => setCtl (.jump (lowHalf (srcS s a)) kind (highSet (srcS s a))) s

/-- A call: the link is the address of the bundle that follows (R117); every core of a broadcast group writes its own (R39). -/
def callForm (g d : Nat) (disp : Int) (s : State) : State :=
  let link := fun s => postS 1 d (BitVec.ofNat 64 (s.focus.addr + s.focus.len)) none s
  match s.focus.follow with
  | some (.jump t kind hi) => link (setCtl (.jump t kind hi) s)
  | some c => setCtl c s
  | none => guarded g s fun s => link (setCtl (.jump (wrap 32 (dispTarget s disp)) 1 false) s)

/-- The bundle after the one at E: its header is fetched and no slot issues (R120). The skip is a taken transfer (log 85). A word that is no header or
is marked, or an address from which the core may not fetch (R28, R351), faults at E when E is fetched. -/
def skipTarget (e : Nat) (s : State) : Nat × State :=
  if (inScratch e 4 || (inWeight e 4 && ownsWeights s s.focus.core)) && (errorIn s s.focus.core e 4).isNone then
    let (bs, s) := codeBytes s.focus.core e 4 s
    let h := leNat bs
    (if isHeader h then e + 4 * bundleWords h else e, s)
  else (e, s)

/-- `loop` (R120): faults 2, 3 and 1 in this order of its own description; E is reduced modulo 2^32 (R83). -/
def loopForm (g a : Nat) (disp : Int) (s : State) : State :=
  controlForm g s fun s =>
  unlessTagged [tagOfS s a] s fun s =>
  let n := (srcS s a).toNat
  let b := s.focus.addr + s.focus.len
  let e := wrap 32 (dispTarget s disp)
  if 2 ^ 32 ≤ n then hardFault 0x13 2 s
  else if e < b then hardFault 0x13 3 s
  else if n = 0 then
    let (t, s) := skipTarget e s
    setCtl (.jump t 0 false) s
  else if (focusCore s).loops.length = 6 then hardFault 0x13 1 s
  else setCtl (.push ⟨n, b, e⟩) s

/-- `end` (R118): an `end` while a call is outstanding stalls. -/
def execEndOp (g : Nat) (s : State) : Host.Outcome State Fault Refusal :=
  .next (controlForm g s fun s => notInRa s fun s => setCtl .endd s)
/-- `br` (R117). -/
def execBr (g : Nat) (disp : Int) (s : State) : Host.Outcome State Fault Refusal := .next (brForm g disp s)
/-- `br` with a widening extension (R117). -/
def execBrWide (g : Nat) (disp : Int) (s : State) : Host.Outcome State Fault Refusal := .next (brForm g disp s)
/-- `brr` (R117). -/
def execBrr (g a : Nat) (s : State) : Host.Outcome State Fault Refusal := .next (regForm g a 1 s)
/-- `call` (R117). -/
def execCall (g d : Nat) (disp : Int) (s : State) : Host.Outcome State Fault Refusal := .next (callForm g d disp s)
/-- `call` with a widening extension (R117). -/
def execCallWide (g d : Nat) (disp : Int) (s : State) : Host.Outcome State Fault Refusal := .next (callForm g d disp s)
/-- `ret` (R117). -/
def execRet (g a : Nat) (s : State) : Host.Outcome State Fault Refusal := .next (regForm g a 2 s)
/-- `loop` (R120). -/
def execLoop (g a : Nat) (disp : Int) (s : State) : Host.Outcome State Fault Refusal := .next (loopForm g a disp s)
/-- `loop` with a widening extension (R120). -/
def execLoopWide (g a : Nat) (disp : Int) (s : State) : Host.Outcome State Fault Refusal := .next (loopForm g a disp s)
/-- `brk` (R117): detail 4 where fewer levels are open. -/
def execBrk (g n : Nat) (disp : Int) (s : State) : Host.Outcome State Fault Refusal :=
  .next (controlForm g s fun s =>
    if (focusCore s).loops.length < n then hardFault 0x13 4 s
    else setCtl (.leave n (wrap 32 (dispTarget s disp))) s)

end Sys2Proof.Machine
end

