-- ==== Sys2Proof/Machine/Timed.lean ====
section
/-! DEFINITION. Sys2Proof/Machine/Timed.lean: the E forms of module time (R268, R269, R278, R288 to R290). -/

namespace Sys2Proof.Machine

/-- The wait that the sequencer begins when its bundle completes. -/
def beginWait (w : Wait) (s : State) : State := updFocus s fun f => { f with wait := w }

/-- The most cycles in 20 ns, the bound of R33 on a wake, less the cycle that reaches the instant. -/
def wakeLag : Nat := 37

/-- `tnow` (R268). -/
def execTnow (g d : Nat) (s : State) : Host.Outcome State Fault Refusal :=
  .next (guarded g s fun s => postS 1 d (BitVec.ofNat 64 (dieTime s (dieOf s.focus.core))) none s)

/-- `waitt` (R269): a target already reached is ready at T. -/
def waittForm (g a : Nat) (s : State) : State :=
  guarded g s fun s => notInRa s fun s => unlessTagged [tagOfS s a] s fun s =>
  let target := (srcS s a).toNat
  if target ≤ dieTime s (dieOf s.focus.core) then
    let (d, s) := openValue 0 wakeLag s
    beginWait (.waitt target (some (s.cycle + 1 + d))) s
  else beginWait (.waitt target none) s

/-- `waitt` (R269). -/
def execWaitt (g a : Nat) (s : State) : Host.Outcome State Fault Refusal := .next (waittForm g a s)

/-- A tick generator of the core's module (R275). -/
def tickOf (s : State) (m tg : Nat) : Tick := Tbl.get .reset (getMod s m).ticks tg

/-- A firing later than a module time has been delivered (R278). -/
def Tick.firedAfter (t : Tick) (t0 : Nat) : Bool := match t.last with | some f => decide (t0 < f) | none => false

/-- The wait for a firing that begins in the issue cycle: one that has come while the core's copy of module time still lies behind it wakes at once. -/
def waitTick (tg : Nat) (s : State) : State :=
  let k := s.focus.core
  let t0 := dieTime s (dieOf k)
  if (tickOf s (modOf k) tg).firedAfter t0 then
    let (d, s) := openValue 0 wakeLag s
    beginWait (.waittk tg t0 (some (s.cycle + 1 + d))) s
  else beginWait (.waittk tg t0 none) s

/-- `waittk` (R278): detail 2 where the generator is disabled or not the core's. -/
def waittkForm (g tg : Nat) (s : State) : State :=
  guarded g s fun s => notInRa s fun s =>
  let k := s.focus.core
  let t := tickOf s (modOf k) tg
  let cl := getCluster s (clusterOf k)
  if t.en && t.part == cl.part && t.job == cl.ctx.job then waitTick tg s else raise 0x17 2 s

/-- `waittk` (R278). -/
def execWaittk (g tg : Nat) (s : State) : Host.Outcome State Fault Refusal := .next (waittkForm g tg s)

/-! ### Token windows as a program reads them (R288, R289) -/

/-- The window w that is open for the core's job and cluster (R288). -/
def windowFor (s : State) (k w : Nat) : Option Window :=
  match Tbl.get none (getMod s (modOf k)).windows w with
  | some x => if x.job = (getCluster s (clusterOf k)).ctx.job ∧ x.cluster = clusterOf k % 96 then some x else none
  | none => none

/-- The slot of a number that the window keeps. -/
def Window.slot (w : Window) (n : Int) : Option WSlot := w.slots.find? fun x => x.s == n

/-- The code of a status (R288). -/
def SlotStatus.code : SlotStatus → Nat
  | .open_ => 2 | .present => 0 | .substituted => 1 | .missing => 2 | .late => 3

/-- The status that a sample reports: an open slot is PRESENT if it holds a token, else MISSING (R288). -/
def Window.sampled (w : Window) (n : Int) : SlotStatus :=
  match w.slot n with
  | some x => if w.h ≤ n then (if x.tok.isSome then .present else .missing) else x.status
  | none => .missing

/-- A later slot has taken the entry of slot n (R288). -/
def Window.retaken (w : Window) (n : Int) : Bool := w.slots.any fun x => x.cached && decide (n < x.s) && (x.s - n) % w.ncache == 0

/-- The result word of `tokget` for slot n (R288). -/
def Window.word (w : Window) (n : Int) : Nat :=
  let st := w.sampled n
  let here := match w.slot n with | some x => x.cached | none => false
  let cached := (st == .present || st == .substituted) && here && !w.retaken n
  st.code + b2n (decide (w.h ≤ n)) * 4 + b2n cached * 8 +
    (if cached then (w.cbase + (n % w.ncache).toNat * w.z) * 2 ^ 32 else 0)

/-- Writes of a slot's payload into the cache that have not been performed: no sample is taken while there are any (R288). -/
def payloadDue (s : State) (k : Nat) (x : Window) (n : Int) : Bool :=
  (getCluster s (clusterOf k)).due.any fun d => d.cls == 2 && meets d.addr d.bs.length (x.cbase + (n % x.ncache).toNat * x.z) x.z

/-- `tokget` (R288): the sample instant and the cycle of the result are open within their bounds. -/
def tokgetForm (g d w a : Nat) (s : State) : State :=
  guarded g s fun s => notInRa s fun s => unlessTagged [tagOfS s a] s fun s =>
  match windowFor s s.focus.core w with
  | none => raise 0x17 1 s
  | some x =>
    let n := (srcS s a).toInt
    if n < x.h0 then raise 0x17 3 s
    else if n < x.h - x.depth then raise 0x17 4 s
    else
      let (l, s) := openValue 1 200 s
      let (q, s) := openValue 0 l s
      let q := if q = 0 ∧ payloadDue s s.focus.core x n then 1 else q
      beginWait (.tokget w d n.toNat (x.word n) (s.cycle + q) (s.cycle + l) (s.cycle + 200) s.focus.addr none [] []) s

/-- `tokrel` (R289): it acts at T + 8. -/
def tokrelForm (g w a : Nat) (s : State) : State :=
  guarded g s fun s => notInRa s fun s => unlessTagged [tagOfS s a] s fun s =>
  match windowFor s s.focus.core w with
  | none => raise 0x17 1 s
  | some x =>
    let n := (srcS s a).toInt
    if x.h + x.nopen - 1 < n then raise 0x17 5 s else post 8 (.rel w n) s

/-- `tokget` (R288). -/
def execTokget (g d w a : Nat) (s : State) : Host.Outcome State Fault Refusal := .next (tokgetForm g d w a s)
/-- `tokrel` (R289). -/
def execTokrel (g w a : Nat) (s : State) : Host.Outcome State Fault Refusal := .next (tokrelForm g w a s)

end Sys2Proof.Machine
end

