-- ==== Sys2Proof/Machine/Coverage.lean ====
section
/-! DEFINITION. Sys2Proof/Machine/Coverage.lean: lattices, the block walker, the reconstruction of a block, the error sampler and the
coverage controller (R293 to R309), with `cvget` and `cvsample`. -/

namespace Sys2Proof.Machine

/-! ### Lattices and the walker (R293, R294, R298, R299) -/

/-- The lattice coordinates of block (bx, by) under a code (R293, R294). -/
def latticeU (code bx : Nat) : Nat := bx + fld code 8 5
@[inherit_doc latticeU] def latticeW (code by_ : Nat) : Nat := by_ + fld code 12 9

/-- A block is on the lattice at the level that the code's RATIO holds (R294). -/
def onLattice (code bx by_ : Nat) : Bool :=
  let u := latticeU code bx
  let w := latticeW code by_
  let fam := fld code 1 0
  match fld code 4 2 with
  | 0 => true
  | 1 => if fam = 0 then u % 4 != 3 else u % 2 == 0 || w % 2 == 0
  | 2 => if fam = 2 then (u + w) % 2 == 0 else u % 2 == 0
  | 3 => if fam = 0 then u % 4 == 0 else u % 2 == 0 && w % 2 == 0
  | 4 => if fam = 0 then u % 8 == 0 else if fam = 1 then u % 4 == 0 && w % 2 == 0 else u % 2 == 0 && w % 2 == 0 && (u + w) % 4 == 0
  | _ => if fam = 0 then u % 16 == 0 else u % 4 == 0 && w % 4 == 0

/-- The classes of a block (R298, R299). -/
inductive BlockClass where
  | kept | sampled | skipped
  deriving DecidableEq, Repr

/-- The code of a class (R299). -/
def BlockClass.code : BlockClass → Nat
  | .kept => 0 | .sampled => 1 | .skipped => 2

/-- The class of block b, of whose predecessors q were off the lattice (R298). -/
def classOf (d : CvDesc) (code b q : Nat) : BlockClass :=
  if onLattice code (b % (d.gx + 1)) (b / (d.gx + 1)) then .kept
  else if d.sen && q % 2 ^ d.mexp == 0 then .sampled else .skipped

/-- Blocks of a grid (R296). -/
def CvDesc.blocks (d : CvDesc) : Nat := (d.gx + 1) * (d.gy + 1)

/-- The entry of the worked list that follows n others, among the `left` blocks from b on, of whose predecessors q were off the
lattice (R298). -/
def workedFrom (d : CvDesc) (code : Nat) : Nat → Nat → Nat → Nat → Option (BlockClass × Nat)
  | 0, _, _, _ => none
  | left + 1, b, q, n =>
    let c := classOf d code b q
    let q' := if c = .kept then q else q + 1
    if c = .skipped ∧ !d.rmode then workedFrom d code left (b + 1) q' n
    else match n with
      | 0 => some (c, b)
      | n + 1 => workedFrom d code left (b + 1) q' n

/-- Entry j of a rank's share of its cluster's worked list (R298). -/
def shareEntry (d : CvDesc) (code nranks rank j : Nat) : Option (BlockClass × Nat) :=
  workedFrom d code d.blocks 0 0 (j * nranks + rank)

/-- The result word of `cvget` (R299). -/
def blockWord (d : CvDesc) (e : Option (BlockClass × Nat)) : Nat :=
  match e with
  | some (c, b) => c.code + b % (d.gx + 1) * 2 ^ 8 + b / (d.gx + 1) * 2 ^ 24
  | none => 3

/-- `cvget` (R299, R309): in run-ahead the fault is poison in sd (R256). -/
def cvgetForm (g d : Nat) (s : State) : State :=
  guarded g s fun s =>
  let k := s.focus.core
  let cl := getCluster s (clusterOf k)
  match cl.cv with
  | none => softFault 0x18 1 (fun p => postS 4 d 0 (some p) s) s
  | some cv =>
    let e := shareEntry cv cl.ctx.code cl.ctx.nranks (rankOf k) (focusCore s).regs.walker
    let s := postS 4 d (BitVec.ofNat 64 (blockWord cv e)) none (if d = 0 then journal 16 s else s)
    if e.isSome then updCore s k fun c => { c with regs := { c.regs with walker := c.regs.walker + 1 } } else s

/-- `cvget` (R299). -/
def execCvget (g d : Nat) (s : State) : Host.Outcome State Fault Refusal := .next (cvgetForm g d s)

/-! ### The controller (R305, R306) -/

/-- ε² against the square of a bound: SSE against bound² × 2^64 × NEL, exactly (R306). -/
def squareVs (nel bound : Nat) : FVal :=
  let b := unpack .f32 bound
  (b.mul b).mul (.fin false nel 64)

/-- An update instant (R306). -/
def CvCtl.instant (c : CvCtl) : CvCtl :=
  let e : FVal := .fin false (if c.nel = 0 then 0 else c.sse) 0
  let n := if c.nel = 0 then 1 else c.nel
  let c' :=
    if (squareVs n c.high).lt e then
      if c.lmin < c.level then { c with level := c.level - 1, ndn := (c.ndn + 1) % 2 ^ 16, below := false } else { c with below := false }
    else if e.lt (squareVs n c.low) then
      if c.below then
        if c.level < c.lmax then { c with level := c.level + 1, nup := (c.nup + 1) % 2 ^ 16, below := false } else { c with below := false }
      else { c with below := true }
    else { c with below := false }
  { c' with sse := 0, nel := 0, nsmp := 0, ninst := (c.ninst + 1) % 2 ^ 32 }

/-- Sums with a contribution added (R304, R307): they saturate. -/
def addSse (x y : Nat) : Nat := min (x + y) (2 ^ 128 - 1)
@[inherit_doc addSse] def addNel (x y : Nat) : Nat := min (x + y) (2 ^ 64 - 1)

/-- The controller with one sample added under UMODE = 1, and its update instant where one falls due (R306). -/
def CvCtl.sample (c : CvCtl) (sse nel : Nat) : CvCtl :=
  let c := { c with sse := addSse c.sse sse, nel := addNel c.nel nel, nsmp := c.nsmp + 1 }
  if c.nsmp = 2 ^ c.uexp then c.instant else c

/-- The state with a function applied to a controller of a module. -/
def updCtl (s : State) (m n : Nat) (f : CvCtl → CvCtl) : State :=
  updMod s m fun md => { md with ctls := Tbl.set md.ctls n (f (Tbl.get .reset md.ctls n)) }

/-- The state with a function applied to a launch of a module. -/
def updLaunch (s : State) (m uid : Nat) (f : Launch → Launch) : State :=
  updMod s m fun md => { md with launches := md.launches.map fun l => if l.uid = uid then f l else l }

/-- One sample reaches the sums of the launch under UMODE = 0, of the controller under UMODE = 1 (R306, R307). -/
def addSample (m uid ctl sse nel : Nat) (s : State) : State :=
  if (Tbl.get CvCtl.reset (getMod s m).ctls ctl).umode then updCtl s m ctl fun c => c.sample sse nel
  else updLaunch s m uid fun l => { l with sse := addSse l.sse sse, nel := addNel l.nel nel, nsmp := l.nsmp + 1 }

/-- floor(v × 2^64) of a value that is not negative, at most 2^128 − 1 (R304, R307). -/
def toQ64 : FVal → Nat
  | .fin _ m e => if 0 ≤ e + 64 then m * 2 ^ (e + 64).toNat else m / 2 ^ (-(e + 64)).toNat
  | _ => 2 ^ 128 - 1

/-- `cvsample` (R307). -/
def cvsampleForm (g a : Nat) (s : State) : State :=
  guarded g s fun s => notInRa s fun s => unlessTagged [tagOfS s a] s fun s =>
  let k := s.focus.core
  let cx := (getCluster s (clusterOf k)).ctx
  match cx.cvctl with
  | none => raise 0x18 1 s
  | some n =>
    let v := unpack .f32 (lowHalf (srcS s a))
    let cnt := (srcS s a).toNat / 2 ^ 32
    if !v.finite || v.lt (.fin false 0 0) || cnt == 0 then raise 0x18 2 s
    else addSample (modOf k) cx.uid n (toQ64 v) cnt s

/-- `cvsample` (R307). -/
def execCvsample (g a : Nat) (s : State) : Host.Outcome State Fault Refusal := .next (cvsampleForm g a s)

/-! ### Reconstruction (R300 to R304) -/

/-- The address of row i of block (bx, by), and the bytes of the row (R296). -/
def blockRow (d : CvDesc) (bx by_ i : Nat) : Nat :=
  d.obase + (by_ * (d.br + 1) + i) * d.apitch + lanesBytes d.fmt (bx * (d.bc + 1))

/-- The elements of a block by rows, as the scratchpad holds them. -/
def blockRows (cl : Cluster) (d : CvDesc) (b : Nat) : List (List Nat) :=
  (List.range (d.br + 1)).map fun i =>
    toLanes d.fmt (d.bc + 1) (readScratch cl (blockRow d (b % (d.gx + 1)) (b / (d.gx + 1)) i) (lanesBytes d.fmt (d.bc + 1)))

/-- The spacings of the anchors along u and w (R301). -/
def spacing (code : Nat) : Nat × Nat :=
  let line := fld code 1 0 = 0
  match fld code 4 2 with
  | 1 => if line then (2, 1) else (2, 2)
  | 2 => (2, 1)
  | 3 => if line then (4, 1) else (2, 2)
  | 4 => if line then (8, 1) else (4, 2)
  | 5 => if line then (16, 1) else (4, 4)
  | _ => (1, 1)

/-- The anchors along one dimension, with the weight's numerator (R301): none where both lie outside the grid. -/
def anchors (x pos sp last : Nat) : Option (Nat × Nat × Nat) :=
  let r := pos % sp
  let a0 : Int := (x : Int) - r
  let a1 : Int := a0 + sp
  if a0 < 0 then (if a1 ≤ last then some (a1.toNat, a1.toNat, 0) else none)
  else if a1 ≤ last then some (a0.toNat, a1.toNat, r) else some (a0.toNat, a0.toNat, 0)

/-- lin() on FP32 encodings with the weight n / sp (R302). -/
def lin (n sp p q : Nat) : Nat :=
  if n = 0 then p
  else
    let f : FVal := .fin false n (-(sp.log2 : Int))
    let g : FVal := .fin false (sp - n) (-(sp.log2 : Int))
    fadd .f32 (pack .f32 .rne (g.mul (unpack .f32 p))) (pack .f32 .rne (f.mul (unpack .f32 q)))

/-- Rows of elements combined element by element. -/
def zipRows (f : Nat → Nat → Nat) (a b : List (List Nat)) : List (List Nat) := List.zipWith (fun x y => List.zipWith f x y) a b

/-- The offsets of one ring in the order in which R303 tries them. -/
def ringOffsets (line : Bool) (r : Nat) : List (Int × Int) :=
  let n : Int := r
  let side : List Int := (List.range (2 * r + 1)).map fun (i : Nat) => (i : Int) - n
  let all := side.flatMap fun dy => side.filterMap fun dx =>
    if max dx.natAbs dy.natAbs = r ∧ (!line || dy == 0) then some (dx, dy) else none
  (List.range (2 * r + 1)).flatMap fun t => all.filter fun x => x.1.natAbs + x.2.natAbs == t

/-- The block that the nearest kernel copies (R303); none where no candidate qualifies. -/
def nearest (d : CvDesc) (code bx by_ : Nat) : Option Nat :=
  ((List.range 16).flatMap fun r => ringOffsets (fld code 1 0 == 0) (r + 1)).findSome? fun o =>
    let x := (bx : Int) + o.1
    let y := (by_ : Int) + o.2
    if 0 ≤ x ∧ x ≤ d.gx ∧ 0 ≤ y ∧ y ≤ d.gy ∧ onLattice code x.toNat y.toNat then some (y.toNat * (d.gx + 1) + x.toNat) else none

/-- The reconstruction of a block by rows, and whether it fell back to zero (R301 to R303). -/
def reconBlock (cl : Cluster) (d : CvDesc) (code b : Nat) : List (List Nat) × Bool :=
  let bx := b % (d.gx + 1)
  let by_ := b / (d.gx + 1)
  let fam := fld code 1 0
  let byNearest : List (List Nat) × Bool :=
    match nearest d code bx by_ with
    | some n => (blockRows cl d n, false)
    | none => (List.replicate (d.br + 1) (List.replicate (d.bc + 1) (zeroOf d.fmt)), true)
  if !d.fmt.isFloat || fam == 2 then byNearest else
  let sp := spacing code
  let ys := if fam = 0 then some (by_, by_, 0) else anchors by_ (latticeW code by_) sp.2 d.gy
  match anchors bx (latticeU code bx) sp.1 d.gx, ys with
  | some (x0, x1, nx), some (y0, y1, ny) =>
    let at_ := fun x y => (blockRows cl d (y * (d.gx + 1) + x)).map fun r => r.map fun v => pack .f32 .rne (unpack d.fmt v)
    let row := fun y => zipRows (lin nx sp.1) (at_ x0 y) (at_ x1 y)
    let r := if ny = 0 then row y0 else zipRows (lin ny sp.2) (row y0) (row y1)
    (r.map fun x => x.map fun v => pack d.fmt .rne (unpack .f32 v), false)
  | _, _ => byNearest

/-- The squared error of one element (R304): its contribution to SSE. -/
def squareError (f : Fmt) (x r : Nat) : Nat :=
  let a := laneValue f x
  let b := laneValue f r
  if a = .nan ∨ b = .nan then 2 ^ 128 - 1 else
  let e := pack .f32 .rne (a.add b.neg)
  toQ64 (unpack .f32 (fmul .f32 e e))

/-- The contribution of a sampled block: exact elements against the reconstruction (R304). -/
def blockError (f : Fmt) (exact recon : List (List Nat)) : Nat :=
  (List.zipWith (squareError f) exact.flatten recon.flatten).foldl addSse 0

end Sys2Proof.Machine
end

