-- ==== Sys2Proof/Machine/Vector.lean ====
section
/-! DEFINITION. Sys2Proof/Machine/Vector.lean: the V and W forms (R77, R78, R144 to R163). -/

namespace Sys2Proof.Machine

/-- A view operand, and an operand that a bit of the extension may turn into a stream register (R78). -/
def view (n : Nat) : VOp := ⟨false, n⟩
@[inherit_doc view] def orStream (q : Bool) (n : Nat) : VOp := ⟨q, n⟩

/-- A lane function of one, two or three sources on lists of lanes. -/
def lanes1 (f : Nat → Nat) (xs : List (List Nat)) (_ : Mask) : List Nat := (xs.getD 0 []).map f
@[inherit_doc lanes1] def lanes2 (f : Nat → Nat → Nat) (xs : List (List Nat)) (_ : Mask) : List Nat :=
  List.zipWith f (xs.getD 0 []) (xs.getD 1 [])
@[inherit_doc lanes1] def lanes3 (f : Nat → Nat → Nat → Nat) (xs : List (List Nat)) (_ : Mask) : List Nat :=
  List.zipWith (fun x ab => f ab.1 ab.2 x) (xs.getD 2 []) ((xs.getD 0 []).zip (xs.getD 1 []))

/-- `vadd`, `vsub`, `vmul` on a lane: rounded once, or modulo the width (R149). -/
def addLane (f : Fmt) (x y : Nat) : Nat := if f.isFloat then fadd f x y else wrap (laneBits f) (x + y)
@[inherit_doc addLane] def subLane (f : Fmt) (x y : Nat) : Nat := if f.isFloat then fsub f x y else wrap (laneBits f) ((x : Int) - y)
@[inherit_doc addLane] def mulLane (f : Fmt) (x y : Nat) : Nat := if f.isFloat then fmul f x y else wrap (laneBits f) (x * y)

/-- `vmin` and `vmax` on a lane, in the signedness of the format (R149). -/
def minLane (f : Fmt) (x y : Nat) : Nat := if f.isFloat then fmin f x y else if laneInt f x ≤ laneInt f y then x else y
@[inherit_doc minLane] def maxLane (f : Fmt) (x y : Nat) : Nat :=
  if f.isFloat then fmax f x y else if laneInt f x ≤ laneInt f y then y else x

/-- The shifts of R150: the count is the low 5 or 3 bits of the lane of vb, and `vsra` copies the top bit in every format. -/
def shlLane (f : Fmt) (x y : Nat) : Nat := x * 2 ^ (y % laneBits f) % 2 ^ laneBits f
@[inherit_doc shlLane] def shrLane (f : Fmt) (x y : Nat) : Nat := x / 2 ^ (y % laneBits f)
@[inherit_doc shlLane] def sraLane (f : Fmt) (x y : Nat) : Nat :=
  wrap (laneBits f) (signed (laneBits f) x / ((2 ^ (y % laneBits f) : Nat) : Int))

/-- `vabs` and `vneg` on a lane (R151). -/
def absLane (f : Fmt) (x : Nat) : Nat :=
  if f.isFloat then (if unpack f x = .nan then nanCode f else x % 2 ^ (laneBits f - 1))
  else wrap (laneBits f) ((laneInt f x).natAbs : Int)
@[inherit_doc absLane] def negLane (f : Fmt) (x : Nat) : Nat :=
  if f.isFloat then
    if unpack f x = .nan then nanCode f else (x + 2 ^ (laneBits f - 1)) % 2 ^ laneBits f
  else wrap (laneBits f) (-(x : Int))

/-- A transcendental on a lane: the exact value rounded once (R159). -/
def transLane (fn : FVal → FVal) (f : Fmt) (x : Nat) : Nat := pack f .rne (fn (unpack f x))

/-- `vsum`: the fixed tree, in FP32 for every floating-point format (R161). -/
def sumLanes (f : Fmt) (xs : List (List Nat)) (_ : Mask) : List Nat :=
  let x := xs.getD 0 []
  let r := if f.isFloat then pack f .rne (unpack .f32 (tree128 (fadd .f32) (x.map fun v => pack .f32 .rne (unpack f v))))
           else tree128 (addLane f) x
  r :: List.replicate 127 0

/-- `vmaxr`: the fixed tree of the greater value (R161). -/
def maxLanes (f : Fmt) (xs : List (List Nat)) (_ : Mask) : List Nat :=
  let x := xs.getD 0 []
  let w := x.map fun v => if f.isFloat then pack .f32 .rne (unpack f v) else v
  let r := if f.isFloat then pack f .rne (unpack .f32 (tree128 (fmax .f32) w)) else tree128 (maxLane f) x
  r :: List.replicate 127 0

/-- `vperm` (R156): vb holds 128 byte indices. -/
def permLanes (f : Fmt) (xs : List (List Nat)) (_ : Mask) : List Nat :=
  (xs.getD 1 []).map fun x => if x < 128 then (xs.getD 0 []).getD x 0 else zeroOf f

/-- `vslide` (R157). -/
def slideLanes (n : Nat) (xs : List (List Nat)) (_ : Mask) : List Nat :=
  ((xs.getD 0 [] ++ xs.getD 1 []).drop n).take 128

/-- `vsel` (R152). -/
def selLanes (xs : List (List Nat)) (m : Mask) : List Nat :=
  (((xs.getD 0 []).zip (xs.getD 1 [])).zipIdx).map fun x => if lane m x.2 then x.1.1 else x.1.2

/-- A form on two sources (VR), on one (VU), with the addend vd, `vperm`, `vsel`. -/
def vr (L g : Nat) (f : Fmt) (d a b : Nat) (e : VExt) (F : List (List Nat) → Mask → List Nat) (s : State) : State :=
  vecForm L g f (orStream e.qd d) [(orStream e.qa a, f), (orStream e.qb b, f)] e none F s
@[inherit_doc vr] def vu (L g : Nat) (f : Fmt) (d a : Nat) (e : VExt) (F : List (List Nat) → Mask → List Nat) (s : State) : State :=
  vecForm L g f (orStream e.qd d) [(orStream e.qa a, f)] e none F s
@[inherit_doc vr] def vrd (L g : Nat) (f : Fmt) (d a b : Nat) (e : VExt) (F : List (List Nat) → Mask → List Nat) (s : State) : State :=
  vecForm L g f (view d) [(orStream e.qa a, f), (orStream e.qb b, f), (view d, f)] e none F s
@[inherit_doc vr] def vpermForm (g : Nat) (f : Fmt) (d a b : Nat) (e : VExt) (s : State) : State :=
  vecForm 4 g f (orStream e.qd d) [(orStream e.qa a, f), (orStream e.qb b, .n8)] e none (permLanes f) s
@[inherit_doc vr] def vselForm (g : Nat) (f : Fmt) (d a b km : Nat) (e : VExt) (s : State) : State :=
  vecForm 4 g f (orStream e.qd d) [(orStream e.qa a, f), (orStream e.qb b, f)] e (some km) selLanes s

/-- `vmov` moves all 512 bytes with no format (R144, R155): as 128 lanes of 4 bytes. -/
def vmovForm (g d a : Nat) (e : VExt) (s : State) : State := vu 4 g .n32 d a e (lanes1 id) s

/-- `vcvt` (R158). -/
def vcvtForm (g : Nat) (f : Fmt) (d a : Nat) (sf : Fmt) (rm : RMode) (e : VExt) (s : State) : State :=
  vecForm 6 g f (orStream e.qd d) [(orStream e.qa a, sf)] e none (lanes1 (cvtLane f sf rm)) s

/-- Poison in all 128 bits of a lane mask (R162). -/
def poisonMask (kd : Nat) (p : Poison) (s : State) : State := post 4 (.kmask kd 0 (BitVec.allOnes 128) (some p)) (journal 32 s)

/-- `vcmp` (R153): bits of kd that KE does not select keep their value. -/
def vcmpForm (g : Nat) (f : Fmt) (kd : Nat) (cond : Cond) (a b : Nat) (e : VExt) (s : State) : State :=
  guarded g s fun s =>
  withSources [] [(orStream e.qa a, vecBytes f), (orStream e.qb b, vecBytes f)] (poisonMask kd) s fun vs s =>
  match firstTag (vs.map (fun v => v.tag) ++ [maskTag s e.ke e.km]) with
  | some p => poisonMask kd p s
  | none =>
    let xs := vs.map fun v => toLanes f 128 v.bs
    let m := toMask (List.zipWith (laneCmp cond f) (xs.getD 0 []) (xs.getD 1 []))
    post 4 (.kmask kd m (maskOf s e.ke e.km) none) (journal 32 s)

/-- `vsplat` (R154): the low bits of sa in every lane. -/
def vsplatForm (g : Nat) (f : Fmt) (d a : Nat) (s : State) : State :=
  guarded g s fun s =>
  if (view d).unconfigured s then hardFault 0x11 1 s else
  match tagOfS s a with
  | some p => poisonVec 4 f (view d) p s
  | none => postVec 4 f (view d) false 0 (List.replicate 128 ((srcS s a).toNat % 2 ^ laneBits f)) s

/-- `vadd` (R149). -/
def execVadd (g : Nat) (f : Fmt) (d a b : Nat) (s : State) : Host.Outcome State Fault Refusal :=
  .next (vr 4 g f d a b .none (lanes2 (addLane f)) s)
/-- `vadd` with an extension (R149, R78). -/
def execVaddExt (g : Nat) (f : Fmt) (d a b : Nat) (e : VExt) (s : State) : Host.Outcome State Fault Refusal :=
  .next (vr 4 g f d a b e (lanes2 (addLane f)) s)
/-- `vsub` (R149). -/
def execVsub (g : Nat) (f : Fmt) (d a b : Nat) (s : State) : Host.Outcome State Fault Refusal :=
  .next (vr 4 g f d a b .none (lanes2 (subLane f)) s)
/-- `vsub` with an extension (R149, R78). -/
def execVsubExt (g : Nat) (f : Fmt) (d a b : Nat) (e : VExt) (s : State) : Host.Outcome State Fault Refusal :=
  .next (vr 4 g f d a b e (lanes2 (subLane f)) s)
/-- `vmul` (R149). -/
def execVmul (g : Nat) (f : Fmt) (d a b : Nat) (s : State) : Host.Outcome State Fault Refusal :=
  .next (vr 6 g f d a b .none (lanes2 (mulLane f)) s)
/-- `vmul` with an extension (R149, R78). -/
def execVmulExt (g : Nat) (f : Fmt) (d a b : Nat) (e : VExt) (s : State) : Host.Outcome State Fault Refusal :=
  .next (vr 6 g f d a b e (lanes2 (mulLane f)) s)
/-- `vmin` (R149). -/
def execVmin (g : Nat) (f : Fmt) (d a b : Nat) (s : State) : Host.Outcome State Fault Refusal :=
  .next (vr 4 g f d a b .none (lanes2 (minLane f)) s)
/-- `vmin` with an extension (R149, R78). -/
def execVminExt (g : Nat) (f : Fmt) (d a b : Nat) (e : VExt) (s : State) : Host.Outcome State Fault Refusal :=
  .next (vr 4 g f d a b e (lanes2 (minLane f)) s)
/-- `vmax` (R149). -/
def execVmax (g : Nat) (f : Fmt) (d a b : Nat) (s : State) : Host.Outcome State Fault Refusal :=
  .next (vr 4 g f d a b .none (lanes2 (maxLane f)) s)
/-- `vmax` with an extension (R149, R78). -/
def execVmaxExt (g : Nat) (f : Fmt) (d a b : Nat) (e : VExt) (s : State) : Host.Outcome State Fault Refusal :=
  .next (vr 4 g f d a b e (lanes2 (maxLane f)) s)
/-- `vand` (R150). -/
def execVand (g : Nat) (f : Fmt) (d a b : Nat) (s : State) : Host.Outcome State Fault Refusal :=
  .next (vr 4 g f d a b .none (lanes2 (fun x y => x &&& y)) s)
/-- `vand` with an extension (R150, R78). -/
def execVandExt (g : Nat) (f : Fmt) (d a b : Nat) (e : VExt) (s : State) : Host.Outcome State Fault Refusal :=
  .next (vr 4 g f d a b e (lanes2 (fun x y => x &&& y)) s)
/-- `vor` (R150). -/
def execVor (g : Nat) (f : Fmt) (d a b : Nat) (s : State) : Host.Outcome State Fault Refusal :=
  .next (vr 4 g f d a b .none (lanes2 (fun x y => x ||| y)) s)
/-- `vor` with an extension (R150, R78). -/
def execVorExt (g : Nat) (f : Fmt) (d a b : Nat) (e : VExt) (s : State) : Host.Outcome State Fault Refusal :=
  .next (vr 4 g f d a b e (lanes2 (fun x y => x ||| y)) s)
/-- `vxor` (R150). -/
def execVxor (g : Nat) (f : Fmt) (d a b : Nat) (s : State) : Host.Outcome State Fault Refusal :=
  .next (vr 4 g f d a b .none (lanes2 (fun x y => x ^^^ y)) s)
/-- `vxor` with an extension (R150, R78). -/
def execVxorExt (g : Nat) (f : Fmt) (d a b : Nat) (e : VExt) (s : State) : Host.Outcome State Fault Refusal :=
  .next (vr 4 g f d a b e (lanes2 (fun x y => x ^^^ y)) s)
/-- `vshl` (R150). -/
def execVshl (g : Nat) (f : Fmt) (d a b : Nat) (s : State) : Host.Outcome State Fault Refusal :=
  .next (vr 4 g f d a b .none (lanes2 (shlLane f)) s)
/-- `vshl` with an extension (R150, R78). -/
def execVshlExt (g : Nat) (f : Fmt) (d a b : Nat) (e : VExt) (s : State) : Host.Outcome State Fault Refusal :=
  .next (vr 4 g f d a b e (lanes2 (shlLane f)) s)
/-- `vshr` (R150). -/
def execVshr (g : Nat) (f : Fmt) (d a b : Nat) (s : State) : Host.Outcome State Fault Refusal :=
  .next (vr 4 g f d a b .none (lanes2 (shrLane f)) s)
/-- `vshr` with an extension (R150, R78). -/
def execVshrExt (g : Nat) (f : Fmt) (d a b : Nat) (e : VExt) (s : State) : Host.Outcome State Fault Refusal :=
  .next (vr 4 g f d a b e (lanes2 (shrLane f)) s)
/-- `vsra` (R150). -/
def execVsra (g : Nat) (f : Fmt) (d a b : Nat) (s : State) : Host.Outcome State Fault Refusal :=
  .next (vr 4 g f d a b .none (lanes2 (sraLane f)) s)
/-- `vsra` with an extension (R150, R78). -/
def execVsraExt (g : Nat) (f : Fmt) (d a b : Nat) (e : VExt) (s : State) : Host.Outcome State Fault Refusal :=
  .next (vr 4 g f d a b e (lanes2 (sraLane f)) s)
/-- `vfma` (R149). -/
def execVfma (g : Nat) (f : Fmt) (d a b : Nat) (s : State) : Host.Outcome State Fault Refusal :=
  .next (vrd 6 g f d a b .none (lanes3 (ffma f)) s)
/-- `vfma` with an extension (R149, R78). -/
def execVfmaExt (g : Nat) (f : Fmt) (d a b : Nat) (e : VExt) (s : State) : Host.Outcome State Fault Refusal :=
  .next (vrd 6 g f d a b e (lanes3 (ffma f)) s)
/-- `vfms` (R149). -/
def execVfms (g : Nat) (f : Fmt) (d a b : Nat) (s : State) : Host.Outcome State Fault Refusal :=
  .next (vrd 6 g f d a b .none (lanes3 (ffms f)) s)
/-- `vfms` with an extension (R149, R78). -/
def execVfmsExt (g : Nat) (f : Fmt) (d a b : Nat) (e : VExt) (s : State) : Host.Outcome State Fault Refusal :=
  .next (vrd 6 g f d a b e (lanes3 (ffms f)) s)
/-- `vperm` (R156). -/
def execVperm (g : Nat) (f : Fmt) (d a b : Nat) (s : State) : Host.Outcome State Fault Refusal :=
  .next (vpermForm g f d a b .none s)
/-- `vperm` with an extension (R156, R78). -/
def execVpermExt (g : Nat) (f : Fmt) (d a b : Nat) (e : VExt) (s : State) : Host.Outcome State Fault Refusal :=
  .next (vpermForm g f d a b e s)
/-- `vslide` (R157). -/
def execVslide (g : Nat) (f : Fmt) (d a b : Nat) (e : VExt) (n : Nat) (s : State) : Host.Outcome State Fault Refusal :=
  .next (vr 4 g f d a b e (slideLanes n) s)
/-- `vabs` (R151). -/
def execVabs (g : Nat) (f : Fmt) (d a : Nat) (s : State) : Host.Outcome State Fault Refusal :=
  .next (vu 4 g f d a .none (lanes1 (absLane f)) s)
/-- `vabs` with an extension (R151, R78). -/
def execVabsExt (g : Nat) (f : Fmt) (d a : Nat) (e : VExt) (s : State) : Host.Outcome State Fault Refusal :=
  .next (vu 4 g f d a e (lanes1 (absLane f)) s)
/-- `vneg` (R151). -/
def execVneg (g : Nat) (f : Fmt) (d a : Nat) (s : State) : Host.Outcome State Fault Refusal :=
  .next (vu 4 g f d a .none (lanes1 (negLane f)) s)
/-- `vneg` with an extension (R151, R78). -/
def execVnegExt (g : Nat) (f : Fmt) (d a : Nat) (e : VExt) (s : State) : Host.Outcome State Fault Refusal :=
  .next (vu 4 g f d a e (lanes1 (negLane f)) s)
/-- `vmov` (R155). -/
def execVmov (g d a : Nat) (s : State) : Host.Outcome State Fault Refusal :=
  .next (vmovForm g d a .none s)
/-- `vmov` with an extension (R155, R78). -/
def execVmovExt (g d a : Nat) (e : VExt) (s : State) : Host.Outcome State Fault Refusal :=
  .next (vmovForm g d a e s)
/-- `vexp2` (R159, R160). -/
def execVexp2 (g : Nat) (f : Fmt) (d a : Nat) (s : State) : Host.Outcome State Fault Refusal :=
  .next (vu 10 g f d a .none (lanes1 (transLane exp2Val f)) s)
/-- `vexp2` with an extension (R159, R160, R78). -/
def execVexp2Ext (g : Nat) (f : Fmt) (d a : Nat) (e : VExt) (s : State) : Host.Outcome State Fault Refusal :=
  .next (vu 10 g f d a e (lanes1 (transLane exp2Val f)) s)
/-- `vlog2` (R159, R160). -/
def execVlog2 (g : Nat) (f : Fmt) (d a : Nat) (s : State) : Host.Outcome State Fault Refusal :=
  .next (vu 10 g f d a .none (lanes1 (transLane log2Val f)) s)
/-- `vlog2` with an extension (R159, R160, R78). -/
def execVlog2Ext (g : Nat) (f : Fmt) (d a : Nat) (e : VExt) (s : State) : Host.Outcome State Fault Refusal :=
  .next (vu 10 g f d a e (lanes1 (transLane log2Val f)) s)
/-- `vrcp` (R159, R160). -/
def execVrcp (g : Nat) (f : Fmt) (d a : Nat) (s : State) : Host.Outcome State Fault Refusal :=
  .next (vu 10 g f d a .none (lanes1 (transLane rcpVal f)) s)
/-- `vrcp` with an extension (R159, R160, R78). -/
def execVrcpExt (g : Nat) (f : Fmt) (d a : Nat) (e : VExt) (s : State) : Host.Outcome State Fault Refusal :=
  .next (vu 10 g f d a e (lanes1 (transLane rcpVal f)) s)
/-- `vrsq` (R159, R160). -/
def execVrsq (g : Nat) (f : Fmt) (d a : Nat) (s : State) : Host.Outcome State Fault Refusal :=
  .next (vu 10 g f d a .none (lanes1 (transLane rsqVal f)) s)
/-- `vrsq` with an extension (R159, R160, R78). -/
def execVrsqExt (g : Nat) (f : Fmt) (d a : Nat) (e : VExt) (s : State) : Host.Outcome State Fault Refusal :=
  .next (vu 10 g f d a e (lanes1 (transLane rsqVal f)) s)
/-- `vtanh` (R159, R160). -/
def execVtanh (g : Nat) (f : Fmt) (d a : Nat) (s : State) : Host.Outcome State Fault Refusal :=
  .next (vu 10 g f d a .none (lanes1 (transLane tanhVal f)) s)
/-- `vtanh` with an extension (R159, R160, R78). -/
def execVtanhExt (g : Nat) (f : Fmt) (d a : Nat) (e : VExt) (s : State) : Host.Outcome State Fault Refusal :=
  .next (vu 10 g f d a e (lanes1 (transLane tanhVal f)) s)
/-- `vsum` (R161). -/
def execVsum (g : Nat) (f : Fmt) (d a : Nat) (s : State) : Host.Outcome State Fault Refusal :=
  .next (vu 10 g f d a .none (sumLanes f) s)
/-- `vsum` with an extension (R161, R78). -/
def execVsumExt (g : Nat) (f : Fmt) (d a : Nat) (e : VExt) (s : State) : Host.Outcome State Fault Refusal :=
  .next (vu 10 g f d a e (sumLanes f) s)
/-- `vmaxr` (R161). -/
def execVmaxr (g : Nat) (f : Fmt) (d a : Nat) (s : State) : Host.Outcome State Fault Refusal :=
  .next (vu 10 g f d a .none (maxLanes f) s)
/-- `vmaxr` with an extension (R161, R78). -/
def execVmaxrExt (g : Nat) (f : Fmt) (d a : Nat) (e : VExt) (s : State) : Host.Outcome State Fault Refusal :=
  .next (vu 10 g f d a e (maxLanes f) s)
/-- `vcvt` (R158). -/
def execVcvt (g : Nat) (f : Fmt) (d a : Nat) (sf : Fmt) (rm : RMode) (s : State) : Host.Outcome State Fault Refusal :=
  .next (vcvtForm g f d a sf rm .none s)
/-- `vcvt` with an extension (R158, R78). -/
def execVcvtExt (g : Nat) (f : Fmt) (d a : Nat) (sf : Fmt) (rm : RMode) (e : VExt) (s : State) : Host.Outcome State Fault Refusal :=
  .next (vcvtForm g f d a sf rm e s)
/-- `vsel` (R152). -/
def execVsel (g : Nat) (f : Fmt) (d a b km : Nat) (s : State) : Host.Outcome State Fault Refusal :=
  .next (vselForm g f d a b km .none s)
/-- `vsel` with an extension (R152, R78). -/
def execVselExt (g : Nat) (f : Fmt) (d a b km : Nat) (e : VExt) (s : State) : Host.Outcome State Fault Refusal :=
  .next (vselForm g f d a b km e s)
/-- `vcmp` (R153). -/
def execVcmp (g : Nat) (f : Fmt) (kd : Nat) (cond : Cond) (a b : Nat) (s : State) : Host.Outcome State Fault Refusal :=
  .next (vcmpForm g f kd cond a b .none s)
/-- `vcmp` with an extension (R153, R78). -/
def execVcmpExt (g : Nat) (f : Fmt) (kd : Nat) (cond : Cond) (a b : Nat) (e : VExt) (s : State) : Host.Outcome State Fault Refusal :=
  .next (vcmpForm g f kd cond a b e s)
/-- `vsplat` (R154). -/
def execVsplat (g : Nat) (f : Fmt) (d a : Nat) (s : State) : Host.Outcome State Fault Refusal :=
  .next (vsplatForm g f d a s)

end Sys2Proof.Machine
end

