-- ==== Sys2Proof/Machine/Local.lean ====
section
/-! DEFINITION. Sys2Proof/Machine/Local.lean: the L-slot forms (R81): views (R134 to R138), weight-store loads (R199), stream registers
(R188 to R194) and atomics on the scratchpad (R183). -/

namespace Sys2Proof.Machine

/-! ### Views (R129, R130, R134 to R136) -/

/-- The view a descriptor of four words describes, CFG set; none where it is invalid for its class (R130). -/
def viewOfWords (cls w0 w1 w2 w3 : Nat) : Option View :=
  let v : View := { base := fld w0 21 0, cls := fld w0 29 28, cfg := true, rows := fld w1 8 0, cols := fld w1 22 16,
                    tfmt := Fmt.ofCode (fld w1 26 24), pitch := fld w2 12 0 }
  let clean := fld w0 27 22 == 0 && fld w0 31 30 == 0 && fld w1 15 9 == 0 && !bit w1 23 && fld w1 31 27 == 0 &&
    fld w2 31 13 == 0 && w3 == 0
  let plain := v.cols == 0 && v.tfmt == .f32 && v.pitch == 0
  let ok :=
    if cls = 0 then plain && v.rows == 0 && v.base % 32 == 0 && decide (v.base + 512 ≤ 0x380000)
    else if cls = 1 then
      v.base % 32 == 0 && decide (v.cols + 1 ≤ 128) && (v.tfmt != .ln6 || (v.cols + 1) % 4 == 0) && decide (1 ≤ v.pitch) &&
      decide (lanesBytes v.tfmt (v.cols + 1) ≤ 32 * v.pitch) && decide (v.base + v.extent ≤ 0x380000)
    else plain && v.base % 512 == 0 && decide (0x200000 ≤ v.base) && decide (v.base + 512 * (v.rows + 1) ≤ 0x380000)
  if clean && v.cls == cls && ok then some v else none

/-- Dirty lines in a view's extent as of the cycle before (R136). -/
def dirtyGrain (c : Core) (cycle : Nat) (v : View) : Nat :=
  ((lines v.base v.extent).filter fun l =>
    Tbl.get false c.regs.dirty l && !(c.fresh.1 == cycle && c.fresh.2.contains l)).length

/-- A word of a view register as `vwget` reads it (R129, R135): an unconfigured view gives zero. -/
def viewWord (c : Core) (cycle : Nat) (v : View) (w : Nat) : Nat :=
  if !v.cfg then 0
  else if w = 0 then v.base + v.cls * 2 ^ 28 + 2 ^ 31
  else if w = 1 then v.rows + v.cols * 2 ^ 16 + v.tfmt.code * 2 ^ 24
  else if w = 2 then v.pitch
  else dirtyGrain c cycle v

/-- A form of L that stalls in run-ahead (R252). -/
def localHeld (g : Nat) (s : State) (k : State → State) : State := guarded g s fun s => notInRa s k

/-- A descriptor of n bytes at the address a scalar holds, aligned to n, in the operand file or the scratchpad (R134, R188): read in the issue
cycle with the core's own earlier stores. -/
def withDescriptor (a n : Nat) (s : State) (k : Nat → List Nat → State → State) : State :=
  unlessTagged [tagOfS s a] s fun s =>
  let ea := lowHalf (srcS s a)
  match addrFault s (highSet (srcS s a)) ea n n false (inDesc ea n) with
  | some x => raise 0x10 x s
  | none =>
    unlessTagged [ownTag (focusCore s) ea n s.cycle] s fun s =>
    match errorIn s s.focus.core ea n with
    | some x => consume 0x31 x s
    | none => k ea (ownRead s s.focus.core ea n s.cycle) s

/-- `vwset` (R134). -/
def vwsetForm (g cls idx a : Nat) (s : State) : State :=
  localHeld g s fun s =>
  withDescriptor a 16 s fun _ bs s =>
  match viewOfWords cls (wordAt bs 0) (wordAt bs 1) (wordAt bs 2) (wordAt bs 3) with
  | none => raise 0x11 2 s
  | some v => post 8 (.view cls idx v) s

/-- `vwclr` (R134). -/
def vwclrForm (g cls idx : Nat) (s : State) : State := localHeld g s fun s => post 8 (.view cls idx .none) s

/-- `vwget` (R135). -/
def vwgetForm (g cls idx d w : Nat) (s : State) : State :=
  guarded g s fun s =>
  postS 1 d (BitVec.ofNat 64 (viewWord (focusCore s) s.cycle (viewOf (focusCore s) cls idx) w)) none s

/-- `vwset` (R134). -/
def execVwset (g cls idx a : Nat) (s : State) : Host.Outcome State Fault Refusal := .next (vwsetForm g cls idx a s)
/-- `vwclr` (R134). -/
def execVwclr (g cls idx : Nat) (s : State) : Host.Outcome State Fault Refusal := .next (vwclrForm g cls idx s)
/-- `vwget` (R135). -/
def execVwget (g cls idx d w : Nat) (s : State) : Host.Outcome State Fault Refusal := .next (vwgetForm g cls idx d w s)

/-! ### Local loads and stores of vectors (R137, R139) -/

/-- The exact address of a vector load or store: offsets count 32 bytes (R137). -/
def vectorEa (s : State) (a : Nat) (off : Int) : Int := lowHalf (srcS s a) + off * 32

/-- `vld` (R137): read at T + 3, visible at T + 8. -/
def vldForm (g : Nat) (f : Fmt) (d a : Nat) (off : Int) (s : State) : State :=
  guarded g s fun s =>
  let v := viewOf (focusCore s) 0 d
  let n := vecBytes f
  let ea := vectorEa s a off
  let fs := (addrFault s (highSet (srcS s a)) ea n 32 false (inLocal ea n)).toList.map fun x => (0x10, x)
  if !v.cfg then hardFault 0x11 1 s else
  match tagOfS s a with
  | some p => poisonView 8 v n s p
  | none =>
    if !fs.isEmpty then softFirst fs (fun p s => poisonView 8 v n s p) s
    else
      match errorIn s s.focus.core ea.toNat n with
      | some x => if inRa s then poisonView 8 v n s ⟨0x31, s.focus.addr⟩ else consume 0x31 x s
      | none => post 8 (.loadV v.base ⟨[(ea.toNat, n)], [], none⟩ (s.cycle + 3)) (journalMem n s)

/-- `vst` (R137, R139): read at issue, written at T + 3; into the scratchpad, held in the kitty in run-ahead and while the kitty drains.
In run-ahead a source view that is not configured, or marked, stalls it until the call resolves (log 87). -/
def vstForm (g : Nat) (f : Fmt) (v a : Nat) (off : Int) (s : State) : State :=
  guarded g s fun s =>
  let vw := viewOf (focusCore s) 0 v
  let n := vecBytes f
  unlessTagged [tagOfS s a] s fun s =>
  let ea := vectorEa s a off
  let fs := detailsOf 0x11 [(!vw.cfg, 1)] ++ ((addrFault s (highSet (srcS s a)) ea n 32 true (inLocal ea n)).toList.map fun x => (0x10, x))
  if !fs.isEmpty then hardFirst fs s else
    let tag := viewTag (focusCore s) vw n
    let bs := Mem.read (focusCore s).regs.mem vw.base n
    if (errorIn s s.focus.core vw.base n).isSome then hardConsume s
    else if inReg ea.toNat n then
      storeReg [(ea.toNat, if tag.isSome then List.replicate n 0 else bs)] tag n s
    else
      unlessTagged [tag] s fun s => storeBytes (inRa s || draining s) ea.toNat bs s
where
  /-- an error in the source view, which no destination can carry in run-ahead -/
  hardConsume (s : State) : State := if inRa s then stallOn false 5 s else consume 0x31 1 s

/-- `vld` (R137). -/
def execVld (g : Nat) (f : Fmt) (d a : Nat) (off : Int) (s : State) : Host.Outcome State Fault Refusal := .next (vldForm g f d a off s)
/-- `vld` with a widening extension (R137). -/
def execVldWide (g : Nat) (f : Fmt) (d a : Nat) (off : Int) (s : State) : Host.Outcome State Fault Refusal :=
  .next (vldForm g f d a off s)
/-- `vst` (R137). -/
def execVst (g : Nat) (f : Fmt) (v a : Nat) (off : Int) (s : State) : Host.Outcome State Fault Refusal := .next (vstForm g f v a off s)
/-- `vst` with a widening extension (R137). -/
def execVstWide (g : Nat) (f : Fmt) (v a : Nat) (off : Int) (s : State) : Host.Outcome State Fault Refusal :=
  .next (vstForm g f v a off s)

/-! ### Tile slices (R138) -/

/-- Rows that a column form reaches: 128 g + j < R for j below 128. -/
def sliceRows (t : View) (i : Nat) : Nat := min 128 (t.rows + 1 - 128 * (i / 128))

/-- The view fault of a tile slice, after the checks that both views are configured (R133, R138). -/
def tileFaults (t : View) (f : Fmt) (col : Bool) (i : Nat) (write : Bool) : List (Nat × Nat) :=
  detailsOf 0x11 [(f != t.tfmt, 3), (if col then decide (t.cols < i % 128) || decide (t.rows < 128 * (i / 128)) else decide (t.rows < i), 4),
    (col && write && t.tfmt == .ln6, 5)]

/-- The address of the bytes of element (i, j) of a tile; for LN6, of its group (R130). -/
def elemAddr (t : View) (i j : Nat) : Nat :=
  t.base + 32 * t.pitch * i + (if t.tfmt = .ln6 then j / 4 * 3 else j * laneBytes t.tfmt)

/-- What a slice reads (R138). -/
def sliceReq (t : View) (f : Fmt) (col : Bool) (i : Nat) : LoadReq :=
  if col then
    let n := sliceRows t i
    let src := (List.range n).map fun j => (elemAddr t (128 * (i / 128) + j) (i % 128), if f = .ln6 then 3 else laneBytes f)
    if f = .ln6 then ⟨src, List.replicate (128 - n) 0x10, some (i % 128 % 4)⟩
    else ⟨src, List.replicate ((128 - n) * laneBytes f) 0, none⟩
  else
    let c := t.cols + 1
    ⟨[(elemAddr t i 0, lanesBytes f c)], fromLanes f (List.replicate (128 - c) (zeroOf f)), none⟩

/-- The pieces that a slice writes from the bytes of a vector (R138). -/
def sliceSegs (t : View) (f : Fmt) (col : Bool) (i : Nat) (bs : List Nat) : List (Nat × List Nat) :=
  if col then
    (List.range (sliceRows t i)).map fun j =>
      (elemAddr t (128 * (i / 128) + j) (i % 128), (bs.drop (j * laneBytes f)).take (laneBytes f))
  else [(elemAddr t i 0, bs.take (lanesBytes f (t.cols + 1)))]

/-- An error in the tile bytes that a slice reads. -/
def reqError (s : State) (r : LoadReq) : Option Nat := r.src.findSome? fun x => errorIn s s.focus.core x.1 x.2

/-- `tsr` (R138, R139). -/
def tsrForm (g : Nat) (f : Fmt) (v t : Nat) (col : Bool) (i : Nat) (s : State) : State :=
  guarded g s fun s =>
  let d := viewOf (focusCore s) 0 v
  let tv := viewOf (focusCore s) 1 t
  let n := vecBytes f
  let fs := if tv.cfg then tileFaults tv f col i false else [(0x11, 1)]
  if !d.cfg then hardFault 0x11 1 s
  else if !fs.isEmpty then softFirst fs (fun p s => poisonView 8 d n s p) s
  else match reqError s (sliceReq tv f col i) with
    | some x => if inRa s then poisonView 8 d n s ⟨0x31, s.focus.addr⟩ else consume 0x31 x s
    | none => post 8 (.loadV d.base (sliceReq tv f col i) (s.cycle + 3)) (journalMem n s)

/-- `tsw` (R138, R139): a fault in run-ahead poisons the whole extent of the tile, which is its destination; so does a tagged source (R102, log 83). -/
def tswForm (g : Nat) (f : Fmt) (v t : Nat) (col : Bool) (i : Nat) (s : State) : State :=
  guarded g s fun s =>
  let vw := viewOf (focusCore s) 0 v
  let tv := viewOf (focusCore s) 1 t
  let all := fun p s => poisonView 3 tv tv.extent s p
  let fs := detailsOf 0x11 [(!vw.cfg, 1)] ++ tileFaults tv f col i true
  if !tv.cfg then hardFault 0x11 1 s
  else if !fs.isEmpty then softFirst fs all s
  else
    let n := vecBytes f
    match errorIn s s.focus.core vw.base n with
    | some x => if inRa s then all ⟨0x31, s.focus.addr⟩ s else consume 0x31 x s
    | none =>
      let segs := sliceSegs tv f col i (Mem.read (focusCore s).regs.mem vw.base n)
      match viewTag (focusCore s) vw n with
      | some p => storeReg [(tv.base, List.replicate tv.extent 0)] (some p) tv.extent s
      | none => storeReg segs none (segs.map fun x => x.2.length).sum s

/-- `tsr` (R138). -/
def execTsr (g : Nat) (f : Fmt) (v t : Nat) (col : Bool) (i : Nat) (s : State) : Host.Outcome State Fault Refusal :=
  .next (tsrForm g f v t col i s)
/-- `tsw` (R138). -/
def execTsw (g : Nat) (f : Fmt) (v t : Nat) (col : Bool) (i : Nat) (s : State) : Host.Outcome State Fault Refusal :=
  .next (tswForm g f v t col i s)

/-! ### Weight-store loads (R199) -/

/-- A bank group that holds a byte of the range is in refresh (R198, R199). -/
def inRefresh (s : State) (d a n : Nat) : Bool :=
  (getDie s d).refresh.any fun x =>
    decide ((a - 0x40000000) / 2 ^ 26 ≤ x.1) && decide (x.1 ≤ (a + n - 1 - 0x40000000) / 2 ^ 26) && decide (dieTime s d < x.2)

/-- `wsld` (R199): the contents never change while a kernel runs, so they are read at issue; visible at T + 12. -/
def wsldForm (g : Nat) (f : Fmt) (d a : Nat) (off : Int) (s : State) : State :=
  guarded g s fun s =>
  let v := viewOf (focusCore s) 0 d
  let n := vecBytes f
  let k := s.focus.core
  let ea := vectorEa s a off
  let ok := decide (0 ≤ ea) && inWeight ea.toNat n
  let refused := !ownsWeights s k && decide (0 ≤ ea) && meets ea.toNat n 0x40000000 0x40000000
  let fault := refusedFault refused (addrFault s (highSet (srcS s a)) ea n 32 false ok)
  if !v.cfg then hardFault 0x11 1 s else
  match tagOfS s a with
  | some p => poisonView 12 v n s p
  | none =>
    match fault with
    | some x => softFault 0x10 x (poisonView 12 v n s) s
    | none =>
      if inRefresh s (dieOf k) ea.toNat n then stallOn false 0x0A s else
      match errorIn s k ea.toNat n with
      | some x => if inRa s then poisonView 12 v n s ⟨0x31, s.focus.addr⟩ else consume 0x31 x s
      | none => post 12 (.bytes [(v.base, Mem.read (getDie s (dieOf k)).weights ea.toNat n)] none none) (journalMem n s)

/-- `wsld` (R199). -/
def execWsld (g : Nat) (f : Fmt) (d a : Nat) (off : Int) (s : State) : Host.Outcome State Fault Refusal := .next (wsldForm g f d a off s)
/-- `wsld` with a widening extension (R199). -/
def execWsldWide (g : Nat) (f : Fmt) (d a : Nat) (off : Int) (s : State) : Host.Outcome State Fault Refusal :=
  .next (wsldForm g f d a off s)

/-! ### Stream registers (R185, R188, R192, R193) -/

/-- The pattern that a descriptor of 16 words describes; none where it breaks R185. -/
def patternOfWords (w : List Nat) : Option Pattern :=
  let x := fun i => w.getD i 0
  let nd := fld (x 1) 18 16
  let dims := List.range nd
  let ok := x 0 % 32 == 0 && fld (x 1) 15 4 == 0 && fld (x 1) 31 19 == 0 && decide (1 ≤ nd) && decide (nd ≤ 6) &&
    ((List.range 6).all fun d =>
      if d < nd then decide (x (2 + 2 * d) < 65536) && x (3 + 2 * d) % 32 == 0 else x (2 + 2 * d) == 0 && x (3 + 2 * d) == 0) &&
    x 14 == 0 && x 15 == 0
  if ok then some { base := x 0, len := 32 * (fld (x 1) 3 0 + 1), cnt := dims.map fun d => x (2 + 2 * d) + 1,
                    stride := dims.map fun d => signed 32 (x (3 + 2 * d)) }
  else none

/-- The stream registers of a core other than q that a unit serves. -/
def servedBy (c : Core) (u q : Nat) : List Stream :=
  c.streams.filterMap fun x => match x.2 with
    | some st => if x.1 ≠ q ∧ st.unit = u then some st else none
    | none => none

/-- A write register with entries pushed and not written (R188). -/
def unwritten (c : Core) (q : Nat) : Bool :=
  match streamOf c q with
  | some st => st.write && st.slots.any SEntry.live
  | none => false

/-- Ending a binding (R188): it waits until every pushed entry has been written, then goes on. -/
def endBinding (q : Nat) (s : State) (k : State → State) : State := if unwritten (focusCore s) q then stallOn true 4 s else k s

/-- A stream register bound or unbound. -/
def setStream (q : Nat) (st : Option Stream) (s : State) : State :=
  updCore s s.focus.core fun c => { c with streams := Tbl.set c.streams q st }

/-- `qbind` (R188). -/
def qbindForm (g q a : Nat) (write : Bool) (u : Nat) (s : State) : State :=
  localHeld g s fun s => notDraining s fun s =>
  withDescriptor a 64 s fun ea bs s =>
  let p := patternOfWords (wordsOf 16 bs)
  let others := servedBy (focusCore s) u q
  let fs := detailsOf 0x12 [(match p with | some p => !(inScratch p.base 1 || (!write && inWeight p.base 1)) | none => true, 1),
    (decide (4 ≤ others.length) || others.any (fun st => st.write != write), 5)]
  match p with
  | some p => if !fs.isEmpty then hardFirst fs s else endBinding q s fun s =>
      traceFocus 15 (q + ea * 2 ^ 32) (setStream q
        (some { unit := u, write := write, pat := p, pos := 0, moves := 0, ops := 0, slots := [], taken := 0 }) s)
  | none => hardFirst fs s

/-- `qbind q, none` (R188). -/
def qbindNoneForm (g q : Nat) (s : State) : State :=
  localHeld g s fun s => notDraining s fun s => endBinding q s fun s => traceFocus 15 q (setStream q none s)

/-- The oldest n entries discarded as if popped in a cycle. -/
def popMany (t : Nat) : Nat → List SEntry → List SEntry
  | 0, es => es
  | n + 1, es => popMany t n (popFirst t es)

/-- `qadv` on a register (R192). -/
def Stream.advance (st : Stream) (n t : Nat) : Stream :=
  if st.write then
    let m := min n (st.pat.total - st.pos)
    { st with pos := st.pos + m, moves := st.moves + m, ops := st.ops + n }
  else
    let held := min n (st.slots.filter SEntry.live).length
    let m := min (n - held) (st.pat.total - st.pos)
    { st with slots := popMany t held st.slots, pos := st.pos + m, moves := st.moves + m, ops := st.ops + n }

/-- `qadv` (R192): it stalls only in run-ahead, and on a write register while the kitty drains (R252, R254). -/
def qadvForm (g q n : Nat) (s : State) : State :=
  localHeld g s fun s =>
  match streamOf (focusCore s) q with
  | none => raise 0x12 2 s
  | some st => if st.write && draining s then stallOn false 5 s else setStream q (some (st.advance n s.cycle)) s

/-- The L-slot `vmov v, q` (R193). -/
def vmovPopForm (g v q : Nat) (s : State) : State := vecForm 4 g .n32 (view v) [(orStream true q, .n32)] .none none (lanes1 id) s

/-- The L-slot `vmov q, v` (R193): the entry is filled at issue. -/
def vmovPushForm (g v q : Nat) (s : State) : State :=
  guarded g s fun s =>
  destReady (orStream true q) s fun s =>
  withSources (destFaults (orStream true q) s) [(view v, 512)] (fun _ s => s) s fun vs s =>
  unlessTagged (vs.map fun x => x.tag) s fun s =>
  let r := (focusCore s).nextRes
  updStream q (fun st => { st with slots := fillSlot r ((vs.map fun x => x.bs).headD []) s.cycle st.slots }) (doReserve q s)

/-- `qbind` (R188). -/
def execQbind (g q a : Nat) (write : Bool) (u : Nat) (s : State) : Host.Outcome State Fault Refusal := .next (qbindForm g q a write u s)
/-- `qbind q, none` (R188): the direction and the unit are ignored. -/
def execQbindNone (g q : Nat) (_write : Bool) (_u : Nat) (s : State) : Host.Outcome State Fault Refusal := .next (qbindNoneForm g q s)
/-- `qadv` (R192). -/
def execQadv (g q n : Nat) (s : State) : Host.Outcome State Fault Refusal := .next (qadvForm g q n s)
/-- `vmov v, q` (R193). -/
def execVmovPop (g v q : Nat) (s : State) : Host.Outcome State Fault Refusal := .next (vmovPopForm g v q s)
/-- `vmov q, v` (R193). -/
def execVmovPush (g v q : Nat) (s : State) : Host.Outcome State Fault Refusal := .next (vmovPushForm g v q s)

/-! ### Atomics on the scratchpad (R183) -/

/-- `amo` (R183): performed at T + 3 in the core's place of the same-cycle order, its old value visible at T + 8. -/
def amoForm (op g : Nat) (f : Fmt) (d a b c : Nat) (srcs : List Nat) (w : Bool) (s : State) : State :=
  localHeld g s fun s => notDraining s fun s =>
  unlessTagged (srcs.map (tagOfS s)) s fun s =>
  let n := if w then 8 else 4
  let ea := lowHalf (srcS s a)
  match addrFault s (highSet (srcS s a)) ea n n true (inScratch ea n) with
  | some x => raise 0x10 x s
  | none =>
    match errorIn s s.focus.core ea n with
    | some x => consume 0x31 x s
    | none =>
      let s := traceFocus 13 ea (post 8 (.amoS d none) s)
      updCore s s.focus.core fun x => { x with stores := x.stores ++
        [⟨s.cycle + 3, s.cycle, s.focus.slot, .amo op (f == .i32) ea n (srcS s b).toNat (srcS s c).toNat d⟩] }

/-- `amo add` (R183). -/
def execAmoAdd (g : Nat) (f : Fmt) (d a b : Nat) (w : Bool) (s : State) : Host.Outcome State Fault Refusal :=
  .next (amoForm 0 g f d a b 0 [a, b] w s)
/-- `amo min` (R183). -/
def execAmoMin (g : Nat) (f : Fmt) (d a b : Nat) (w : Bool) (s : State) : Host.Outcome State Fault Refusal :=
  .next (amoForm 1 g f d a b 0 [a, b] w s)
/-- `amo max` (R183). -/
def execAmoMax (g : Nat) (f : Fmt) (d a b : Nat) (w : Bool) (s : State) : Host.Outcome State Fault Refusal :=
  .next (amoForm 2 g f d a b 0 [a, b] w s)
/-- `amo swap` (R183). -/
def execAmoSwap (g : Nat) (f : Fmt) (d a b : Nat) (w : Bool) (s : State) : Host.Outcome State Fault Refusal :=
  .next (amoForm 3 g f d a b 0 [a, b] w s)
/-- `amo cas` (R183). -/
def execAmoCas (g : Nat) (f : Fmt) (d a b c : Nat) (w : Bool) (s : State) : Host.Outcome State Fault Refusal :=
  .next (amoForm 4 g f d a b c [a, b, c] w s)

end Sys2Proof.Machine
end

