-- ==== Sys2Proof/Machine/Engine.lean ====
section
/-! DEFINITION. Sys2Proof/Machine/Engine.lean: the E forms that hand work to a copy engine or order it: `cpy`, `cpyw`, `gemv` (R201 to R203,
R207, R218, R235, R236), `pub`, `acq`, `rel` (R211, R213, R214), `fence` (R216) and `waita` (R217). -/

namespace Sys2Proof.Machine

/-! ### Request descriptors (R201, R202, R207, R218) -/

/-- Some run of a pattern meets the range of n bytes at b: the runs are n0 bytes long, dimensions innermost last. -/
def runMeets (b n n0 : Nat) : Int → List (Nat × Int) → Bool
  | a, [] => decide (a < b + n) && decide ((b : Int) < a + n0)
  | a, (c, d) :: rest => (List.range c).any fun i => runMeets b n n0 (a + i * d) rest

/-- The lowest and the highest byte of a pattern (R202). -/
def lowByte (a : Int) (cs : List (Nat × Int)) : Int := cs.foldl (fun t x => t + min 0 (((x.1 : Int) - 1) * x.2)) a
@[inherit_doc lowByte] def highByte (a : Int) (len : Nat) (cs : List (Nat × Int)) : Int :=
  cs.foldl (fun t x => t + max 0 (((x.1 : Int) - 1) * x.2)) (a + len - 1)

/-- A core-local side lies wholly in one allowed space and touches no ALT half (R202, R210). -/
def localSideOk (cl : Cluster) (dst : Bool) (a len : Nat) (cs : List (Nat × Int)) : Bool :=
  let lo := lowByte a cs
  let hi := highByte a len cs
  decide (0 ≤ lo) &&
  (decide (0x1000000 ≤ lo) && decide (hi < 0x1800000) || (!dst && decide (0x40000000 ≤ lo) && decide (hi < 0x80000000))) &&
  !cl.bindings.any fun b => b.pair && runMeets b.alt b.size len a cs

/-- The binding of a local SHD destination has a pair whose region holds the destination (R201, R218). -/
def shdOk (cl : Cluster) (b : Nat) (lo hi : Int) : Bool :=
  match cl.bindings[b]? with
  | none => false
  | some x => x.pair && decide ((x.base : Int) ≤ lo) && decide (hi < x.base + x.size)

/-- A word pair as one number (addresses of two words). -/
def pairWord (w : Nat → Nat) (i : Nat) : Nat := w i + 2 ^ 32 * w (i + 1)

/-- The copy faults of a descriptor of 32 words (R201, R202, R207, R218). -/
def copyFaults (cl : Cluster) (ws : List Nat) : List (Nat × Nat) :=
  let w := fun i => ws.getD i 0
  let kind := fld (w 0) 1 0
  let sspc := fld (w 0) 3 2
  let dspc := fld (w 0) 5 4
  let shd := bit (w 0) 6
  let pub := bit (w 0) 7
  let bind := fld (w 0) 13 8
  let aop := fld (w 0) 18 16
  let aw := bit (w 0) 19
  let nd := fld (w 0) 23 21
  let sm := fld (w 2) 8 0
  let dm := fld (w 2) 24 16
  let len := fld (w 1) 19 0 + 1
  let sa := pairWord w 4
  let da := pairWord w 6
  let reserved := fld (w 0) 15 14 != 0 || fld (w 0) 31 24 != 0 || fld (w 1) 31 20 != 0 || fld (w 2) 15 9 != 0 ||
    fld (w 2) 31 25 != 0 || fld (w 3) 31 16 != 0 || fld (w 5) 31 25 != 0 || fld (w 7) 31 25 != 0 ||
    (List.range 5).any (fun i => decide (65536 ≤ w (8 + i))) || (List.range 5).any (fun i => w (27 + i) != 0)
  let codes := decide (2 ≤ kind) || sspc == 3 || nd == 0 || nd == 7
  let unused := (List.range 5).any fun i => decide (nd ≤ i + 1) && (w (8 + i) != 0 || w (13 + i) != 0 || w (18 + i) != 0)
  let zeros := (sspc != 2 && sm != 0) || (decide (dspc ≤ 1) && dm != 0) || (dspc != 3 && fld (w 3) 15 0 != 0) ||
    ((!shd || dspc == 3) && bind != 0) ||
    (kind == 0 && (aop != 0 || aw || bit (w 0) 20 || pairWord w 23 != 0 || pairWord w 25 != 0))
  let dims := fun (o : Nat) => (List.range (nd - 1)).map fun i => (w (8 + i) + 1, signed 32 (w (o + i)))
  let srcBad := sspc == 0 && !localSideOk cl false sa len (dims 13)
  let dstBad := dspc == 0 && !localSideOk cl true da len (dims 18)
  let shdBad := shd && (dspc == 1 || dspc == 2 || (dspc == 0 && !shdOk cl bind (lowByte da (dims 18)) (highByte da len (dims 18))))
  let n := if aw then 8 else 4
  let atomicBad := kind == 1 && !((dspc == 1 || dspc == 2) && sspc == 0 && nd == 1 && len == n && decide (aop ≤ 4) &&
    da % n == 0 && sa % n == 0 && inScratch sa len)
  let memberBad := (sspc == 2 && decide (cl.ctx.nmembers ≤ sm)) || (decide (2 ≤ dspc) && decide (cl.ctx.nmembers ≤ dm))
  detailsOf 0x14
    [(reserved || codes || unused || zeros, 1), (srcBad || dstBad, 2), (shdBad || (pub && !shd), 3), (atomicBad, 4), (memberBad, 5)]

/-- The request of a descriptor without fault (R201), issued by core k. -/
def requestOf (cl : Cluster) (k T tag : Nat) (cw : Option (Nat × Nat)) (ws : List Nat) : Req :=
  let w := fun i => ws.getD i 0
  let sspc := fld (w 0) 3 2
  let dspc := fld (w 0) 5 4
  let nd := fld (w 0) 23 21
  let dims := List.range (nd - 1)
  { tag := tag, core := k, issued := T
    kind := if fld (w 0) 1 0 = 1 then
        .atomic (fld (w 0) 18 16) (bit (w 0) 20) (if bit (w 0) 19 then 8 else 4) (pairWord w 23) (pairWord w 25)
      else .copy
    src := if sspc = 0 then .local_ (pairWord w 4)
      else .virt (if sspc = 1 then cl.ctx.member else fld (w 2) 8 0) (pairWord w 4)
    dst := if dspc = 0 then .local_ (pairWord w 6)
      else if dspc = 3 then .window (fld (w 2) 24 16) (fld (w 3) 15 0) (pairWord w 6)
      else .virt (if dspc = 1 then cl.ctx.member else fld (w 2) 24 16) (pairWord w 6)
    len := fld (w 1) 19 0 + 1
    cnt := dims.map fun i => w (8 + i) + 1
    sstr := dims.map fun i => signed 32 (w (13 + i))
    dstr := dims.map fun i => signed 32 (w (18 + i))
    shd := bit (w 0) 6, pub := bit (w 0) 7, bind := fld (w 0) 13 8, cw := cw }

/-- The copy faults of a `gemv` descriptor of 16 words (R235, R236). -/
def gemvFaults (cl : Cluster) (ws : List Nat) : List (Nat × Nat) :=
  let w := fun i => ws.getD i 0
  let shd := bit (w 0) 0
  let bind := fld (w 0) 7 2
  let cw := bit (w 0) 8
  let segs := fld (w 1) 8 0 + 1
  let m := fld (w 1) 31 16 + 1
  let out := w 10
  let inScr := fun (a n : Nat) => inScratch a n && !touchesAlt cl a n
  let fields := fld (w 0) 31 9 != 0 || fld (w 1) 15 9 != 0 || fld (w 3) 31 25 != 0 || fld (w 6) 31 25 != 0 || w 13 != 0 || w 14 != 0 || w 15 != 0 ||
      w 2 % 32 != 0 || w 4 % 32 != 0 || decide (w 4 < 96 * segs) || decide (w 7 < 4 * segs) || w 8 % 32 != 0 || out % 8 != 0 ||
      (if cw then w 11 % 8 != 0 else w 11 != 0) || (!shd && bind != 0)
  let ranges := !inScr (w 8) (96 * segs) || !inScr (w 9) (4 * segs) || !inScr out (8 * m) || (cw && !inScr (w 11) 8)
  let binds := (shd && !shdOk cl bind out (out + 8 * m - 1)) || (bit (w 0) 1 && !shd)
  detailsOf 0x14 [(fields, 1), (ranges, 2), (binds, 3)]

/-- The request of a `gemv` descriptor without fault: K segments, the addresses of B, its scales, A's scales, the pitches. -/
def gemvRequest (k T tag : Nat) (ws : List Nat) : Req :=
  let w := fun i => ws.getD i 0
  let m := fld (w 1) 31 16 + 1
  { tag := tag, core := k, issued := T
    kind := .gemv m (fld (w 1) 8 0 + 1) 0 [pairWord w 2, w 4, pairWord w 5, w 7, w 9]
    src := .local_ (w 8), dst := .local_ (w 10), len := 8 * m, cnt := [], sstr := [], dstr := []
    shd := bit (w 0) 0, pub := bit (w 0) 1, bind := fld (w 0) 7 2
    cw := if bit (w 0) 8 then some (w 11, w 12) else none }

/-! ### Handing a request over (R200, R203, R254) -/

/-- The home engine of a core (R200). -/
def homeEngine (k : Nat) : Nat := rankOf k / 2

/-- The queue of an engine. -/
def queueOf (cl : Cluster) (e : Nat) : List QReq := Tbl.get [] cl.queues e

/-- The state with a function applied to a request. -/
def updReq (c e id : Nat) (f : QReq → QReq) (s : State) : State :=
  updCluster s c fun x => { x with queues := Tbl.set x.queues e ((queueOf x e).map fun q => if q.id = id then f q else q) }

/-- Requests of the launch whose task is on the cluster. -/
def ownRequests (cl : Cluster) : List QReq := (cl.queues.flatMap fun y => y.2).filter fun q => q.uid == cl.ctx.uid

/-- Entries of an engine's queue in use: requests of cores and fired operations of graphs (R200, R319). -/
def queued (cl : Cluster) (e : Nat) : Nat := (queueOf cl e).length

/-- Chunks of a run, at most 4,096 bytes each, and of a request (R205). A `gemv` request counts its rows. -/
def Req.perRun (r : Req) : Nat := max 1 ((r.len + 4095) / 4096)
@[inherit_doc Req.perRun] def Req.chunks (r : Req) : Nat :=
  match r.kind with
  | .gemv m .. => m
  | _ => r.cnt.foldl (· * ·) 1 * r.perRun

/-- Chunks of a request in a queue. -/
def QReq.total (q : QReq) : Nat := q.r.chunks

/-- Fired operations of graphs that wait for a place in an engine's full queue, oldest first (R200, R319, log 81). -/
def backlogOf (cl : Cluster) (e : Nat) : List QReq := (cl.backlog.filter fun x => x.1 == e).map Prod.snd

/-- An accepted request takes the last place of its engine's queue; where the queue is full (which stalls a core's request before it comes here),
it waits behind it (R200, R319). -/
def Cluster.enqueue (cl : Cluster) (e : Nat) (q : QReq) : Cluster :=
  if 16 ≤ queued cl e then { cl with backlog := cl.backlog ++ [(e, q)] } else { cl with queues := Tbl.set cl.queues e (queueOf cl e ++ [q]) }

/-- A request leaves an engine's queue, and the oldest operation that waits for its place takes it. -/
def Cluster.dequeue (cl : Cluster) (e id : Nat) : Cluster :=
  let qs := (queueOf cl e).filter fun y => y.id != id
  match backlogOf cl e with
  | [] => { cl with queues := Tbl.set cl.queues e qs }
  | q :: _ => { cl with queues := Tbl.set cl.queues e (qs ++ [q]), backlog := cl.backlog.filter fun x => x.2.id != q.id }

/-- A request enters an engine's queue (R200). -/
def acceptReq (c e : Nat) (r : Req) (s : State) : State :=
  let (n, s) := newId s
  let cl := getCluster s c
  let q : QReq := { id := n, uid := cl.ctx.uid, r := r, next := 0, active := 0, done := 0, status := 0, paused := none, pins := [], published := false,
                    cwSent := false, cwDone := false
                    bounded := (queueOf cl e).all (fun x => x.total ≤ x.next) && (backlogOf cl e).isEmpty && r.chunks == 1
                    acc := [], maps := [] }
  countCluster (updCluster s c fun x => x.enqueue e q) c 0x02 1

/-- A checked request is accepted in the issue cycle, or joins the kitty in run-ahead and while the kitty drains (R203, R254). -/
def handOver (r : Req) (journal_ : Nat) (s : State) : State :=
  let k := s.focus.core
  if inRa s || draining s then
    let s := journal journal_ s
    let j := if inRa s then journal_ else 0
    updFocus (updCore s k fun c => { c with kitty := c.kitty ++ [.req r j] }) fun f => { f with kentries := f.kentries + 1 }
  else acceptReq (clusterOf k) (homeEngine k) r s

/-- A full home queue stalls a request that does not join the kitty (R200). -/
def queueFull (s : State) : Bool :=
  !inRa s && !draining s && decide (16 ≤ queued (getCluster s (clusterOf s.focus.core)) (homeEngine s.focus.core))

/-- The tag of the next request (R203). -/
def nextTag (s : State) : Nat := coreNo s.focus.core * 2 ^ 22 + (focusCore s).regs.reqCount % 2 ^ 22

/-- The request count rises (R203). -/
def bumpCount (s : State) : State :=
  updCore s s.focus.core fun c => { c with regs := { c.regs with reqCount := (c.regs.reqCount + 1) % 2 ^ 22 } }

/-- An address fault of a form of the E slot: in run-ahead it is poison in the destination, where the form has one (R20), else it stalls. -/
def faultInto (d : Option Nat) (x : Nat) (s : State) : State :=
  match d with
  | some d => softFault 0x10 x (fun p => postS 1 d 0 (some p) s) s
  | none => hardFault 0x10 x s

/-- A descriptor of n bytes at a scalar's address (R203), for a form with the destination d, if it has one: a tagged granule of it follows
R111, an error in it is consumed, in run-ahead as poison (R365). -/
def withRequest (d : Option Nat) (a n : Nat) (s : State) (k : List Nat → State → State) : State :=
  let ea := lowHalf (srcS s a)
  match addrFault s (highSet (srcS s a)) ea n n false (inDesc ea n) with
  | some x => faultInto d x s
  | none =>
    unlessTagged [ownTag (focusCore s) ea n s.cycle] s fun s =>
    match errorIn s s.focus.core ea n with
    | some x =>
      if inRa s then match d with
        | some d => postS 1 d 0 (some ⟨0x31, s.focus.addr⟩) s
        | none => stallOn false 5 s
      else consume 0x31 x s
    | none => k (wordsOf (n / 4) (ownRead s s.focus.core ea n s.cycle)) s

/-- A request reads the weight store of a die that is not its partition's: no such read is served (R20, R351). -/
def readsOthersStore (s : State) (ws : List Nat) : Bool :=
  let w := fun i => ws.getD i 0
  fld (w 0) 3 2 == 0 && decide (0x40000000 ≤ pairWord w 4) && !ownsWeights s s.focus.core

/-- The journal entry of a `cpy` or `gemv` tag, with the request count that it restores (R253): s0 takes no tag, the count is kept all the same. -/
def journalTag (d : Nat) (s : State) : State := if d = 0 then journal 16 s else s

/-- `cpy` (R203). -/
def cpyForm (g a d : Nat) (s : State) : State :=
  guarded g s fun s => unlessTagged [tagOfS s a] s fun s =>
  if queueFull s then stallOn false 0 s else
  withRequest (some d) a 128 s fun ws s =>
  let cl := getCluster s (clusterOf s.focus.core)
  if !(copyFaults cl ws).isEmpty then hardFaults (copyFaults cl ws) s
  else if readsOthersStore s ws then faultInto (some d) 6 s
  else
    let tag := nextTag s
    traceFocus 10 tag (bumpCount (postS 1 d (BitVec.ofNat 64 tag) none
      (handOver (requestOf cl s.focus.core s.cycle tag none ws) 128 (journalTag d s))))

/-- `cpyw` (R203): the completion word is 8 bytes of the scratchpad; both addresses are tested before the descriptor is read. -/
def cpywForm (g a b c : Nat) (s : State) : State :=
  guarded g s fun s => unlessTagged [tagOfS s a, tagOfS s b, tagOfS s c] s fun s =>
  if queueFull s then stallOn false 0 s else
  let ea := lowHalf (srcS s a)
  let wa := lowHalf (srcS s b)
  match (addrFault s (highSet (srcS s a)) ea 128 128 false (inDesc ea 128)).or (addrFault s (highSet (srcS s b)) wa 8 8 true (inScratch wa 8)) with
  | some x => hardFault 0x10 x s
  | none =>
  withRequest none a 128 s fun ws s =>
  let cl := getCluster s (clusterOf s.focus.core)
  if !(copyFaults cl ws).isEmpty then hardFaults (copyFaults cl ws) s
  else if readsOthersStore s ws then hardFault 0x10 6 s
  else
    let tag := nextTag s
    traceFocus 10 tag (bumpCount
      (handOver (requestOf cl s.focus.core s.cycle tag (some (wa, lowHalf (srcS s c))) ws) 128 s))

/-- `gemv` (R236). -/
def gemvForm (g a d : Nat) (s : State) : State :=
  guarded g s fun s => unlessTagged [tagOfS s a] s fun s =>
  if queueFull s then stallOn false 0 s else
  withRequest (some d) a 64 s fun ws s =>
  let fs := gemvFaults (getCluster s (clusterOf s.focus.core)) ws
  if !fs.isEmpty then hardFaults fs s
  else
    let tag := nextTag s
    traceFocus 10 tag (bumpCount (postS 1 d (BitVec.ofNat 64 tag) none
      (handOver (gemvRequest s.focus.core s.cycle tag ws) 64 (journalTag d s))))

/-- `cpy` (R203). -/
def execCpy (g a d : Nat) (s : State) : Host.Outcome State Fault Refusal := .next (cpyForm g a d s)
/-- `cpyw` (R203). -/
def execCpyw (g a b c : Nat) (s : State) : Host.Outcome State Fault Refusal := .next (cpywForm g a b c s)
/-- `gemv` (R236). -/
def execGemv (g a d : Nat) (s : State) : Host.Outcome State Fault Refusal := .next (gemvForm g a d s)

/-! ### Bindings (R211 to R214) -/

/-- A binding of the core's cluster. -/
def bindingOf (s : State) (b : Nat) : Option Binding := (getCluster s (clusterOf s.focus.core)).bindings[b]?

/-- An entry joins the kitty (R254). -/
def joinKitty (e : KEntry) (s : State) : State :=
  updFocus (updCore s s.focus.core fun c => { c with kitty := c.kitty ++ [e] }) fun f => { f with kentries := f.kentries + 1 }

/-- The wait that the sequencer begins when its bundle completes. -/
def setWait (w : Wait) (s : State) : State := updFocus s fun f => { f with wait := w }

/-- A publish begins to wait; its fill count is tested for the first time at the end of this cycle (R211). -/
def beginPub (c : Nat) (p : PubOp) (s : State) : State :=
  let s := updCluster s c fun x => { x with pubs := x.pubs ++ [p] }
  { s with agenda := s.agenda ++ [⟨c, .publishSwap c p.b⟩] }

/-- `pub` (R211, R219): the swap comes no earlier than at the end of T + 3; the next bundle waits until the fill count is 0, which is tested at the
end of each cycle. -/
def pubForm (g b : Nat) (s : State) : State :=
  guarded g s fun s =>
  match bindingOf s b with
  | none => hardFault 0x15 2 s
  | some x =>
    if !x.pair then hardFault 0x15 2 s
    else if inRa s || draining s then traceFocus 11 b (joinKitty (.pub b) s)
    else
      let k := s.focus.core
      traceFocus 11 b (setWait (.pub b)
        (beginPub (clusterOf k) ⟨b, s.cycle + 3, s.nextId, k, none, false⟩ s))

/-- The cluster's cached bytes of a binding are discarded (R212, R213). -/
def dropCached (c b : Nat) (s : State) : State := updCluster s c fun x => { x with cache := x.cache.filter fun y => y.b != b }

/-- The core holds an exclusive binding, the `rel`s in the kitty counted. -/
def holds (c : Core) (b : Nat) : Bool := c.heldBind.contains b && !c.kitty.contains (.rel b)

/-- `acq` (R213): the first attempt on an exclusive sync word is made at T + 3. -/
def acqForm (g b : Nat) (s : State) : State :=
  guarded g s fun s => notInRa s fun s => notDraining s fun s =>
  match bindingOf s b with
  | none => raise 0x15 2 s
  | some x =>
    if x.sync = 0 then raise 0x15 2 s
    else if (focusCore s).heldBind.contains b then raise 0x15 3 s
    else
      let s := traceFocus 11 (b + 256) s
      if x.excl then setWait (.acq b (some (s.cycle + 3))) s else dropCached (clusterOf s.focus.core) b s

/-- A `rel` begins in the background (R214): it unmarks the binding and completes behind the program. -/
def beginRel (k b T : Nat) (s : State) : State :=
  updCore s k fun c => { c with heldBind := c.heldBind.filter (· != b), rels := c.rels ++ [⟨b, T, none⟩] }

/-- `rel` (R214, R219). -/
def relForm (g b : Nat) (s : State) : State :=
  guarded g s fun s =>
  match bindingOf s b with
  | none => hardFault 0x15 2 s
  | some x =>
    if x.sync = 0 then hardFault 0x15 2 s
    else if x.excl && !holds (focusCore s) b then hardFault 0x15 4 s
    else
      let s := traceFocus 11 (b + 512) s
      if inRa s || draining s then joinKitty (.rel b) s else beginRel s.focus.core b s.cycle s

/-- `fence` (R216). -/
def fenceForm (g scope : Nat) (s : State) : State :=
  guarded g s fun s => notInRa s fun s => notDraining s fun s => traceFocus 12 scope (setWait (.fence scope s.cycle) s)

/-- `waita` (R217): tested at T + 3 and at each later write to the word. -/
def waitaForm (g a b : Nat) (cond : WCond) (w : Bool) (s : State) : State :=
  guarded g s fun s => notInRa s fun s => notDraining s fun s =>
  unlessTagged [tagOfS s a, tagOfS s b] s fun s =>
  let n := if w then 8 else 4
  let ea := lowHalf (srcS s a)
  match addrFault s (highSet (srcS s a)) ea n n false (inScratch ea n) with
  | some x => raise 0x10 x s
  | none => setWait (.waita ea n cond (if w then (srcS s b).toNat else lowHalf (srcS s b)) s.focus.addr (s.cycle + 3) none) s

/-- `pub` (R211). -/
def execPub (g b : Nat) (s : State) : Host.Outcome State Fault Refusal := .next (pubForm g b s)
/-- `acq` (R213). -/
def execAcq (g b : Nat) (s : State) : Host.Outcome State Fault Refusal := .next (acqForm g b s)
/-- `rel` (R214). -/
def execRel (g b : Nat) (s : State) : Host.Outcome State Fault Refusal := .next (relForm g b s)
/-- `fence core` (R216). -/
def execFenceCore (g : Nat) (s : State) : Host.Outcome State Fault Refusal := .next (fenceForm g 0 s)
/-- `fence cluster` (R216). -/
def execFenceCluster (g : Nat) (s : State) : Host.Outcome State Fault Refusal := .next (fenceForm g 1 s)
/-- `fence module` (R216). -/
def execFenceModule (g : Nat) (s : State) : Host.Outcome State Fault Refusal := .next (fenceForm g 2 s)
/-- `waita` (R217). -/
def execWaita (g a b : Nat) (cond : WCond) (w : Bool) (s : State) : Host.Outcome State Fault Refusal :=
  .next (waitaForm g a b cond w s)

end Sys2Proof.Machine
end

