-- ==== Sys2Proof/Machine/Graph.lean ====
section
/-! DEFINITION. Sys2Proof/Machine/Graph.lean: collective graphs (R315 to R329): images and run blocks, `cgload` and `cgrun`, counters and
firing, signals, contributions and folds. -/

namespace Sys2Proof.Machine

/-! ### Images and run blocks (R316 to R318) -/

/-- An operation entry of eight words (R317). -/
def gopOf (ws : List Nat) : GOp :=
  let w := fun i => ws.getD i 0
  { kind := fld (w 0) 2 0, ffmt := fld (w 0) 3 3, ord := fld (w 0) 4 4, cnt := fld (w 0) 11 8, thr := fld (w 0) 31 16,
    icnt := fld (w 1) 3 0, ien := bit (w 1) 4, rmt := bit (w 1) 5, inc := fld (w 1) 15 8, mem := fld (w 1) 24 16,
    fm := fld (w 2) 8 0, nc := fld (w 2) 25 16, sb := fld (w 3) 2 0, db := fld (w 3) 5 3, dop := fld (w 3) 11 6,
    len := fld (w 4) 20 0, soff := w 5, doff := w 6 }

/-- An entry breaks R317: reserved bits, codes and limits (R328, detail 1). -/
def gopBad (ncnt nmembers : Nat) (ws : List Nat) : Bool :=
  let w := fun i => ws.getD i 0
  let o := gopOf ws
  fld (w 0) 7 5 != 0 || fld (w 0) 15 12 != 0 || fld (w 1) 7 6 != 0 || fld (w 1) 31 25 != 0 || fld (w 2) 15 9 != 0 ||
  fld (w 2) 31 26 != 0 || fld (w 3) 31 12 != 0 || fld (w 4) 31 21 != 0 || w 7 != 0 ||
  decide (5 ≤ o.kind) || decide (ncnt ≤ o.cnt) || (o.kind != 3 && decide (ncnt ≤ o.icnt)) || o.inc == 0 ||
  ((o.kind == 1 || o.kind == 3 || (o.kind == 0 && o.rmt)) && decide (nmembers ≤ o.mem)) ||
  (o.kind == 2 && (decide (512 < o.nc) || decide (nmembers < o.fm + o.nc))) ||
  decide (5 < o.sb) || decide (5 < o.db) || decide (2 ^ 20 < o.len)

/-- The operations of an image's words (R316), or none where the image breaks R316 or R317. -/
def imageOf (nmembers : Nat) (head ws : List Nat) : Option (Nat × List GOp) :=
  let h := head.getD 0 0
  let nops := fld h 6 0
  let ncnt := fld h 12 8
  let es := (List.range nops).map fun i => (ws.drop (8 * i)).take 8
  if bit h 7 || fld h 31 13 != 0 || (head.drop 1).any (fun x => x != 0) || decide (64 < nops) || decide (16 < ncnt) ||
      es.any (gopBad ncnt nmembers) then none
  else some (ncnt, es.map gopOf)

/-- The base addresses of a run block (R318): local or virtual, and the address. -/
def basesOf (ws : List Nat) : List (Bool × Nat) :=
  (List.range 6).map fun n =>
    (bit (ws.getD (2 * n + 1) 0) 31, ws.getD (2 * n) 0 + 2 ^ 32 * fld (ws.getD (2 * n + 1) 0) 24 0)

/-- A local side of n bytes lies in the scratchpad, or the base is virtual. -/
def baseOk (bases : List (Bool × Nat)) (b off n : Nat) : Bool :=
  match bases.getD b (false, 0) with
  | (true, a) => inScratch (a + off) n
  | (false, _) => true

/-- The local ranges of an operation stay in the scratchpad (R318, R327): an FRECV's row and a remote destination are virtual. -/
def opRangesOk (bases : List (Bool × Nat)) (o : GOp) : Bool :=
  if o.kind = 0 then
    o.len == 0 || (baseOk bases o.sb o.soff o.len && (if o.rmt then !(bases.getD o.db (false, 0)).1 else baseOk bases o.db o.doff o.len))
  else if o.kind = 1 then o.len == 0 || baseOk bases o.sb o.soff o.len
  else if o.kind = 2 then o.len == 0 || !(bases.getD o.db (false, 0)).1
  else true

/-- A run block of sixteen words breaks R318, or a local range leaves the scratchpad (R327, detail 3). -/
def runBlockBad (ops : List GOp) (ws : List Nat) : Bool :=
  let w := fun i => ws.getD i 0
  (List.range 6).any (fun n => fld (w (2 * n + 1)) 30 25 != 0) || w 12 % 32 != 0 || !inScratch (w 12) 32 ||
  w 13 % 8 != 0 || (w 13 != 0 && !inScratch (w 13) 8) || fld (w 15) 31 7 != 0 || !ops.all (opRangesOk (basesOf ws))

/-! ### Slots -/

/-- A graph slot of a cluster. -/
def slotAt (s : State) (c g : Nat) : Option GSlot := Tbl.get none (getCluster s c).graphs g

/-- The state with a function applied to a filled graph slot. -/
def updGraph (s : State) (c g : Nat) (f : GSlot → GSlot) : State :=
  updCluster s c fun x =>
    match Tbl.get none x.graphs g with
    | some y => { x with graphs := Tbl.set x.graphs g (some (f y)) }
    | none => x

/-- The registers of the partition of a cluster. -/
def partOf (s : State) (c : Nat) : Part := Tbl.get Part.reset (getMod s (c / 96)).parts (getCluster s c).part

/-- The engine of the partition has the save, or the restore, of the cluster's task under way (R352). -/
def Part.has (p : Part) (dir : Bool) (c uid : Nat) : Bool := p.act && p.dir == dir && p.lcl == c % 96 && p.uid == uid

/-- A save of the cluster's task into a guest frame is in progress (R352). -/
def guestSave (s : State) (c : Nat) : Bool := (partOf s c).has false c (getCluster s c).ctx.uid

/-- A slot with an image and no run (R315, R326). -/
def GSlot.loaded (ncnt : Nat) (ops : List GOp) : GSlot :=
  { ops := ops, ncnt := ncnt, run := 0, active := false, counters := List.replicate 16 0, states := ops.map fun _ => .completed,
    bases := [], recAddr := 0, cwaddr := 0, cwval := 0, irq := 0, irqen := false, core := 0, failed := none, dead := false,
    moved := false, sig := 0, applied := [], finishing := false }

/-- A slot whose run begins (R327). -/
def GSlot.begin (x : GSlot) (core : Nat) (ws : List Nat) : GSlot :=
  let w := fun i => ws.getD i 0
  { x with run := (x.run + 1) % 2 ^ 32, active := true, counters := List.replicate 16 0, states := x.ops.map fun _ => .armed,
           bases := basesOf ws, recAddr := w 12, cwaddr := w 13, cwval := w 14, irq := fld (w 15) 5 0, irqen := bit (w 15) 6,
           core := core, failed := none, dead := false, moved := false, sig := 0, applied := [], finishing := false }

/-- The operation of an index. -/
def GSlot.op (x : GSlot) (i : Nat) : Option GOp := x.ops[i]?

/-- The state of an operation; an index beyond the image counts as completed. -/
def GSlot.stateOf (x : GSlot) (i : Nat) : OpState := x.states.getD i .completed

/-- The slot with the state of an operation set. -/
def GSlot.mark (x : GSlot) (i : Nat) (st : OpState) : GSlot := { x with states := x.states.set i st }

/-- The armed operations that a counter's value has reached, in firing order: rising THR, then rising index (R319). -/
def GSlot.reached (x : GSlot) (cnt v : Nat) : List Nat :=
  let cands := (x.ops.zipIdx.filter fun o => x.stateOf o.2 == .armed && o.1.cnt == cnt && decide (o.1.thr ≤ v)).map fun o => (o.1.thr, o.2)
  (sortBy (fun a b => decide (a.1 < b.1) || (a.1 == b.1 && decide (a.2 ≤ b.2))) cands).map Prod.snd

/-- An increment of a counter, which saturates; with the operations it fires, none after a failure (R319, R323). -/
def GSlot.increment (x : GSlot) (cnt inc : Nat) : GSlot × List Nat :=
  let v := min 65535 (x.counters.getD cnt 0 + inc)
  let x := { x with counters := x.counters.set cnt v }
  (x, if x.failed.isSome || !x.active then [] else x.reached cnt v)

/-! ### Firing (R319, R320, R325) -/

/-- A member's module, and whether an operation can reach it: not dead (R259). -/
def memberLives (s : State) (job member : Nat) : Bool :=
  match getJob s job with
  | some j => decide (member < j.members.length) && !j.dead.contains member
  | none => false

/-- One side of a graph operation. -/
def opSide (x : GSlot) (own b off : Nat) : Side :=
  match x.bases.getD b (false, 0) with
  | (true, a) => .local_ (a + off)
  | (false, a) => .virt own ((a + off) % 2 ^ 57)

/-- The request by which an engine carries out an operation (R320). -/
def opRequest (cx : Ctx) (x : GSlot) (g i : Nat) (o : GOp) (T : Nat) : Req :=
  { tag := 0, core := x.core, issued := T, kind := .graph g i
    src := opSide x cx.member o.sb o.soff
    dst := opSide x (if o.kind = 0 ∧ o.rmt then o.mem else cx.member) o.db o.doff
    len := o.len, cnt := [], sstr := [], dstr := [], shd := false, pub := false, bind := 0, cw := none }

/-- A packet to a member, in flight for a time without bound (R313). -/
def sendTo (k : FKind) (s : State) : State :=
  let (d, s) := openAny s
  launchFlight (s.cycle + 1 + d) k s

/-- The module of a member of a job. -/
def memberModule (s : State) (job member : Nat) : Nat :=
  match getJob s job with
  | some j => moduleOf j member
  | none => 0

/-- The cluster of a module that runs a logical cluster of a job (log 12). -/
def clusterFor (s : State) (m job lcl : Nat) : Option Nat :=
  ((List.range 96).map fun i => 96 * m + i).find? fun c =>
    let cl := getCluster s c
    cl.task != .none && cl.task != .loading && cl.task != .saved && cl.task != .restoring && cl.ctx.job == job && cl.ctx.lcl == lcl

/-- What becomes of an operation that has fired: it is under way, it completes at once, or it fails, with a STATUS where the manual gives one. -/
inductive Fired where
  | under
  | complete
  | failed (status : Option Nat)
  deriving DecidableEq, Repr

/-- DOP of an FSEND names, in the image that its member's slot holds, an operation that is no FRECV (R328). -/
def dopBad (s : State) (c g : Nat) (o : GOp) : Bool :=
  let cx := (getCluster s c).ctx
  match (clusterFor s (memberModule s cx.job o.mem) cx.job cx.lcl).bind fun d => slotAt s d g with
  | some y => !(y.op o.dop).any fun z => z.kind == 2
  | none => false

/-- ICNT of a SIGNAL lies beyond the counters of the image that its member's slot holds (R317, R328). -/
def signalBad (s : State) (c g : Nat) (o : GOp) : Bool :=
  let cx := (getCluster s c).ctx
  match (clusterFor s (memberModule s cx.job o.mem) cx.job cx.lcl).bind fun d => slotAt s d g with
  | some y => decide (y.ncnt ≤ o.icnt)
  | none => false

/-- An operation sends toward a member: a remote COPY, an FSEND, a SIGNAL (R320). -/
def GOp.sends (o : GOp) : Bool := (o.kind == 0 && o.rmt) || o.kind == 1 || o.kind == 3

/-- The member to which an operation sends is dead (R321). -/
def towardDead (s : State) (c : Nat) (o : GOp) : Bool := o.sends && !memberLives s (getCluster s c).ctx.job o.mem

/-- The contributions that a run's operation has in its buffer, in the order of their arrival. -/
def heldFor (s : State) (c g i run : Nat) : List Contribution :=
  let cx := (getCluster s c).ctx
  (getMod s (c / 96)).contribs.filter fun k => k.job == cx.job && k.lcl == cx.lcl && k.slot == g && k.op == i && k.run == run

/-- The completion of a sender's operation travels back; one that completed at its firing names no operation. -/
def answerSender (status : Nat) (f : Nat × Nat × Nat) (s : State) : State :=
  if 64 ≤ f.2.2 then s else sendTo (.graphDone f.1 f.2.1 f.2.2 status) s

/-- Contributions that no FRECV of the run will take any more are discarded (R321). -/
def flushOp (c g i run : Nat) (s : State) : State :=
  let mine := heldFor s c g i run
  let s := updMod s (c / 96) fun md => { md with contribs := md.contribs.filter fun k => !mine.contains k }
  mine.foldl (fun s k => answerSender 0 k.from_ s) s

/-- SIG after an applied contribution (R321). -/
def nextSig (sig op member : Nat) : Nat :=
  let rot := sig * 32 % 2 ^ 32 + sig / 2 ^ 27
  Nat.xor rot (op * 2 ^ 16 + member + 1)

/-- A contribution that an FRECV discards (R321): of another LEN, or from outside its members; one without bytes counts at any LEN (R325). -/
def GOp.mismatch (o : GOp) (k : Contribution) : Bool :=
  (!k.bs.isEmpty && k.bs.length != o.len) || decide (k.member < o.fm) || decide (o.fm + o.nc ≤ k.member)

/-- An FRECV that is a count of zero completes when it fires (R325): the contributions that have arrived enter SIG in its order, one that does not match
fails it (R321). -/
def fireZero (c g i : Nat) (o : GOp) (x : GSlot) (s : State) : State × Fired :=
  let mine := heldFor s c g i x.run
  let mine := if o.ord = 0 then mine else sortBy (fun (a b : Contribution) => decide (a.member ≤ b.member)) mine
  let s := updGraph s c g fun x => { x with sig := (mine.filter fun k => !o.mismatch k).foldl (fun sig k => nextSig sig i k.member) x.sig }
  (flushOp c g i x.run s, if mine.any o.mismatch then .failed (some 6) else .complete)

/-- What an operation does when it fires (R320, R321, R325, R328). -/
def fireEffect (c g i : Nat) (o : GOp) (s : State) : State × Fired :=
  match slotAt s c g with
  | none => (s, .complete)
  | some x =>
    let cx := (getCluster s c).ctx
    if towardDead s c o then (updGraph s c g fun y => { y with dead := true }, .complete)
    else if o.kind = 4 ∨ (o.kind = 0 ∧ o.len = 0) then (s, .complete)
    else if o.kind = 2 ∧ (o.nc = 0 ∨ o.len = 0) then fireZero c g i o x s
    else if (o.kind = 1 ∧ dopBad s c g o) ∨ (o.kind = 3 ∧ signalBad s c g o) then (s, .failed none)
    else if o.kind = 1 ∧ o.len = 0 then
      (sendTo (.contribution (memberModule s cx.job o.mem) ⟨cx.job, cx.lcl, g, x.run, o.dop, cx.member, [], (c, g, 64)⟩) s, .complete)
    else (acceptReq c (i % 4) (opRequest cx x g i o s.cycle) s, .under)

/-- An operation fails as it fires, where the manual gives no STATUS with an open one (R328, log 82): the run fails. -/
def failFired (c g i : Nat) (status : Option Nat) (s : State) : State :=
  let (v, s) := openValue 1 6 s
  let n := status.getD v
  updGraph s c g fun x => { x.mark i .completed with failed := x.failed.or (some (i, n)) }

/-- Operations fire in order; one that completes at once may fire others, which follow (R319); after a failure none does (R323). -/
def fireOps (c g : Nat) : Nat → List Nat → State → State
  | 0, _, s => s
  | _, [], s => s
  | n + 1, i :: rest, s =>
    match slotAt s c g with
    | none => s
    | some x =>
      if x.failed.isSome then s else
      match x.op i with
      | none => fireOps c g n rest s
      | some o =>
        let s := countCluster (updGraph s c g fun x => x.mark i .fired) c 0x0A 1
        match fireEffect c g i o s with
        | (s, .under) => fireOps c g n rest s
        | (s, .failed n) => failFired c g i n s
        | (s, .complete) =>
          let x := ((slotAt s c g).getD (.loaded 0 [])).mark i .completed
          let (x, more) := if o.ien then x.increment o.icnt o.inc else (x, [])
          fireOps c g n (rest ++ more.filter fun j => !rest.contains j) (updGraph s c g fun _ => x)

/-- An increment of a slot's counter with what it fires (R319). -/
def incrementSlot (c g cnt inc : Nat) (s : State) : State :=
  match slotAt s c g with
  | none => s
  | some x =>
    let (x, more) := x.increment cnt inc
    fireOps c g 65 more (updGraph s c g fun _ => x)

/-- A contribution that finds no FRECV under its number fails its sender with an open STATUS (R328, log 82). -/
def refuseSender (f : Nat × Nat × Nat) (s : State) : State :=
  let (n, s) := openValue 1 6 s
  answerSender n f s

/-- An operation that has fired completes (R319, R320): its increment is performed after every write. A status other than 0 fails the run; the first
failure stands (R323, R324). -/
def completeOp (c g i status : Nat) (s : State) : State :=
  match slotAt s c g with
  | none => s
  | some x =>
    if x.stateOf i != .fired || !x.active then s else
    let x := x.mark i .completed
    let x := if status ≠ 0 ∧ x.failed.isNone then { x with failed := some (i, status) } else x
    let s := flushOp c g i x.run (updGraph s c g fun _ => x)
    match x.op i with
    | some o => if status = 0 ∧ o.ien then incrementSlot c g o.icnt o.inc s else s
    | none => s

/-- An operation that moved or added bytes (R325). -/
def noteMoved (c g : Nat) (s : State) : State := updGraph s c g fun x => { x with moved := true }

/-! ### Signals (R320, R322) -/

/-- How a packet's RUN stands to the receiving slot's (R322): the slot's cluster with less, equal or greater; a slot that no task holds is
waited for. -/
def runVs (s : State) (m job lcl g run : Nat) : Option Nat × Ordering :=
  match clusterFor s m job lcl with
  | none => (none, .gt)
  | some c =>
    match slotAt s c g with
    | none => (some c, .gt)
    | some x => (some c, if run < x.run then .lt else if run = x.run then .eq else .gt)

/-- A signal that is taken: its increment, and the sender's completion; one that names no counter of the image fails its sender (R317, R328). -/
def takeSignal (c : Nat) (g : Signal) (s : State) : State :=
  if (slotAt s c g.slot).any fun x => decide (x.ncnt ≤ g.cnt) then refuseSender g.from_ s
  else answerSender 0 g.from_ (incrementSlot c g.slot g.cnt g.inc s)

/-- A signal waits in the pending table, or is refused where the table is full: its sender sends it again 1,000 ns of module time after the refusal
(R322). -/
def holdSignal (m : Nat) (g : Signal) (s : State) : State :=
  if (getMod s m).signals.length < 64 then updMod s m fun md => { md with signals := md.signals ++ [g] }
  else
    let (d, s) := openAny s
    let (n, s) := newId s
    let wait := ((getMod s (g.from_.1 / 96)).time).cyclesFor 1000
    { s with flights := s.flights ++ [⟨n, s.cycle + 1 + d + wait, true, .signal m g⟩] }

/-- A signal arrives (R322): taken, held, refused for a full table, or stale. While a task's frame is being written its signals are held, as while it
is saved (R329; log 106). -/
def signalArrives (m : Nat) (g : Signal) (s : State) : State :=
  match runVs s m g.job g.lcl g.slot g.run with
  | (some c, .eq) => if guestSave s c then holdSignal m g s else takeSignal c g s
  | (_, .lt) => answerSender 0 g.from_ (countErr s m 0 20 1)
  | (_, _) => holdSignal m g s

/-! ### Folds (R237, R321) -/

/-- Elements of a contribution added into a row: FP32 words or BF16 halves. -/
def foldBytes (ffmt : Nat) (row c : List Nat) : List Nat :=
  let n := if ffmt = 0 then 4 else 2
  let f : Fmt := if ffmt = 0 then .f32 else .bf16
  let k := row.length / n
  let rs := lanesOf n k row
  let cs := lanesOf n k c
  let sums := List.zipWith (fun a b => pack f .rne ((unpack f a).add (unpack f b))) rs cs
  (sums.flatMap fun x => leBytes n x) ++ row.drop (n * k)

/-- Members of an FRECV already applied or skipped. -/
def GSlot.appliedTo (x : GSlot) (i : Nat) : List Nat := Tbl.get [] x.applied i

/-- The translated request of a fired FRECV, with its engine. -/
def recvReq (s : State) (c g i : Nat) : Option QReq :=
  (queueOf (getCluster s c) (i % 4)).find? fun q => q.r.kind == .graph g i && q.done == 1 && q.status == 0

/-- Bytes at a virtual place through translations: read as module and physical address of each piece of at most 65,536 bytes. -/
def PageMap.at_ (p : PageMap) (va : Nat) : Option Nat := if p.va ≤ va ∧ va < p.va + p.size then some (p.pa + (va - p.va)) else none

/-- Where a byte of a translated range lies. -/
def mapOf (maps : List PageMap) (write : Bool) (va : Nat) : Option (Nat × Nat) :=
  (maps.find? fun p => p.write == write && (p.at_ va).isSome).bind fun p => (p.at_ va).map fun a => (p.m, a)

/-- The contribution that an FRECV takes next: the first to arrive, or the one of the next live member in rank order. -/
def nextContribution (s : State) (c g i : Nat) (x : GSlot) (o : GOp) : Option Contribution :=
  let mine := heldFor s c g i x.run
  if o.ord = 0 then mine.head? else
  match (List.range o.nc).find? fun n => !(x.appliedTo i).contains (o.fm + n) with
  | none => mine.head?
  | some n =>
    match mine.find? fun k => k.member == o.fm + n with
    | some k => some k
    | none => mine.find? o.mismatch

/-- A contribution leaves the buffer. -/
def dropContribution (m : Nat) (k : Contribution) (s : State) : State :=
  updMod s m fun md => { md with contribs := md.contribs.erase k }

/-- Dead members whose contribution has not been applied are skipped, what they have sent with them (R321). -/
def skipDead (s : State) (c g i : Nat) (o : GOp) : State :=
  match slotAt s c g with
  | none => s
  | some x =>
    let gone := ((List.range o.nc).map fun n => o.fm + n).filter fun k =>
      !memberLives s (getCluster s c).ctx.job k && !(x.appliedTo i).contains k
    if gone.isEmpty then s
    else
      let lost := (heldFor s c g i x.run).filter fun y => gone.contains y.member
      updGraph (updMod s (c / 96) fun md => { md with contribs := md.contribs.filter fun y => !lost.contains y }) c g fun x =>
        { x with dead := true, applied := Tbl.set x.applied i (x.appliedTo i ++ gone) }

/-- The physical pieces of a range of n bytes: module, address and length of each run inside one page. -/
def physPieces (maps : List PageMap) (write : Bool) : Nat → Nat → Nat → List (Nat × Nat × Nat)
  | 0, _, _ => []
  | _, _, 0 => []
  | fuel + 1, va, n =>
    let k := min n (65536 - va % 65536)
    match mapOf maps write va with
    | some (m, a) => (m, a, k) :: physPieces maps write fuel (va + k) (n - k)
    | none => []

/-- Whether a line of HBM in a range is marked (R394). -/
def hbmMarked (md : Module) (a n : Nat) : Bool := md.marks.any fun l => meets (64 * l) 64 a n

/-- A module's memory by physical address: HBM or host memory (R222). -/
def isHost (a : Nat) : Bool := decide (0x8000000000000 ≤ a)
@[inherit_doc isHost] def physRead (md : Module) (a n : Nat) : List Nat :=
  if isHost a then Mem.read md.host (a - 0x8000000000000) n else Mem.read md.hbm a n

/-- Bytes written at a physical address: the marks of the lines covered whole are cleared (R394); a line that its code corrects is written back corrected
(R393). -/
def physWrite (m a : Nat) (bs : List Nat) (s : State) : State :=
  updMod s m fun md =>
    if isHost a then { md with host := Mem.write md.host (a - 0x8000000000000) bs }
    else Module.countBytes 0x03 bs.length { md with
      hbm := Mem.write md.hbm a bs
      marks := md.marks.filter fun l => !(decide (a ≤ 64 * l) && decide (64 * l + 64 ≤ a + bs.length))
      symErrs := md.symErrs.filter fun x => !meets (64 * x.1) 64 a bs.length }

/-- The frame-table entry of a physical page (R228). -/
def frameOf (s : State) (m pa : Nat) : Frame := Tbl.get ⟨0, 0, false⟩ (getMod s m).frames (pa / 65536)

/-- An uncorrectable HBM error is counted against the owner of its frame (R398). -/
def countHbm (m pa : Nat) (s : State) : State :=
  if isHost pa then countErr s m 0 3 1 else countErr s m (frameOf s m pa).owner 3 1

/-- Bytes read from HBM are counted (R400); host memory's are not. -/
def countHbmRead (ps : List (Nat × Nat × Nat)) (s : State) : State :=
  ps.foldl (fun s p => if isHost p.2.1 then s else countBytes s p.1 0x02 p.2.2) s

/-- The first of the pieces of a range that is marked (R394). -/
def markedPiece (s : State) (ps : List (Nat × Nat × Nat)) : Option (Nat × Nat) :=
  (ps.find? fun p => !isHost p.2.1 && hbmMarked (getMod s p.1) p.2.1 p.2.2).map fun p => (p.1, p.2.1)

/-- A contribution is applied whole (R237, R321); one without bytes counts and adds nothing (R325). -/
def applyContribution (c g i : Nat) (o : GOp) (maps : List PageMap) (va : Nat) (k : Contribution) (s : State) : State :=
  let m := c / 96
  let counted := fun (x : GSlot) => { x with sig := nextSig x.sig i k.member, applied := Tbl.set x.applied i (x.appliedTo i ++ [k.member]) }
  let bad := { k with bs := [] }
  if o.mismatch k then answerSender 0 k.from_ (completeOp c g i 6 s)
  else if (getMod s m).badFolds.contains bad then
    answerSender 0 k.from_ (completeOp c g i 1 (updMod (countErr s m 0 1 1) m fun md => { md with badFolds := md.badFolds.erase bad }))
  else if k.bs = [] then answerSender 0 k.from_ (countMod (updGraph s c g counted) m 0x08 1)
  else
    let ps := physPieces maps true 64 va o.len
    match markedPiece s ps with
    | some p => answerSender 0 k.from_ (completeOp c g i 1 (countHbm p.1 p.2 s))
    | none =>
      let row := ps.flatMap fun p => physRead (getMod s p.1) p.2.1 p.2.2
      let out := foldBytes o.ffmt row k.bs
      let s := (ps.foldl (fun (x : State × List Nat) p => (physWrite p.1 p.2.1 (x.2.take p.2.2) x.1, x.2.drop p.2.2)) (s, out)).1
      let s := updGraph (countHbmRead ps s) c g fun x => { counted x with moved := true }
      answerSender 0 k.from_ (countMod s m 0x08 1)

/-- An FRECV takes the contributions whose turn has come, and completes after the last (R320, R321). -/
def foldRun (c g i : Nat) : Nat → State → State
  | 0, s => s
  | n + 1, s =>
    match slotAt s c g, recvReq s c g i with
    | some x, some q =>
      match x.op i with
      | none => s
      | some o =>
        if x.stateOf i != .fired then s else
        let s := skipDead s c g i o
        let x := (slotAt s c g).getD x
        if o.nc ≤ (x.appliedTo i).length then completeOp c g i 0 s
        else match nextContribution s c g i x o with
          | none => s
          | some k =>
            let va := match q.r.dst with | .virt _ a => a | _ => 0
            foldRun c g i n (applyContribution c g i o q.maps va k (dropContribution (c / 96) k s))
    | _, _ => s

/-- An FRECV goes on with its fold, unless the halt wave holds the adders, which are released with the engines (R329, R373). -/
def foldNow (c g i : Nat) (s : State) : State :=
  if enginesHeld s c then s else foldRun c g i 600 s

/-- The fired FRECVs of a cluster's graphs go on with their folds. -/
def foldCluster (c : Nat) (s : State) : State :=
  ((getCluster s c).graphs.map Prod.fst).foldl (fun s g =>
    match slotAt s c g with
    | some x => (List.range x.ops.length).foldl (fun s i => if x.stateOf i == .fired then foldNow c g i s else s) s
    | none => s) s

/-- The part of the pending table for contributions is full (R322). -/
def pendingFull (s : State) (m : Nat) : Bool :=
  let late := fun (y : Contribution) => (runVs s m y.job y.lcl y.slot y.run).2 == .gt
  decide (192 ≤ ((getMod s m).contribs.filter late).length + ((getMod s m).partials.filter fun p => late p.k).length)

/-- The FRECV that a contribution of the slot's present run names. -/
def recvOf (s : State) (c : Nat) (k : Contribution) : Option GOp :=
  ((slotAt s c k.slot).bind fun x => x.op k.op).filter fun o => o.kind == 2

/-- A contribution whose last byte has arrived (R321, R322): taken for its run, held for a later one, or stale. -/
def contributionArrives (m : Nat) (k : Contribution) (s : State) : State :=
  let keep := fun (s : State) => updMod s m fun md => { md with contribs := md.contribs ++ [k] }
  match runVs s m k.job k.lcl k.slot k.run with
  | (some c, .eq) =>
    if (recvOf s c k).isNone then refuseSender k.from_ s
    else if (slotAt s c k.slot).any fun x => x.stateOf k.op == .completed then answerSender 0 k.from_ s
    else foldNow c k.slot k.op (keep s)
  | (_, .lt) => answerSender 0 k.from_ (countErr s m 0 20 1)
  | (_, _) => keep s

/-- What waited for a run is taken when the slot's run reaches it, in order of arrival (R322). -/
def takeHeld (c g : Nat) (s : State) : State :=
  let m := c / 96
  let cx := (getCluster s c).ctx
  let run := match slotAt s c g with | some x => x.run | none => 0
  let due := (getMod s m).signals.filter fun y => y.job == cx.job && y.lcl == cx.lcl && y.slot == g && y.run == run
  let s := updMod s m fun md => { md with signals := md.signals.filter fun y => !due.contains y }
  let s := due.foldl (fun s y => takeSignal c y s) s
  let lost := (getMod s m).contribs.filter fun y => y.job == cx.job && y.lcl == cx.lcl && y.slot == g && y.run == run && (recvOf s c y).isNone
  let s := updMod s m fun md => { md with contribs := md.contribs.filter fun y => !lost.contains y }
  lost.foldl (fun s y => refuseSender y.from_ s) s

/-! ### `cgload` and `cgrun` (R326, R327) -/

/-- The slot has an unfinished run (R326, R327). -/
def runs (s : State) (c g : Nat) : Bool := match slotAt s c g with | some x => x.active | none => false

/-- `cgload` (R326): the image is read at T + 3. -/
def cgloadForm (g a slot : Nat) (s : State) : State :=
  guarded g s fun s => notInRa s fun s => notDraining s fun s => unlessTagged [tagOfS s a] s fun s =>
  let ea := lowHalf (srcS s a)
  if runs s (clusterOf s.focus.core) slot then stallOn false 0 s else
  match addrFault s (highSet (srcS s a)) ea 32 32 false (inDesc ea 32) with
  | some x => raise 0x10 x s
  | none => setWait (.graph true slot ea s.cycle s.focus.addr none [] []) s

/-- `cgrun` (R327): the run block is read at T + 3. -/
def cgrunForm (g slot a : Nat) (s : State) : State :=
  guarded g s fun s => notInRa s fun s => notDraining s fun s => unlessTagged [tagOfS s a] s fun s =>
  let ea := lowHalf (srcS s a)
  if (slotAt s (clusterOf s.focus.core) slot).isNone then raise 0x19 2 s
  else if runs s (clusterOf s.focus.core) slot then stallOn false 0 s else
  match addrFault s (highSet (srcS s a)) ea 64 64 false (inDesc ea 64) with
  | some x => raise 0x10 x s
  | none => setWait (.graph false slot ea s.cycle s.focus.addr none [] []) s

/-- `cgload` (R326). -/
def execCgload (g a slot : Nat) (s : State) : Host.Outcome State Fault Refusal := .next (cgloadForm g a slot s)
/-- `cgrun` (R327). -/
def execCgrun (g slot a : Nat) (s : State) : Host.Outcome State Fault Refusal := .next (cgrunForm g slot a s)

/-- The fault that a graph instruction or a `tokget` raises after its bundle's issue, taken in cycle t: what the bundle's completion had done to the
position is undone (R357, R358). Where the bundle has trapped or unwound in another slot, the slot counts as not completed and faults again at the
reissue. -/
def graphFault (k addr : Nat) (mask : Option Nat) (t : Nat) (loops : List Loop) (trace : List Trace) (cause detail : Nat) (s : State) : State :=
  match mask with
  | none => updCore s k fun c => { c with trapmask := c.trapmask / 2 * 2, wait := .none }
  | some mask =>
    let s := updFocus (updCore s k fun c => { c with loops := loops, trace := trace }) fun f => { f with core := k, counted := true }
    let s := if cause = 0x30 ∨ cause = 0x31 then consumeError k addr t mask cause detail s else takeTrap k addr t mask cause detail s
    updFocus s fun f => { f with counted := false }

/-- In T + 3 the image is read (R326): a tag in it is R111's. -/
def loadImage (k slot ea addr : Nat) (mask : Option Nat) (t : Nat) (loops : List Loop) (trace : List Trace) (s : State) : State :=
  let c := clusterOf k
  let bad := fun cause detail => graphFault k addr mask t loops trace cause detail s
  match ownTag (getCore s k) ea 32 t with
  | some p => bad p.cause p.addr
  | none =>
  match errorIn s k ea 32 with
  | some x => bad 0x31 x
  | none =>
  let head := wordsOf 8 (ownRead s k ea 32 t)
  let n := 32 + 32 * fld (head.getD 0 0) 6 0
  if !inDesc ea n || touchesAlt (getCluster s c) ea n then bad 0x10 (if touchesAlt (getCluster s c) ea n then 5 else 1) else
  match ownTag (getCore s k) ea n t with
  | some p => bad p.cause p.addr
  | none =>
  match errorIn s k ea n with
  | some x => bad 0x31 x
  | none =>
  match imageOf (getCluster s c).ctx.nmembers head (wordsOf ((n - 32) / 4) ((ownRead s k ea n t).drop 32)) with
  | none => bad 0x19 1
  | some (ncnt, ops) =>
    let (d, s) := openValue 1 (8 + ops.length) s
    let s := updCluster s c fun x => { x with graphs := Tbl.set x.graphs slot (some (.loaded ncnt ops)) }
    updCore s k fun x => { x with wait := .none, nextIssue := max x.nextIssue (s.cycle + d) }

/-- In T + 3 the run block is read and the run begins (R327): a tag in it is R111's. -/
def beginRun (k slot ea addr : Nat) (mask : Option Nat) (t : Nat) (loops : List Loop) (trace : List Trace) (s : State) : State :=
  let c := clusterOf k
  let bad := fun cause detail => graphFault k addr mask t loops trace cause detail s
  match ownTag (getCore s k) ea 64 t with
  | some p => bad p.cause p.addr
  | none =>
  match errorIn s k ea 64 with
  | some x => bad 0x31 x
  | none =>
  let ws := wordsOf 16 (ownRead s k ea 64 t)
  match slotAt s c slot with
  | none => bad 0x19 2
  | some x =>
    if runBlockBad x.ops ws then bad 0x19 3 else
    let s := updGraph s c slot fun x => x.begin k ws
    let first := ((x.ops.zipIdx.filter fun o => o.1.thr == 0).map Prod.snd)
    let s := takeHeld c slot (fireOps c slot 65 first s)
    updCore s k fun x => { x with wait := .none, nextIssue := max x.nextIssue (s.cycle + 1) }

/-! ### The end of a run (R323 to R325) -/

/-- What a counter reaches at most by the increments of some operations: their own, and their SIGNALs to this member. -/
def GSlot.reach (x : GSlot) (own cnt : Nat) (live : List Nat) : Nat :=
  min 65535 (x.counters.getD cnt 0 + (live.map fun j => match x.op j with
    | some o => if o.icnt = cnt then (if o.ien then o.inc else 0) + (if o.kind = 3 ∧ o.mem = own then o.inc else 0) else 0
    | none => 0).sum)

/-- Operations under way, and the armed ones that their increments and those of one another can still fire. -/
def GSlot.live (x : GSlot) (own : Nat) : Nat → List Nat → List Nat
  | 0, live => live
  | n + 1, live =>
    x.live own n (live ++ ((x.ops.zipIdx.filter fun o => x.stateOf o.2 == .armed && !live.contains o.2 && decide (o.1.thr ≤ x.reach own o.1.cnt live)).map Prod.snd))

/-- Another member may still signal to a slot's run: one that lives, or a signal in flight (R320). -/
def maySignal (s : State) (c g run : Nat) : Bool :=
  let cx := (getCluster s c).ctx
  ((List.range cx.nmembers).any fun n => n != cx.member && memberLives s cx.job n) ||
  s.flights.any fun f => match f.kind with
    | .signal m y => m == c / 96 && y.job == cx.job && y.lcl == cx.lcl && y.slot == g && y.run == run
    | _ => false

/-- Every operation has completed or can no longer fire, and none is under way (R323): none fires after a failure, and none whose counter
nothing raises any more. -/
def runOver (s : State) (c g : Nat) (x : GSlot) : Bool :=
  let live := x.live (getCluster s c).ctx.member 64 ((List.range x.ops.length).filter fun i => x.stateOf i == .fired)
  let still := x.failed.isSome || !maySignal s c g x.run
  x.active && !x.finishing && x.states.zipIdx.all fun y =>
    y.1 == .completed || (y.1 == .armed && still && (x.failed.isSome || !live.contains y.2))

/-- STATUS of the completion record (R324, R325). -/
def GSlot.status (x : GSlot) : Nat :=
  if x.failed.isSome then 3 else if x.dead then 2 else if x.moved then 0 else 1

/-- The completion record (R324), with its TIME. -/
def GSlot.record (x : GSlot) (time : Nat) : List Nat :=
  let f := x.failed.getD (0, 0)
  let done := (x.states.filter fun st => st == .completed).length
  leBytes 4 (x.status + f.2 * 2 ^ 8 + f.1 * 2 ^ 16 + b2n x.dead * 2 ^ 22 + b2n x.irqen * 2 ^ 23) ++ leBytes 4 x.run ++
  leBytes 4 x.sig ++ leBytes 4 done ++ leBytes 8 time ++ leBytes 8 0

/-- The completion word of a run (R323). -/
def GSlot.word (x : GSlot) : List Nat := leBytes 8 (x.cwval + (match x.failed with | some f => f.2 | none => 0) * 2 ^ 32)

/-- A write that falls due through an engine (R181). -/
def dueWrite (c e cls ord addr : Nat) (bs : List Nat) (a : After) (s : State) : State :=
  updCluster s c fun x => { x with due := x.due ++ [⟨e, cls, ord, addr, bs, false, a⟩] }

/-- The run finishes: its record falls due through engine 0 (R323). -/
def execGraphRunFinish (c g : Nat) (s : State) : Host.Outcome State Fault Refusal :=
  .next (match slotAt s c g with
    | some x =>
      if runOver s c g x then dueWrite c 0 3 g x.recAddr (x.record (timeOf s (c / 96))) (.graph g 0) (updGraph s c g fun x => { x with finishing := true })
      else s
    | none => s)

/-- The run has written its last item (R323): the interrupt follows, and the slot is free. -/
def endRun (c g : Nat) (s : State) : State :=
  match slotAt s c g with
  | none => s
  | some x =>
    let cl := getCluster s c
    let s := if x.irqen then { s with hostMsgs := s.hostMsgs ++ [.interrupt (c / 96) x.irq cl.part 0] } else s
    let s := match x.failed with | some (_, st) => if st = 6 then countErr s (c / 96) cl.part 11 1 else s | none => s
    updGraph s c g fun x => { x with active := false, finishing := false }

/-- What follows a performed item of a run's end. -/
def afterGraph (c g step : Nat) (s : State) : State :=
  match slotAt s c g with
  | none => s
  | some x =>
    if step = 0 ∧ x.cwaddr ≠ 0 then dueWrite c 0 3 (16 + g) x.cwaddr x.word (.graph g 1) s
    else endRun c g s

/-! ### Events of graphs -/

/-- A graph signal arrives (R322); the halt wave holds it (R329). -/
def execGraphSignalArrival (s : State) : Host.Outcome State Fault Refusal :=
  .next (match dueFlight s with
    | some ⟨_, _, false, .signal m g⟩ => if receiversHeld s m g.job then s else signalArrives m g (landFlight s)
    | _ => s)

/-- A refused signal is sent again (R322). -/
def execSignalRetry (s : State) : Host.Outcome State Fault Refusal :=
  .next (match dueFlight s with
    | some ⟨_, _, true, .signal m g⟩ => sendTo (.signal m g) (landFlight s)
    | _ => s)

/-- A graph operation completes at its slot (R319, R320); the halt wave holds its counters (R329). -/
def execGraphOperationComplete (s : State) : Host.Outcome State Fault Refusal :=
  .next (match dueFlight s with
    | some ⟨_, _, _, .graphDone c g i status⟩ =>
      if receiversHeld s (c / 96) (getCluster s c).ctx.job then s else completeOp c g i status (landFlight s)
    | _ => s)

end Sys2Proof.Machine
end

