-- ==== Sys2Proof/Machine/Matrix.lean ====
section
/-! DEFINITION. Sys2Proof/Machine/Matrix.lean: the matrix array and its latches: the M and K forms (R79, R80, R164 to R177). -/

namespace Sys2Proof.Machine

/-! ### The stationary operand (R164 to R167) -/

/-- An element of B: the LN6 zero at launch (R165). -/
def arrAt (c : Core) (kr n : Nat) : Nat := Tbl.get 0x10 c.arrB (64 * kr + n)

/-- The checksum row of B: 128 codes of 0x10 in a column at launch (R165, R167). -/
def sumAt (c : Core) (n : Nat) : Nat := Tbl.get 2048 c.arrSum n

/-- The codes of column n of B, row 0 first. -/
def column (c : Core) (n : Nat) : List Nat := (List.range 128).map fun k => arrAt c k n

/-- The checksum row is recomputed from B (R167). -/
def recomputeSums (c : Core) : Core :=
  { c with arrSum := (List.range 64).foldl (fun t n => Tbl.set t n (column c n).sum) c.arrSum }

/-- Row kr of B is written (R166). -/
def pushRow (kr : Nat) (xs : List Nat) (c : Core) : Core :=
  recomputeSums { c with arrB := ((xs.take 64).zipIdx).foldl (fun t x => Tbl.set t (64 * kr + x.2) (x.1 % 64)) c.arrB }

/-- B moves down along K by n places (R166). -/
def shiftDown (n : Nat) (c : Core) : Core :=
  recomputeSums { c with arrB := c.arrB.filterMap fun x => if x.1 / 64 + n < 128 then some (x.1 + 64 * n, x.2) else none }

/-- B and the edge B latches move across along N by n places (R166). -/
def shiftAcross (n : Nat) (c : Core) : Core :=
  recomputeSums { c with
    arrB := c.arrB.filterMap fun x => if x.1 % 64 + n < 64 then some (x.1 + n, x.2) else none
    sb := c.sb.filterMap fun x => if x.1 % 64 + n < 64 then some (x.1 + n, x.2) else none }

/-! ### A beat (R94, R95, R170) -/

/-- The scale latches of a block, and of a block and column (R164). -/
def latchA (c : Core) (l : Nat) : Int := Tbl.get 0 c.sa l
@[inherit_doc latchA] def latchB (c : Core) (l n : Nat) : Int := Tbl.get 0 c.sb (64 * l + n)

/-- The tree result of column n for an A vector (R95). -/
def columnResult (c : Core) (a : List Nat) (n : Nat) : Nat :=
  tree128 (fadd .f32) ((a.zipIdx).map fun x =>
    pack .f32 .rne (ln6Prod x.1 (arrAt c x.2 n) (latchA c (x.2 / 32)) (latchB c (x.2 / 32) n)))

/-- (n + 1) × y[n] rounded, for a list of 64 results (R170). -/
def weighted (ys : List Nat) : List Nat := ys.zipIdx.map fun x => fmul .f32 (pack .f32 .rne (.fin false (x.2 + 1) 0)) x.1

/-- The codes read disagree with the checksum row (R167, R170). -/
def sumsBad (c : Core) : Bool := (List.range 64).any fun n => (column c n).sum != sumAt c n

/-! ### The drain (R173, R174) -/

/-- hi + lo exactly (R97). -/
def pairValue (p : Nat × Nat) : FVal := (unpack .f32 p.1).add (unpack .f32 p.2)

/-- The integer nearest to x / y, ties away, less 1 (R174); −1 where y is zero. -/
def locate : FVal → FVal → Int
  | .fin nw mw ew, .fin np mp ep =>
    if mp = 0 then -1 else
    let k := min ew ep
    let a := mw * 2 ^ (ew - k).toNat
    let b := mp * 2 ^ (ep - k).toNat
    let q : Int := ((2 * a + b) / (2 * b) : Nat)
    (if nw != np then -q else q) - 1
  | _, _ => -1

/-- The outcome of the compare (R174): nothing, a correction of element j, or an error. -/
inductive Check where
  | pass
  | correct (j : Nat) (eP : FVal)
  | error (detail : Nat)
  deriving DecidableEq, Repr

/-- The greater of two magnitudes. -/
def FVal.maxOf (x y : FVal) : FVal := if x.lt y then y else x

/-- The compare of a drained row with its checksum column under a tolerance exponent (R174). -/
def compareRow (texp : Nat) (corr : Bool) (ps : List (Nat × Nat)) (c : ChkCol) : Check :=
  let v := ps.map fun p => pack .f32 .rne (pairValue p)
  let cp := pack .f32 .rne (pairValue (c.cphi, c.cplo))
  let cw := pack .f32 .rne (pairValue (c.cwhi, c.cwlo))
  if !((cp :: cw :: v).all fun x => (unpack .f32 x).finite) then .pass else
  let dp := tree64 v
  let dw := tree64 (weighted v)
  let eP := fsub .f32 dp cp
  let eW := fsub .f32 dw cw
  if !([dp, dw, eP, eW].all fun x => (unpack .f32 x).finite) then .pass else
  let p := unpack .f32 eP
  let w := unpack .f32 eW
  let m := (v.map fun x => (unpack .f32 x).abs).foldl FVal.maxOf (unpack .f32 cp).abs
  let tol := m.scale (-(texp : Int))
  let past := tol.lt p.abs
  if !(past || (tol.scale 6).lt w.abs) then .pass else
  let j := if past then locate w p else -1
  if corr && past && decide (0 ≤ j) && decide (j ≤ 63) &&
      !(tol.scale 6).lt (w.add (((FVal.fin false (j.toNat + 1) 0).mul p).neg)).abs then .correct j.toNat p
  else .error 1

/-- The drained elements of a row, and what the compare says (R173, R174). -/
def drainRow (f : Fmt) (mtol : Nat) (ps : List (Nat × Nat)) (c : ChkCol) : List Nat × Check :=
  let out := ps.map fun p => pack f .rne (pairValue p)
  if !(bit mtol 8 && !c.unchk) then (out, .pass)
  else if c.taint then (out, .error 2)
  else
    match compareRow (mtol % 64) (bit mtol 9) ps c with
    | .correct j e => (out.set j (pack f .rne ((pairValue (ps.getD j (0, 0))).add e.neg)), .correct j e)
    | r => (out, r)

/-! ### The M forms (R79) -/

/-- The state with a function applied to the issuing core. -/
def updFocusCore (s : State) (f : Core → Core) : State := updCore s s.focus.core f

/-- An array form: its guard, and the stall of R177 in run-ahead. -/
def arrayForm (g : Nat) (s : State) (k : State → State) : State := guarded g s fun s => notInRa s k

/-- `mpush` (R166, R177). -/
def mpushForm (g kr : Nat) (st : Bool) (src : Nat) (s : State) : State :=
  arrayForm g s fun s =>
  withSources [] [(⟨st, src⟩, 96)] (fun _ s => s) s fun vs s =>
  unlessTagged (vs.map fun v => v.tag) s fun s =>
  updFocusCore s (pushRow kr (ln6Lanes ((vs.map fun v => v.bs).headD [])))

/-- The address of the accumulator row that `mfeed`, `mzero` and `mdrain` name, and its view faults (R133). -/
def accRow (s : State) (ad row : Nat) : Nat := (viewOf (focusCore s) 2 ad).base + 512 * row
@[inherit_doc accRow] def accFaults (s : State) (ad row : Nat) : List (Nat × Nat) :=
  let v := viewOf (focusCore s) 2 ad
  detailsOf 0x11 [(!v.cfg, 1), (v.cfg && decide (v.rows < row), 6)]

/-- `mfeed` (R170, R177). -/
def mfeedForm (g : Nat) (st : Bool) (src ad row : Nat) (s : State) : State :=
  arrayForm g s fun s =>
  withSources (accFaults s ad row) [(⟨st, src⟩, 96)] (fun _ s => s) s fun vs s =>
  let c := focusCore s
  let a := ln6Lanes ((vs.map fun v => v.bs).headD [])
  let y := (List.range 64).map (columnResult c a)
  let s := countCore s s.focus.core 0x07 1
  post 12 (.mfeed (accRow s ad row) y (tree64 y) (tree64 (weighted y)) (sumsBad c) (firstTag (vs.map fun v => v.tag))) s

/-- `mshift down` (R166). -/
def mshiftDownForm (g n : Nat) (s : State) : State := arrayForm g s fun s => updFocusCore s (shiftDown n)
/-- `mshift across` (R166). -/
def mshiftAcrossForm (g n : Nat) (s : State) : State := arrayForm g s fun s => updFocusCore s (shiftAcross n)

/-- `mzero` (R171). -/
def mzeroForm (g ad arow : Nat) (s : State) : State :=
  arrayForm g s fun s =>
  if !(accFaults s ad arow).isEmpty then hardFirst (accFaults s ad arow) s
  else post 12 (.mzero (accRow s ad arow)) s

/-- `mdrain` (R174): the first min(C, 64) elements of a tile row. -/
def mdrainForm (g : Nat) (f : Fmt) (td trow ad arow : Nat) (s : State) : State :=
  arrayForm g s fun s =>
  let t := viewOf (focusCore s) 1 td
  let fs := detailsOf 0x11 [(!t.cfg, 1)] ++ accFaults s ad arow ++ detailsOf 0x11 [(t.cfg && f != t.tfmt, 3), (t.cfg && decide (t.rows < trow), 4)]
  if !fs.isEmpty then hardFirst fs s
  else
      let r := accRow s ad arow
      let n := min (t.cols + 1) 64
      let dst := t.base + 32 * t.pitch * trow
      let c := focusCore s
      let k := s.focus.core
      if isMarked s 1 k r 512 then consume 0x31 1 s else
      match c.regs.tagMem r 512 with
      | some p => post 8 (.bytes [(dst, List.replicate (n * laneBytes f) 0)] (some p) none) s
      | none =>
        let ps := pairsOf (lanesOf 4 128 (Mem.read c.regs.mem r 512))
        let part := (getCluster s (clusterOf k)).part
        match drainRow f c.mtol ps (Tbl.get .clean c.regs.chk (r / 512 - 4096)) with
        | (_, .error d) => consume 0x30 d (countErr s (modOf k) part 5 1)
        | (out, x) =>
          let s := match x with
            | .correct .. => countErr (countCore s k 0x0F 1) (modOf k) part 4 1
            | _ => s
          post 8 (.bytes [(dst, fromLanes f (out.take n))] none none) s

/-- `mpush` (R166). -/
def execMpush (g kr : Nat) (st : Bool) (src : Nat) (s : State) : Host.Outcome State Fault Refusal := .next (mpushForm g kr st src s)
/-- `mfeed` (R170). -/
def execMfeed (g : Nat) (st : Bool) (src ad row : Nat) (s : State) : Host.Outcome State Fault Refusal :=
  .next (mfeedForm g st src ad row s)
/-- `mshift down` (R166). -/
def execMshiftDown (g n : Nat) (s : State) : Host.Outcome State Fault Refusal := .next (mshiftDownForm g n s)
/-- `mshift across` (R166). -/
def execMshiftAcross (g n : Nat) (s : State) : Host.Outcome State Fault Refusal := .next (mshiftAcrossForm g n s)
/-- `mdrain` (R174). -/
def execMdrain (g : Nat) (f : Fmt) (td trow ad arow : Nat) (s : State) : Host.Outcome State Fault Refusal :=
  .next (mdrainForm g f td trow ad arow s)
/-- `mzero` (R171). -/
def execMzero (g ad arow : Nat) (s : State) : Host.Outcome State Fault Refusal := .next (mzeroForm g ad arow s)

/-! ### The K forms (R80, R168) -/

/-- `kset` (R168): one latch, effective from T + 4. -/
def ksetForm (g : Nat) (edgeB : Bool) (l col : Nat) (sc : Int) (s : State) : State :=
  arrayForm g s fun s => post 4 (.latch [(edgeB, l, col, sc)]) s

/-- `kld` (R168, R177): one byte for edge A, 64 for edge B, read in the issue cycle. -/
def kldForm (g : Nat) (edgeB : Bool) (l a : Nat) (s : State) : State :=
  arrayForm g s fun s =>
  unlessTagged [tagOfS s a] s fun s =>
  let n := if edgeB then 64 else 1
  let ea := lowHalf (srcS s a)
  match addrFault s (highSet (srcS s a)) ea n n false (inDesc ea n) with
  | some x => raise 0x10 x s
  | none =>
    unlessTagged [ownTag (focusCore s) ea n s.cycle] s fun s =>
    match errorIn s s.focus.core ea n with
    | some x => consume 0x31 x s
    | none =>
      let bs := ownRead s s.focus.core ea n s.cycle
      post 4 (.latch (bs.zipIdx.map fun x => (edgeB, l, x.2, signed 8 x.1))) s

/-- `kset` (R168). -/
def execKset (g : Nat) (edgeB : Bool) (l col : Nat) (sc : Int) (s : State) : Host.Outcome State Fault Refusal :=
  .next (ksetForm g edgeB l col sc s)
/-- `kld` (R168). -/
def execKld (g : Nat) (edgeB : Bool) (l a : Nat) (s : State) : Host.Outcome State Fault Refusal := .next (kldForm g edgeB l a s)

end Sys2Proof.Machine
end

