-- ==== Sys2Proof/Machine/Trap.lean ====
section
/-! DEFINITION. Sys2Proof/Machine/Trap.lean: the E forms that change the position or the regions (R362, R364), `live` (R343) and `sys` (R353). -/

namespace Sys2Proof.Machine

/-! ### `trap`, `brkp`, `rte` (R362) -/

/-- `trap` (R362): taken when its bundle completes, the E slot counted as completed (R358). -/
def trapForm (g code : Nat) (s : State) : State :=
  guarded g s fun s => notInRa s fun s => setECtl (.trap 0x40 code) s

/-- `brkp` (R362): with the wave armed the bundle completes and the wave fires. -/
def brkpForm (g code : Nat) (s : State) : State :=
  guarded g s fun s => notInRa s fun s =>
  let k := s.focus.core
  if (jobSlot s (modOf k) (getCluster s (clusterOf k)).ctx.job).arm then setECtl (.wave code) s else setECtl (.trap 0x41 code) s

/-- `rte` (R362): cause 0x60, detail 0, where the loop depth differs from its depth at trap entry. -/
def rteForm (g : Nat) (s : State) : State :=
  guarded g s fun s => notInRa s fun s =>
  let c := focusCore s
  if !c.handler then raise 0x1C 3 s
  else if c.loops.length ≠ c.trapDepth then setECtl (.trap 0x60 0) s
  else setECtl .rte s

/-- `trap` (R362). -/
def execTrap (g code : Nat) (s : State) : Host.Outcome State Fault Refusal := .next (trapForm g code s)
/-- `brkp` (R362). -/
def execBrkp (g code : Nat) (s : State) : Host.Outcome State Fault Refusal := .next (brkpForm g code s)
/-- `rte` (R362). -/
def execRte (g : Nat) (s : State) : Host.Outcome State Fault Refusal := .next (rteForm g s)

/-! ### Containment regions (R364) -/

/-- `ctopen` (R364). -/
def ctopenForm (g a : Nat) (s : State) : State :=
  guarded g s fun s => notInRa s fun s => unlessTagged [tagOfS s a] s fun s =>
  let c := focusCore s
  let h := lowHalf (srcS s a)
  if c.regions.length = 7 then raise 0x1C 1 s
  else if highSet (srcS s a) || h % 4 != 0 || !inFetch h 4 then raise 0x1C 4 s
  else post 1 (.regions ((h, c.loops.length) :: c.regions)) s

/-- `ctclose` (R364). -/
def ctcloseForm (g : Nat) (s : State) : State :=
  guarded g s fun s => notInRa s fun s =>
  match (focusCore s).regions with
  | [] => raise 0x1C 2 s
  | _ :: rest => post 1 (.regions rest) s

/-- `ctopen` (R364). -/
def execCtopen (g a : Nat) (s : State) : Host.Outcome State Fault Refusal := .next (ctopenForm g a s)
/-- `ctclose` (R364). -/
def execCtclose (g : Nat) (s : State) : Host.Outcome State Fault Refusal := .next (ctcloseForm g s)

/-! ### `live` (R343) -/

/-- `live` (R343): a loop-bottom bundle whose cluster holds a pre-emption request lands (R30); in broadcast mode the lead's bundle
decides (R43). -/
def liveForm (g a : Nat) (s : State) : State :=
  guarded g s fun s => notInRa s fun s => unlessTagged [tagOfS s a] s fun s =>
  let ea := lowHalf (srcS s a)
  match addrFault s (highSet (srcS s a)) ea 64 64 false (inDesc ea 64) with
  | some x => raise 0x10 x s
  | none =>
    let held := match s.focus.land with
      | some b => b
      | none => (getCluster s (clusterOf s.focus.core)).preempt
    if s.focus.loopBottom && held then setECtl (.landing ea) s else s

/-- `live` (R343). -/
def execLive (g a : Nat) (s : State) : Host.Outcome State Fault Refusal := .next (liveForm g a s)

/-! ### `sys` (R353) -/

/-- A word of a launch's packet (R330). -/
def Launch.w (l : Launch) (i : Nat) : Nat := l.words.getD i 0

/-- The job and the priority of a launch (R330). -/
def Launch.job (l : Launch) : Nat := fld (l.w 4) 15 0
@[inherit_doc Launch.job] def Launch.pri (l : Launch) : Nat := fld (l.w 4) 17 16

/-- A queue of a module. -/
def queueAt (s : State) (m q : Nat) : Queue := Tbl.get .reset (getMod s m).queues q

/-- The state with a function applied to a queue. -/
def updQueue (s : State) (m q : Nat) (f : Queue → Queue) : State :=
  updMod s m fun md => { md with queues := Tbl.set md.queues q (f (Tbl.get .reset md.queues q)) }

/-- A running task takes a pre-emption request, unless its abandon holdoff stands (R335, R336, R340). -/
def requestPreempt (c : Nat) (s : State) : State :=
  let cl := getCluster s c
  if cl.task = .running ∧ !cl.preempt ∧ cl.holdoff ≤ timeOf s (c / 96) then
    updCluster s c fun x => { x with preempt := true, task := .landing }
  else s

/-- `sys` YIELD (R353): sa is ignored, and so is its tag (log 86). -/
def sysYieldForm (g : Nat) (s : State) : State :=
  guarded g s fun s => notInRa s fun s => notDraining s fun s =>
  let k := s.focus.core
  let cl := getCluster s (clusterOf k)
  let md := getMod s (modOf k)
  let mine := match md.launches.find? fun l => l.uid == cl.ctx.uid with | some l => l.pri | none => 3
  if md.launches.any fun l => l.state == .ready && (Tbl.get .reset md.queues l.queue).part == cl.part && decide (l.pri ≤ mine) then
    requestPreempt (clusterOf k) s
  else s

/-- Device-side packets of a queue (R353, R276). -/
def devicePackets (q : Queue) : Nat := (q.pkts.filter fun p => p.device).length

/-- `sys` SUBMIT (R353): the packet is read in the issue cycle. -/
def sysSubmitForm (g a : Nat) (s : State) : State :=
  guarded g s fun s => notInRa s fun s => notDraining s fun s => unlessTagged [tagOfS s a] s fun s =>
  let k := s.focus.core
  let v := srcS s a
  let ea := lowHalf v
  let q := fld (v.toNat / 2 ^ 32) 5 0
  let cl := getCluster s (clusterOf k)
  let bad := v.toNat / 2 ^ 38 != 0 || ea % 64 != 0 || !inScratch ea 64 || touchesAlt cl ea 64
  let other := (queueAt s (modOf k) q).part != cl.part
  let wrongJob := !bad && fld (wordAt (ownRead s k ea 64 s.cycle) 4) 15 0 != cl.ctx.job
  if bad || other then hardFaults (detailsOf 0x1B [(bad, 1), (other, 2), (wrongJob, 3)]) s
  else if 8 ≤ devicePackets (queueAt s (modOf k) q) then stallOn false 0 s
  else match errorIn s k ea 64 with
    | some x => consume 0x31 x s
    | none =>
      let ws := wordsOf 16 (ownRead s k ea 64 s.cycle)
      if wrongJob then raise 0x1B 3 s
      else updQueue s (modOf k) q fun x => { x with pkts := x.pkts ++ [⟨ws, true, false⟩] }

/-- `sys` NOTIFY (R353). -/
def sysNotifyForm (g a : Nat) (s : State) : State :=
  guarded g s fun s => notInRa s fun s => notDraining s fun s => unlessTagged [tagOfS s a] s fun s =>
  let k := s.focus.core
  { s with hostMsgs := s.hostMsgs ++ [.notify (modOf k) (getCluster s (clusterOf k)).part (lowHalf (srcS s a))] }

/-- `sys` YIELD (R353). -/
def execSysYield (g _a : Nat) (s : State) : Host.Outcome State Fault Refusal := .next (sysYieldForm g s)
/-- `sys` SUBMIT (R353). -/
def execSysSubmit (g a : Nat) (s : State) : Host.Outcome State Fault Refusal := .next (sysSubmitForm g a s)
/-- `sys` NOTIFY (R353). -/
def execSysNotify (g a : Nat) (s : State) : Host.Outcome State Fault Refusal := .next (sysNotifyForm g a s)

end Sys2Proof.Machine
end

