-- ==== Sys2Proof/Machine/Slots.lean ====
section
/-! DEFINITION. Sys2Proof/Machine/Slots.lean: what a slot of a bundle does: the meanings of the syllables, one by one, as the machine's own
`exec` gives them (Laws/Syllables.lean proves the two equal). -/

namespace Sys2Proof.Machine

/-- The meaning of a syllable of the bundle that issues; an event is no syllable. -/
def slotExec (i : Instr) (s : State) : Host.Outcome State Fault Refusal :=
  match i with
  | .add g d a b => execAdd g d a b s
  | .sub g d a b => execSub g d a b s
  | .mul g d a b => execMul g d a b s
  | .mulh g d a b => execMulh g d a b s
  | .and g d a b => execAnd g d a b s
  | .or g d a b => execOr g d a b s
  | .xor g d a b => execXor g d a b s
  | .shl g d a b => execShl g d a b s
  | .shr g d a b => execShr g d a b s
  | .sra g d a b => execSra g d a b s
  | .min g d a b => execMin g d a b s
  | .max g d a b => execMax g d a b s
  | .clz g d a => execClz g d a s
  | .popc g d a => execPopc g d a s
  | .addi g d a imm => execAddi g d a imm s
  | .addiWide g d a imm => execAddiWide g d a imm s
  | .movi g d imm => execMovi g d imm s
  | .moviWide g d imm => execMoviWide g d imm s
  | .movhi g d imm => execMovhi g d imm s
  | .sext g d a w => execSext g d a w s
  | .zext g d a w => execZext g d a w s
  | .bfx g d a pos len => execBfx g d a pos len s
  | .bfi g d a pos len => execBfi g d a pos len s
  | .madd g d a b c => execMadd g d a b c s
  | .sld g d a sz off => execSld g d a sz off s
  | .sldWide g d a sz off => execSldWide g d a sz off s
  | .sst g v a sz off => execSst g v a sz off s
  | .sstWide g v a sz off => execSstWide g v a sz off s
  | .rdsys g d n => execRdsys g d n s
  | .wrsys g a n => execWrsys g a n s
  | .endOp g => execEndOp g s
  | .br g disp => execBr g disp s
  | .brWide g disp => execBrWide g disp s
  | .brr g a => execBrr g a s
  | .call g d disp => execCall g d disp s
  | .callWide g d disp => execCallWide g d disp s
  | .ret g a => execRet g a s
  | .loop g a disp => execLoop g a disp s
  | .loopWide g a disp => execLoopWide g a disp s
  | .brk g n disp => execBrk g n disp s
  | .cmp g p cond a b => execCmp g p cond a b s
  | .cmpi g p cond a imm => execCmpi g p cond a imm s
  | .cmpiWide g p cond a imm => execCmpiWide g p cond a imm s
  | .fcmp g p cond f a b => execFcmp g p cond f a b s
  | .pand g p a b na nb => execPand g p a b na nb s
  | .por g p a b na nb => execPor g p a b na nb s
  | .pxor g p a b na nb => execPxor g p a b na nb s
  | .vany g p km => execVany g p km s
  | .vall g p km => execVall g p km s
  | .vadd g f d a b => execVadd g f d a b s
  | .vaddExt g f d a b e => execVaddExt g f d a b e s
  | .vsub g f d a b => execVsub g f d a b s
  | .vsubExt g f d a b e => execVsubExt g f d a b e s
  | .vmul g f d a b => execVmul g f d a b s
  | .vmulExt g f d a b e => execVmulExt g f d a b e s
  | .vmin g f d a b => execVmin g f d a b s
  | .vminExt g f d a b e => execVminExt g f d a b e s
  | .vmax g f d a b => execVmax g f d a b s
  | .vmaxExt g f d a b e => execVmaxExt g f d a b e s
  | .vand g f d a b => execVand g f d a b s
  | .vandExt g f d a b e => execVandExt g f d a b e s
  | .vor g f d a b => execVor g f d a b s
  | .vorExt g f d a b e => execVorExt g f d a b e s
  | .vxor g f d a b => execVxor g f d a b s
  | .vxorExt g f d a b e => execVxorExt g f d a b e s
  | .vshl g f d a b => execVshl g f d a b s
  | .vshlExt g f d a b e => execVshlExt g f d a b e s
  | .vshr g f d a b => execVshr g f d a b s
  | .vshrExt g f d a b e => execVshrExt g f d a b e s
  | .vsra g f d a b => execVsra g f d a b s
  | .vsraExt g f d a b e => execVsraExt g f d a b e s
  | .vfma g f d a b => execVfma g f d a b s
  | .vfmaExt g f d a b e => execVfmaExt g f d a b e s
  | .vfms g f d a b => execVfms g f d a b s
  | .vfmsExt g f d a b e => execVfmsExt g f d a b e s
  | .vperm g f d a b => execVperm g f d a b s
  | .vpermExt g f d a b e => execVpermExt g f d a b e s
  | .vslide g f d a b e n => execVslide g f d a b e n s
  | .vabs g f d a => execVabs g f d a s
  | .vabsExt g f d a e => execVabsExt g f d a e s
  | .vneg g f d a => execVneg g f d a s
  | .vnegExt g f d a e => execVnegExt g f d a e s
  | .vmov g d a => execVmov g d a s
  | .vmovExt g d a e => execVmovExt g d a e s
  | .vexp2 g f d a => execVexp2 g f d a s
  | .vexp2Ext g f d a e => execVexp2Ext g f d a e s
  | .vlog2 g f d a => execVlog2 g f d a s
  | .vlog2Ext g f d a e => execVlog2Ext g f d a e s
  | .vrcp g f d a => execVrcp g f d a s
  | .vrcpExt g f d a e => execVrcpExt g f d a e s
  | .vrsq g f d a => execVrsq g f d a s
  | .vrsqExt g f d a e => execVrsqExt g f d a e s
  | .vtanh g f d a => execVtanh g f d a s
  | .vtanhExt g f d a e => execVtanhExt g f d a e s
  | .vsum g f d a => execVsum g f d a s
  | .vsumExt g f d a e => execVsumExt g f d a e s
  | .vmaxr g f d a => execVmaxr g f d a s
  | .vmaxrExt g f d a e => execVmaxrExt g f d a e s
  | .vcvt g f d a sf rm => execVcvt g f d a sf rm s
  | .vcvtExt g f d a sf rm e => execVcvtExt g f d a sf rm e s
  | .vsel g f d a b km => execVsel g f d a b km s
  | .vselExt g f d a b km e => execVselExt g f d a b km e s
  | .vcmp g f kd cond a b => execVcmp g f kd cond a b s
  | .vcmpExt g f kd cond a b e => execVcmpExt g f kd cond a b e s
  | .vsplat g f d a => execVsplat g f d a s
  | .mpush g kr b src => execMpush g kr b src s
  | .mfeed g b src ad row => execMfeed g b src ad row s
  | .mshiftDown g n => execMshiftDown g n s
  | .mshiftAcross g n => execMshiftAcross g n s
  | .mdrain g f td trow ad arow => execMdrain g f td trow ad arow s
  | .mzero g ad arow => execMzero g ad arow s
  | .kset g edgeB l col sc => execKset g edgeB l col sc s
  | .kld g edgeB l a => execKld g edgeB l a s
  | .vwset g cls idx a => execVwset g cls idx a s
  | .vwclr g cls idx => execVwclr g cls idx s
  | .vwget g cls idx d w => execVwget g cls idx d w s
  | .vld g f d a off => execVld g f d a off s
  | .vldWide g f d a off => execVldWide g f d a off s
  | .vst g f v a off => execVst g f v a off s
  | .vstWide g f v a off => execVstWide g f v a off s
  | .tsr g f v t col i => execTsr g f v t col i s
  | .tsw g f v t col i => execTsw g f v t col i s
  | .wsld g f d a off => execWsld g f d a off s
  | .wsldWide g f d a off => execWsldWide g f d a off s
  | .qbind g q a write u => execQbind g q a write u s
  | .qbindNone g q write u => execQbindNone g q write u s
  | .qadv g q n => execQadv g q n s
  | .amoAdd g f d a b w => execAmoAdd g f d a b w s
  | .amoMin g f d a b w => execAmoMin g f d a b w s
  | .amoMax g f d a b w => execAmoMax g f d a b w s
  | .amoSwap g f d a b w => execAmoSwap g f d a b w s
  | .amoCas g f d a b c w => execAmoCas g f d a b c w s
  | .vmovPop g v q => execVmovPop g v q s
  | .vmovPush g v q => execVmovPush g v q s
  | .cpy g a d => execCpy g a d s
  | .cpyw g a b c => execCpyw g a b c s
  | .pub g b => execPub g b s
  | .acq g b => execAcq g b s
  | .rel g b => execRel g b s
  | .fenceCore g => execFenceCore g s
  | .fenceCluster g => execFenceCluster g s
  | .fenceModule g => execFenceModule g s
  | .waita g a b cond w => execWaita g a b cond w s
  | .gemv g a d => execGemv g a d s
  | .cgload g a slot => execCgload g a slot s
  | .cgrun g slot a => execCgrun g slot a s
  | .abr g ch p h disp => execAbr g ch p h disp s
  | .abrWide g ch p h disp => execAbrWide g ch p h disp s
  | .agreeAnd g ch x => execAgreeAnd g ch x s
  | .agreeOr g ch x => execAgreeOr g ch x s
  | .agreeMin g ch x => execAgreeMin g ch x s
  | .agreeMax g ch x => execAgreeMax g ch x s
  | .agreeSum g ch x => execAgreeSum g ch x s
  | .acall g d ch => execAcall g d ch s
  | .xchk g cls idx => execXchk g cls idx s
  | .tnow g d => execTnow g d s
  | .waitt g a => execWaitt g a s
  | .waittk g tg => execWaittk g tg s
  | .tokget g d w a => execTokget g d w a s
  | .tokrel g w a => execTokrel g w a s
  | .cvget g d => execCvget g d s
  | .cvsample g a => execCvsample g a s
  | .live g a => execLive g a s
  | .trap g code => execTrap g code s
  | .rte g => execRte g s
  | .brkp g code => execBrkp g code s
  | .ctopen g a => execCtopen g a s
  | .ctclose g => execCtclose g s
  | .sysYield g a => execSysYield g a s
  | .sysSubmit g a => execSysSubmit g a s
  | .sysNotify g a => execSysNotify g a s
  | _ => .next s

/-- The guard of a syllable (R54). -/
def guardOf : Instr → Option Nat
  | .add g .. | .sub g .. | .mul g .. | .mulh g .. | .and g .. | .or g .. | .xor g .. | .shl g .. | .shr g .. | .sra g .. | .min g ..
  | .max g .. | .clz g .. | .popc g .. | .addi g .. | .addiWide g .. | .movi g .. | .moviWide g .. | .movhi g .. | .sext g .. | .zext g ..
  | .bfx g .. | .bfi g .. | .madd g .. | .sld g .. | .sldWide g .. | .sst g .. | .sstWide g .. | .rdsys g .. | .wrsys g .. | .endOp g
  | .br g .. | .brWide g .. | .brr g .. | .call g .. | .callWide g .. | .ret g .. | .loop g .. | .loopWide g .. | .brk g .. | .cmp g ..
  | .cmpi g .. | .cmpiWide g .. | .fcmp g .. | .pand g .. | .por g .. | .pxor g .. | .vany g .. | .vall g .. | .vadd g .. | .vaddExt g ..
  | .vsub g .. | .vsubExt g .. | .vmul g .. | .vmulExt g .. | .vmin g .. | .vminExt g .. | .vmax g .. | .vmaxExt g .. | .vand g ..
  | .vandExt g .. | .vor g .. | .vorExt g .. | .vxor g .. | .vxorExt g .. | .vshl g .. | .vshlExt g .. | .vshr g .. | .vshrExt g ..
  | .vsra g .. | .vsraExt g .. | .vfma g .. | .vfmaExt g .. | .vfms g .. | .vfmsExt g .. | .vperm g .. | .vpermExt g .. | .vslide g ..
  | .vabs g .. | .vabsExt g .. | .vneg g .. | .vnegExt g .. | .vmov g .. | .vmovExt g .. | .vexp2 g .. | .vexp2Ext g .. | .vlog2 g ..
  | .vlog2Ext g .. | .vrcp g .. | .vrcpExt g .. | .vrsq g .. | .vrsqExt g .. | .vtanh g .. | .vtanhExt g .. | .vsum g .. | .vsumExt g ..
  | .vmaxr g .. | .vmaxrExt g .. | .vcvt g .. | .vcvtExt g .. | .vsel g .. | .vselExt g .. | .vcmp g .. | .vcmpExt g .. | .vsplat g ..
  | .mpush g .. | .mfeed g .. | .mshiftDown g .. | .mshiftAcross g .. | .mdrain g .. | .mzero g .. | .kset g .. | .kld g .. | .vwset g ..
  | .vwclr g .. | .vwget g .. | .vld g .. | .vldWide g .. | .vst g .. | .vstWide g .. | .tsr g .. | .tsw g .. | .wsld g .. | .wsldWide g ..
  | .qbind g .. | .qbindNone g .. | .qadv g .. | .amoAdd g .. | .amoMin g .. | .amoMax g .. | .amoSwap g .. | .amoCas g .. | .vmovPop g ..
  | .vmovPush g .. | .cpy g .. | .cpyw g .. | .pub g .. | .acq g .. | .rel g .. | .fenceCore g | .fenceCluster g | .fenceModule g
  | .waita g .. | .gemv g .. | .cgload g .. | .cgrun g .. | .abr g .. | .abrWide g .. | .agreeAnd g .. | .agreeOr g .. | .agreeMin g ..
  | .agreeMax g .. | .agreeSum g .. | .acall g .. | .xchk g .. | .tnow g .. | .waitt g .. | .waittk g .. | .tokget g .. | .tokrel g ..
  | .cvget g .. | .cvsample g .. | .live g .. | .trap g .. | .rte g | .brkp g .. | .ctopen g .. | .ctclose g | .sysYield g ..
  | .sysSubmit g .. | .sysNotify g .. => some g
  | _ => none

/-- The syllables that stall in run-ahead until the call arrives (R252, R177, R195). -/
def waitsForCall : Instr → Bool
  | .wrsys .. | .endOp _ | .mpush .. | .mfeed .. | .mshiftDown .. | .mshiftAcross .. | .mdrain .. | .mzero .. | .kset .. | .kld ..
  | .vwset .. | .vwclr .. | .qbind .. | .qbindNone .. | .qadv .. | .amoAdd .. | .amoMin .. | .amoMax .. | .amoSwap .. | .amoCas ..
  | .vmovPush .. | .acq .. | .fenceCore _ | .fenceCluster _ | .fenceModule _ | .waita .. | .cgload .. | .cgrun .. | .abr .. | .abrWide ..
  | .agreeAnd .. | .agreeOr .. | .agreeMin .. | .agreeMax .. | .agreeSum .. | .acall .. | .xchk .. | .waitt .. | .waittk .. | .tokget ..
  | .tokrel .. | .cvsample .. | .live .. | .trap .. | .rte _ | .brkp .. | .ctopen .. | .ctclose _ | .sysYield .. | .sysSubmit ..
  | .sysNotify .. => true
  | _ => false

end Sys2Proof.Machine
end

