-- ==== Sys2Proof/Machine/Bundle.lean ====
section
/-! DEFINITION. Sys2Proof/Machine/Bundle.lean: fetching, checking and issuing a bundle (R28, R58 to R60, R70, R71, R120 to R124), what its slots
ask of the position (R118, R121, R247, R251, R358, R362), and broadcast groups (R39 to R43). -/

namespace Sys2Proof.Machine

/-! ### Where the position goes (R117 to R121) -/

/-- Loop-bottom processing at the bundle at A of len bytes: PC, reached by a loop-back, and the loop stack (R121). -/
def loopBottom (A len : Nat) : List Loop → Nat × Bool × List Loop
  | [] => (A + len, false, [])
  | l :: ls =>
    if l.stop = A then
      if 1 < l.count then (l.start, true, { l with count := l.count - 1 } :: ls) else loopBottom A len ls
    else (A + len, false, l :: ls)

/-- The position that the X slot and loop-bottom processing give (R117, R120, R121): the fall-through arm of R247. `end` leaves the loop stack until
it takes effect (R118). -/
def nextPos (A len : Nat) (lb : Bool) (ls : List Loop) (c : Ctl) : Next :=
  match c with
  | .seq => if lb then let r := loopBottom A len ls; ⟨r.1, r.2.1, r.2.2, false⟩ else ⟨A + len, false, ls, false⟩
  | .jump t _ hi => ⟨if hi then t + 2 ^ 32 else t, true, ls, false⟩
  | .push l => ⟨A + len, false, l :: ls, false⟩
  | .leave n t => ⟨t, true, ls.drop n, false⟩
  | .endd => ⟨A + len, false, ls, true⟩

/-- The trace entry of a transfer (R375): kind and target. -/
def ctlTrace (A len : Nat) (lb : Bool) (ls : List Loop) (c : Ctl) : Option (Nat × Nat) :=
  match c with
  | .seq => if lb && (loopBottom A len ls).2.1 then some (3, (loopBottom A len ls).1) else none
  | .jump t k _ => if k = 0 then none else some (k, t)
  | .push _ => none
  | .leave _ t => some (4, t)
  | .endd => some (18, 0)

/-! ### Fetch (R28, R60, R70, R124) -/

/-- What the fetch of a bundle gives. -/
inductive Fetched where
  | stall (st : Stall)
  | fault (cause detail : Nat)
  | errored
  | ok (h len : Nat) (is : List (Slot × Instr)) (ws : List Nat)
  deriving DecidableEq, Repr

/-- Blocks of 512 bytes that a range touches. -/
def blocksOf (a n : Nat) : List Nat := lines a n

/-- The fetch cache with blocks used last (R124). -/
def touchBlocks (bs : List Nat) (fc : List Nat) : List Nat := (bs ++ fc.filter fun b => !bs.contains b).take 32

/-- Missing blocks are asked for, each to arrive after an open time; a block under way is not asked for again (R60). -/
def askBlocks (k : Nat) (bs : List Nat) (s : State) : State :=
  bs.foldl (fun s b =>
    if (getCore s k).fills.any fun x => x.1 == b then s else
    let (d, s) := openAny s
    updCore s k fun c => { c with fills := c.fills ++ [(b, s.cycle + 1 + d)] }) s

/-- Fetch addresses from which the core may fetch (R28, R351). -/
def fetchable (s : State) (k a n : Nat) : Bool := inScratch a n || (inWeight a n && ownsWeights s k)

/-- The words of the bundle that begins with a header, from a reading of code: one word where it is none. -/
def bundleFrom (read : Nat → List Nat) : List Nat :=
  let h := wordAt (read 4) 0
  let n := if isHeader h then bundleWords h else 1
  wordsOf n (read (4 * n))

/-- The words of the bundle at an address: where a kernel has stored over it, the bundle as it stood when the launch began, or as stored, and no
third value (R29). -/
def codeWords (k a : Nat) (s : State) : List Nat × State :=
  if inScratch a 4 then
    let cl := getCluster s (clusterOf k)
    let old := bundleFrom fun n => Mem.read cl.codeOld a n
    let new := bundleFrom fun n => readScratch cl a n
    if old = new then (new, s) else
      let (x, s) := openValue 0 1 s
      (if x = 0 then old else new, s)
  else (bundleFrom fun n => Mem.read (getDie s (dieOf k)).weights a n, s)

/-- A block is fetched if it is cached; outside the cache it is asked for, from a weight store not inside a refresh window (R28, R60). -/
def cached (k a n : Nat) (s : State) : Option Stall × State :=
  let miss := (blocksOf a n).filter fun b => !(getCore s k).fcache.contains b
  if miss.isEmpty then (none, s)
  else if inWeight a n && inRefresh s (dieOf k) a n then (some ⟨false, 0x0B⟩, s)
  else (some ⟨false, 0x0B⟩, askBlocks k miss s)

/-- The bundle decoded from its words (R70). -/
def decodeWords (ws : List Nat) (xfer : Bool) : Fetched :=
  let h := ws.getD 0 0
  match decodeBundle h xfer (ws.drop 1) with
  | .ok is => .ok h (4 * bundleWords h) is ws
  | .bad r slot =>
    if r = 1 then .fault 3 1
    else if r < 8 then .fault 1 r
    else .fault 2 (r + 2 ^ 8 * slot)

/-- A fetch meets an uncorrectable error (R394): 4 in the fetch cache, else as `errorIn` says of the place behind it. -/
def fetchError (s : State) (k a n : Nat) : Option Nat := if isMarked s 4 k a n then some 4 else errorIn s k a n

/-- Fetch of the bundle at a PC (R28, R60, R70): the fetch ranges are checked before the reasons of R70. A bundle starts on a 4-byte boundary
(R27, R52): any other PC is no bundle start (R117). -/
def fetchAt (k pc : Nat) (xfer : Bool) (s : State) : Fetched × State :=
  if !fetchable s k pc 4 then (.fault 4 (pc % 2 ^ 32), s)
  else if pc % 4 ≠ 0 then (.fault 3 1, s) else
  match cached k pc 4 s with
  | (some st, s) => (.stall st, s)
  | (none, s) =>
    let (ws, s) := codeWords k pc s
    let n := ws.length
    if !fetchable s k pc (4 * n) then (.fault 4 (pc % 2 ^ 32), s) else
    match cached k pc (4 * n) s with
    | (some st, s) => (.stall st, s)
    | (none, s) =>
      if (fetchError s k pc (4 * n)).isSome then (.errored, s) else
      (decodeWords ws xfer, updCore s k fun c => { c with fcache := touchBlocks (blocksOf pc (4 * n)) c.fcache })

/-- A block of a weight store is not read inside a refresh window of its bank group (R28, R198). -/
def blockShut (s : State) (k b : Nat) : Bool := inWeight (512 * b) 512 && inRefresh s (dieOf k) (512 * b) 512

/-- A block reaches the fetch cache (R60), but for one that a refresh window shuts; the entry bundle may issue once both its blocks are there. -/
def fillBlocks (t : Nat) (shut : Nat → Bool) (c : Core) : Core :=
  let due := (c.fills.filter fun x => decide (x.2 ≤ t) && !shut x.1).map Prod.fst
  let left := c.fills.filter fun x => decide (t < x.2) || shut x.1
  { c with fcache := touchBlocks due c.fcache, fills := left
           seq := if c.seq = .entry ∧ left.isEmpty then .running else c.seq }

/-- FETCH_BLOCK_FILL (R60): a block that comes in leaves no mark of the one it replaces (R394). -/
def fetchFillMove (k : Nat) (s : State) : State :=
  let old := (getCore s k).fills
  let s := updCore s k (fillBlocks s.cycle (blockShut s k))
  let left := (getCore s k).fills
  (old.filter fun x => !left.contains x).foldl (fun s x => clearMarks s 4 k (512 * x.1) 512) s

@[inherit_doc fetchFillMove]def execFetchBlockFill (s : State) : Host.Outcome State Fault Refusal :=
  .next (fetchFillMove s.place s)

/-! ### Running the slots (R58, R59) -/

/-- One slot's syllable acts on the state. -/
def runSlot (s : State) (x : Slot × Instr) : State :=
  match slotExec x.2 (updFocus s fun f => { f with slot := x.1.num }) with
  | .next s' => s'
  | _ => s

/-- The bit of a slot in the completion mask (R358). -/
def slotBit (sl : Nat) : Nat := 2 ^ (8 - sl)

/-- The completion mask of slots (R358). -/
def maskOfSlots (ss : List Nat) : Nat := ss.foldl (fun m x => Nat.lor m (slotBit x)) 0

/-- An X-slot control form. -/
def isControl : Instr → Bool
  | .endOp .. | .br .. | .brWide .. | .brr .. | .call .. | .callWide .. | .ret .. | .loop .. | .loopWide .. | .brk .. => true
  | _ => false

/-- A control form that acts never completes in a trapping bundle (R358): one whose guard reads 0 does (R59). In broadcast mode the lead's guard
decides (R39). -/
def actsAsControl (k : Nat) (follow : Option Ctl) (i : Instr) (s : State) : Bool :=
  isControl i && match follow with
    | some c => c != .seq
    | none => (getCore s k).regs.getP ((guardOf i).getD 0)

/-- The link of a `call` in a trapping bundle is no result: its slot has not completed (R358, R363). -/
def dropLink (k t : Nat) (s : State) : State := updCore s k fun c => { c with pend := c.pend.filter fun p => !(p.seq == t && p.slot == 0) }

/-- The E slot does not act in a bundle that traps in another slot (R360): no trap is entered with a call outstanding (log 40). -/
def holdsBack (f : Focus) : Bool := match f.ectl with | .call .. | .arm _ => true | _ => false

/-- A wait with what a fault of it needs: the mask of the bundle's other slots (none where the bundle has trapped in one of them), the loop stack and
the trace as they stood. -/
def Wait.faultsWith (mask : Option Nat) (loops : List Loop) (trace : List Trace) : Wait → Wait
  | .graph load slot ea t a _ _ _ => .graph load slot ea t a mask loops trace
  | .tokget x d slot word q l last a _ _ _ => .tokget x d slot word q l last a mask loops trace
  | w => w

/-- A wait of the E slot of a bundle that traps or unwinds in another slot stands: the handler's first bundle is the next bundle (R32, R357, R358). -/
def waitOn (k : Nat) (f : Focus) (s : State) : State :=
  if (getCore s k).seq == .running then updCore s k fun c => { c with wait := f.wait.faultsWith none [] [] } else s

/-- An armed `brkp` in a bundle that traps in another slot fires the wave all the same (R358, R362; log 40). -/
def waveOn (k A : Nat) (f : Focus) (s : State) : State :=
  match f.ectl with
  | .wave code => fireWave (modOf k) (getCluster s (clusterOf k)).ctx.job (causeRecOf s k 0x41 code A) s
  | _ => s

/-- The focus of a core's bundle. -/
def focusOn (k A h len : Nat) (sent : Option Sent) : Focus :=
  { Focus.idleAt k with
    addr := A, len := len, loopBottom := fld h 9 8 == 1, idle := fld h 7 4
    follow := sent.map fun x => x.ctl
    land := sent.map fun x => x.land }

/-- The faults of a bundle in slot order: slot, cause, detail, and whether it is an error consumed (R71, R358, R365). -/
def Focus.events (f : Focus) : List (Nat × Nat × Nat × Bool) :=
  let fs := f.faults.map fun x => (x.1, x.2.1, x.2.2, false)
  let cs := f.consumed.map fun x => (x.1, x.2.1, x.2.2, true)
  let es := match f.ectl with | .trap cause code => [(8, cause, code, false)] | _ => []
  sortBy (fun a b => decide (a.1 ≤ b.1)) (fs ++ cs ++ es)

/-! ### Completion -/

/-- The loop stack on the taken arm of an agreement bundle: what its X slot asks belongs to the fall-through arm (R247), loop-bottom processing
does not wait for the call (R121, R123; log 70). -/
def takenLoops (ctl : Ctl) (before after : List Loop) : List Loop := match ctl with | .seq => after | _ => before

/-- Entries of the trace ring of a bundle, in slot order (R375). -/
def pushTrace (es : List Trace) (c : Core) : Core := { c with trace := (es.reverse ++ c.trace).take 1024 }

/-- The module time of a launch's first bundle (R332). -/
def noteStart (k : Nat) (s : State) : State :=
  updLaunch s (modOf k) (getCluster s (clusterOf k)).ctx.uid fun l =>
    { l with tstart := match l.tstart with | some t => some t | none => some (timeOf s (modOf k)) }

/-- The bundle's issue is counted (R406, R400); until it is done with, entries of the trace ring take the count before it (R374). -/
def countIssue (k : Nat) (vw : Nat) (s : State) : State :=
  let s := if (getCore s k).sched = 0 then noteStart k s else s
  let s := updFocus s fun f => { f with core := k, counted := true }
  let s := updCore s k fun c => { c with sched := (c.sched + 1) % 2 ^ 64, wd := 0 }
  let s := countCore s k 0x02 1
  if vw = 0 then s else countCore s k 0x08 vw

/-- The machine is done with a bundle that has issued. -/
def issued (s : State) : State := updFocus s fun f => { f with counted := false }

/-- The group of a core stops sending after a trap (R42). -/
def stopGroup (k : Nat) (s : State) : State :=
  if (getCluster s (clusterOf k)).ctx.bcast then updCluster s (clusterOf k) fun c => { c with stopped := true } else s

/-- `end` in a handler abandons the trapped bundle (R363): held writes come back as after an `rte` in the next cycle. -/
def endCore (t : Nat) (c : Core) : Core :=
  { c with seq := .ending, loops := [], regions := [], handler := false, replay := none, callAt := none
           pend := c.pend ++ releaseHeld (t + 1) c.trapT c.held, held := [] }

/-- The core's position and wait after a completed bundle. -/
def placeCore (n : Next) (idle t : Nat) (w : Wait) (c : Core) : Core :=
  let c := { c with pc := n.pc, xfer := n.xfer, loops := n.loops, nextIssue := t + 1 + idle, wait := w, replay := none
                    callAt := if c.replay.isSome then none else c.callAt }
  if n.ends then endCore t c else c

/-- A core takes part in the stream of its broadcast group. -/
def takesPart (q : Seq) : Bool := match q with | .entry | .running | .landed => true | _ => false

/-- The lead of a broadcast group: rank 0 (R39); once it has retired in its handler, the lowest rank that goes on (R42; log 71). -/
def leadOf (s : State) (c : Nat) : Nat := ((List.range 8).find? fun r => takesPart (getCore s (8 * c + r)).seq).getD 0

/-- A core that its group's unwind takes to the handler that `lead`, the core that has unwound, goes to, with its regions and loops, which are equal on
every core once the bundles sent have issued (R42, R365): a handler that it runs is left. A call that is outstanding on it stays so, with its
run-ahead and its kitty (log 103). -/
def Core.unwound (c lead : Core) (t : Nat) : Core :=
  { c with regions := lead.regions, loops := lead.loops, pc := lead.pc, xfer := true, wait := .none, wd := 0, handler := false
           pend := (c.pend.filter fun p => match p.eff with | .regions _ => false | _ => true) ++ releaseHeld (t + 1) c.trapT c.held
           held := [], replay := none, callAt := none, resumeAt := none
           seq := if c.seq = .landed then .running else c.seq }

/-- An unwind on one core of a broadcast group unwinds every core of it (R42): bundles sent and not issued on a core are gone. -/
def unwindGroup (k t : Nat) (s : State) : State :=
  if !(getCluster s (clusterOf k)).ctx.bcast then s else
  let base := k / 8 * 8
  let s := (List.range 8).foldl (fun s r =>
    let s := updCore s (base + r) fun c => { c with line := [] }
    if base + r = k ∨ !takesPart (getCore s (base + r)).seq then s else updCore s (base + r) fun c => c.unwound (getCore s k) t) s
  let last := (List.range 8).foldl (fun t r => max t (lastVis (getCore s (base + r)).pend t)) (t + 3)
  updCluster (updCore s (base + leadOf s (base / 8)) fun c => { c with nextIssue := last + 1 }) (base / 8) fun c =>
    { c with history := [], stopped := false }

/-- Faults of a completed trial: a trap, an unwind or a fatal trap on the bundle (R357, R358, R365). -/
def trapBundle (k A mask : Nat) (e : Nat × Nat × Nat × Bool) (s : State) : State :=
  let t := s.cycle
  if e.2.2.2 then
    let unwinds := !(getCore s k).handler && !(getCore s k).regions.isEmpty
    let s := consumeError k A t mask e.2.1 e.2.2.1 s
    if unwinds then unwindGroup k t s else stopGroup k s
  else if e.2.1 = 0x60 then stopGroup k (fatalTrap k A t mask 0x60 e.2.2.1 s)
  else stopGroup k (takeTrap k A t mask e.2.1 e.2.2.1 s)

/-- A bundle completes (R358): control form, loop bottom, IDLE, wait and what the E slot asks. -/
def completeBundle (k len done all : Nat) (s : State) : State :=
  let f := s.focus
  let t := s.cycle
  let c := getCore s k
  let lands := match f.ectl with | .landing _ => true | .none => f.land == some true | _ => false
  let n := match c.replay, c.callAt with | some _, some p => p | _, _ => nextPos f.addr len f.loopBottom c.loops f.ctl
  let goesOn : Bool := match f.ectl with | .arm _ => false | .call _ taken => !taken && f.ctl != .endd | _ => !lands && !(c.replay.isSome && c.callAt.isSome)
  let tr := match ctlTrace f.addr len f.loopBottom c.loops f.ctl with
    | some (kind, x) => if goesOn then [⟨kind, schedAt s k % 2 ^ 24, f.addr, x⟩] else []
    | none => []
  let w := f.wait.faultsWith (some done) c.loops c.trace
  let s := updCore (updFocus s fun f => { f with done := true }) k (pushTrace (tr ++ f.trace))
  let land := fun (a : Option Nat) => updCore s k fun c =>
    { c with seq := .landed, liveAddr := a, liveMask := done, resumeAt := some n, nextIssue := t + 1 + f.idle, wait := .none, replay := none }
  match f.ectl with
  | .none | .trap .. => if lands then land none else updCore s k (placeCore n f.idle t w)
  | .arm taken =>
    updCore s k (placeCore { n with pc := taken, xfer := true, ends := false, loops := takenLoops f.ctl c.loops n.loops } f.idle t w)
  | .rte =>
    if n.ends then updCore s k (placeCore n f.idle t w) else
    let s := updCore s k fun c => (placeCore n f.idle t .none c).returnTrap t
    let c := getCore s k
    traceCore s k 6 f.addr (c.trapcause + c.trapdetail % 2 ^ 32 * 2 ^ 32)
  | .wave code =>
    fireWave (modOf k) (getCluster s (clusterOf k)).ctx.job (causeRecOf s k 0x41 code f.addr) (updCore s k (placeCore n f.idle t w))
  | .landing a => land (some a)
  | .call ra taken =>
    let ls := takenLoops f.ctl c.loops n.loops
    let ra := { ra with fallPc := n.pc, fallXfer := n.xfer, fallEnd := n.ends, loops := n.loops, takenLoops := ls, idleTo := t + 1 + f.idle,
                        shadow := c.regs, old := c.kitty.length, sched0 := c.sched,
                        issued := t, mask := all }
    let n' := if taken then { n with pc := ra.takenPc, xfer := true, ends := false, loops := ls } else { n with ends := false }
    let w := if !taken && n.ends then .call else w
    updCore (updCore s k (placeCore n' f.idle t w)) k fun c => { c with ra := some ra }

/-- Journal and kitty have room for the bundle (R253, R254). -/
def roomFor (c : Core) (f : Focus) : Bool :=
  decide (c.kitty.length ≤ 128) &&
  (match c.ra with | some ra => decide (ra.jbytes + f.jbytes + c.kittyBytes ≤ 32768) | none => true)

/-- The slots of a bundle that have not completed are tried on the state (R58, R71): a stall, a deferred fault, a trap or a completion. -/
def tryBundle (k A h len : Nat) (is : List (Slot × Instr)) (sent : Option Sent) (s : State) : State × Option Stall :=
  let c0 := getCore s k
  let prior := c0.replay.getD 0
  let todo := is.filter fun x => !bit prior (8 - x.1.num)
  let s0 := { s with focus := focusOn k A h len sent }
  let s1 := (todo.filter fun x => x.1 != .E).foldl runSlot s0
  let s2 := (todo.filter fun x => x.1 == .E).foldl runSlot s1
  let vw := (todo.filter fun x => x.1 == .V || x.1 == .W).length
  match s2.focus.stall with
  | some st => (s, some st)
  | none =>
    if !roomFor (getCore s2 k) s2.focus then (s, some ⟨false, 5⟩) else
    match s2.focus.deferred with
    | p :: _ =>
      let s := countIssue k vw s
      (issued (trapBundle k A prior (8, p.cause, p.addr, p.cause == 0x30 || p.cause == 0x31) s), none)
    | [] =>
      let early := s1.focus.events
      let late := s2.focus.events
      let present := todo.map fun x => x.1.num
      let ctlSlots := (todo.filter fun x => actsAsControl k s0.focus.follow x.2 s).map fun x => x.1.num
      let unlink := if ctlSlots.isEmpty then fun s => s else dropLink k s.cycle
      if !early.isEmpty ∧ holdsBack s2.focus then
        let bad := 8 :: early.map Prod.fst
        let mask := Nat.lor prior (maskOfSlots (present.filter fun x => !bad.contains x && !ctlSlots.contains x))
        let s3 := updCore (unlink s1) k (pushTrace s1.focus.trace)
        (issued (trapBundle k A mask (early.headD (0, 0, 0, false)) (countIssue k vw s3)), none)
      else match late with
        | e :: _ =>
          let trapE := match s2.focus.ectl with | .trap .. => e.1 == 8 | _ => false
          let bad := if trapE then [] else late.map Prod.fst
          let mask := Nat.lor prior (maskOfSlots (present.filter fun x => !bad.contains x && !ctlSlots.contains x))
          let s3 := updCore (unlink s2) k (pushTrace s2.focus.trace)
          (issued (waitOn k s2.focus (trapBundle k A mask e (waveOn k A s2.focus (countIssue k vw s3)))), none)
        | [] =>
          let done := Nat.lor prior (maskOfSlots (present.filter fun x => x != 8 && !ctlSlots.contains x))
          let s3 := countIssue k vw s2
          let s3 := updCore s3 k fun c => { c with ra := c.ra.map fun ra => { ra with jbytes := ra.jbytes + s2.focus.jbytes } }
          (issued (completeBundle k len done (Nat.lor prior (maskOfSlots present)) s3), none)

/-- In the first cycle of a reissue the core leaves handler mode and its held writes take their course (R362). -/
def resumeIfDue (k : Nat) (s : State) : State :=
  if (getCore s k).handler && (getCore s k).replay.isSome then updCore s k (Core.resumeHeld · s.cycle) else s

/-- What an attempt does with what the fetch of a core's next bundle gives. A decode or fetch fault in run-ahead waits for the call (R71, R360). -/
def issueFetched (k : Nat) (sent : Option Sent) (f : Fetched) (s : State) : State × Option Stall :=
  let c := getCore s k
  match f with
  | .stall st => (s, some st)
  | .fault cause detail =>
    if c.ra.isSome then (s, some ⟨false, 5⟩) else (stopGroup k (takeTrap k c.pc s.cycle 0 cause detail s), none)
  | .errored =>
    if c.ra.isSome then (s, some ⟨false, 5⟩)
    else
      let n := 4 * (codeWords k c.pc s).1.length
      (trapBundle k c.pc 0 (0, 0x31, 5, true) (countCoreErr s k ((fetchError s k c.pc n).getD 4)), none)
  | .ok h len is _ => tryBundle k c.pc h len is sent s

/-- The bundle that a core fetches, or the one that its delay line presents. -/
def fetchNext (k : Nat) (sent : Option Sent) (s : State) : Fetched × State :=
  match sent with
  | some x => (decodeWords x.ws x.xfer, s)
  | none => fetchAt k (getCore s k).pc (getCore s k).xfer s

/-- An attempt to issue the next bundle of a core, its own or the one its delay line presents. -/
def attempt (k : Nat) (sent : Option Sent) (s : State) : State × Option Stall :=
  let r := fetchNext k sent (resumeIfDue k s)
  issueFetched k sent r.1 r.2

/-- What a stalled cycle counts (R35, R400): a cycle that is not counted, as a power hold, does not end the row (log 75). -/
def noteStall (k : Nat) (st : Stall) (s : State) : State :=
  let s := if st.wd then updCore s k fun c => { c with wd := c.wd + 1 } else s
  let s := if st.src = 5 then updCore s k fun c => { c with raStall := s.cycle } else s
  let s := if st.src = 4 then updCore s k fun c => { c with strStall := s.cycle + 1 } else s
  if st.src = 0 then s else countCore s k st.src 1

/-! ### Readiness -/

/-- A core of a broadcast group acts on its own while its handler runs (R42). -/
def onItsOwn (s : State) (k : Nat) : Bool :=
  !(getCluster s (clusterOf k)).ctx.bcast || (let c := getCore s k; c.handler && c.replay.isNone)

/-- Cycles for which the cores of a broadcast group go on issuing what their delay lines hold when the halt wave has reached it (R42): no bundle
issues later than R369 allows. -/
def drainTime : Nat := 180

/-- A core that the halt wave has reached still issues what its delay line holds (R42). -/
def drainsLine (s : State) (sl : JobSlot) (k : Nat) : Bool :=
  let c := getCore s k
  (getCluster s (clusterOf k)).ctx.bcast && k % 8 != leadOf s (clusterOf k) && !c.frozen && c.seq == .running && !c.line.isEmpty &&
    !onItsOwn s k && decide (s.cycle < sl.stopAt + drainTime)

/-- The halt wave has stopped the core's sequencer (R369, R373), or a whole-context save has (R230). -/
def seqFrozen (s : State) (k : Nat) : Bool :=
  let cl := getCluster s (clusterOf k)
  cl.task != .none && (cl.task == .saving || let sl := jobSlot s (modOf k) cl.ctx.job
                       sl.stopped && decide (sl.stage < 4) && !drainsLine s sl k)

/-- A sequencer whose next bundle may issue in this cycle, stalls aside (R32, R58). -/
def readyCore (s : State) (k : Nat) : Bool :=
  let c := getCore s k
  c.seq == .running && c.wait == .none && decide (c.nextIssue ≤ s.cycle)

/-- One core issues on its own. -/
def issueAlone (k : Nat) (s : State) : State :=
  if !readyCore s k then s else
  match attempt k none s with
  | (s, some st) => noteStall k st s
  | (s', none) => if (getCore s k).strStall = s.cycle then noteWake k s.cycle s' else s'

/-! ### Broadcast groups (R39 to R43) -/

/-- The skew of a rank (R38). -/
def skewOf (cl : Cluster) (r : Nat) : Nat := cl.ctx.skew.getD r 0

/-- The bundle that a core's delay line presents in this cycle. -/
def presented (s : State) (k : Nat) : Option Sent :=
  match (getCore s k).line with
  | x :: _ =>
    let waits := (getCore s k).replay.isSome && (getCluster s (clusterOf k)).stopped
    if decide (x.due ≤ s.cycle) && (getCore s k).seq == .running && !onItsOwn s k && !waits && !seqFrozen s k then some x else none
  | [] => none

/-- The core cannot issue its presented bundle for a wait (R40). -/
def groupBlocked (s : State) (k : Nat) : Bool :=
  let c := getCore s k
  c.wait != .none || decide (s.cycle < c.nextIssue)

/-- The delay lines of a group stand for a cycle. -/
def holdLines (c : Nat) (s : State) : State :=
  (List.range 8).foldl (fun s r => updCore s (8 * c + r) fun x => { x with line := x.line.map fun y => { y with due := y.due + 1 } }) s

/-- The lead has a bundle to send, stalls and holds aside. -/
def leadReady (s : State) (k : Nat) : Bool :=
  readyCore s k && !(getCluster s (clusterOf k)).stopped && !onItsOwn s k && !seqFrozen s k

/-- A held cycle of a group (R40): the delay lines stand, and every core that would issue its presented bundle, and the lead that would send, counts
it (R35); a core in its idle cycles, in a wait or stopped does not. The idle cycles that a header names run on for the lead while the group is held
(log 72). -/
def holdGroup (c : Nat) (who : Nat) (st : Stall) (s : State) : State :=
  let s := noteStall who { st with wd := false } s
  let lead := leadOf s c
  let counts := (List.range 8).filter fun r =>
    let k := 8 * c + r
    (if r == lead && (getCore s k).line.isEmpty then leadReady s k else (presented s k).isSome && !groupBlocked s k) && (st.wd || k != who)
  holdLines c (counts.foldl (fun s r => updCore s (8 * c + r) fun x => { x with wd := x.wd + 1 }) s)

/-- The lead's bundle goes to the delay lines of the other cores (R39). -/
def sendBundle (c lead : Nat) (x : Sent) (s : State) : State :=
  let s := (List.range 8).foldl (fun s r =>
    let k := 8 * c + r
    match (getCore s k).seq with
    | .running =>
      if r = lead then s
      else updCore s k fun y => { y with line := y.line ++ [{ x with due := s.cycle + skewOf (getCluster s c) r }] }
    | _ => s) s
  updCluster s c fun y => { y with history := (x :: y.history).take 4096 }

/-- A reissue of the landing bundle after a live fault (R343): the group has it already. -/
def reissuesLanding (cl : Cluster) (c : Core) : Bool :=
  c.replay.isSome && match cl.history with | x :: _ => x.land && x.addr == c.pc | [] => false

/-- The lead issues and sends (R39). A lead that traps or unwinds on its bundle has not sent it. A lead that waits cannot send (R40): the group
is held, but not while its wait is for the call of an agreement bundle whose fall-through arm is `end`, after which nothing is sent (R118). -/
def leadIssues (c : Nat) (s : State) : State × Option (Nat × Stall) :=
  let lead := leadOf s c
  let k := 8 * c + lead
  let cl := getCluster s c
  let before := getCore s k
  if cl.stopped || onItsOwn s k || seqFrozen s k || before.seq != .running || !before.line.isEmpty || decide (s.cycle < before.nextIssue) then (s, none)
  else if before.wait == .call then (s, none)
  else if before.wait != .none then (s, some (k, ⟨false, 0⟩)) else
  match fetchNext k none (resumeIfDue k s) with
  | (f, s1) =>
    match issueFetched k none f s1 with
    | (_, some st) => (s1, some (k, st))
    | (s2, none) =>
      match f with
      | .ok h _ _ ws =>
        if !s2.focus.done then (s2, none) else
        let lands := (getCore s2 k).seq == .landed
        let x : Sent := { addr := before.pc, ws := ws, xfer := before.xfer, due := s.cycle, idle := fld h 7 4, ctl := s2.focus.ctl,
                          land := lands }
        let s3 := if reissuesLanding cl before then s2 else sendBundle c lead x s2
        (if lands then updCluster s3 c fun y => { y with stopped := true } else s3, none)
      | _ => (s2, none)

/-- The other cores issue what their delay lines present; the first that cannot holds the group. -/
def followersIssue (c : Nat) : List Nat → State → State × Option (Nat × Stall)
  | [], s => (s, none)
  | r :: rs, s =>
    let k := 8 * c + r
    match presented s k with
    | none => followersIssue c rs s
    | some x =>
      if groupBlocked s k then (s, some (k, ⟨false, 0⟩)) else
      match attempt k (some x) s with
      | (s', some st) => (setCore s k (getCore s' k), some (k, st))
      | (s', none) =>
        let trapped := (getCore s' k).handler && (getCore s' k).replay.isNone
        followersIssue c rs (if trapped then s' else updCore s' k fun y => { y with line := y.line.drop 1 })

/-- One cycle of a broadcast group: it advances or is held as a whole (R40). In the cycle in which another core traps the lead issues and sends
first, and has stopped in the next (R42; log 103). -/
def issueGroup (c : Nat) (s : State) : State :=
  match leadIssues c s with
  | (s1, some (k, st)) => holdGroup c k st (setCore s k (getCore s1 k))
  | (s1, none) =>
    match followersIssue c [0, 1, 2, 3, 4, 5, 6, 7] s1 with
    | (_, some (k, st)) => holdGroup c k st s
    | (s2, none) => if (List.range 8).any fun r => (getCore s (8 * c + r)).strStall == s.cycle then noteWake (8 * c) s.cycle s2 else s2

/-- A core of a stopped group whose handler has asked to return waits for the group, and so does one that has drained its line or has
landed (R42, R43). -/
def mayReturn (s : State) (k : Nat) : Bool :=
  let c := getCore s k
  match c.seq with
  | .running => !(c.handler && c.replay.isNone) && (c.handler || c.line.isEmpty) && decide (c.nextIssue ≤ s.cycle) && !seqFrozen s k
  | _ => true

/-- Delay lines after a return in this cycle: every bundle that some core has not completed is sent again at its old distance (R42). -/
def returnGroup (c : Nat) (s : State) : State :=
  let cl := getCluster s c
  let sends := (List.range 8).flatMap fun r => (getCore s (8 * c + r)).line.map fun x => (x.due - skewOf cl r, x.idle)
  let first := sends.foldl (fun m x => min m x.1) s.cycle
  let shift := s.cycle - first
  let last := sends.foldl (fun m x => max m (x.1 + shift + 1 + x.2)) s.cycle
  let s := (List.range 8).foldl (fun s r =>
    updCore s (8 * c + r) fun y => { y with line := y.line.map fun x => { x with due := x.due + shift } }) s
  let s := updCore s (8 * c + leadOf s c) fun y => { y with nextIssue := max y.nextIssue last }
  updCluster s c fun y => { y with stopped := false }

/-- Every core of a stopped group may return, or the group goes on as it stands. -/
def returnMove (c : Nat) (s : State) : State :=
  if (getCluster s c).stopped && (List.range 8).all fun r => mayReturn s (8 * c + r) then returnGroup c s else s

/-- BROADCAST_GROUP_RETURN (R42). -/
def execBroadcastGroupReturn (s : State) : Host.Outcome State Fault Refusal := .next (returnMove s.place s)

/-! ### Events of a sequencer -/

/-- A core of the cluster, stalled on a stream register in the cycle before, can issue now. -/
def streamWakes (s : State) (c : Nat) : Bool :=
  (List.range 8).any fun r =>
    let k := 8 * c + r
    let own := onItsOwn s k || r == leadOf s c
    (getCore s k).strStall == s.cycle && readyCore s k && (own || (presented s k).isSome) && (attempt k (presented s k) s).2.isNone

/-- The cluster is held for power in this cycle (R404): not where one of its sequencers wakes. -/
def powerHeld (s : State) (c : Nat) : Bool :=
  (getCluster s c).hold == s.cycle + 1 && (getCluster s c).lastWake != s.cycle + 1 && !streamWakes s c

/-- A core that a power hold keeps from issuing in a cycle (R404): one that stalled on a stream register in the cycle before does so still. -/
def holdCore (k : Nat) (s : State) : State :=
  updCore s k fun c => { c with strStall := if c.strStall = s.cycle then s.cycle + 1 else c.strStall }

/-- The stall watchdog has counted to its limit (R35). -/
def wdExpired (s : State) (k : Nat) : Bool := decide (2 ^ (getCluster s (clusterOf k)).ctx.wdog ≤ (getCore s k).wd)

/-- STALL_WATCHDOG_EXPIRY (R35): a trap on the blocked bundle, with no slot completed. While a call is outstanding the trap waits for it (R360), and
then stands on the bundle that comes next, on whichever arm (log 104). -/
def execStallWatchdogExpiry (s : State) : Host.Outcome State Fault Refusal :=
  let k := s.place
  let c := getCore s k
  .next (if wdExpired s k && c.ra.isNone then
      stopGroup k (takeTrap k c.pc s.cycle (c.replay.getD 0) 0x20 0 (updCore s k fun c => { c with wd := 0 }))
    else s)

/-- ASYNC_TRAP (R360, R263): at the boundary before the next bundle, outside handler mode and run-ahead. -/
def asyncMove (k : Nat) (s : State) : State :=
  let c := getCore s k
  match c.async with
  | (cause, detail) :: rest =>
    if readyCore s k && !c.handler && c.ra.isNone && c.replay.isNone && !seqFrozen s k then
      stopGroup k (takeTrap k c.pc s.cycle 0 cause detail (updCore s k fun c => { c with async := rest }))
    else s
  | [] => s

@[inherit_doc asyncMove] def execAsyncTrap (s : State) : Host.Outcome State Fault Refusal := .next (asyncMove s.place s)

/-- Every entry pushed to a write stream has been written (R195). -/
def streamsDrained (c : Core) : Bool :=
  c.streams.all fun x => match x.2 with
    | some st => !st.write || st.slots.all fun e => !e.live
    | none => true

/-- The core awaits a result of the bundle that it has issued last: no cycle of it may be lost (R288, R326, R327). -/
def Wait.awaits : Wait → Bool
  | .tokget .. | .graph .. => true
  | _ => false

/-- Nothing that the core has issued is still under way inside it, and every command it has issued has been accepted (R118, R31). -/
def coreStill (c : Core) : Bool :=
  c.pend.isEmpty && c.frozenHeld.isEmpty && c.stores.isEmpty && c.kitty.isEmpty && c.rels.isEmpty && !c.wait.awaits && streamsDrained c

/-- SEQUENCER_RETIRE (R118, R195): its places on channels become finished (R238); its stream registers stay bound to the end of the launch (R184),
their read entries gone. A frozen sequencer retires once it has been released (R369). -/
def execSequencerRetire (s : State) : Host.Outcome State Fault Refusal :=
  let k := s.place
  let c := getCore s k
  .next (if c.seq = .ending ∧ !c.frozen ∧ coreStill c then
      let s := updCore s k fun c => { c with seq := .retired, streams := c.streams.map fun x => (x.1, x.2.map fun st => { st with slots := [] }) }
      let s := if c.async.isEmpty then s else updCluster s (clusterOf k) fun x => { x with failedCopy := true }
      finishPlaces (getCluster s (clusterOf k)).ctx.job (fun p => p.isOf k (getCluster s (clusterOf k)).ctx.uid) s
    else s)

end Sys2Proof.Machine
end

