-- ==== Sys2Proof/Machine/Land.lean ====
section
/-! DEFINITION. Sys2Proof/Machine/Land.lean: results landing (R61 to R63), loads reading, stores and `amo` updates performed (R62, R180, R183),
the moves of stream units (R189), and the wakes of a sleeping sequencer (R33, R217, R269, R278, R288). -/

namespace Sys2Proof.Machine

/-! ### Results that land (R61, R62) -/

/-- The state with a function applied to a bound stream register of a core. -/
def updStreamOf (k q : Nat) (f : Stream → Stream) (s : State) : State :=
  updCore s k fun c =>
    match streamOf c q with
    | some st => { c with streams := Tbl.set c.streams q (some (f st)) }
    | none => c

/-- Scale latches take effect (R168). -/
def setLatches (ws : List (Bool × Nat × Nat × Int)) (c : Core) : Core :=
  ws.foldl (fun c w =>
    if w.1 then { c with sb := Tbl.set c.sb (64 * w.2.1 + w.2.2.1) w.2.2.2 } else { c with sa := Tbl.set c.sa w.2.1 w.2.2.2 }) c

/-- A window release acts (R289): REL is the greatest slot released, if the window is still the one of the core's job and cluster. -/
def releaseWindow (k w : Nat) (n : Int) (s : State) : State :=
  match windowFor s k w with
  | some x => updMod s (modOf k) fun md =>
      { md with windows := Tbl.set md.windows w (some { x with rel := some (match x.rel with | some r => max r n | none => n) }) }
  | none => s

/-- A scalar that an `amo` returns lands like any scalar (R183). -/
def plainEff (e : Eff) : Eff := match e with | .amoS d (some v) => .sreg d v none | e => e

/-- The ranges of the register space that a result writes. -/
def Eff.ranges : Eff → List (Nat × Nat)
  | .bytes segs _ _ => segs.map fun x => (x.1, x.2.length)
  | .released segs _ _ later => (keptSegs later segs).map fun x => (x.1, x.2.length)
  | .accRow row .. => [(row, 512)]
  | .ln6 base _ sel =>
    ((List.range 32).filter fun g => lane sel (4 * g) || lane sel (4 * g + 1) || lane sel (4 * g + 2) || lane sel (4 * g + 3)).map fun g =>
      (base + 3 * g, 3)
  | .mfeed row .. => [(row, 512)]
  | .mzero row => [(row, 512)]
  | _ => []

/-- The ranges of the register space that a result covers with data of its own (R394): a product added to a row does not. -/
def Eff.covers : Eff → List (Nat × Nat)
  | .accRow .. | .mfeed .. => []
  | .ln6 base _ sel =>
    ((List.range 32).filter fun g => lane sel (4 * g) && lane sel (4 * g + 1) && lane sel (4 * g + 2) && lane sel (4 * g + 3)).map fun g => (base + 3 * g, 3)
  | e => e.ranges

/-- The cycle that orders a result among the core's own writes: for a store, that of its bundle. -/
def Pend.order (p : Pend) : Nat := match p.eff with | .bytes _ _ (some t) => t | .released _ _ t _ => t | _ => p.seq

/-- A result is younger in program order than a store of a cycle and a slot. -/
def Pend.youngerThan (p : Pend) (seq slot : Nat) : Bool := decide (seq < p.order) || (seq == p.order && decide (slot < p.slot))

/-- The ranges that a result takes from older stores, marked where it is of the run-ahead. -/
def Pend.takes (p : Pend) : List (Bool × Nat × Nat) := p.eff.ranges.map fun r => (p.ra, r)

/-- A held store of the register space that is older than a result in program order no longer gives the bytes that the result writes (R62, R109). -/
def overtaken (p : Pend) (e : KEntry) : KEntry :=
  match e with
  | .store seq slot segs tag later =>
    if segs.all (fun x => inReg x.1 x.2.length) && p.youngerThan seq slot then .store seq slot segs tag (later ++ p.takes) else e
  | _ => e

/-- Nor does one that the kitty has released and that has not landed. -/
def Pend.overtakenBy (p x : Pend) : Pend :=
  match x.eff with
  | .released segs tag seq later => if p.youngerThan seq x.slot then { x with eff := .released segs tag seq (later ++ p.takes) } else x
  | _ => x

/-- What a result of the bundles before a run-ahead is in the journalled values: no result of the run-ahead has taken bytes of it (R253). -/
def Eff.shadowed (e : Eff) : Eff :=
  match e with
  | .released segs tag seq later => .released segs tag seq (later.filter fun x => !x.1)
  | e => plainEff e

/-- One result lands; `old` is the register file as it stood before this cycle. In run-ahead, a result of the bundles before it lands in the
journalled values too (R253). -/
def landOne (k : Nat) (old : Regs) (p : Pend) (s : State) : State :=
  match p.eff with
  | .view cls idx v => updCore s k fun c => { c with views := Tbl.set c.views (viewKey cls idx) v }
  | .latch ws => updCore s k (setLatches ws)
  | .fill q res entry => updStreamOf k q (fun st => { st with slots := fillSlot res entry s.cycle st.slots }) s
  | .sysw n v => updCore s k fun c => c.sysWrite n v
  | .regions rs => updCore s k fun c => { c with regions := rs }
  | .rel w n => releaseWindow k w n s
  | e => updCore (clearCovered s 1 k e.covers) k fun c =>
      { c with regs := c.regs.land old (plainEff e), kitty := if c.kitty.isEmpty then [] else c.kitty.map (overtaken p)
               pend := c.pend.map p.overtakenBy
               ra := if p.ra then c.ra else c.ra.map fun r => { r with shadow := r.shadow.land r.shadow e.shadowed } }

/-- Results in landing order, each without the bytes that those before it have taken. -/
def inTurn : List Pend → List Pend → List Pend
  | _, [] => []
  | seen, p :: ps => seen.foldl (fun x q => q.overtakenBy x) p :: inTurn (seen ++ [p]) ps

/-- Results in landing order; those of one cycle read the accumulators as that cycle found them (R177). -/
def landAll (k : Nat) : Regs → Nat → List Pend → State → State
  | _, _, [], s => s
  | old, v, p :: ps, s =>
    let old := if p.vis = v then old else (getCore s k).regs
    landAll k old p.vis ps (landOne k old p s)

/-- Lines that a landing has made dirty, for R136. -/
def dirtied (before after : Tbl Bool) : List Nat :=
  (after.filter fun x => x.2 && !Tbl.get false before x.1).map Prod.fst

/-- What is due up to a cycle lands. -/
def landDue (k t : Nat) (s : State) : State :=
  let c := getCore s k
  let due := inTurn [] (sortBy landsBefore (c.pend.filter fun p => decide (p.vis ≤ t)))
  let s := updCore s k fun c => { c with pend := c.pend.filter fun p => decide (t < p.vis) }
  let s := landAll k c.regs 0 due s
  updCore s k fun x =>
    let new := dirtied c.regs.dirty x.regs.dirty
    { x with fresh := (s.cycle, if x.fresh.1 = s.cycle then new ++ x.fresh.2 else new) }

/-! ### Loads read (R62, R137, R138) -/

/-- The bytes that a load gathers. -/
def LoadReq.bytes (r : LoadReq) (got : List Nat) : List Nat :=
  match r.pick with
  | none => got ++ r.pad
  | some j => fromLanes .ln6 (((List.range r.src.length).map fun g => (ln6Lanes got).getD (4 * g + j) 0) ++ r.pad)

/-- What a load reads in a cycle, for a core's bundle of cycle `before`. -/
def gather (s : State) (k before : Nat) (r : LoadReq) : List Nat := r.bytes (r.src.flatMap fun x => ownRead s k x.1 x.2 before)

/-- The poison of a load's source in the register space (R102). -/
def loadTag (c : Core) (before : Nat) (r : LoadReq) : Option Poison := firstTag (r.src.map fun x => ownTag c x.1 x.2 before)

/-- A load that is due to read holds the value it reads. -/
def readLoad (s : State) (k t : Nat) (p : Pend) : Pend :=
  match p.eff with
  | .loadS d r at_ =>
    if at_ ≤ t then { p with eff := .sreg d (BitVec.ofNat 64 (leNat (gather s k p.seq r))) (loadTag (getCore s k) p.seq r) } else p
  | .loadV base r at_ =>
    if at_ ≤ t then { p with eff := .bytes [(base, gather s k p.seq r)] (loadTag (getCore s k) p.seq r) none } else p
  | _ => p

/-- A load that reads the scratchpad in a cycle. -/
def readsScratch (t : Nat) (p : Pend) : Bool :=
  match p.eff with
  | .loadS _ r at_ => decide (at_ ≤ t) && r.src.any fun x => inScratch x.1 x.2
  | .loadV _ r at_ => decide (at_ ≤ t) && r.src.any fun x => inScratch x.1 x.2
  | _ => false

/-- The state as the core's reads find it: what is due by the cycle has landed for them, also while a graph instruction holds the landings. -/
def asLanded (k t : Nat) (s : State) : State := match (getCore s k).wait with | .graph .. => landDue k t s | _ => s

/-- The reads that are due up to a cycle are made, those of held loads too (R359). -/
def readDue (k t : Nat) (s : State) : State :=
  let c := getCore s k
  let v := asLanded k t s
  let n := ((c.pend ++ c.held.map Prod.snd ++ c.frozenHeld.map Prod.snd).filter (readsScratch t)).length
  let s' := updCore s k fun c =>
    { c with pend := c.pend.map (readLoad v k t)
             held := c.held.map fun x => (x.1, readLoad v k t x.2)
             frozenHeld := c.frozenHeld.map fun x => (x.1, readLoad v k t x.2) }
  if n = 0 then s' else countCluster (countCore s' k 0x09 n) (clusterOf k) 0x06 n

/-- The reads of `cgload` and `cgrun` at T + 3 (R326, R327): results of their issue cycle have landed, those of later cycles not. -/
def graphRead (k : Nat) (s : State) : State :=
  match (getCore s k).wait with
  | .graph load slot ea t0 addr mask loops trace =>
    if s.cycle < t0 + 3 then s else
    let f := if load then loadImage else beginRun
    let s' := f k slot ea addr mask t0 loops trace s
    if (getCore s' k).handler != (getCore s k).handler || (getCore s' k).seq != (getCore s k).seq then stopGroup k s' else s'
  | _ => s

/-- The cycle up to which a core's results land: while a graph instruction waits for its read, only those of its issue cycle, since a fault
that it raises holds the rest (R357). -/
def landLimit (c : Core) (t : Nat) : Nat :=
  match c.wait with
  | .graph _ _ _ t0 .. => t0
  | _ => t

/-- RESULT_LAND (R61, R62). -/
def resultLandMove (k : Nat) (s : State) : State :=
  if (getCore s k).stepT.isSome then s else
  let s := graphRead k s
  readDue k s.cycle (landDue k (landLimit (getCore s k) s.cycle) s)

@[inherit_doc resultLandMove] def execResultLand (s : State) : Host.Outcome State Fault Refusal := .next (resultLandMove s.place s)

/-! ### Stores and atomics (R62, R180, R183) -/

/-- The new value of an atomic of n bytes, if it writes (R183). -/
def amoValue (op : Nat) (sgn : Bool) (n old x y : Nat) : Option Nat :=
  let lt := fun a b => if sgn then decide (signed (8 * n) a < signed (8 * n) b) else decide (a < b)
  if op = 0 then some ((old + x) % 2 ^ (8 * n))
  else if op = 1 then some (if lt x old then x else old)
  else if op = 2 then some (if lt old x then x else old)
  else if op = 3 then some x
  else if old = x then some y else none

/-- The waiting result of an `amo` takes the old value. -/
def giveOld (seq slot : Nat) (old : Nat) (p : Pend) : Pend :=
  match p.eff with
  | .amoS d none => if p.seq = seq ∧ p.slot = slot then { p with eff := .amoS d (some (BitVec.ofNat 64 old)) } else p
  | _ => p

/-- The trace entry of an `amo` takes bits 31:0 of the old value (R375): n entries on that address are newer. -/
def patchAmo (ea old : Nat) : Nat → List Trace → List Trace
  | _, [] => []
  | n, e :: es =>
    if e.kind = 13 ∧ e.data % 2 ^ 32 = ea then
      match n with
      | 0 => { e with data := ea + old % 2 ^ 32 * 2 ^ 32 } :: es
      | n + 1 => e :: patchAmo ea old n es
    else e :: patchAmo ea old n es

/-- One store or update of a core is performed. -/
def performStore (k : Nat) (p : PStore) (later : List PStore) (s : State) : State :=
  let s := countCore s k 0x09 1
  match p.op with
  | .bytes a bs => scratchWrite (clusterOf k) false a bs s
  | .amo op sgn a n x y _ =>
    let m := 2 ^ (8 * n)
    let old := leNat (readScratch (getCluster s (clusterOf k)) a n)
    let newer := (later.filter fun q => match q.op with | .amo _ _ b .. => b == a | _ => false).length
    let s := updCore s k fun c =>
      { c with pend := c.pend.map (giveOld p.seq p.slot old)
               held := c.held.map fun x => (x.1, giveOld p.seq p.slot old x.2)
               frozenHeld := c.frozenHeld.map fun x => (x.1, giveOld p.seq p.slot old x.2)
               trace := patchAmo a old newer c.trace }
    match amoValue op sgn n old (x % m) (y % m) with
    | some v => scratchWrite (clusterOf k) false a (leBytes n v) s
    | none => countCluster s (clusterOf k) 0x06 1

/-- The stores of a core due up to a cycle, in order of issue and slot. -/
def performStores (k t : Nat) : List PStore → State → State
  | [], s => s
  | p :: ps, s => performStores k t ps (if p.perf ≤ t then performStore k p ps s else s)

/-- STORE_PERFORM (R62, R180, R183). -/
def storePerformMove (k t : Nat) (s : State) : State :=
  let c := getCore s k
  performStores k t c.stores (updCore s k fun c => { c with stores := c.stores.filter fun p => decide (t < p.perf) })

@[inherit_doc storePerformMove] def execStorePerform (s : State) : Host.Outcome State Fault Refusal :=
  .next (if (getCore s s.place).stepT.isSome then s else storePerformMove s.place s.cycle s)

/-! ### Stream units (R189) -/

/-- Slots freed in an earlier cycle leave the register. -/
def Stream.prune (cycle : Nat) (st : Stream) : Stream := { st with slots := st.slots.filter (SEntry.occupied cycle) }

/-- The register is left out of its unit's choice: exhausted, or ended with nothing to write. -/
def Stream.over (st : Stream) : Bool :=
  decide (st.pat.total ≤ st.pos) && (!st.write || !st.slots.any SEntry.live)

/-- The registers of a unit that take part in its choice. -/
def unitRegs (c : Core) (u : Nat) : List (Nat × Stream) :=
  c.streams.filterMap fun x => match x.2 with
    | some st => if st.unit = u ∧ !st.over then some (x.1, st) else none
    | none => none

/-- The register with the fewest moves, the lowest index among equals. -/
def chooseReg : List (Nat × Stream) → Option (Nat × Stream)
  | [] => none
  | x :: xs => match chooseReg xs with
    | some y => if y.2.moves < x.2.moves then some y else some x
    | none => some x

/-- A read move: one entry is fetched (R186, R189, R194). -/
def fetchEntry (k q : Nat) (st : Stream) (s : State) : State :=
  if 4 ≤ st.occupied s.cycle then s else
  let put := fun (e : SEntry) (s : State) =>
    updStreamOf k q (fun st => { (st.prune s.cycle) with slots := (st.prune s.cycle).slots ++ [e], pos := st.pos + 1, moves := st.moves + 1 }) s
  if entryOutside s k st.pat st.pos then put ⟨st.pos, [], .outside⟩ s else
  let a := (st.pat.addr st.pos).toNat
  if inWeight a 1 && inRefresh s (dieOf k) a st.pat.len then s else
  let from_ := s.cycle + if inWeight a 1 then 7 else 3
  let s := if inScratch a 1 then countCluster s (clusterOf k) 0x06 1 else s
  match errorIn s k a st.pat.len with
  | some x => put ⟨st.pos, toEntry (plainRead s k a st.pat.len), .marked from_⟩ (countCoreErr s k x)
  | none => put ⟨st.pos, toEntry (plainRead s k a st.pat.len), .ready from_⟩ s

/-- The oldest pushed entry has been written. -/
def writtenFirst (t : Nat) (st : Stream) : Stream := { (st.prune t) with slots := popFirst t (st.prune t).slots, moves := st.moves + 1 }

/-- A write move: the oldest pushed entry, filled 3 cycles ago or earlier, is written (R189). -/
def writeEntry (k q : Nat) (st : Stream) (s : State) : State :=
  match st.slots.find? SEntry.live with
  | some e =>
    match e.st with
    | .filled l =>
      if l + 3 ≤ s.cycle then
        updStreamOf k q (writtenFirst s.cycle) (scratchWrite (clusterOf k) false (st.pat.addr e.pos).toNat (e.bs.take st.pat.len) s)
      else s
    | _ => s
  | none => s

/-- STREAM_UNIT_MOVE (R189): at most one move in the cycle. -/
def unitMove (k u : Nat) (s : State) : State :=
  match chooseReg (unitRegs (getCore s k) u) with
  | some (q, st) => if st.write then writeEntry k q st s else fetchEntry k q st s
  | none => s

@[inherit_doc unitMove] def execStreamUnitMove (k u : Nat) (s : State) : Host.Outcome State Fault Refusal :=
  .next (if seqFrozen s k then s else unitMove k u s)

/-! ### Wakes (R33, R36) -/

/-- The sequencer sleeps no more: its next bundle issues no earlier than a cycle. -/
def wakeAt (k t : Nat) (s : State) : State :=
  noteWake k t (updCore s k fun c => { c with wait := .none, nextIssue := max c.nextIssue t })

/-- A `waita` wakes; its trace entry names the bundle of the wait (R375). -/
def wakeWaita (k a bundle t : Nat) (s : State) : State :=
  wakeAt k t (updCore s k fun c => { c with trace := (⟨14, (c.sched - 1) % 2 ^ 24, bundle, a⟩ :: c.trace).take 1024 })

/-- WAITA_WAKE (R217): the test at T + 3, and the wake that a satisfying write has set (Ops.lean, testWait). -/
def waitaMove (k : Nat) (s : State) : State :=
  if seqFrozen s k then s else
  match (getCore s k).wait with
  | .waita a n c x bundle test none =>
    if s.cycle = test ∧ WCond.holds c (leNat (readScratch (getCluster s (clusterOf k)) a n)) x then wakeWaita k a bundle (s.cycle + 1) s else s
  | .waita a _ _ _ bundle _ (some w) => if w ≤ s.cycle then wakeWaita k a bundle s.cycle s else s
  | _ => s

@[inherit_doc waitaMove] def execWaitaWake (s : State) : Host.Outcome State Fault Refusal := .next (waitaMove s.place s)

/-- WAITT_WAKE (R269): once the die's copy of module time has reached the target, the next bundle issues within 20 ns. -/
def waittMove (k : Nat) (s : State) : State :=
  if seqFrozen s k then s else
  match (getCore s k).wait with
  | .waitt target none =>
    if target ≤ dieTime s (dieOf k) then
      let (d, s) := openValue 0 wakeLag s
      if d = 0 then wakeAt k s.cycle s else updCore s k fun c => { c with wait := .waitt target (some (s.cycle + d)) }
    else s
  | .waitt _ (some w) => if w ≤ s.cycle then wakeAt k s.cycle s else s
  | _ => s

@[inherit_doc waittMove] def execWaittWake (s : State) : Host.Outcome State Fault Refusal := .next (waittMove s.place s)

/-- WAITTK_WAKE (R278): the firing has set the wake. -/
def waittkMove (k : Nat) (s : State) : State :=
  if seqFrozen s k then s else
  match (getCore s k).wait with
  | .waittk _ _ (some w) => if w ≤ s.cycle then wakeAt k s.cycle s else s
  | _ => s

@[inherit_doc waittkMove] def execWaittkWake (s : State) : Host.Outcome State Fault Refusal := .next (waittkMove s.place s)

/-- The sample of `tokget` at its instant (R288): the word, or the detail of the fault of a slot that has left the history by then; a window that is
no longer open for the core gives what it gave at the issue. -/
def sampleToken (s : State) (k w slot word : Nat) : Nat ⊕ Nat :=
  match windowFor s k w with
  | some x => if (slot : Int) < x.h - x.depth then .inr 4 else .inl (x.word slot)
  | none => .inl word

/-- The sample of a waiting `tokget` falls in this cycle, and may be taken. -/
def mayPick (s : State) (k w slot : Nat) : Bool :=
  match windowFor s k w with
  | some x => !payloadDue s k x slot
  | none => true

/-- The word of an open slot without a token: what a sample gives of a slot whose payload is still on its way at the last instant (R288, log 112). -/
def notArrived : Nat := 6

/-- TOKGET_RESULT (R288): the sample at its instant, and the result, which a register takes in its cycle. -/
def tokgetMove (k : Nat) (s : State) : State :=
  if seqFrozen s k then s else
  let give := fun (d word l : Nat) (w : Wait) (s : State) =>
    if s.cycle < l then updCore s k fun c => { c with wait := w }
    else updCore s k fun c => { c with wait := .none, nextIssue := max c.nextIssue s.cycle, regs := c.regs.putS d (BitVec.ofNat 64 word) none }
  match (getCore s k).wait with
  | .tokget w d slot word q l last addr mask loops trace =>
    let wait := fun word => Wait.tokget w d slot word q l last addr mask loops trace
    if s.cycle ≠ q then give d word l (wait word) s
    else if !mayPick s k w slot then
      if q < last then updCore s k fun c => { c with wait := .tokget w d slot word (q + 1) (max l (q + 1)) last addr mask loops trace }
      else give d notArrived l (wait notArrived) s
    else match sampleToken s k w slot word with
      | .inl word => give d word l (wait word) s
      | .inr detail => stopGroup k (graphFault k addr mask s.cycle loops trace 0x17 detail s)
  | _ => s

@[inherit_doc tokgetMove] def execTokgetResult (s : State) : Host.Outcome State Fault Refusal := .next (tokgetMove s.place s)

end Sys2Proof.Machine
end

