-- ==== Sys2Proof/Machine/Walk.lean ====
section
/-! DEFINITION. Sys2Proof/Machine/Walk.lean: translation (R221 to R226), pins (R228), the outcomes of R229 and page faults (R230). -/

namespace Sys2Proof.Machine

/-! ### Tables (R222 to R224) -/

/-- The bytes a .. a+n−1 have a target (R222). -/
def hasTarget (a n : Nat) : Bool := decide (a + n ≤ 0xC000000000) || (decide (0x8000000000000 ≤ a) && decide (a + n ≤ 0x10000000000000))

/-- What a walk finds (R223, R224): a bad table, an entry with V = 0, or a leaf: its entry's address, frame, size, RD, WR, D. -/
inductive Walk where
  | bad
  | absent
  | leaf (pte pa size : Nat) (rd wr dirty : Bool)
  deriving DecidableEq, Repr

/-- An entry with V = 1 at a level is malformed (R224). -/
def entryBad (lvl e : Nat) : Bool :=
  let leaf := bit e 1
  let addr := fld e 51 8 * 256
  fld e 7 6 != 0 || fld e 63 52 != 0 ||
  (if leaf then decide (2 ≤ lvl) || addr % (if lvl = 0 then 65536 else 2097152) != 0
   else lvl == 0 || fld e 5 2 != 0 || addr % (if lvl = 1 then 256 else 4096) != 0)

/-- The index of a virtual address in a table of a level (R223). -/
def walkIndex (lvl va : Nat) : Nat := if lvl = 0 then va / 2 ^ 16 % 32 else va / 2 ^ (12 + 9 * lvl) % 512

/-- A walk from a table of a level on (R223). -/
def walkFrom (md : Module) : Nat → Nat → Nat → Walk
  | lvl, table, va =>
    let a := table + 8 * walkIndex lvl va
    if !hasTarget a 8 then .bad else
    let e := leNat (physRead md a 8)
    if !bit e 0 then .absent
    else if entryBad lvl e then .bad
    else
      let addr := fld e 51 8 * 256
      if bit e 1 then .leaf a addr (if lvl = 0 then 65536 else 2097152) (bit e 2) (bit e 3) (bit e 5)
      else match lvl with
        | 0 => .bad
        | l + 1 => walkFrom md l addr va

/-! ### Translation for a chunk (R225, R226, R228, R229) -/

/-- What keeps a chunk from its pages: a STATUS, a page fault, a wait for a pin. -/
inductive Tr where
  | fail (status : Nat)
  | fault
  | wait
  deriving DecidableEq, Repr

/-- The TLB of an engine, the entry used last first (R226). -/
def tlbOf (cl : Cluster) (e : Nat) : List Tlb := Tbl.get [] cl.tlbs e

/-- A TLB entry covers a virtual address. -/
def Tlb.covers (x : Tlb) (job member va : Nat) : Bool :=
  x.job == job && x.member == member && decide (x.va ≤ va) && decide (va < x.va + x.size)

/-- An entry becomes the one used last; the TLB holds 512. -/
def useTlb (c e : Nat) (x : Tlb) (s : State) : State :=
  updCluster s c fun cl =>
    { cl with tlbs := Tbl.set cl.tlbs e ((x :: (tlbOf cl e).filter fun y => !y.covers x.job x.member x.va).take 512) }

/-- Bits set in an entry by an atomic OR (R225). -/
def orEntry (m a bits : Nat) (s : State) : State := physWrite m a (leBytes 8 (Nat.lor (leNat (physRead (getMod s m) a 8)) bits)) s

/-- The state with a function applied to the frame-table entry. -/
def updFrame (m g : Nat) (f : Frame → Frame) (s : State) : State :=
  updMod s m fun md => { md with frames := Tbl.set md.frames g (f (Tbl.get ⟨0, 0, false⟩ md.frames g)) }

/-- The module and the root of a member's space of a job, where it can be reached (R221). -/
def spaceOf (s : State) (job member : Nat) : Option (Nat × Nat) :=
  match getJob s job with
  | none => none
  | some j =>
    if j.dead.contains member ∨ j.members.length ≤ member then none
    else (Tbl.get none j.roots member).map fun r => (moduleOf j member, r)

/-- Every port of a module is down: the fabric has no path to it or from it (R204, R221, R259, log 79). -/
def cutOff (s : State) (m : Nat) : Bool := (List.range 32).all fun p => (getMod s m).down.any fun x => x.1 == p

/-- No path leads from a module to another. -/
def noPath (s : State) (m n : Nat) : Bool := m != n && (cutOff s m || cutOff s n)

/-- The leaf of a virtual address: from the engine's TLB, or by a walk that caches it and sets A (R225, R226). -/
def lookup (c e job member va : Nat) (s : State) : State × (Walk ⊕ Tlb) :=
  match (tlbOf (getCluster s c) e).find? fun x => x.covers job member va with
  | some x => (useTlb c e x s, .inr x)
  | none =>
    match spaceOf s job member with
    | none => (s, .inl .bad)
    | some (m, root) =>
      match walkFrom (getMod s m) 4 root va with
      | .leaf pte pa size rd wr d =>
        let x : Tlb := { job := job, member := member, va := va / size * size, size := size, pa := pa, rd := rd, wr := wr, dirty := d, pte := pte }
        (useTlb c e x (orEntry m pte 0x10 s), .inr x)
      | w => (s, .inl w)

/-- A request in an engine's queue. -/
def findReq (s : State) (c e id : Nat) : Option QReq := (queueOf (getCluster s c) e).find? fun q => q.id == id

/-- The page's frame is pinned for a request, once (R228); a full count waits. -/
def pinPage (c home id m pa : Nat) (s : State) : Option State :=
  let g := (m, pa / 65536)
  match findReq s c home id with
  | none => some s
  | some q =>
    if isHost pa ∨ q.pins.contains g then some s
    else if 65535 ≤ (frameOf s m pa).pin then none
    else some (updReq c home id (fun q => { q with pins := g :: q.pins }) (updFrame m g.2 (fun f => { f with pin := f.pin + 1 }) s))

/-- D is set before the first write through an entry (R225). -/
def markDirty (c e m : Nat) (x : Tlb) (s : State) : State :=
  if x.dirty then s else useTlb c e { x with dirty := true } (orEntry m x.pte 0x20 s)

/-- A page that a chunk needs, as its engine finds it: the first byte needed, what the access needs, and, where its space can be reached, the module
and the walk's result. -/
structure Found where
  member : Nat
  va : Nat
  rd : Bool
  wr : Bool
  res : Option (Nat × (Walk ⊕ Tlb))
  deriving DecidableEq, Repr

/-- A page is looked for by engine e: its space is dead, absent or without a path (R221), or it is in the TLB or walked to (R225). -/
def findPage (c e member va : Nat) (rd wr : Bool) (s : State) : State × Found :=
  let job := (getCluster s c).ctx.job
  match spaceOf s job member with
  | none => (s, ⟨member, va, rd, wr, none⟩)
  | some (m, _) =>
    if noPath s (c / 96) m then (s, ⟨member, va, rd, wr, none⟩) else
    let r := lookup c e job member va s
    (r.1, ⟨member, va, rd, wr, some (m, r.2)⟩)

/-- Bytes from the page's first needed one to its end; of a page that is not there, 64 KiB are passed over. -/
def Found.rest (f : Found) : Nat :=
  match f.res with
  | some (_, .inr x) => x.va + x.size - f.va
  | _ => 65536 - f.va % 65536

/-- The pages of n bytes at a virtual address, in order. -/
def findRange (c e member : Nat) (rd wr : Bool) : Nat → Nat → Nat → State → State × List Found
  | 0, _, _, s => (s, [])
  | _ + 1, _, 0, s => (s, [])
  | fuel + 1, va, n + 1, s =>
    let (s, f) := findPage c e member va rd wr s
    let k := min (n + 1) f.rest
    let (s, fs) := findRange c e member rd wr fuel ((va + k) % 2 ^ 57) (n + 1 - k) s
    (s, f :: fs)

/-- The conditions of R229 on one page: malformed tables, V = 0, what RD, WR or the target refuse, a frame of another partition. -/
def Found.isBad (f : Found) : Bool := match f.res with | some (_, .inl w) => w != .absent | _ => false
@[inherit_doc Found.isBad] def Found.isAbsent (f : Found) : Bool := match f.res with | some (_, .inl w) => w == .absent | _ => false
@[inherit_doc Found.isBad] def Found.isRefused (f : Found) : Bool :=
  match f.res with | some (_, .inr x) => !hasTarget x.pa x.size || (f.rd && !x.rd) || (f.wr && !x.wr) | _ => false
@[inherit_doc Found.isBad] def Found.isForeign (s : State) (part : Nat) (f : Found) : Bool :=
  match f.res with | some (m, .inr x) => !isHost x.pa && (frameOf s m x.pa).owner != part | _ => false

/-- The first condition of R229 that holds of a chunk's pages decides, with the first page of which it holds; a space that cannot be reached comes before
them (R221). -/
def refusal (s : State) (part : Nat) (fs : List Found) : Option (Tr × Found) :=
  let conds : List ((Found → Bool) × Tr) :=
    [((fun f => f.res.isNone), .fail 2), (Found.isBad, .fail 4), (Found.isAbsent, .fault), (Found.isRefused, .fail 4), (Found.isForeign s part, .fail 5)]
  conds.findSome? fun x => (fs.find? x.1).map fun f => (x.2, f)

/-- The pages are pinned in their order (R228), and whether all are. -/
def pinPages (c home id : Nat) : List Found → State → State × Bool
  | [], s => (s, true)
  | f :: fs, s =>
    match f.res with
    | some (m, .inr x) =>
      match pinPage c home id m x.pa s with
      | some s => pinPages c home id fs s
      | none => (s, false)
    | _ => pinPages c home id fs s

/-- D is set in the entries of the pages that are written (R225). -/
def dirtyPages (c e : Nat) (fs : List Found) (s : State) : State :=
  fs.foldl (fun s f => match f.res with | some (m, .inr x) => if f.wr then markDirty c e m x s else s | _ => s) s

/-- The mappings of pages found. -/
def mapsOf (job : Nat) (fs : List Found) : List PageMap :=
  fs.filterMap fun f => match f.res with | some (m, .inr x) => some ⟨f.wr, x.va, x.size, m, x.pa, job, f.member⟩ | _ => none

/-- What the pages of a chunk give it (R229): their mappings, pinned and the written ones marked dirty, or the condition that decides. -/
def translatePages (c e home id : Nat) (fs : List Found) (s : State) : State × (List PageMap ⊕ (Tr × Found)) :=
  let cl := getCluster s c
  match refusal s cl.part fs with
  | some x => (s, .inr x)
  | none =>
    match pinPages c home id fs s with
    | (s, true) => (dirtyPages c e fs s, .inl (mapsOf cl.ctx.job fs))
    | (s, false) => (s, .inr (.wait, fs.headD ⟨0, 0, false, false, none⟩))

/-! ### Page faults (R230, R355) -/

/-- The record of a page fault (R355): job, member, W, virtual page, tag, core number, module time. -/
def faultRecord (s : State) (c : Nat) (q : QReq) (f : PFault) : List Nat :=
  [(getCluster s c).ctx.job, f.member, b2n f.write, f.va / 65536 * 65536, q.r.tag, coreNo q.r.core, timeOf s (c / 96)]

/-- A fault record for a partition's fault ring (R355): it goes to the host, or waits behind the records for which the ring has no room. When the
ring has room is open (log 105). -/
def sendFault (m part : Nat) (words : List Nat) (s : State) : State :=
  let (full, s) := openValue 0 1 s
  if full = 1 ∨ (getMod s m).faultWait.any (fun x => x.1 == part) then
    updMod s m fun md => { md with faultWait := md.faultWait ++ [(part, words)] }
  else { s with hostMsgs := s.hostMsgs ++ [.pageFault m part words] }

/-- Waiting records are written in their order, as long as the ring of their partition has room (R355): `full` lists the partitions whose ring has
none. -/
def flushList (m : Nat) : List (Nat × List Nat) → List Nat → State → State
  | [], _, s => s
  | r :: rs, full, s =>
    let (no, s) := openValue 0 1 s
    if no = 1 ∨ full.contains r.1 then
      flushList m rs (r.1 :: full) (updMod s m fun md => { md with faultWait := md.faultWait ++ [r] })
    else flushList m rs full { s with hostMsgs := s.hostMsgs ++ [.pageFault m r.1 r.2] }

@[inherit_doc flushList] def flushFaults (m : Nat) (s : State) : State :=
  flushList m (getMod s m).faultWait [] (updMod s m fun md => { md with faultWait := [] })

/-- A request pauses on a page fault (R230): its record goes out, and its task asks for a whole-context save. -/
def pauseReq (c home id member va : Nat) (write : Bool) (s : State) : State :=
  let f : PFault := ⟨member, va, write, false⟩
  match findReq s c home id with
  | none => s
  | some q =>
    let s := sendFault (c / 96) (getCluster s c).part (faultRecord s c q f) s
    updCluster (updReq c home id (fun q => { q with paused := some f }) s) c fun x => { x with wholeSave := true }

/-- A request has failed with a STATUS (R204). -/
def failReq (c home id status : Nat) (s : State) : State :=
  updReq c home id (fun q => if q.status = 0 then { q with status := status } else q) s

/-- What a refused translation does to its request (R229); a wait leaves it as it is. -/
def refuseReq (c home id : Nat) (x : Tr × Found) (s : State) : State :=
  match x.1 with
  | .fail n => failReq c home id n s
  | .fault => pauseReq c home id x.2.member x.2.va x.2.wr s
  | .wait => s

/-! ### Pages named by bindings (R213, R214) -/

/-- A virtual sync word of a core's binding, translated by the core's home engine (R225, R229): its module and TLB entry, where an update of it is
permitted. Where its page is absent, malformed or refused there is none: `acq` is tried again and `rel` waits, without a record or a STATUS (DESIGN
CHOICE, log 115). -/
def syncPlace (k va : Nat) (s : State) : State × Option (Nat × Tlb) :=
  let c := clusterOf k
  let cl := getCluster s c
  match spaceOf s cl.ctx.job cl.ctx.member with
  | none => (s, none)
  | some (m, _) =>
    match lookup c (homeEngine k) cl.ctx.job cl.ctx.member va s with
    | (s, .inr x) =>
      (s, if hasTarget x.pa x.size && x.rd && x.wr && (isHost x.pa || (frameOf s m x.pa).owner == cl.part) then some (m, x) else none)
    | (s, .inl _) => (s, none)

/-- The physical address of a virtual one in an entry's page. -/
def Tlb.place (x : Tlb) (va : Nat) : Nat := x.pa + (va - x.va)


end Sys2Proof.Machine
end

