-- ==== Sys2Proof/Machine/Copy.lean ====
section
/-! DEFINITION. Sys2Proof/Machine/Copy.lean: the copy engines at work (R179, R181, R204 to R207, R211, R212, R235, R236, R320): due writes, chunks,
accesses in flight, windows, remote atomics, `gemv` rows, the end of requests and publishes. -/

namespace Sys2Proof.Machine

/-! ### Chunks of a request (R202, R205) -/

/-- The task of a request: the one on the cluster, or a saved one; its context, and whether it is being saved or is saved. -/
def taskOf (s : State) (c : Nat) (q : QReq) : Ctx × Bool :=
  let cl := getCluster s c
  if cl.ctx.uid = q.uid then (cl.ctx, cl.task == .saving || cl.task == .saved || cl.task == .restoring || guestSave s c)
  else match (getMod s (c / 96)).saves.find? fun v => v.uid == q.uid && v.cluster == c with
    | some v => (v.cl.ctx, true)
    | none => (cl.ctx, false)

/-- An address of a side at an offset (R202); a window offset below 0 lies outside every window. -/
def Side.at_ (x : Side) (off : Int) : Nat :=
  match x with
  | .local_ a => ((a : Int) + off).toNat
  | .virt _ a => wrap 57 (a + off)
  | .window _ _ o => if (o : Int) + off < 0 then 2 ^ 60 else ((o : Int) + off).toNat

/-- Chunk j of a request: its source, destination and length. -/
def chunkAt (r : Req) (j : Nat) : Nat × Nat × Nat :=
  let run := j / r.perRun
  let off := 4096 * (j % r.perRun)
  (r.src.at_ (Pattern.offset r.cnt r.sstr run + off), r.dst.at_ (Pattern.offset r.cnt r.dstr run + off), min 4096 (r.len - off))

/-- The chunk in hand of an engine. -/
def handOf (s : State) (c e : Nat) : Option Chunk := Tbl.get none (getCluster s c).chunks e

/-- The state with another chunk in hand. -/
def setHand (c e : Nat) (h : Option Chunk) (s : State) : State := updCluster s c fun x => { x with chunks := Tbl.set x.chunks e h }

/-- The module of a side: the issuing module's, or a member's. -/
def sideRemote (s : State) (c : Nat) (x : Side) : Bool :=
  match x with
  | .virt m _ => memberModule s (getCluster s c).ctx.job m != c / 96
  | .window .. => true
  | .local_ _ => false

/-- A write to the shadow of a publish that waits may not begin (R211). -/
def publishHolds (s : State) (c : Nat) (q : QReq) : Bool :=
  match q.r.dst with
  | .window member key _ =>
    q.r.shd && (s.clusters.any fun x => x.1 / 96 == memberModule s (getCluster s c).ctx.job member && x.2.ctx.job == (getCluster s c).ctx.job &&
      x.2.pubs.any fun p => decide (p.before ≤ q.id) && (match x.2.bindings[p.b]? with | some b => b.win && b.wkey == key | none => false))
  | _ => q.r.shd && (getCluster s c).pubs.any fun p => p.b == q.r.bind && decide (p.before ≤ q.id)

/-- A request may start its next chunk in this cycle (R205, R211, R220, R230). -/
def startable (s : State) (c : Nat) (q : QReq) : Bool :=
  q.status == 0 && q.paused.isNone && decide (q.next < q.total) && decide (q.r.issued + 4 ≤ s.cycle) && !publishHolds s c q

/-- The operation of a graph that a request carries out. -/
def opOf (s : State) (c : Nat) (q : QReq) : Option GOp :=
  match q.r.kind with
  | .graph g i => (slotAt s c g).bind fun x => x.op i
  | _ => none

/-- The FSEND that a request carries out. -/
def sendOp (s : State) (c : Nat) (q : QReq) : Option GOp := (opOf s c q).filter fun o => o.kind == 1

/-- Requests whose chunks other engines take (R205, R319): all that move bytes by chunks, but not `gemv` (R236). -/
def stealable (s : State) (c : Nat) (q : QReq) : Bool :=
  match q.r.kind with
  | .copy | .atomic .. => true
  | .gemv .. => false
  | .graph .. => (opOf s c q).any fun o => o.kind == 0 || o.kind == 1

/-- Unstarted chunks of a queue that another engine may take. -/
def unstarted (s : State) (c : Nat) (qs : List QReq) : Nat :=
  ((qs.filter fun q => stealable s c q && startable s c q).map fun q => q.total - q.next).sum

/-- The engine with the most unstarted chunks, the lowest index among equals (R205). -/
def busiest (s : State) (c e : Nat) : Option Nat :=
  let ns : List (Nat × Nat) := ((List.range 4).filter fun i => i != e).map fun i => (i, unstarted s c (queueOf (getCluster s c) i))
  let top : Nat := ns.foldl (fun t x => max t x.2) 0
  if top = 0 then none else (ns.find? fun x => x.2 == top).map Prod.fst

/-- The request whose chunk an engine takes next, and the engine that holds it (R205). -/
def nextWork (s : State) (c e : Nat) : Option (Nat × QReq) :=
  match (queueOf (getCluster s c) e).find? (startable s c) with
  | some q => some (e, q)
  | none =>
    if (queueOf (getCluster s c) e).any fun q => decide (q.next < q.total) && q.status == 0 && q.paused.isNone then none else
    match busiest s c e with
    | none => none
    | some h => ((queueOf (getCluster s c) h).find? fun q => stealable s c q && startable s c q).map fun q => (h, q)

/-- A chunk has been performed or given up. -/
def dropChunk (c e : Nat) (h : Chunk) (s : State) : State :=
  updReq c h.home h.req (fun q => { q with active := q.active - 1 }) (setHand c e none s)

/-- A chunk has been performed (R400). -/
def finishChunk (c e : Nat) (h : Chunk) (s : State) : State :=
  let s := dropChunk c e h s
  let s := match findReq s c h.home h.req with
    | some q => match q.r.kind with | .graph g _ => noteMoved c g s | _ => s
    | none => s
  updCluster (countCluster (updReq c h.home h.req (fun q => { q with done := q.done + 1 }) s) c 0x03 1) c (Cluster.countBytes 0x05 h.len)

/-- A chunk fails its request. -/
def failChunk (c e status : Nat) (h : Chunk) (s : State) : State := dropChunk c e h (failReq c h.home h.req status s)

/-! ### Transit (R215, R313) -/

/-- A reserved path of the job from this module to a member: hops and rate (R313). -/
def reservedPath (s : State) (c member : Nat) : Option (Nat × Nat) :=
  let cx := (getCluster s c).ctx
  ((getMod s (c / 96)).fab.find? fun f => f.1 == cx.job && f.2.1 == cx.member && f.2.2.1 == member).map fun f => (f.2.2.2.1, f.2.2.2.2.1)

/-- The cycle by which a chunk on a reserved path has been performed (R313): ns of module time at the fastest rate. -/
def transitBy (q : QReq) (len hops rate : Nat) : Nat := q.r.issued + (250 + 300 * hops + (8 * len + rate - 1) / rate) * 189 / 100

/-- The member to which a request's chunks go. -/
def targetOf (s : State) (c : Nat) (q : QReq) : Option Nat :=
  match sendOp s c q with
  | some o => some o.mem
  | none => match q.r.dst with
    | .virt m _ | .window m _ _ => some m
    | .local_ _ => none

/-- The cycles that an access of a chunk takes: without bound, or within the bound of a reserved path shared among the accesses left. -/
def transit (c : Nat) (q : QReq) (h : Chunk) (s : State) : Nat × State :=
  match (targetOf s c q).bind fun m => if memberModule s (getCluster s c).ctx.job m != c / 96 then reservedPath s c m else none with
  | some (hops, rate) =>
    if q.bounded then
      let left := (h.len - h.off) / 512 + 1
      openValue 1 (max 1 ((transitBy q h.len hops rate - s.cycle) / (4 * left))) s
    else let (d, s) := openAny s; (d + 1, s)
  | none => let (d, s) := openAny s; (d + 1, s)

/-- An access of the chunk in hand goes out. -/
def sendAccess (c e : Nat) (q : QReq) (h : Chunk) (k : FKind) (s : State) : State :=
  let (d, s) := transit c q h s
  setHand c e (some { h with flight := true }) (launchFlight (s.cycle + d) k s)

/-! ### The chunk in hand -/

/-- The bytes of a local source, or none where one is marked (R394). -/
def localSource (s : State) (c a n : Nat) : Option (List Nat) :=
  if inScratch a n then (if isMarked s 2 c a n then none else some (readScratch (getCluster s c) a n))
  else if isMarked s 3 (c / 12) a n then none else some (Mem.read (getDie s (c / 12)).weights a n)

/-- A marked word that an engine reads as its source is counted: the scratchpad's against the partition, the weight store's as shared (R398). -/
def countLocal (c a n : Nat) (s : State) : State := countErr s (c / 96) (if inScratch a n then (getCluster s c).part else 0) 1 1

/-- The length of a piece at offsets within the source and the destination: at most 512 bytes, inside a page of each. -/
def pieceLen (src dst left : Nat) : Nat := min (min 512 left) (min (65536 - src % 65536) (65536 - dst % 65536))

/-- A chunk that is read whole before it leaves: toward a remote member's memory, a window, a fold (R205, R206, R311, R320). -/
def wholeChunk (s : State) (c : Nat) (q : QReq) : Bool := sideRemote s c q.r.dst || (sendOp s c q).isSome

/-- The source is read: n bytes at an offset. -/
def readPiece (c e : Nat) (q : QReq) (h : Chunk) (o n : Nat) (s : State) : State :=
  let take := fun (bs : List Nat) (s : State) => setHand c e (some { h with buf := some (h.buf.getD [] ++ bs) }) s
  match q.r.src with
  | .virt _ _ =>
    match mapOf h.maps false ((h.src + o) % 2 ^ 57) with
    | some (m, pa) => sendAccess c e q h (.access m pa (.read n) c e) s
    | none => failChunk c e 4 h s
  | _ =>
    match localSource s c (h.src + o) n with
    | some bs => take bs (if inScratch (h.src + o) n then countCluster s c 0x06 1 else s)
    | none => failChunk c e 1 h (countLocal c (h.src + o) n s)

/-- What has been read is written at the chunk's place, toward a memory in accesses of at most 512 bytes (R232). -/
def writePiece (c e : Nat) (q : QReq) (h : Chunk) (bs : List Nat) (s : State) : State :=
  match q.r.dst with
  | .local_ _ =>
    let s := scratchWrite c q.r.shd (h.dst + h.off) bs s
    let h := { h with off := h.off + bs.length, buf := none }
    if h.off < h.len then setHand c e (some h) s else finishChunk c e h s
  | .virt _ _ =>
    match mapOf h.maps true ((h.dst + h.off) % 2 ^ 57) with
    | some (m, pa) =>
      let n := min (min bs.length 512) (65536 - pa % 65536)
      sendAccess c e q h (.access m pa (.write (bs.take n)) c e) s
    | none => failChunk c e 4 h s
  | .window member key _ =>
    sendAccess c e q h (.window member (getCluster s c).ctx.job key h.dst bs q.r.shd c e) s

/-- The place of a chunk in the source's one run. -/
def chunkOff (q : QReq) (h : Chunk) : Nat :=
  match q.r.src with
  | .local_ a => h.src - a
  | .virt _ a => (h.src + 2 ^ 57 - a) % 2 ^ 57
  | .window .. => 0

/-- An FSEND's chunk has been read: it goes to the fold buffer of its member (R312, R320, R321). -/
def sendFold (c e : Nat) (q : QReq) (h : Chunk) (o : GOp) (bs : List Nat) (s : State) : State :=
  match q.r.kind with
  | .graph g i =>
    match slotAt s c g with
    | some x =>
      let cx := (getCluster s c).ctx
      sendAccess c e q h (.fold (memberModule s cx.job o.mem) ⟨cx.job, cx.lcl, g, x.run, o.dop, cx.member, [], (c, g, i)⟩ o.len (chunkOff q h) bs c e) s
    | none => s
  | _ => s

/-- An atomic request's turn at the memory, then its old value at SADDR through the request's own engine (R179, R207). -/
def atomicPiece (c e : Nat) (q : QReq) (h : Chunk) (s : State) : State :=
  match h.buf with
  | some old =>
    if e = h.home then finishChunk c e h (scratchWrite c false (q.r.src.at_ 0) old s)
    else setHand c e (some { h with flight := true }) (dueWrite c h.home 6 h.req (q.r.src.at_ 0) old (.piece e) s)
  | none =>
    match mapOf h.maps true h.dst with
    | some (m, pa) => sendAccess c e q h (.atomic m pa c e h.req) s
    | none => failChunk c e 4 h s

/-- One cycle of the chunk in hand. -/
def advance (c e : Nat) (h : Chunk) (s : State) : State :=
  if h.flight then s else
  match findReq s c h.home h.req with
  | none => setHand c e none s
  | some q =>
    if q.status ≠ 0 then dropChunk c e h s else
    match q.r.kind with
    | .atomic .. => atomicPiece c e q h s
    | _ =>
      let got := h.buf.getD []
      let o := h.off + got.length
      if wholeChunk s c q ∧ o < h.len then readPiece c e q h o (pieceLen (h.src + o) 0 (h.len - o)) s
      else match h.buf with
        | none => readPiece c e q h o (pieceLen (h.src + o) (h.dst + o) (h.len - o)) s
        | some bs =>
          match sendOp s c q with
          | some o => sendFold c e q h o bs s
          | none => writePiece c e q h bs s

/-! ### `gemv` (R235, R236) -/

/-- The pages of B and of its scales, each once: their first bytes. -/
def gemvPages (m segs : Nat) (args : List Nat) : List Nat :=
  let w := fun i => args.getD i 0
  let of := fun (base pitch n : Nat) => (List.range m).flatMap fun r =>
    List.range' ((base + r * pitch) / 65536) ((base + r * pitch + n - 1) / 65536 + 1 - (base + r * pitch) / 65536)
  ((of (w 0) (w 1) (96 * segs) ++ of (w 2) (w 3) (4 * segs)).eraseDups).map fun p => p * 65536

/-- The pages of a `gemv` request as its engine finds them. -/
def findAll (c e member : Nat) : List Nat → State → State × List Found
  | [], s => (s, [])
  | va :: rest, s =>
    let (s, f) := findPage c e member (va % 2 ^ 57) true false s
    let (s, fs) := findAll c e member rest s
    (s, f :: fs)

/-- The pages of a `gemv` request are translated and pinned before A is read. -/
def translateAll (c e id member : Nat) (vas : List Nat) (s : State) : State × (List PageMap ⊕ (Tr × Found)) :=
  let (s, fs) := findAll c e member vas s
  translatePages c e e id fs s

/-- Bytes of HBM through translations, or none where one is marked. -/
def pagedRead (s : State) (maps : List PageMap) (va n : Nat) : Option (List Nat) :=
  let ps := physPieces maps false 64 va n
  if (markedPiece s ps).isSome then none else some (ps.flatMap fun p => physRead (getMod s p.1) p.2.1 p.2.2)

/-- The pair of a row (R236): segment by segment, as `mfeed` gives. -/
def gemvRow (a b : List Nat) (sa sb : List Nat) : Nat → Nat → Nat × Nat → Nat × Nat
  | 0, _, p => p
  | n + 1, g, p =>
    let x := tree128 (fadd .f32) ((List.range 128).map fun k =>
      pack .f32 .rne (ln6Prod (a.getD (128 * g + k) 0) (b.getD (128 * g + k) 0) (signed 8 (sa.getD (4 * g + k / 32) 0))
        (signed 8 (sb.getD (4 * g + k / 32) 0))))
    gemvRow a b sa sb n (g + 1) (twosum p.1 p.2 x)

/-- The next bytes of n at a scratchpad address, at most 512 in a cycle, join what a `gemv` request has read (R205). -/
def gemvRead (c e : Nat) (q : QReq) (i a n : Nat) (s : State) : State :=
  let got := Tbl.get [] q.acc i
  match localSource s c (a + got.length) (min 512 (n - got.length)) with
  | some bs => countCluster (updReq c e q.id (fun q => { q with acc := Tbl.set q.acc i (got ++ bs) }) s) c 0x06 1
  | none => failReq c e q.id 1 (countLocal c (a + got.length) (min 512 (n - got.length)) s)

/-- The HBM stack of a physical address. -/
def stackOf (pa : Nat) : Nat := pa / 2 ^ 36

/-- The base die of a stack takes commands (R392): it is in service and not under update. -/
def baseOpen (s : State) (m b : Nat) : Bool :=
  let d := 2 ^ 16 + 12 * m + b
  !(getMod s m).baseOut.contains d && (getMod s m).updating != some d

/-- A `gemv` request's step: translation at first, once the base die of its stack takes commands (R392), then A and its scales, then one row per
cycle (R236). -/
def gemvStep (c e : Nat) (q : QReq) (m segs : Nat) (args : List Nat) (s : State) : State :=
  let w := fun i => args.getD i 0
  let a := q.r.src.at_ 0
  if q.maps.isEmpty then
    match translateAll c e q.id (getCluster s c).ctx.member (gemvPages m segs args) s with
    | (s, .inr x) => refuseReq c e q.id x s
    | (s, .inl maps) =>
      let stack := (maps.head?.map fun p => stackOf p.pa).getD 0
      if maps.any fun p => isHost p.pa || stackOf p.pa != stack then failReq c e q.id 4 s
      else if maps.any fun p => !baseOpen s p.m stack then s
      else updReq c e q.id (fun q => { q with maps := maps }) s
  else if (Tbl.get [] q.acc 0).length < 96 * segs then gemvRead c e q 0 a (96 * segs) s
  else if (Tbl.get [] q.acc 1).length < 4 * segs then gemvRead c e q 1 (w 4) (4 * segs) s
  else
    let r := q.next
    match pagedRead s q.maps (w 0 + r * w 1) (96 * segs), pagedRead s q.maps (w 2 + r * w 3) (4 * segs) with
    | some bs, some sb =>
      let p := gemvRow (ln6Lanes (Tbl.get [] q.acc 0)) (ln6Lanes bs) (Tbl.get [] q.acc 1) sb segs 0 (0, 0)
      let s := countHbmRead (physPieces q.maps false 64 (w 0 + r * w 1) (96 * segs) ++ physPieces q.maps false 64 (w 2 + r * w 3) (4 * segs)) s
      let s := countFlits (c / 96) (c / 96) false (flitsFor 8) (scratchWrite c q.r.shd (q.r.dst.at_ (8 * r)) (leBytes 4 p.1 ++ leBytes 4 p.2) s)
      countMod (updReq c e q.id (fun q => { q with next := q.next + 1, done := q.done + 1 }) s) (c / 96) 0x07 1
    | _, _ =>
      let ps := physPieces q.maps false 64 (w 0 + r * w 1) (96 * segs) ++ physPieces q.maps false 64 (w 2 + r * w 3) (4 * segs)
      let s := match markedPiece s ps with | some p => countHbm p.1 p.2 s | none => s
      failReq c e q.id 1 s

/-! ### Starting a chunk (R205, R229) -/

/-- The pages that a chunk needs, source first. -/
def findChunk (c e : Nat) (q : QReq) (src dst len : Nat) (s : State) : State × List Found :=
  let atomic := match q.r.kind with | .atomic .. => true | _ => false
  let (s, a) := match q.r.src with
    | .virt m _ => findRange c e m true false 4 src len s
    | _ => (s, [])
  let (s, b) := match (if (sendOp s c q).isSome then Side.local_ 0 else q.r.dst) with
    | .virt m _ => findRange c e m atomic true 4 dst len s
    | _ => (s, [])
  (s, a ++ b)

/-- The translations that a chunk needs (R229). -/
def translateChunk (c e home : Nat) (q : QReq) (src dst len : Nat) (s : State) : State × (List PageMap ⊕ (Tr × Found)) :=
  let (s, fs) := findChunk c e q src dst len s
  translatePages c e home q.id fs s

/-- A member to which a request sends is dead, does not hold the job or has no path to it (R204, R221); spaces are tested by their translation. -/
def memberGone (s : State) (c : Nat) (q : QReq) : Bool :=
  let gone := fun m => match spaceOf s (getCluster s c).ctx.job m with | some (n, _) => noPath s (c / 96) n | none => true
  match sendOp s c q, q.r.dst with
  | some o, _ => gone o.mem
  | none, .window m _ _ => gone m
  | _, _ => false

/-- A graph signal is sent when its turn has come, once (R320). -/
def sendSignal (c e : Nat) (q : QReq) (g i : Nat) (o : GOp) (s : State) : State :=
  match slotAt s c g with
  | none => s
  | some x =>
    let cx := (getCluster s c).ctx
    let k : Signal := { job := cx.job, lcl := cx.lcl, slot := g, run := x.run, cnt := o.icnt, inc := o.inc, from_ := (c, g, i) }
    if towardDead s c o ∨ noPath s (c / 96) (memberModule s cx.job o.mem) then failReq c e q.id 2 s
    else sendTo (.signal (memberModule s cx.job o.mem) k) (updReq c e q.id (fun q => { q with next := q.total, done := q.total }) s)

/-- An FRECV's row is translated and pinned; contributions may be added from then on (R320, R321). -/
def openRecv (c e : Nat) (q : QReq) (g i : Nat) (s : State) : State :=
  match q.r.dst with
  | .virt m va =>
    let (s, fs) := findRange c e m true true 64 va q.r.len s
    match translatePages c e e q.id fs s with
    | (s, .inr x) => refuseReq c e q.id x s
    | (s, .inl ms) => foldNow c g i (updReq c e q.id (fun q => { q with next := q.total, done := 1, maps := ms }) s)
  | _ => foldNow c g i (updReq c e q.id (fun q => { q with next := q.total, done := 1 }) s)

/-- An engine takes the next chunk of a request. -/
def startChunk (c e home : Nat) (q : QReq) (s : State) : State :=
  let go := fun (s : State) =>
    let (src, dst, len) := chunkAt q.r q.next
    if memberGone s c q then failReq c home q.id 2 s else
    match translateChunk c e home q src dst len s with
    | (s, .inr x) => refuseReq c home q.id x s
    | (s, .inl maps) =>
      let (n, s) := newId s
      let h : Chunk := { id := n, home := home, req := q.id, src := src, dst := dst, len := len, off := 0, buf := none, flight := false, maps := maps }
      let s := if e = home then s else countCluster s c 0x04 1
      setHand c e (some h) (updReq c home q.id (fun q => { q with next := q.next + 1, active := q.active + 1 }) s)
  match q.r.kind with
  | .gemv m segs _ args => gemvStep c e q m segs args s
  | .graph g i =>
    match (slotAt s c g).bind fun x => x.op i with
    | none => failReq c home q.id 4 s
    | some o => if o.kind = 3 then sendSignal c e q g i o s else if o.kind = 2 then openRecv c e q g i s else go s
  | _ => go s

/-! ### Due writes (R181) -/

/-- A due write that the engine may perform now: in a freeze what does not belong to the job's own work (R291, R369), what ends a chunk that has
begun, and the writes of a block that has begun (R205, R300). -/
def mayPerform (held : Bool) (d : DueWrite) : Bool :=
  !held || d.cls == 1 || d.cls == 2 || d.cls == 4 || d.cls == 5 || d.cls == 7 || (match d.after with | .piece _ => true | _ => false)

/-- The write of highest priority that is due through an engine (R181). -/
def topDue (e : Nat) (held : Bool) (ds : List DueWrite) : Option DueWrite :=
  (sortBy (fun (a b : DueWrite) => decide (a.cls < b.cls) || (a.cls == b.cls && decide (a.ord ≤ b.ord)))
    (ds.filter fun d => d.engine == e && mayPerform held d)).head?

/-- What happens to the chunk whose access has been performed. -/
def accessDone (c e : Nat) (f : Chunk → State → State) (s : State) : State :=
  match handOf s c e with
  | some h => f { h with flight := false } s
  | none => s

/-- The cluster of a module whose running launch of a job declares a window key, with the binding's index. -/
def windowCluster (s : State) (m job key : Nat) : Option (Nat × Nat) :=
  ((List.range 96).map fun i => 96 * m + i).findSome? fun c =>
    let cl := getCluster s c
    if cl.task = .none ∨ cl.task = .loading ∨ cl.task = .saved ∨ cl.task = .restoring ∨ cl.ctx.job ≠ job then none
    else ((List.range cl.bindings.length).find? fun i =>
      match cl.bindings[i]? with | some b => b.win && b.wkey == key | none => false).map fun i => (c, i)

/-- A saved task of the job declares the key: its chunks wait for the restore (log 22). -/
def windowSaved (s : State) (m job key : Nat) : Bool :=
  (getMod s m).saves.any fun v => v.cl.ctx.job == job && v.cl.bindings.any fun b => b.win && b.wkey == key

/-- The cluster and the binding whose pair an SHD request writes (R206, R211); a local one while its task is on the cluster. -/
def publishTarget (s : State) (c : Nat) (q : QReq) : Option (Nat × Nat) :=
  let job := (taskOf s c q).1.job
  match q.r.dst with
  | .window member key _ => windowCluster s (memberModule s job member) job key
  | _ => if (getCluster s c).ctx.uid = q.uid then some (c, q.r.bind) else none

/-- The publish of a PUB request begins to wait, once: it may take effect at the end of this cycle (R211). Where its window's task is saved it waits
for the restore (log 22); where the window is gone the request fails with STATUS 3 (R206). -/
def beginPublish (c e : Nat) (q : QReq) (s : State) : State :=
  match publishTarget s c q with
  | none =>
    match q.r.dst with
    | .window member key _ =>
      let job := (getCluster s c).ctx.job
      if windowSaved s (memberModule s job member) job key then s else failReq c e q.id 3 s
    | _ => s
  | some (t, b) =>
    if (getCluster s t).pubs.any fun p => p.req == some q.id then s
    else beginPub t ⟨b, s.cycle, s.nextId, q.r.core, some q.id, false⟩ s

/-- A request whose last payload byte enters a window in this cycle begins its publish in the cycle, although its own engine's place is past (R206,
R211). -/
def publishAtEnd (c e id : Nat) (s : State) : State :=
  match findReq s c e id with
  | some q => if q.status == 0 && decide (q.total ≤ q.done) && q.r.pub && !q.published && !enginesHeld s c then beginPublish c e q s else s
  | none => s

/-- What a performed write is followed by. -/
def afterWrite (c : Nat) (a : After) (s : State) : State :=
  match a with
  | .nothing => s
  | .finish e id => updReq c e id (fun q => { q with cwDone := true }) s
  | .graph g step => afterGraph c g step s
  | .chunk f =>
    match s.flights.find? fun x => x.id == f with
    | some ⟨_, _, _, .window _ _ _ _ _ _ c2 e2⟩ =>
      let s := { s with flights := s.flights.filter fun x => x.id != f }
      match handOf s c2 e2 with
      | some h => publishAtEnd c2 h.home h.req (finishChunk c2 e2 { h with off := h.len } s)
      | none => s
    | _ => s
  | .piece e => accessDone c e (fun h s => finishChunk c e h s) s

/-- A due write is performed; the TIME of a graph record is that of its writing (R324). -/
def performDue (c : Nat) (d : DueWrite) (s : State) : State :=
  let bs := match d.after with
    | .graph _ 0 => d.bs.take 16 ++ leBytes 8 (timeOf s (c / 96)) ++ d.bs.drop 24
    | _ => d.bs
  afterWrite c d.after (scratchWrite c d.shadow d.addr bs (updCluster s c fun x => { x with due := x.due.erase d }))

/-- The cluster has been moved by single steps since its freeze: its reconstruction unit moves in steps alone (R310, R372). -/
def stepped (s : State) (c : Nat) : Bool := (List.range 8).any fun r => (getCore s (8 * c + r)).stepT.isSome

/-- CHUNK_PERFORM (R181, R205): one access of an engine in the cycle. A freeze lets the chunk in hand finish and starts no other (R369). A write that is
due in the cycle, as a completion word, goes before the chunk in hand of another request (DESIGN CHOICE, log 115). -/
def engineMove (c e : Nat) (s : State) : State :=
  let held := enginesHeld s c
  let due := (getCluster s c).due
  match topDue e held (if held && stepped s c then due.filter fun d => d.cls != 4 else due) with
  | some d => performDue c d s
  | none =>
    match handOf s c e with
    | some h => advance c e h s
    | none =>
      if held then s else
      match nextWork s c e with
      | some (home, q) => startChunk c e home q s
      | none => s

@[inherit_doc engineMove] def execChunkPerform (c e : Nat) (s : State) : Host.Outcome State Fault Refusal := .next (engineMove c e s)

/-! ### Accesses that arrive (R212, R215, R234) -/

/-- The binding whose virtual region holds a byte (R212). -/
def boundIn (cl : Cluster) (va : Nat) : Option Nat :=
  (List.range cl.bindings.length).find? fun i =>
    match cl.bindings[i]? with
    | some b => b.virt && decide (b.base ≤ va) && decide (va < b.base + b.size)
    | none => false

/-- A read of a bound byte: the value of memory, or one that the engines have held since an earlier read; the choice is open (R212). -/
def boundByte (c member va v : Nat) (s : State) : Nat × State :=
  let cl := getCluster s c
  match boundIn cl va with
  | none => (v, s)
  | some b =>
    let (coin, s) := openValue 0 1 s
    match cl.cache.find? fun x => x.member == member && x.va == va with
    | some x =>
      if coin = 1 then (x.v, s)
      else (v, updCluster s c fun cl => { cl with cache := ⟨b, member, va, v⟩ :: cl.cache.filter fun x => !(x.member == member && x.va == va) })
    | none => (v, updCluster s c fun cl => { cl with cache := (⟨b, member, va, v⟩ :: cl.cache).take 262144 })

/-- Bytes read at a virtual place, bound ones as R212 allows. -/
def boundBytes (c member : Nat) : Nat → List Nat → State → List Nat × State
  | _, [], s => ([], s)
  | va, v :: vs, s =>
    let (x, s) := boundByte c member va v s
    let (xs, s) := boundBytes c member (va + 1) vs s
    (x :: xs, s)

/-- A swap that runs on a module and covers a physical address (R233, R234): its engine. -/
def swapOver (md : Module) (pa : Nat) : Option Nat :=
  (md.swaps.find? fun x => match x.2 with
    | some w =>
      let size := if bit (w.words.getD 0 0) 16 then 2097152 else 65536
      let a := pairWord (fun i => w.words.getD i 0) 2
      let b := pairWord (fun i => w.words.getD i 0) 4
      w.ends != 0 && (meets pa 1 a size || meets pa 1 b size)
    | none => false).map Prod.fst

/-- An access is performed at a memory (R215): a read delivers its bytes, a write moves its chunk on. -/
def performAccess (m pa : Nat) (op : AccOp) (c e : Nat) (s : State) : State :=
  match op with
  | .read n =>
    let s := countHbmRead [(m, pa, n)] s
    if !isHost pa && hbmMarked (getMod s m) pa n then accessDone c e (failChunk c e 1) (countHbm m pa s)
    else
      let bs := physRead (getMod s m) pa n
      accessDone c e (fun h s =>
        let q := findReq s c h.home h.req
        let place := (h.src + h.off + (h.buf.getD []).length) % 2 ^ 57
        let own := (getCluster s c).ctx.member
        let (bs, s) := match q.map fun q => q.r.src with
          | some (.virt member _) => if member = own ∧ (getCluster s c).bindings.any (fun b => b.virt) then boundBytes c member place bs s else (bs, s)
          | _ => (bs, s)
        setHand c e (some { h with buf := some (h.buf.getD [] ++ bs) }) s) s
  | .write bs =>
    let s := physWrite m pa bs s
    accessDone c e (fun h s =>
      let left := (h.buf.getD []).drop bs.length
      let h := { h with off := h.off + bs.length, buf := if left.isEmpty then none else some left }
      if h.off < h.len then setHand c e (some h) s else finishChunk c e h s) s

/-- The flight is parked by a swap engine, while its park has room (R234). -/
def parkFlight (m w id : Nat) (s : State) : State :=
  match Tbl.get none (getMod s m).swaps w with
  | some x =>
    if 1024 ≤ x.park.length then s
    else
      let s := updMod s m fun md => { md with swaps := Tbl.set md.swaps w (some { x with park := x.park ++ [id] }) }
      { s with flights := s.flights.map fun f => if f.id = id then { f with held := true } else f }
  | none => s

/-- The receivers of a remote module hold an access of a frozen job; a chunk that has begun to land is not held (R369). -/
def accessHeld (s : State) (m c e : Nat) : Bool :=
  m != c / 96 && receiversHeld s m (getCluster s c).ctx.job && (match handOf s c e with | some h => h.off == 0 | none => true)

/-- ACCESS_ARRIVAL (R215, R234). -/
def accessArrivalMove (s : State) : State :=
  match dueFlight s with
  | some ⟨id, _, false, .access m pa op c e⟩ =>
    if accessHeld s m c e then s else
    match swapOver (getMod s m) pa with
    | some w => parkFlight m w id s
    | none => performAccess m pa op c e (landFlight s)
  | _ => s

@[inherit_doc accessArrivalMove] def execAccessArrival (s : State) : Host.Outcome State Fault Refusal := .next (accessArrivalMove s)

/-- A remote atomic is performed at the memory that holds its word (R207), one in host memory too (DESIGN CHOICE, log 115). -/
def performAtomic (m pa c e id : Nat) (s : State) : State :=
  accessDone c e (fun h s =>
    let kind : Option ReqKind := (findReq s c h.home id).map fun q => q.r.kind
    match kind with
    | some (.atomic op sgn n x y) =>
      if !isHost pa && hbmMarked (getMod s m) pa n then failChunk c e 1 h (countHbm m pa s)
      else
        let w := 2 ^ (8 * n)
        let s := countHbmRead [(m, pa, n)] s
        let old := leNat (physRead (getMod s m) pa n)
        let s := match amoValue op sgn n old (x % w) (y % w) with
          | some v => physWrite m pa (leBytes n v) s
          | none => s
        setHand c e (some { h with buf := some (leBytes n old) }) s
    | _ => dropChunk c e h s) s

/-- REMOTE_ATOMIC_PERFORM (R207). -/
def atomicMove (s : State) : State :=
  match dueFlight s with
  | some ⟨id, _, false, .atomic m pa c e req⟩ =>
    if accessHeld s m c e then s else
    match swapOver (getMod s m) pa with
    | some w => parkFlight m w id s
    | none => performAtomic m pa c e req (landFlight s)
  | _ => s

@[inherit_doc atomicMove] def execRemoteAtomicPerform (s : State) : Host.Outcome State Fault Refusal := .next (atomicMove s)

/-! ### Windows (R179, R206) -/

/-- The pieces of a window chunk: at most 512 bytes each. -/
def windowPieces : Nat → Nat → List Nat → List (Nat × List Nat)
  | 0, _, _ => []
  | _, _, [] => []
  | n + 1, a, bs => (a, bs.take 512) :: windowPieces n (a + 512) (bs.drop 512)

/-- The engine of the window's cluster through which a chunk enters it, and its place in R181: the engine that performs the chunk, where the cluster
has issued it itself, and engine b mod 4 otherwise (R179). -/
def windowEngine (own : Bool) (e b : Nat) : Nat × Nat := if own then (e, 7) else (b % 4, 5)

/-- The writes of a window chunk fall due through an engine of the cluster (R179, R181); the last one tells the sender. -/
def dueWindow (c : Nat) (way : Nat × Nat) (id ord addr : Nat) (shd : Bool) (bs : List Nat) (s : State) : State :=
  let ps := windowPieces 8 addr bs
  updCluster s c fun x => { x with due := x.due ++ ps.zipIdx.map fun p =>
    ⟨way.1, way.2, ord, p.1.1, p.1.2, shd, if p.2 + 1 = ps.length then .chunk id else .nothing⟩ }

/-- The sender's request fails with STATUS 3 (R206). -/
def refuseWindow (c e : Nat) (s : State) : State := accessDone c e (failChunk c e 3) s

/-- WINDOW_CHUNK_ARRIVAL (R206). -/
def windowArrivalMove (s : State) : State :=
  match dueFlight s with
  | some ⟨id, _, false, .window member job key off bs shd c e⟩ =>
    let m := memberModule s job member
    if receiversHeld s m job ∧ !((windowCluster s m job key).any fun x => x.1 == c) then s else
    match windowCluster s m job key with
    | none => if windowSaved s m job key then s else refuseWindow c e (landFlight s)
    | some (t, b) =>
      match (getCluster s t).bindings[b]? with
      | none => refuseWindow c e (landFlight s)
      | some x =>
        if x.size < off + bs.length ∨ (shd ∧ !x.pair) then refuseWindow c e (landFlight s)
        else
          let (ord, s) := newId s
          let s := { s with flights := s.flights.map fun f => if f.id = id then { f with held := true } else f }
          dueWindow t (windowEngine (t == c) e b) id ord (x.base + off) shd bs s
  | _ => s

@[inherit_doc windowArrivalMove] def execWindowChunkArrival (s : State) : Host.Outcome State Fault Refusal := .next (windowArrivalMove s)

/-! ### Contributions on their way (R237, R311, R312, R321, R322) -/

/-- The HBM stack whose base die folds into the row of an FRECV, as a walk finds it; 12 where none does. -/
def foldStack (s : State) (c g : Nat) (o : GOp) : Nat :=
  let cx := (getCluster s c).ctx
  match (slotAt s c g).map fun x => opSide x cx.member o.db o.doff, spaceOf s cx.job cx.member with
  | some (.virt _ va), some (m, root) => match walkFrom (getMod s m) 4 root va with | .leaf _ pa .. => pa / 2 ^ 36 | _ => 12
  | _, _ => 12

/-- A contribution to an FRECV is early: its operation has not fired or its row is not there yet, or in rank order another live member's turn comes first
(R237, R321). -/
def earlyFor (s : State) (c : Nat) (x : GSlot) (k : Contribution) (o : GOp) : Bool :=
  x.stateOf k.op != .fired || (recvReq s c k.slot k.op).isNone ||
  (o.ord != 0 && ((List.range o.nc).find? fun n => !(x.appliedTo k.op).contains (o.fm + n) && memberLives s (getCluster s c).ctx.job (o.fm + n)) != some (k.member - o.fm))

/-- The stack in whose fold buffer a contribution to a slot's present run waits, and whether it is early. -/
def bufferOf (s : State) (m : Nat) (k : Contribution) : Option (Nat × Bool) :=
  match runVs s m k.job k.lcl k.slot k.run with
  | (some c, .eq) =>
    match slotAt s c k.slot, recvOf s c k with
    | some x, some o => some (foldStack s c k.slot o, earlyFor s c x k o)
    | _, _ => none
  | _ => none

/-- The lengths of the contributions in the fold buffer of a stack's base die, whole or in part: the early ones, or those whose turn it is. -/
def bufferedIn (s : State) (m stack : Nat) (early : Bool) : List Nat :=
  ((((getMod s m).contribs.map fun k => (k, k.bs.length)) ++ (getMod s m).partials.map fun p => (p.k, p.len)).filter fun x =>
    bufferOf s m x.1 == some (stack, early)).map Prod.snd

/-- Bytes of a fold buffer in use, less those in the slot that is kept for a contribution whose turn it is: the longest of these (R237, log 80). -/
def foldLoad (s : State) (m stack : Nat) : Nat :=
  let turns := bufferedIn s m stack false
  (bufferedIn s m stack true).sum + (turns.sum - turns.foldl max 0)

/-- The first chunk of a contribution is held: the pending table or the fold buffer of 8 MiB is full, but for the slot that is kept for a contribution
whose turn it is (R237, R311, R322; log 80: the slot is the 1 MiB of the longest contribution). -/
def foldHeld (s : State) (m : Nat) (k : Contribution) (len : Nat) : Bool :=
  if (getMod s m).partials.any fun p => p.k == k then false else
  match runVs s m k.job k.lcl k.slot k.run with
  | (_, .lt) => false
  | (some _, .eq) => match bufferOf s m k with
    | some (d, early) => (early || !(bufferedIn s m d false).isEmpty) && decide (7 * 2 ^ 20 < foldLoad s m d + len)
    | none => false
  | _ => pendingFull s m

/-- The bytes of a contribution's pieces, in the order of their offsets. -/
def Partial.bytes (p : Partial) : List Nat := (sortBy (fun a b => decide (a.1 ≤ b.1)) p.parts).flatMap Prod.snd

/-- A piece of a contribution arrives; the contribution arrives with its last byte (R321). -/
def addPart (m : Nat) (k : Contribution) (len off : Nat) (bs : List Nat) (s : State) : State :=
  let old := ((getMod s m).partials.find? fun p => p.k == k).getD ⟨k, len, []⟩
  let p : Partial := { old with parts := old.parts ++ [(off, bs)] }
  let rest := (getMod s m).partials.filter fun p => p.k != k
  if p.bytes.length < len then updMod s m fun md => { md with partials := rest ++ [p] }
  else contributionArrives m { k with bs := p.bytes } (updMod s m fun md => { md with partials := rest })

/-- A module is dead for a job (R259). -/
def deadHere (s : State) (job m : Nat) : Bool := (getJob s job).any fun j => j.dead.contains (memberOf j m)

/-- FOLD_CONTRIBUTION_ARRIVAL (R321, R322, R325, R329): a chunk of a contribution, or a contribution without bytes; the halt wave and a full buffer
hold it, and toward a dead member it has no effect. -/
def foldArrivalMove (s : State) : State :=
  match dueFlight s with
  | some ⟨_, _, false, .fold m k len off bs c e⟩ =>
    if receiversHeld s m k.job then s
    else if deadHere s k.job m then accessDone c e (fun h s => finishChunk c e { h with off := h.len } s) (landFlight s)
    else if foldHeld s m k len then s
    else addPart m k len off bs (accessDone c e (fun h s => finishChunk c e { h with off := h.len } s) (landFlight s))
  | some ⟨_, _, false, .contribution m k⟩ =>
    if receiversHeld s m k.job || foldHeld s m k 0 then s else contributionArrives m k (landFlight s)
  | _ => s

@[inherit_doc foldArrivalMove] def execFoldContributionArrival (s : State) : Host.Outcome State Fault Refusal := .next (foldArrivalMove s)

/-! ### The end of a request (R200, R204, R211, R228) -/

/-- The pins of a request are released (R228). -/
def unpin (q : QReq) (s : State) : State :=
  q.pins.foldl (fun s g => updFrame g.1 g.2 (fun f => { f with pin := f.pin - 1 }) s) s

/-- A request leaves its queue. -/
def leaveQueue (c e : Nat) (q : QReq) (s : State) : State := unpin q (updCluster s c fun x => x.dequeue e q.id)

/-- A failed request is counted (R398, R400). -/
def countFailure (c : Nat) (q : QReq) (s : State) : State :=
  if q.status = 0 then s
  else countErr (countCluster s c 0x09 1) (c / 96) (getCluster s c).part (5 + q.status) 1

/-- A request without a completion word has failed (R204): a copy-error trap, or, once its core has retired, the failure of the launch. -/
def copyError (c : Nat) (q : QReq) (s : State) : State :=
  match (getCore s q.r.core).seq with
  | .off | .ending | .retired => updCluster s c fun x => { x with failedCopy := true }
  | _ => updCore s q.r.core fun k => { k with async := k.async ++ [(0x21, q.r.tag)] }

/-- A graph operation's request has done its work (R319, R320); toward a member that is dead it completes without effect (R321). -/
def finishGraph (c e g i : Nat) (q : QReq) (s : State) : State :=
  let past := q.status != 0 && q.active == 0
  match slotAt s c g with
  | none => leaveQueue c e q s
  | some x =>
    match x.op i with
    | none => leaveQueue c e q s
    | some o =>
      if towardDead s c o ∧ (past ∨ q.total ≤ q.done) then
        completeOp c g i 0 (updGraph (leaveQueue c e q s) c g fun y => { y with dead := true })
      else if past then completeOp c g i q.status (leaveQueue c e q (countFailure c q s))
      else if q.done < q.total ∧ o.kind ≠ 2 then s
      else if o.kind = 0 then completeOp c g i 0 (leaveQueue c e q s)
      else if o.kind = 2 then (if x.stateOf i == .completed || !x.active then leaveQueue c e q s else foldNow c g i s)
      else leaveQueue c e q s

/-- One request of an engine's queue, if it is at its end. -/
def finishReq (c e : Nat) (q : QReq) (s : State) : State :=
  match q.r.kind with
  | .graph g i => finishGraph c e g i q s
  | _ =>
    let past := q.status != 0 && q.active == 0
    let whole := q.status == 0 && decide (q.total ≤ q.done)
    if !past && !whole then s
    else if whole && q.r.pub && !q.published then beginPublish c e q s
    else match q.r.cw with
      | some (a, v) =>
        if !q.cwSent then
          dueWrite c e 6 q.id a (leBytes 8 (v + q.status * 2 ^ 32)) (.finish e q.id) (updReq c e q.id (fun q => { q with cwSent := true }) s)
        else if q.cwDone then leaveQueue c e q (countFailure c q s)
        else s
      | none =>
        let s := leaveQueue c e q (countFailure c q s)
        if past then copyError c q s else s

/-- REQUEST_FINISH (R200, R204): the requests of an engine's queue that are at their end. -/
def requestFinishMove (c e : Nat) (s : State) : State :=
  if enginesHeld s c then s else
  (queueOf (getCluster s c) e).foldl (fun s q => match findReq s c e q.id with | some q => finishReq c e q s | none => s) s

@[inherit_doc requestFinishMove] def execRequestFinish (c e : Nat) (s : State) : Host.Outcome State Fault Refusal :=
  .next (requestFinishMove c e s)

/-! ### Publishes (R211) -/

/-- A request counts in the fill count of a publish until its last payload byte has been performed, or it has finished. -/
def fills (s : State) (c : Nat) (p : PubOp) (from_ : Nat) (q : QReq) : Bool :=
  q.r.shd && decide (q.id < p.before) && p.req != some q.id && decide (q.done < q.total) &&
  publishTarget s from_ q == some (c, p.b)

/-- The fill count of a publish is 0. -/
def filled (s : State) (c : Nat) (p : PubOp) : Bool :=
  !s.clusters.any fun x => (x.2.queues.flatMap fun y => y.2).any (fills s c p x.1)

/-- A publish takes effect: its request, or the drain of the kitty that waits for it, goes on. -/
def publish (c : Nat) (p : PubOp) (s : State) : State :=
  let s := updCluster s c fun x =>
    { x with pubs := x.pubs.erase p, swapped := Tbl.set x.swapped p.b (!Tbl.get false x.swapped p.b) }
  match p.req with
  | some id =>
    { s with clusters := s.clusters.map fun x => (x.1, { x.2 with queues := x.2.queues.map fun y =>
        (y.1, y.2.map fun q => if q.id = id then { q with published := true } else q) }) }
  | none =>
    if p.kitty then updCore s p.core fun k => { k with kitty := k.kitty.drop 1, ra := k.ra.map fun r => { r with old := r.old - 1 } } else s

/-- The sequencer of a core that waits in `pub` goes on once the fill counts of its publishes of the binding are 0 (R211). -/
def wakePub (c b k : Nat) (s : State) : State :=
  let mine := (getCluster s c).pubs.filter fun p => p.b == b && p.core == k && p.req.isNone && !p.kitty
  if (getCore s k).wait = .pub b ∧ mine.all (filled s c) then
    updCore s k fun x => { x with wait := .none, nextIssue := max x.nextIssue (s.cycle + 1) }
  else s

/-- PUBLISH_SWAP (R211): between this cycle and the next; the fill counts of the publishes that wait are tested. -/
def publishMove (c b : Nat) (s : State) : State :=
  let s := (List.range 8).foldl (fun s r => wakePub c b (8 * c + r) s) s
  let due := (getCluster s c).pubs.filter fun p => p.b == b && decide (p.from_ ≤ s.cycle) && filled s c p
  due.foldl (fun s p => publish c p s) s

@[inherit_doc publishMove] def execPublishSwap (c b : Nat) (s : State) : Host.Outcome State Fault Refusal := .next (publishMove c b s)

end Sys2Proof.Machine
end

