-- ==== Sys2Proof/Machine/Order.lean ====
section
/-! DEFINITION. Sys2Proof/Machine/Order.lean: the attempts of `acq` (R213), the background of `rel` (R214) and the end of a `fence` (R216). -/

namespace Sys2Proof.Machine

/-! ### Sync words (R213) -/

/-- OWNER of a sync word, and the word with another OWNER. -/
def ownerOf (w : Nat) : Nat := fld w 50 32
@[inherit_doc ownerOf] def setOwner (w o : Nat) : Nat := w % 2 ^ 32 + o * 2 ^ 32 + w / 2 ^ 51 * 2 ^ 51

/-- The number by which a core claims a word: 768 × member + core + 1. -/
def claimOf (s : State) (k : Nat) : Nat := 768 * (getCluster s (clusterOf k)).ctx.member + coreNo k + 1

/-- The sync word after a release. -/
def released (excl : Bool) (w : Nat) : Nat :=
  let w := w / 2 ^ 32 * 2 ^ 32 + (w % 2 ^ 32 + 1) % 2 ^ 32
  if excl then setOwner w 0 else w

/-- The claim has succeeded: the binding is held, and the cluster's cached bytes of the region are discarded (R212, R213). -/
def claimed (k b : Nat) (s : State) : State :=
  dropCached (clusterOf k) b (wakeAt k (s.cycle + 1) (updCore s k fun c => { c with heldBind := b :: c.heldBind }))

/-- The next attempt of an `acq`, if one is set. -/
def setAttempt (k b : Nat) (t : Option Nat) (s : State) : State := updCore s k fun c => { c with wait := .acq b t }

/-- An attempt on a virtual sync word is made again within 256 cycles (R213). -/
def retryAcq (k b : Nat) (s : State) : State :=
  let (d, s) := openValue 1 256 s
  setAttempt k b (some (s.cycle + d)) s

/-- ACQ_ATTEMPT (R213): on a scratchpad word at the core's place of the same-cycle order, on a virtual word at its memory. -/
def acqMove (k : Nat) (s : State) : State :=
  if seqFrozen s k then s else
  match (getCore s k).wait with
  | .acq b (some t) =>
    if s.cycle < t then s else
    match (getCluster s (clusterOf k)).bindings[b]? with
    | none => s
    | some x =>
      if x.virt then
        match syncPlace k x.sync s with
        | (s, none) => retryAcq k b s
        | (s, some (m, y)) =>
          let pa := y.place x.sync
          let w := leNat (physRead (getMod s m) pa 8)
          if (swapOver (getMod s m) pa).isSome || ownerOf w != 0 then retryAcq k b s
          else claimed k b (physWrite m pa (leBytes 8 (setOwner w (claimOf s k))) (markDirty (clusterOf k) (homeEngine k) m y s))
      else
        let w := leNat (readScratch (getCluster s (clusterOf k)) x.sync 8)
        if ownerOf w ≠ 0 then setAttempt k b none s
        else claimed k b (scratchWrite (clusterOf k) false x.sync (leBytes 8 (setOwner w (claimOf s k))) s)
  | _ => s

@[inherit_doc acqMove] def execAcqAttempt (s : State) : Host.Outcome State Fault Refusal := .next (acqMove s.place s)

/-! ### Releases (R214) -/

/-- A store of the core from before a cycle has not been performed. -/
def storesBefore (c : Core) (t : Nat) : Bool :=
  (c.stores.any fun p => decide (p.seq < t)) ||
  (c.pend.any fun p => match p.eff with | .bytes _ _ (some u) => decide (u < t) | .released _ _ u _ => decide (u < t) | _ => false) ||
  c.kitty.any fun e => match e with | .store u .. => decide (u < t) | _ => false

/-- The binding of the cluster itself that a request's window destination names (R206). -/
def ownWindow (s : State) (c : Nat) (r : Req) : Option Binding :=
  match r.dst with
  | .window member key _ =>
    let job := (getCluster s c).ctx.job
    match windowCluster s (memberModule s job member) job key with
    | some (d, b) => if d = c then (getCluster s c).bindings[b]? else none
    | none => none
  | _ => none

/-- A request's payload, or the bytes at SADDR of an atomic, may touch the region of a binding. -/
def writesRegion (s : State) (c : Nat) (x : Binding) (r : Req) : Bool :=
  let dims := r.cnt.zip r.dstr
  let near := fun (a : Nat) => decide (lowByte a dims < x.base + x.size) && decide ((x.base : Int) ≤ highByte a r.len dims)
  let payload := match r.dst with
    | .local_ a => !x.virt && near a
    | .virt m a => x.virt && m == (getCluster s c).ctx.member && near a
    | .window _ _ o => !x.virt && (ownWindow s c r).any fun y => near (y.base + o)
  let old := match r.kind, r.src with | .atomic _ _ n _ _, .local_ a => !x.virt && meets a n x.base x.size | _, _ => false
  payload || old

/-- Writes to the region of a binding by requests of a core from before a cycle are still to be performed, completion words with them. -/
def requestsBefore (s : State) (k t : Nat) (x : Binding) : Bool :=
  (ownRequests (getCluster s (clusterOf k))).any fun q =>
    let graph := match q.r.kind with | .graph .. => true | _ => false
    let word := !x.virt && q.r.cw.any fun w => meets w.1 8 x.base x.size
    q.r.core == k && decide (q.r.issued < t) && !graph &&
      (word || (decide (q.done < q.total) && (q.status == 0 || decide (0 < q.active)) && writesRegion s (clusterOf k) x q.r))

/-- The sync word is updated, and the `rel` is complete. -/
def completeRel (k : Nat) (x : Binding) (s : State) : State :=
  let c := clusterOf k
  let done := fun (s : State) => updCore s k fun y => { y with rels := y.rels.drop 1 }
  if x.virt then
    match syncPlace k x.sync s with
    | (s, none) => s
    | (s, some (m, y)) =>
      let pa := y.place x.sync
      if (swapOver (getMod s m) pa).isSome then s
      else
        let s := markDirty c (homeEngine k) m y s
        done (physWrite m pa (leBytes 8 (released x.excl (leNat (physRead (getMod s m) pa 8)))) s)
  else done (scratchWrite c false x.sync (leBytes 8 (released x.excl (leNat (readScratch (getCluster s c) x.sync 8)))) s)

/-- The cycle from which the oldest `rel` may complete. -/
def setRelDue (k t : Nat) (s : State) : State :=
  updCore s k fun y => { y with rels := (y.rels.take 1).map (fun r => { r with due := some t }) ++ y.rels.drop 1 }

/-- REL_COMPLETE (R180, R214): the oldest `rel`, once its writes have been performed, from a cycle on that the device chooses then (log 9), in a
cycle in which the core's E slot makes no other access. -/
def relMove (k : Nat) (s : State) : State :=
  let c := getCore s k
  match c.rels with
  | [] => s
  | r :: _ =>
    match (getCluster s (clusterOf k)).bindings[r.b]? with
    | none => updCore s k fun y => { y with rels := y.rels.drop 1 }
    | some x =>
      let attempt := !x.virt && !seqFrozen s k && (match c.wait with
        | .acq b (some t) => decide (t ≤ s.cycle) && !((getCluster s (clusterOf k)).bindings[b]?).any fun y => y.virt
        | _ => false)
      if attempt || decide (s.cycle ≤ r.issued) || storesBefore c r.issued || requestsBefore s k r.issued x then s
      else match r.due with
        | some t => if t ≤ s.cycle then completeRel k x s else s
        | none =>
          let (d, s) := openAny s
          if d = 0 then completeRel k x s else setRelDue k (s.cycle + d) s

@[inherit_doc relMove] def execRelComplete (s : State) : Host.Outcome State Fault Refusal :=
  .next (if (getCore s s.place).stepT.isSome then s else relMove s.place s)

/-! ### Fences (R216) -/

/-- Writes of a request are still to be performed, its completion word with them. -/
def writesLeft (q : QReq) : Bool :=
  (if q.status == 0 then decide (q.done < q.total) else decide (0 < q.active)) || (q.r.cw.isSome && !q.cwDone)

/-- A request from before a fence that its scope covers, with writes that are still to be performed. -/
def fenceWaits (s : State) (scope k t : Nat) (q : QReq) : Bool :=
  let atomic := match q.r.kind with | .atomic .. => true | _ => false
  let localDst := (match q.r.dst with | .local_ _ => true | _ => false) || (ownWindow s (clusterOf k) q.r).isSome
  let graph := match q.r.kind with | .graph .. => true | _ => false
  q.r.core == k && !graph && decide (q.r.issued < t) && writesLeft q && (scope == 2 || (scope == 1 && (atomic || localDst || q.r.cw.isSome)))

/-- Everything that a fence of a cycle covers has been performed. -/
def fenceDone (s : State) (k scope t : Nat) : Bool :=
  let c := getCore s k
  !storesBefore c t && streamsDrained c &&
  !((ownRequests (getCluster s (clusterOf k))).any (fenceWaits s scope k t)) &&
  (scope != 2 || c.rels.all fun r => decide (t ≤ r.issued))

/-- FENCE_COMPLETE (R216): the next bundle issues from this cycle on. -/
def fenceMove (k : Nat) (s : State) : State :=
  if seqFrozen s k then s else
  match (getCore s k).wait with
  | .fence scope t => if decide (t < s.cycle) && fenceDone s k scope t then updCore s k (fun c => { c with wait := .none }) else s
  | _ => s

@[inherit_doc fenceMove] def execFenceComplete (s : State) : Host.Outcome State Fault Refusal := .next (fenceMove s.place s)

end Sys2Proof.Machine
end

