-- ==== Sys2Proof/Machine/Pages.lean ====
section
/-! DEFINITION. Sys2Proof/Machine/Pages.lean: operation messages and their answers (R354, R383), shoot-downs (R227), page-ready (R231) and the swap
engines (R232 to R234). -/

namespace Sys2Proof.Machine

/-! ### Operation messages (R354, R383, R391) -/

/-- An event that comes back in a later cycle. -/
def again (n at_ : Nat) (i : Instr) (s : State) : State := { s with inputs := s.inputs ++ [(s.cycle + n, ⟨at_, i⟩)] }

/-- A message to the host die. -/
def tellHost (x : HostMsg) (s : State) : State := { s with hostMsgs := s.hostMsgs ++ [x] }

/-- The answer to an operation (R383): status 0, done. -/
def answerDone (m : Nat) (s : State) : State := tellHost (.answer m 0 []) s

/-- A refused operation: the nonzero code is stated nowhere, it is open (log 9). -/
def refuseOp (m : Nat) (s : State) : State :=
  let (v, s) := openAny s
  tellHost (.answer m (v + 1) []) s

/-- A caller may act on what a partition owns (R383): that partition, or the hypervisor. -/
def mayCall (caller part : Nat) : Bool := caller == 0 || caller == part

/-- The partition that holds a job on a module: that of its creation there. -/
def partOfJob (s : State) (m job : Nat) : Nat :=
  match getJob s job with
  | some j => Tbl.get 0 j.part m
  | none => 0

/-- The job exists on the module (R221). -/
def jobOn (s : State) (m job : Nat) : Bool :=
  match getJob s job with
  | some j => (Tbl.get none j.roots (memberOf j m)).isSome && j.members.contains m
  | none => false

/-- A message waits behind those that the module holds. -/
def holdMessage (m : Nat) (i : Instr) (s : State) : State := updMod s m fun md => { md with fwHeld := md.fwHeld ++ [⟨s.place, i⟩] }

/-- An operation message that arrives during a takeover of the firmware is held (R391): it is handled once fetching resumes. A module that is not in
service handles none (R402, R403). -/
def unlessPaused (m : Nat) (i : Instr) (s : State) (k : State → State) : State :=
  if !(getMod s m).up || (getMod s m).standby then s
  else if timeOf s m < (getMod s m).fwPause then holdMessage m i s else k s

/-- Any other message is handled in its turn (R382): behind an operation that is held it waits too. A module that is not up handles none (R402). -/
def afterHeld (m : Nat) (i : Instr) (s : State) (k : State → State) : State :=
  if !(getMod s m).up then s else if (getMod s m).fwHeld ≠ [] then holdMessage m i s else k s

/-! ### Shoot-downs (R227) -/

/-- A page meets a range of a member's space of a job. -/
def PageMap.within (p : PageMap) (job member va n : Nat) : Bool := p.job == job && p.member == member && meets p.va p.size va n
@[inherit_doc PageMap.within] def Tlb.within (p : Tlb) (job member va n : Nat) : Bool := p.job == job && p.member == member && meets p.va p.size va n

/-- Every engine drops its entries for the pages of a range (R227). -/
def dropTlbs (job member va n : Nat) (s : State) : State :=
  { s with clusters := s.clusters.map fun x =>
      (x.1, { x.2 with tlbs := x.2.tlbs.map fun y => (y.1, y.2.filter fun t => !t.within job member va n) }) }

/-- Chunks in hand and requests whose translations a shoot-down has dropped, by their numbers. -/
def translatedBy (s : State) (job member va n : Nat) : List Nat :=
  s.clusters.flatMap fun x =>
    (x.2.chunks.filterMap fun y => match y.2 with
      | some h => if h.maps.any fun p => p.within job member va n then some h.id else none
      | none => none) ++
    (x.2.queues.flatMap fun y => y.2).filterMap fun q => if q.maps.any fun p => p.within job member va n then some q.id else none

/-- The access of an engine's chunk stands in a park (R234), and it is the chunk's last to a memory: an atomic, a write that ends the chunk, or a
read that ends it where nothing is written through a page. -/
def isParked (s : State) (c e : Nat) (h : Chunk) : Bool :=
  s.flights.any fun f => f.held && (match f.kind with
    | .access _ _ (.write bs) c' e' => c' == c && e' == e && h.off + bs.length == h.len
    | .access _ _ (.read n) c' e' => c' == c && e' == e && h.off + (h.buf.getD []).length + n == h.len && !h.maps.any fun p => p.write
    | .atomic _ _ c' e' _ => c' == c && e' == e
    | _ => false)

/-- Accesses of a numbered chunk or request are still to be delivered (R227). -/
def undelivered (s : State) (n : Nat) : Bool :=
  s.clusters.any fun x =>
    (x.2.chunks.any fun y => match y.2 with | some h => h.id == n && !isParked s x.1 y.1 h | none => false) ||
    (x.2.queues.flatMap fun y => y.2).any fun q =>
      q.id == n && q.status == 0 && (match q.r.kind with | .gemv .. => decide (q.next < q.total) | _ => true)

/-- SHOOTDOWN (R227): the entries go at once; its completion is reported when every access translated through them has been delivered. -/
def shootdownMove (m caller job member va bytes : Nat) (s : State) : State :=
  let me : Instr := .shootdown m caller job member va bytes
  unlessPaused m me s fun s =>
  if !jobOn s m job || !mayCall caller (partOfJob s m job) then refuseOp m s else
  let key := [job, member, va, bytes]
  match (getMod s m).shoots.find? fun x => x.1 == key with
  | some x =>
    if x.2.any (undelivered s) then again 1 s.place me s
    else answerDone m (updMod s m fun md => { md with shoots := md.shoots.erase x })
  | none =>
    let ids := translatedBy s job member va bytes
    let s := dropTlbs job member va bytes s
    if ids.any (undelivered s) then again 1 s.place me (updMod s m fun md => { md with shoots := md.shoots ++ [(key, ids)] })
    else answerDone m s

@[inherit_doc shootdownMove] def execShootdown (m caller job member va bytes : Nat) (s : State) : Host.Outcome State Fault Refusal :=
  .next (shootdownMove m caller job member va bytes s)

/-! ### Page-ready (R231) -/

/-- Every paused request of a task is ready to resume (R231). -/
def allReady (s : State) (c uid : Nat) : Bool :=
  ((getCluster s c).queues.flatMap fun y => y.2).all fun q => q.uid != uid || (match q.paused with | some f => f.ready | none => true)

/-- Some request of a task is paused. -/
def anyPaused (s : State) (c uid : Nat) : Bool :=
  ((getCluster s c).queues.flatMap fun y => y.2).any fun q => q.uid == uid && q.paused.isSome

/-- The retried walk of one paused request (R231): a page that is still absent gives a new record; otherwise the request is ready, or goes on
where its task's save has not begun. Where no path leads to the space nothing is read: the request goes on to its STATUS 2 (R221). -/
def retryPaused (c e : Nat) (q : QReq) (f : PFault) (s : State) : State :=
  let (cx, saved) := taskOf s c q
  let w : Walk := match spaceOf s cx.job f.member with
    | some (m, root) => if noPath s (c / 96) m then .bad else walkFrom (getMod s m) 4 root f.va
    | none => .bad
  match w with
  | .absent => sendFault (c / 96) (getCluster s c).part [cx.job, f.member, b2n f.write, f.va / 65536 * 65536, q.r.tag, coreNo q.r.core, timeOf s (c / 96)]
      (updReq c e q.id (fun q => { q with paused := some { f with ready := false } }) s)
  | _ =>
    let s := match w with
      | .leaf pte pa size rd wr d =>
        let m := ((spaceOf s cx.job f.member).map Prod.fst).getD 0
        useTlb c e { job := cx.job, member := f.member, va := f.va / size * size, size := size, pa := pa, rd := rd, wr := wr, dirty := d, pte := pte }
          (orEntry m pte 0x10 s)
      | _ => s
    updReq c e q.id (fun q => { q with paused := if saved then some { f with ready := true } else none }) s

/-- A task whose last page has come is restorable from now on, or its save is cancelled (R231, R345). -/
def notePagesReady (c : Nat) (s : State) : State :=
  let uid := (getCluster s c).ctx.uid
  let s := if (getCluster s c).wholeSave && !anyPaused s c uid && (getCluster s c).task != .saving then
      updCluster s c fun x => { x with wholeSave := false } else s
  let now := timeOf s (c / 96)
  let note := fun (v : Saved) => if v.cluster = c ∧ allReady s c v.uid ∧ v.since = 2 ^ 64 then { v with since := now } else v
  updMod s (c / 96) fun md => { md with saves := md.saves.map note }

/-- Every paused request whose faulting page lies in the range retries (R231). -/
def retryRange (job member va bytes : Nat) (s : State) : State :=
  (s.clusters.map Prod.fst).foldl (fun s c =>
    let s := (List.range 4).foldl (fun s e =>
      (queueOf (getCluster s c) e).foldl (fun s q =>
        match q.paused with
        | some f =>
          if !f.ready && (taskOf s c q).1.job == job && f.member == member && meets (f.va / 65536 * 65536) 65536 va bytes
          then retryPaused c e q f s else s
        | none => s) s) s
    notePagesReady c s) s

/-- PAGEREADY (R231). -/
def pageReadyMove (m caller job member va bytes : Nat) (s : State) : State :=
  unlessPaused m (.pageReady m caller job member va bytes) s fun s =>
  if !jobOn s m job || !mayCall caller (partOfJob s m job) then refuseOp m s
  else answerDone m (retryRange job member va bytes s)

@[inherit_doc pageReadyMove] def execPageReady (m caller job member va bytes : Nat) (s : State) : Host.Outcome State Fault Refusal :=
  .next (pageReadyMove m caller job member va bytes s)

/-! ### The swap engines (R232 to R234) -/

/-- The fields of a swap command (R232). -/
structure SwapCmd where
  job : Nat
  size : Nat
  fa : Nat
  fb : Nat
  ptea : Nat
  pteb : Nat
  vaa : Nat
  vab : Nat
  deriving DecidableEq, Repr

/-- The command of a record's words. -/
def swapCmdOf (ws : List Nat) : SwapCmd :=
  let w := fun i => ws.getD i 0
  { job := fld (w 0) 15 0, size := if bit (w 0) 16 then 2097152 else 65536, fa := pairWord w 2, fb := pairWord w 4,
    ptea := pairWord w 6, pteb := pairWord w 8, vaa := pairWord w 10, vab := pairWord w 12 }

/-- A record is invalid (R232): a reserved bit, a frame or a page not aligned, an address without a target, a job that the module does not hold. -/
def swapInvalid (s : State) (m : Nat) (ws : List Nat) : Bool :=
  let w := fun i => ws.getD i 0
  let k := swapCmdOf ws
  let frame := fun a => a % k.size == 0 && hasTarget a k.size
  let entry := fun a => a % 8 == 0 && hasTarget a 8
  fld (w 0) 31 17 != 0 || w 1 != 0 || w 14 != 0 || w 15 != 0 || !frame k.fa || !frame k.fb || !entry k.ptea || !entry k.pteb ||
  k.vaa % k.size != 0 || k.vab % k.size != 0 || decide (2 ^ 57 ≤ k.vaa) || decide (2 ^ 57 ≤ k.vab) || !jobOn s m k.job

/-- The granules of a frame; a frame in host memory has none (R228). -/
def granulesOf (k : SwapCmd) (f : Nat) : List Nat := if isHost f then [] else List.range' (f / 65536) (k.size / 65536)

/-- Every granule that the command names. -/
def SwapCmd.granules (k : SwapCmd) : List Nat := granulesOf k k.fa ++ granulesOf k k.fb

/-- The frame-table entry of a granule. -/
def frameAt (s : State) (m g : Nat) : Frame := Tbl.get ⟨0, 0, false⟩ (getMod s m).frames g

/-- The swap bit of the granules of a command set or cleared (R233). -/
def setSwap (m : Nat) (k : SwapCmd) (b : Bool) (s : State) : State :=
  k.granules.foldl (fun s g => updFrame m g (fun f => { f with swap := b }) s) s

/-- Where a physical address lies after the exchange. -/
def SwapCmd.moved (k : SwapCmd) (pa : Nat) : Nat :=
  if meets pa 1 k.fa k.size then k.fb + (pa - k.fa) else if meets pa 1 k.fb k.size then k.fa + (pa - k.fb) else pa

/-- The bytes of the two frames are exchanged; a marked line of HBM stays marked at its new place (R394). -/
def exchange (m : Nat) (k : SwapCmd) (s : State) : State :=
  let md := getMod s m
  let a := physRead md k.fa k.size
  let b := physRead md k.fb k.size
  let marks := md.marks.map fun l => k.moved (64 * l)
  let s := physWrite m k.fb a (physWrite m k.fa b (countHbmRead [(m, k.fa, k.size), (m, k.fb, k.size)] s))
  updMod s m fun md => { md with marks := (marks.filter fun a => !isHost a).map fun a => a / 64 }

/-- One leaf entry takes another frame, its other fields kept (R233). -/
def rehome (m pte frame : Nat) (s : State) : State :=
  let e := leNat (physRead (getMod s m) pte 8)
  physWrite m pte (leBytes 8 (e % 256 + frame / 256 * 256 + e / 2 ^ 52 * 2 ^ 52)) s

/-- Translations and accesses on their way follow their pages to the new frames (R234). -/
def redirect (m : Nat) (k : SwapCmd) (s : State) : State :=
  let page := fun (p : PageMap) => if p.m = m then { p with pa := k.moved p.pa } else p
  let pin := fun (g : Nat × Nat) => if g.1 = m then (m, k.moved (g.2 * 65536) / 65536) else g
  let onPins := fun (gs : List (Nat × Nat)) => (gs.map pin).filter fun g => decide (g.2 < 2 ^ 35)
  let window := fun (w : Window) => { w with maps := w.maps.map page }
  let s := updMod s m fun md => { md with windows := md.windows.map fun x => (x.1, x.2.map window) }
  { s with
    clusters := s.clusters.map fun x => (x.1, { x.2 with
      chunks := x.2.chunks.map fun y => (y.1, y.2.map fun h => { h with maps := h.maps.map page })
      queues := x.2.queues.map fun y => (y.1, y.2.map fun q => { q with maps := q.maps.map page, pins := onPins q.pins }) })
    flights := s.flights.map fun f => match f.kind with
      | .access m' pa op c e => if m' = m then { f with kind := .access m' (k.moved pa) op c e } else f
      | .atomic m' pa c e r => if m' = m then { f with kind := .atomic m' (k.moved pa) c e r } else f
      | _ => f }

/-- The pins go with their pages: PIN counts the requests that hold the page in the frame (R228). -/
def movePins (m : Nat) (k : SwapCmd) (s : State) : State :=
  let old := fun f => (frameAt s m (k.moved (f * 65536) / 65536)).pin
  k.granules.foldl (fun t g => updFrame m g (fun f => { f with pin := old g }) t) s

/-- One parked access is performed at its replay (R234). -/
def replayOne (id : Nat) (s : State) : State :=
  match s.flights.find? fun f => f.id == id with
  | some ⟨_, _, _, .access m pa op c e⟩ => performAccess m pa op c e { s with flights := s.flights.filter fun f => f.id != id }
  | some ⟨_, _, _, .atomic m pa c e r⟩ => performAtomic m pa c e r { s with flights := s.flights.filter fun f => f.id != id }
  | _ => s

/-- The end of a swap (R233): the exchange, the entries, the shoot-down, the replay of the park, the swap bits. -/
def finishSwap (m e : Nat) (w : Swap) (s : State) : State :=
  let k := swapCmdOf w.words
  let member := match getJob s k.job with | some j => memberOf j m | none => 0
  let s := movePins m k (exchange m k s)
  let s := rehome m k.pteb k.fa (rehome m k.ptea k.fb s)
  let s := dropTlbs k.job member k.vab k.size (dropTlbs k.job member k.vaa k.size s)
  let s := redirect m k s
  let s := updMod s m fun md => { md with swaps := Tbl.set md.swaps e none, vacated := (md.vacated ++ k.granules).eraseDups }
  let s := w.park.foldl (fun s id => replayOne id s) s
  tellHost (.swapDone m 0) (setSwap m k false s)

/-- A swap engine that is free. -/
def freeSwap (md : Module) : Option Nat := (List.range 4).find? fun e => (Tbl.get none md.swaps e).isNone

/-- The place that names a swap engine when its command comes back. -/
def swapPlace (e : Nat) : Nat := 2 ^ 32 + e

/-- A running swap comes back (R233, R369): parking begins in the cycle after the swap bits are set; the exchange ends in an open later cycle,
not while the job is frozen. -/
def continueSwap (m caller e : Nat) (ws : List Nat) (w : Swap) (s : State) : State :=
  let me : Instr := .swapCommand m caller ws
  let sl := jobSlot s m (swapCmdOf ws).job
  if w.ends = 0 then
    let (d, s) := openAny s
    again (d + 1) (swapPlace e) me (updMod s m fun md => { md with swaps := Tbl.set md.swaps e (some { w with ends := s.cycle + d + 1 }) })
  else if sl.stopped ∧ sl.stage < 2 then again 1 (swapPlace e) me s
  else finishSwap m e w s

/-- Every base die whose frames a command names takes commands (R392). -/
def swapOpen (s : State) (m : Nat) (k : SwapCmd) : Bool := k.granules.all fun g => baseOpen s m (stackOf (g * 65536))

/-- A swap command (R232, R233): it waits while its engines are busy, or a base die of its frames is under update (log 110). -/
def swapMove (m caller : Nat) (ws : List Nat) (s : State) : State :=
  let me : Instr := .swapCommand m caller ws
  let running := if swapPlace 0 ≤ s.place then (Tbl.get none (getMod s m).swaps (s.place - swapPlace 0)).filter fun w => w.words == ws else none
  match running with
  | some w => continueSwap m caller (s.place - swapPlace 0) ws w s
  | none =>
    unlessPaused m me s fun s =>
    let k := swapCmdOf ws
    if jobOn s m k.job && !mayCall caller (partOfJob s m k.job) then refuseOp m s
    else if swapInvalid s m ws then tellHost (.swapDone m 3) s
    else match freeSwap (getMod s m) with
      | none => again 1 s.place me s
      | some e =>
        if !swapOpen s m k then again 1 s.place me s else
        if k.granules.any fun g => (frameAt s m g).pin != 0 then tellHost (.swapDone m 1) s
        else if k.granules.any fun g => (frameAt s m g).swap then tellHost (.swapDone m 2) s
        else again 1 (swapPlace e) me (updMod (setSwap m k true s) m fun md =>
            { md with swaps := Tbl.set md.swaps e (some { words := ws, ends := 0, park := [] }) })

@[inherit_doc swapMove] def execSwapCommand (m caller : Nat) (words : List Nat) (s : State) : Host.Outcome State Fault Refusal :=
  .next (swapMove m caller words s)

end Sys2Proof.Machine
end

