-- ==== Sys2Proof/Machine/Clock.lean ====
section
/-! DEFINITION. Sys2Proof/Machine/Clock.lean: the state of the discipline of module time (R266, R271 to R273), tick generators (R275 to R278) and token
windows (R279 to R287, R291). -/

namespace Sys2Proof.Machine

/-! ### The time unit (R266, R271, R272) -/

/-- The state with a function applied to a module's time unit. -/
def updTime (s : State) (m : Nat) (f : TimeUnit → TimeUnit) : State := updMod s m fun md => { md with time := f md.time }

/-- Fields of TMCFG (R271). -/
def TimeUnit.en (t : TimeUnit) : Bool := bit t.tmcfg 0
@[inherit_doc TimeUnit.en] def TimeUnit.gmcap (t : TimeUnit) : Bool := bit t.tmcfg 1
@[inherit_doc TimeUnit.en] def TimeUnit.hostp (t : TimeUnit) : Bool := bit t.tmcfg 2
@[inherit_doc TimeUnit.en] def TimeUnit.logsync (t : TimeUnit) : Nat := fld t.tmcfg 18 16
@[inherit_doc TimeUnit.en] def TimeUnit.holdmax (t : TimeUnit) : Nat := fld t.tmcfg 55 40

/-- What TMCFG holds after a write of v (R271): reserved bits read 0, a larger DOMAIN is written as 127. -/
def tmcfgValue (v : Nat) : Nat :=
  v % 8 + min 127 (fld v 15 8) * 2 ^ 8 + fld v 18 16 * 2 ^ 16 + fld v 39 24 * 2 ^ 24 + fld v 55 40 * 2 ^ 40

/-- A write of TMCFG: with EN = 0 the state is FREE (R271, R272); the unit listens from a write of EN = 1 on. A HOLDMAX of 0, below its range, is kept:
HOLDOVER then ends at once (DESIGN CHOICE, log 111). -/
def writeTmcfg (m v : Nat) (s : State) : State :=
  updTime s m fun t =>
    let u := { t with tmcfg := tmcfgValue v, heardAt := if t.en then t.heardAt else t.now / nsUnits }
    if u.en then u else { u with disc := .free, master := .none, mfrom := none, parent := none, records := [], heard := [], good := 0 }

/-- TMCFG_WRITE (R271, R272). -/
def execTmcfgWrite (m v : Nat) (s : State) : Host.Outcome State Fault Refusal := .next (writeTmcfg m v s)

/-- A Sync interval of 2^-n s in ns (R270). -/
def syncInterval (n : Nat) : Nat := 10 ^ 9 / 2 ^ n

/-- The run of consecutive Sync intervals after a Sync that comes some ns after the last that counted (R272): one that comes within half an interval
belongs to the same interval, one that comes after an interval without a Sync begins a new run (log 76). -/
def goodAfter (good gap log : Nat) : Nat :=
  let i := syncInterval log
  if 2 * gap < i then good else if 3 * i ≤ 2 * gap then 1 else good + 1

/-- The time unit goes LOCKED once its run is 16 intervals long, and not within 125,000,000 ns of the last time (R272, R273). -/
def TimeUnit.lock (t : TimeUnit) (now : Nat) : TimeUnit :=
  if 16 ≤ t.good ∧ t.master ≠ .other ∧ t.master ≠ .none ∧ t.lockedAt.all (fun x => decide (x + 125000000 ≤ now)) then
    { t with disc := .locked, lockedAt := some now }
  else t

/-- The time unit after a Sync of an interval 2^-log s with an offset magnitude in ns (R272). -/
def TimeUnit.onOffset (t : TimeUnit) (off log now : Nat) : TimeUnit :=
  let gap := now - t.lastGood
  let good := goodAfter t.good gap log
  let t := { t with offset := off, lastSync := now, lastGood := if 2 * gap < syncInterval log then t.lastGood else now }
  match t.disc with
  | .acquiring => if 12 < off then { t with good := 0 } else { t with good := good }.lock now
  | .locked => if 14 < off then { t with disc := .acquiring, good := 0 } else t
  | _ => t

/-! ### What is due at a module time -/

/-- κ(n): the module time at which slot n closes (R283). -/
def Window.closeAt (w : Window) (n : Int) : Int := (w.origin : Int) + (n + 1) * w.period + w.guard

/-- Closes of a window that are due at a module time. -/
def Window.dueCloses (w : Window) (now : Nat) : Nat :=
  if w.closeAt w.h ≤ now then (((now : Int) - w.closeAt w.h) / w.period).toNat + 1 else 0

/-- The module time of firing k (R276). -/
def Tick.at_ (t : Tick) (k : Nat) : Nat := t.phase + k * t.period

/-- Firings that are due at a module time and not delivered. -/
def Tick.dueFirings (t : Tick) (now : Nat) : Nat := if t.at_ t.k ≤ now then (now - t.at_ t.k) / t.period + 1 else 0

/-- The offset bound has reached 20 ns (R272): |offset| + 2 ns + 2 ns in 10^9 since the last Sync. -/
def TimeUnit.boundReached (t : TimeUnit) (now : Nat) : Bool :=
  t.disc == .locked && t.master != .self && decide (20 * 10 ^ 9 ≤ (t.offset + 2) * 10 ^ 9 + 2 * (now - t.lastSync))

/-- HOLDMAX seconds of HOLDOVER have passed (R272). -/
def TimeUnit.heldOut (t : TimeUnit) (now : Nat) : Bool := t.disc == .holdover && decide (t.heldSince + t.holdmax * 10 ^ 9 ≤ now)

/-- A Sync interval of a module that sends Syncs has passed (R270, R272). -/
def TimeUnit.intervalOver (t : TimeUnit) (now : Nat) : Bool :=
  t.en && t.master != .none && decide (t.lastSent + syncInterval t.logsync ≤ now)

/-- The Announce interval in ns: the standard's default, 2 s (log 76). -/
def announceInterval : Nat := 2 * 10 ^ 9

/-- The announce receipt timeout (R272): three Announce intervals with nothing received from the master, or, without one, by a module that may be
grandmaster. -/
def TimeUnit.silent (t : TimeUnit) (now : Nat) : Bool :=
  t.en && t.master != .self && (t.master != .none || t.gmcap) && decide (t.heardAt + 3 * announceInterval ≤ now)

/-- The events of the time unit, the windows and the generators of a module that are due now, in the order of their times (R266): a close
before a firing of the same instant (R277). A firing of a frozen job waits (R276). -/
def dueTimed (s : State) (m : Nat) : List Move :=
  let md := getMod s m
  let now := timeOf s m
  let closes : List (Int × Move) := md.windows.flatMap fun x => match x.2 with
    | some w => (List.range (w.dueCloses now)).map fun (i : Nat) => (w.closeAt (w.h + i), ⟨m, .slotClose m x.1⟩)
    | none => []
  let fires : List (Int × Move) := md.ticks.filterMap fun x =>
    if x.2.en ∧ 0 < x.2.dueFirings now ∧ !(jobSlot s m x.2.job).stopped then some ((x.2.at_ x.2.k : Int), ⟨m, .tickFiring m x.1⟩) else none
  let unit : List Move := (if md.time.boundReached now then [⟨m, .offsetBoundExpiry⟩] else []) ++
    (if md.time.heldOut now then [⟨m, .holdoverExpiry⟩] else []) ++ (if md.time.silent now then [⟨m, .announceReceiptTimeout⟩] else []) ++
    (if md.time.intervalOver now then [⟨m, .syncInterval⟩] else [])
  unit ++ (sortBy (fun (a b : Int × Move) => decide (a.1 ≤ b.1)) (closes ++ fires)).map Prod.snd

/-- A refresh window that is open lasts on for what is left of its 800 ns (R198). -/
def Die.lasting (ns : Nat) (x : Die) : Die := { x with refresh := x.refresh.map fun y => (y.1, y.2 + ns) }

/-- How long ago the last listed window of a bank group began, in ns of the die's copy of module time. -/
def refreshAge (s : State) (d g : Nat) : Nat :=
  let start := ((getMod s (d / 8)).cfg.wsPhase + 4000 * g) % 64000
  (dieTime s d + 64000 - start) % 64000

/-- The windows of a die that are over end. -/
def endRefresh (d : Nat) (s : State) : State :=
  let t := dieTime s d
  updDie s d fun x => { x with refresh := x.refresh.filter fun y => decide (t < y.2) }

/-- A group enters a listed window that its die is inside, for what is left of it, where no window is open: no two overlap (R198). -/
def openRefresh (d g : Nat) (s : State) : State :=
  let s := endRefresh d s
  let age := refreshAge s d g
  if age < 800 ∧ (getDie s d).refresh = [] then updDie s d fun x => { x with refresh := [(g, dieTime s d - age + 800)] } else s

/-- The windows that are open at a module time which a module comes to at once: at its start, by a step, at the end of STANDBY (R198, R266). -/
def openWindows (m : Nat) (s : State) : State :=
  (List.range 128).foldl (fun s i => openRefresh (8 * m + i / 16) (i % 16) s) s

/-- The state with a function applied to a generator. -/
def updTick (s : State) (m tg : Nat) (f : Tick → Tick) : State :=
  updMod s m fun md => { md with ticks := Tbl.set md.ticks tg (f (Tbl.get .reset md.ticks tg)) }

/-- Of the firings of a generator that a forward step has made due, one is delivered, which one is open; those before it are missed (R276). -/
def pickFiring (m : Nat) (s : State) (tg : Nat) : State :=
  let t := tickOf s m tg
  let n := t.dueFirings (timeOf s m)
  if !t.en || decide (n ≤ 1) || (jobSlot s m t.job).stopped then s else
  let (i, s) := openValue 0 (n - 1) s
  updTick s m tg fun t => { t with k := t.k + i, miss := (t.miss + i) % 2 ^ 32 }

/-- One forward step (R266): what was scheduled in the skipped interval happens at the step, in the order of its times; open refresh windows
last on, and where none is open that of the new time opens (R198), and the step is no part of a Sync interval (R273). -/
def stepForward (m ns : Nat) (s : State) : State :=
  let s := (List.range 8).foldl (fun s i => endRefresh (8 * m + i) s) s
  let s := updTime s m fun t => { t with
    now := t.now + ns * nsUnits, lastSync := t.lastSync + ns, lastGood := t.lastGood + ns, lastSent := t.lastSent + ns, lastAnn := t.lastAnn + ns
    heardAt := t.heardAt + ns, heard := t.heard.map fun x => (x.1, x.2.1 + ns, x.2.2.map fun y => y + ns) }
  let s := openWindows m ((List.range 8).foldl (fun s i => updDie s (8 * m + i) (Die.lasting ns)) s)
  let s := (List.range 16).foldl (pickFiring m) s
  { s with agenda := dueTimed s m ++ s.agenda }

/-! ### Tick generators (R275 to R278) -/

/-- The generator with its fields written (R275); the firing counts are kept. -/
def Tick.write (t : Tick) (ws : List Nat) : Tick :=
  let w := fun i => ws.getD i 0
  { t with en := bit (w 0) 0, kind := fld (w 0) 2 1, gate := bit (w 0) 3, gwin := fld (w 0) 13 8, part := fld (w 0) 23 16, job := fld (w 0) 47 32,
           period := w 1 % 2 ^ 32, phase := w 2, waddr := w 3 % 2 ^ 32, wcl := fld (w 3) 38 32, queue := fld (w 3) 45 40, lpkt := w 4 % 2 ^ 52 }

/-- A generator may be enabled as written (R275). -/
def Tick.valid (t : Tick) : Bool := t.kind != 3 && decide (1000 ≤ t.period)

/-- The least firing of a schedule at or after a module time (R276). -/
def Tick.firstAt (t : Tick) (e : Nat) : Nat := (e - t.phase + t.period - 1) / t.period

/-- A write of a generator's registers (R275, R276), and whether it is done: an enable restarts the schedule, and what was due of the old
one counts as missed. -/
def writeTick (m caller tg : Nat) (ws : List Nat) (s : State) : State × Bool :=
  let old := tickOf s m tg
  let now := timeOf s m
  let new := old.write ws
  if !mayCall caller new.part || (old.part != 0 && !mayCall caller old.part) then (s, false)
  else if !new.en then (updTick s m tg fun _ => new, true)
  else if !new.valid then (updTick s m tg fun _ => { new with en := false }, false)
  else
    let lost := if old.en ∧ 0 < now then old.dueFirings (now - 1) else 0
    (updTick s m tg fun _ => { new with k := new.firstAt now, miss := (old.miss + lost) % 2 ^ 32 }, true)

/-- An operation's answer: done, or refused. -/
def answerIf (m : Nat) (r : State × Bool) : State := if r.2 then answerDone m r.1 else refuseOp m r.1

/-- TICKSET (R275, R354). -/
def tickSetMove (m caller tg : Nat) (ws : List Nat) (s : State) : State :=
  unlessPaused m (.tickSet m caller tg ws) s fun s => answerIf m (writeTick m caller tg ws s)

@[inherit_doc tickSetMove] def execTickSet (m caller tg : Nat) (ws : List Nat) (s : State) : Host.Outcome State Fault Refusal :=
  .next (tickSetMove m caller tg ws s)

/-- The gate slot of firing time f closed MISSING under SKIP (R277), whether or not the window still keeps the slot. -/
def gated (s : State) (m : Nat) (t : Tick) (f : Nat) : Bool :=
  t.gate && (match Tbl.get none (getMod s m).windows t.gwin with
    | some w =>
      let n : Int := ((f : Int) - w.guard - w.origin) / w.period - 1
      w.job == t.job && w.pol == 2 && w.missing.contains n
    | none => false)

/-- Sequencers of the module that wait for a firing of the generator wake within 20 ns of it (R278). -/
def wakeTick (m tg f : Nat) (s : State) : State :=
  (s.cores.map Prod.fst).foldl (fun s k =>
    match (getCore s k).wait with
    | .waittk g t0 none =>
      if modOf k = m ∧ g = tg ∧ t0 < f then
        let (d, s) := openValue 0 wakeLag s
        updCore s k fun c => { c with wait := .waittk g t0 (some (s.cycle + d)) }
      else s
    | _ => s) s

/-- The 16 words of a packet image in physical memory, if they can be read (R276). -/
def imageAt (s : State) (m pa : Nat) : Option (List Nat) :=
  if !hasTarget pa 64 || (!isHost pa && hbmMarked (getMod s m) pa 64) then none else some (wordsOf 16 (physRead (getMod s m) pa 64))

/-- The target of a firing is acted on: whether the firing is delivered (R276). -/
def tickTarget (m : Nat) (t : Tick) (tg k : Nat) (s : State) : State × Bool :=
  if t.kind = 0 then
    if t.waddr % 8 = 0 ∧ inScratch t.waddr 8 ∧ t.wcl < 96 then (dueWrite (96 * m + t.wcl) 0 1 tg t.waddr (leBytes 8 k) .nothing s, true) else (s, true)
  else if t.kind = 1 then
    let pa := t.lpkt
    let s := match imageAt s m pa with
      | none => if hasTarget pa 64 then countHbm m pa s else s
      | some _ => s
    match imageAt s m pa with
    | none => (s, false)
    | some ws =>
      if 8 ≤ devicePackets (queueAt s m t.queue) then (s, false)
      else
        let f := t.at_ k
        let ws := ws.take 2 ++ [f % 2 ^ 32, f / 2 ^ 32 % 2 ^ 32] ++ ws.drop 4
        (updQueue s m t.queue fun q => { q with pkts := q.pkts ++ [⟨ws, true, false⟩] }, true)
  else (s, true)

/-- Of n firings that are due the one after the first i is delivered, and the others are missed (R276 to R278). -/
def deliverFiring (m tg n i : Nat) (s : State) : State :=
  let t := tickOf s m tg
  let k := t.k + i
  let s := updTick s m tg fun t => { t with k := t.k + n, miss := (t.miss + (n - 1)) % 2 ^ 32, last := some (t.at_ k) }
  let s := wakeTick m tg (t.at_ k) s
  if gated s m t (t.at_ k) then updTick s m tg fun t => { t with skip := (t.skip + 1) % 2 ^ 32 }
  else match tickTarget m t tg k s with
    | (s, true) => updTick s m tg fun t => { t with fcnt := (t.fcnt + 1) % 2 ^ 64 }
    | (s, false) => updTick s m tg fun t => { t with miss := (t.miss + 1) % 2 ^ 32 }

/-- TICK_FIRING (R276 to R278): the first firing that is due is delivered. -/
def tickMove (m tg : Nat) (s : State) : State :=
  let t := tickOf s m tg
  let n := t.dueFirings (timeOf s m)
  if !t.en || n == 0 || (jobSlot s m t.job).stopped then s else deliverFiring m tg n 0 s

/-- The firings that a freeze of a job has held (R276): each generator delivers one of them at the resume, which one is open. -/
def releaseTicks (m job : Nat) (s : State) : State :=
  (List.range 16).foldl (fun s tg =>
    let t := tickOf s m tg
    let n := t.dueFirings (timeOf s m)
    if !t.en || n == 0 || t.job != job then s else
    let (i, s) := openValue 0 (n - 1) s
    deliverFiring m tg n i s) s

@[inherit_doc tickMove] def execTickFiring (m tg : Nat) (s : State) : Host.Outcome State Fault Refusal := .next (tickMove m tg s)

/-! ### Opening and closing a window (R279, R280) -/

/-- The window that a declaration asks for, less what the open fixes. -/
def windowOf (job c : Nat) (ws : List Nat) : Window :=
  let w := fun i => ws.getD i 0
  { job := job, cluster := c, pol := fld (w 0) 9 8, nopen := fld (w 0) 20 16 + 1, ncache := fld (w 0) 29 24 + 1, z := 32 * (fld (w 1) 6 0 + 1),
    depth := 2 ^ fld (w 1) 20 16, origin := pairWord w 2, period := w 4, guard := w 5, cbase := w 6, sbase := w 7, sinkva := pairWord w 8,
    h0 := 0, h := 0, rel := none, slots := [], missing := [], pres := 0, subst := 0, miss := 0, late := 0, early := 0, dup := 0, stale := 0, badst := 0, ovr := 0,
    maps := [] }

/-- A declaration breaks R280. -/
def windowBad (ws : List Nat) : Bool :=
  let w := fun i => ws.getD i 0
  let x := windowOf 0 0 ws
  fld (w 0) 7 6 != 0 || fld (w 0) 15 10 != 0 || fld (w 0) 23 21 != 0 || fld (w 0) 31 30 != 0 || fld (w 1) 15 7 != 0 || fld (w 1) 31 21 != 0 ||
  fld (w 9) 31 25 != 0 || (ws.drop 10).any (fun v => v != 0) || x.pol == 3 || decide (x.ncache < x.nopen + 1) ||
  decide (fld (w 1) 20 16 < 4) || decide (24 < fld (w 1) 20 16) || decide (x.period < 1000) || x.cbase % 32 != 0 || x.sbase % 64 != 0 ||
  x.sinkva % 65536 != 0 || !inScratch x.cbase (x.ncache * x.z) || !inScratch x.sbase 64 || meets x.cbase (x.ncache * x.z) x.sbase 64

/-- The sink pages of a window translate as writable (R279): by walks of the job's space on the module. -/
def sinkMaps (s : State) (m job part : Nat) : Nat → Nat → List PageMap → Option (List PageMap)
  | 0, _, ms => some ms
  | n + 1, va, ms =>
    let member := match getJob s job with | some j => memberOf j m | none => 0
    match spaceOf s job member with
    | none => none
    | some (_, root) =>
      if ms.any fun p => (p.at_ va).isSome then sinkMaps s m job part n (va + 65536) ms
      else match walkFrom (getMod s m) 4 root (va % 2 ^ 57) with
        | .leaf _ pa size _ true _ =>
          if hasTarget pa size ∧ (isHost pa ∨ (frameOf s m pa).owner = part) then
            sinkMaps s m job part n (va + 65536) (ms ++ [⟨true, va / size * size, size, m, pa, job, member⟩])
          else none
        | _ => none

/-- The frames of sink pages, which an open window pins. -/
def sinkFrames (ms : List PageMap) : List (Nat × Nat) := ((ms.filter fun p => !isHost p.pa).map fun p => (p.m, p.pa / 65536)).eraseDups

/-- A pin more or less on frames (R228). -/
def pinFrames (up : Bool) (gs : List (Nat × Nat)) (s : State) : State :=
  gs.foldl (fun s g => updFrame g.1 g.2 (fun f => { f with pin := if up then f.pin + 1 else f.pin - 1 }) s) s

/-- The least slot from 0 on that closes after a module time (R283). -/
def Window.firstOpen (w : Window) (now : Nat) : Int :=
  let d : Int := (now : Int) - w.closeAt 0
  if d < 0 then 0 else d / w.period + 1

/-- Slot n enters the open range (R283): it takes its cache entry if the entry is free. -/
def Window.enter (w : Window) (n : Int) : Window :=
  let free := decide (n - w.ncache < w.h0) || (match w.rel with | some r => decide (n - w.ncache ≤ r) | none => false)
  { w with slots := w.slots ++ [⟨n, free, .open_, none⟩] }

/-- The status block (R286). -/
def Window.block (w : Window) : List Nat :=
  leBytes 8 ((w.h % 2 ^ 64).toNat) ++ [w.pres, w.subst, w.miss, w.late, w.early, w.dup, w.stale, w.badst, w.ovr].flatMap (leBytes 4) ++
    List.replicate 20 0

/-- The state with a window replaced. -/
def setWindow (m n : Nat) (w : Option Window) (s : State) : State := updMod s m fun md => { md with windows := Tbl.set md.windows n w }

/-- WINOPEN (R279, R283, R354); it waits where a pin would exceed its field (R228). When the status block's first values reach the scratchpad is stated
nowhere: they fall due through the window's engine in the cycle of the open (DESIGN CHOICE, log 111). -/
def winOpenMove (m caller job c : Nat) (ws : List Nat) (s : State) : State :=
  unlessPaused m (.winOpen m caller job c ws) s fun s =>
  let n := fld (ws.getD 0 0) 5 0
  let w := windowOf job c ws
  let part := partOfJob s m job
  let pages := (w.depth * (w.z + 32) + 65535) / 65536
  if !jobOn s m job || !mayCall caller part || (getCluster s (96 * m + c)).part != part || windowBad ws ||
      (Tbl.get none (getMod s m).windows n).isSome then refuseOp m s
  else match sinkMaps s m job part pages w.sinkva [] with
    | none => refuseOp m s
    | some maps =>
      if (sinkFrames maps).any fun g => decide (65535 ≤ (frameAt s g.1 g.2).pin) then again 1 s.place (.winOpen m caller job c ws) s else
      let h0 := w.firstOpen (timeOf s m)
      let w := { w with h0 := h0, h := h0, maps := maps }
      let w := (List.range w.nopen).foldl (fun (w : Window) (i : Nat) => w.enter (h0 + i)) w
      let s := pinFrames true (sinkFrames maps) s
      answerDone m (dueWrite (96 * m + c) (n % 4) 2 n w.sbase w.block .nothing (setWindow m n (some w) s))

@[inherit_doc winOpenMove] def execWinOpen (m caller job c : Nat) (ws : List Nat) (s : State) : Host.Outcome State Fault Refusal :=
  .next (winOpenMove m caller job c ws s)

/-- A window closes for good: its pins are released (R279). -/
def shutWindow (m n : Nat) (s : State) : State :=
  match Tbl.get none (getMod s m).windows n with
  | some w => setWindow m n none (pinFrames false (sinkFrames w.maps) s)
  | none => s

/-- WINCLOSE (R279, R354). -/
def execWinClose (m caller n : Nat) (s : State) : Host.Outcome State Fault Refusal :=
  .next (unlessPaused m (.winClose m caller n) s fun s =>
    match Tbl.get none (getMod s m).windows n with
    | some w => if mayCall caller (partOfJob s m w.job) then answerDone m (shutWindow m n s) else refuseOp m s
    | none => refuseOp m s)

/-! ### Slots (R284 to R287) -/

/-- The entry of slot n in the cache. -/
def Window.entry (w : Window) (n : Int) : Nat := w.cbase + (n % w.ncache).toNat * w.z

/-- The payload of slot n falls due through the window's engine (R181, R285). -/
def cacheWrite (m n : Nat) (w : Window) (a : Nat) (bs : List Nat) (s : State) : State :=
  (windowPieces 8 a bs).foldl (fun s p => dueWrite (96 * m + w.cluster) (n % 4) 2 n p.1 p.2 .nothing s) s

/-- A sink record (R287). -/
def sinkBytes (stamp arrive : Nat) (st : SlotStatus) (n : Int) (payload : List Nat) : List Nat :=
  leBytes 8 stamp ++ leBytes 8 arrive ++ leBytes 4 st.code ++ leBytes 8 ((n % 2 ^ 64).toNat) ++ leBytes 4 0 ++ payload

/-- The sink record of slot n is written at its place. -/
def sinkWrite (w : Window) (n : Int) (bs : List Nat) (s : State) : State :=
  let va := w.sinkva + (n % w.depth).toNat * (w.z + 32)
  ((physPieces w.maps true 4 va bs.length).foldl (fun (x : State × List Nat) p => (physWrite p.1 p.2.1 (x.2.take p.2.2) x.1, x.2.drop p.2.2)) (s, bs)).1

/-- The window with a slot replaced. -/
def Window.putSlot (w : Window) (x : WSlot) : Window := { w with slots := w.slots.map fun y => if y.s = x.s then x else y }

/-- What the newest slot before n that closed with a payload gave, or zeros (R285). -/
def Window.lastGiven (w : Window) (n : Int) : List Nat :=
  match (w.slots.filter fun x => decide (x.s < n) && x.status != .open_).reverse.findSome? fun x => x.tok.map fun t => t.2.2 with
  | some p => p
  | none => List.replicate w.z 0

/-- How slot h closes (R285): its slot afterwards, and whether a substitute goes to its entry. -/
def Window.closing (w : Window) (x : WSlot) : WSlot × Bool :=
  let k := (w.closeAt x.s).toNat
  match x.tok with
  | some _ => ({ x with status := .present }, false)
  | none =>
    if w.pol = 0 then ({ x with status := .substituted, tok := some (0, k, w.lastGiven x.s) }, x.cached)
    else if w.pol = 1 then ({ x with status := .substituted, tok := some (0, k, List.replicate w.z 0) }, x.cached)
    else ({ x with status := .missing }, false)

/-- The window after the close of slot h: counts, head, the slot that enters, the history of R284. -/
def Window.advance (w : Window) (x : WSlot) : Window :=
  let w := w.putSlot x
  let w := match x.status with
    | .present => { w with pres := (w.pres + 1) % 2 ^ 32 }
    | .substituted => { w with subst := (w.subst + 1) % 2 ^ 32 }
    | _ => { w with miss := (w.miss + 1) % 2 ^ 32, missing := x.s :: w.missing }
  let w := { w with h := w.h + 1 }
  let w := w.enter (w.h + w.nopen - 1)
  { w with slots := w.slots.filter fun y => decide (w.h - w.depth ≤ y.s) }

/-- SLOT_CLOSE (R285): the record, then what falls due through the engine: a substitute's payload and the status block. -/
def slotCloseMove (m n : Nat) (s : State) : State :=
  match Tbl.get none (getMod s m).windows n with
  | none => s
  | some w =>
    if (timeOf s m : Int) < w.closeAt w.h then s else
    match w.slot w.h with
    | none => s
    | some x =>
      let (x, substitute) := w.closing x
      let (stamp, arrive, payload) := x.tok.getD (0, (w.closeAt w.h).toNat, List.replicate w.z 0)
      let s := if substitute then cacheWrite m n w (w.entry x.s) payload s else s
      let s := sinkWrite w x.s (sinkBytes stamp arrive x.status x.s payload) s
      let w := w.advance x
      dueWrite (96 * m + w.cluster) (n % 4) 2 n w.sbase w.block .nothing (setWindow m n (some w) s)

@[inherit_doc slotCloseMove] def execSlotClose (m n : Nat) (s : State) : Host.Outcome State Fault Refusal := .next (slotCloseMove m n s)

/-! ### Tokens (R282, R284, R291, R314) -/

/-- A stamp as module time; none where it is invalid (R267). -/
def stampOf (sec ns : Nat) : Option Nat :=
  if 10 ^ 9 ≤ ns ∨ 2 ^ 64 ≤ sec * 10 ^ 9 + ns then none else some (sec * 10 ^ 9 + ns)

/-- The slot of a stamp (R283). -/
def Window.slotNo (w : Window) (t : Nat) : Int := ((t : Int) - w.origin) / w.period

/-- A token of a window reaches it at module time a (R284). -/
def tokenIn (m n a : Nat) (w : Window) (t : Token) (s : State) : State :=
  let bs := t.payload.map BitVec.toNat
  let put := fun (w : Window) (s : State) => setWindow m n (some w) s
  let drop := fun (w : Window) (s : State) => countMod (put w s) m 0x0A 1
  match stampOf t.sec t.nsec with
  | none => drop { w with badst := (w.badst + 1) % 2 ^ 32 } s
  | some stamp =>
    let x := w.slotNo stamp
    if w.h + w.nopen - 1 < x then drop { w with early := (w.early + 1) % 2 ^ 32 } s
    else if w.h ≤ x then
      match w.slot x with
      | none => s
      | some y =>
        if y.tok.isSome then drop { w with dup := (w.dup + 1) % 2 ^ 32 } s
        else
          let w := w.putSlot { y with tok := some (stamp, a, bs) }
          let w := if y.cached then w else { w with ovr := (w.ovr + 1) % 2 ^ 32 }
          let s := if y.cached then cacheWrite m n w (w.entry x) bs s else sinkWrite w x (sinkBytes stamp a .present x bs) s
          countMod (put w s) m 0x09 1
    else if x < max w.h0 (w.h - w.depth) then drop { w with stale := (w.stale + 1) % 2 ^ 32 } s
    else match w.slot x with
      | some y =>
        if y.status = .substituted ∨ y.status = .missing then
          let w := { w.putSlot { y with status := .late } with late := (w.late + 1) % 2 ^ 32 }
          countMod (put w (sinkWrite w x (sinkBytes stamp a .late x bs) s)) m 0x09 1
        else drop { w with dup := (w.dup + 1) % 2 ^ 32 } s
      | none => drop { w with dup := (w.dup + 1) % 2 ^ 32 } s

/-- The place that marks a token which a receiver has held: it comes before the arrivals of its cycle. -/
def heldPlace : Nat := 2 ^ 32

/-- A token goes on across the fabric to the member that it names. -/
def forwardToken (m : Nat) (j : Job) (t : Token) (s : State) : State :=
  let (d, s) := openAny s
  let (port, s) := openValue 0 31 s
  let s := countMod s m 0x06 1
  if t.dmember < j.members.length then again (d + 1) m (.tokenArrival (moduleOf j t.dmember) port t) s
  else countMod (countErr s m 0 12 1) m 0x0A 1

/-- TOKEN_ARRIVAL (R282, R284, R291, R314): a frozen job's tokens arrive at their release. -/
def tokenMove (m port : Nat) (t : Token) (s : State) : State :=
  let drop := fun (part : Nat) (s : State) => countMod (countErr s m part 12 1) m 0x0A 1
  match getJob s t.job with
  | none => drop 0 s
  | some j =>
    if memberOf j m ≠ t.dmember then forwardToken m j t s
    else if receiversHeld s m t.job then again 1 heldPlace (.tokenArrival m port t) s
    else match (Tbl.get none (getMod s m).windows t.win).filter fun w => w.job == t.job with
      | none => drop 0 s
      | some w =>
        if t.zlen ≠ w.z ∨ t.rsv ≠ 0 ∨ t.payload.length ≠ w.z then drop (partOfJob s m t.job) s
        else tokenIn m t.win (timeOf s m) w t s

@[inherit_doc tokenMove] def execTokenArrival (m port : Nat) (t : Token) (s : State) : Host.Outcome State Fault Refusal :=
  .next (tokenMove m port t s)

end Sys2Proof.Machine
end

