-- ==== Sys2Proof/Machine/Ptp.lean ====
section
/-! DEFINITION. Sys2Proof/Machine/Ptp.lean: IEEE 1588 on a module (R270): the messages on its ports, master selection, and the discipline of module time
(R266, R272 to R274). -/

namespace Sys2Proof.Machine

/-! ### Ports (R16, R270, R271) -/

/-- The port takes part in PTP (R270, R271): 32 is the host port. -/
def portOn (t : TimeUnit) (port : Nat) : Bool := t.en && (if port = 32 then t.hostp else bit t.tmport port)

/-- The event of a message at a port. -/
def ptpEvent (m port : Nat) (from_ : Option Nat) : PtpMsg → Instr
  | .sync u log => .syncReceive m port ⟨from_, u, log⟩
  | .announce a => .announceReceive m ⟨port, a⟩
  | .peer x => .peerDelayMessage m port x

/-- The cycles that a message takes over the link of two ports, the same both ways (log 76). -/
def linkDelay (m port n p : Nat) : Nat :=
  let a := 33 * m + port
  let b := 33 * n + p
  1 + Config.linkCycles (min a b) (max a b) % 1000

/-- A message goes out on a port, some cycles from now: to the host die, or over the link of the port (log 76). -/
def sendPtp (m port later : Nat) (x : PtpMsg) (s : State) : State :=
  if port = 32 then tellHost (.ptp m x) s
  else if (getMod s m).down.any fun y => y.1 == port then s
  else match Config.linked m port with
    | none => s
    | some (n, p) =>
      again (later + linkDelay m port n p) n (ptpEvent n p (some m) x) (if (getMod s m).evsel.isEmpty then s else countMod s m 0x06 1)

/-- PEER_DELAY_MESSAGE (R270): a request is answered, after a turnaround that the answer names; a response gives the delay of its link; Delay_Req is
ignored. -/
def peerDelayMove (m port : Nat) (msg : PeerMsg) (s : State) : State :=
  if !portOn (getMod s m).time port then s else
  match msg with
  | .pdelayResp t1 turn => updTime s m fun t => { t with delays := Tbl.set t.delays port ((timeOf s m - t1 - turn) / 2) }
  | .pdelayReq t1 =>
    let (turn, s) := openAny s
    sendPtp m port ((getMod s m).time.cyclesFor turn) (.peer (.pdelayResp t1 turn)) s
  | .delayReq => s

@[inherit_doc peerDelayMove] def execPeerDelayMessage (m port : Nat) (msg : PeerMsg) (s : State) : Host.Outcome State Fault Refusal :=
  .next (peerDelayMove m port msg s)

/-! ### Master selection (R270) -/

/-- The default comparison of IEEE 1588: of one grandmaster the way of fewer steps, and else the better grandmaster. -/
def betterAnnounce (a b : Announce) : Bool :=
  if a.gm = b.gm then decide (a.steps < b.steps) || (a.steps == b.steps && decide (a.sender < b.sender))
  else if a.prio1 ≠ b.prio1 then a.prio1 < b.prio1
  else if a.quality ≠ b.quality then a.quality < b.quality
  else if a.prio2 ≠ b.prio2 then a.prio2 < b.prio2
  else a.gm < b.gm

/-- What a module would announce as grandmaster (R271). -/
def ownAnnounce (t : TimeUnit) (m : Nat) : Announce :=
  { domain := fld t.tmcfg 15 8, prio1 := fld t.tmcfg 31 24, quality := Config.clockQuality m, prio2 := fld t.tmcfg 39 32,
    gm := Config.clockIdentity m, steps := 0, sender := Config.clockIdentity m, from_ := some m }

/-- The class of a clock that takes no master (IEEE 1588): 1 to 127. -/
def strongClock (a : Announce) : Bool := decide (1 ≤ a.quality / 2 ^ 24) && decide (a.quality / 2 ^ 24 ≤ 127)

/-- A port's Announces count: two of one sender have come within four Announce intervals (IEEE 1588). -/
def qualified (t : TimeUnit) (now port : Nat) : Bool :=
  portOn t port && match (Tbl.get (0, none) t.heard port).2 with
    | some x => decide (now ≤ x + 4 * announceInterval)
    | none => false

/-- The best of the Announces that count. -/
def bestRecord (t : TimeUnit) (now : Nat) : Option (Nat × Announce) :=
  (t.records.filter fun x => qualified t now x.1).foldl (fun b x => match b with
    | none => some x
    | some y => if betterAnnounce x.2 y.2 then some x else some y) none

/-- Who the sender of an Announce is to its receiver (R272). -/
def masterKind (a : Announce) : Master :=
  if a.sender = a.gm then .grandmaster else if a.from_.isSome then .z9 else .other

/-- The module takes a master (R272): FREE and HOLDOVER go to ACQUIRING. -/
def TimeUnit.follow (t : TimeUnit) (port : Nat) (a : Announce) (now : Nat) : TimeUnit :=
  let t := { t with master := masterKind a, mport := port, mfrom := a.from_, parent := some a, heardAt := (Tbl.get (now, none) t.heard port).1 }
  match t.disc with
  | .free | .holdover => { t with disc := .acquiring, good := 0, lastGood := now }
  | _ => t

/-- The module is grandmaster (R272): FREE goes to ACQUIRING; its offset is 0 from now on. -/
def TimeUnit.lead (t : TimeUnit) (now : Nat) : TimeUnit :=
  let t := if t.master = .self then t
    else { t with master := .self, mfrom := none, parent := none, offset := 0, lastSync := now, lastGood := now, lastSent := now }
  match t.disc with
  | .free => { t with disc := .acquiring, good := 0, lastGood := now }
  | _ => t

/-- Master selection (R270, R271): the best Announce, or the module itself where it is capable and better, or of a class that takes no master. -/
def selectMaster (m : Nat) (s : State) : State :=
  let now := timeOf s m
  updTime s m fun t =>
    match bestRecord t now with
    | some (p, a) =>
      if t.gmcap && (strongClock (ownAnnounce t m) || betterAnnounce (ownAnnounce t m) a) then t.lead now else t.follow p a now
    | none => if t.silent now && t.gmcap then t.lead now else t

/-- The time unit has received an Announce on a port. -/
def TimeUnit.hear (t : TimeUnit) (port now : Nat) (a : Announce) : TimeUnit :=
  let same := match Tbl.get none (t.records.map fun x => (x.1, some x.2)) port with | some (b : Announce) => b.sender == a.sender | none => false
  let before := if same then some (Tbl.get (now, none) t.heard port).1 else none
  { t with records := Tbl.set t.records port a, heard := Tbl.set t.heard port (now, before),
           heardAt := if t.master ≠ .none ∧ t.master ≠ .self ∧ port = t.mport then now else t.heardAt }

/-- ANNOUNCE_RECEIVE (R270, R272): an Announce of the module's domain counts, but for one of itself. -/
def announceMove (m port : Nat) (a : Announce) (s : State) : State :=
  let t := (getMod s m).time
  if !portOn t port || a.domain != fld t.tmcfg 15 8 || decide (255 ≤ a.steps) || a.from_ == some m then s
  else selectMaster m (updTime s m fun t => t.hear port (timeOf s m) a)

@[inherit_doc announceMove] def execAnnounceReceive (m : Nat) (x : PortAnnounce) (s : State) : Host.Outcome State Fault Refusal :=
  .next (announceMove m x.port x.a s)

/-- The master is lost (R272): its Announce counts no more. -/
def TimeUnit.loseMaster (t : TimeUnit) (now : Nat) : TimeUnit :=
  let t := { t with master := .none, mfrom := none, parent := none, records := t.records.filter fun x => x.1 != t.mport,
                    heard := t.heard.filter fun x => x.1 != t.mport }
  match t.disc with
  | .acquiring => { t with disc := .free, good := 0 }
  | .locked => { t with disc := .holdover, heldSince := now }
  | _ => t

/-- ANNOUNCE_RECEIPT_TIMEOUT (R270, R272): the master is lost; without one, a module that is capable becomes grandmaster. -/
def announceTimeoutMove (m : Nat) (s : State) : State :=
  let t := (getMod s m).time
  if !t.silent (timeOf s m) then s
  else if t.master = .none then selectMaster m s
  else updTime s m fun t => t.loseMaster (timeOf s m)

@[inherit_doc announceTimeoutMove] def execAnnounceReceiptTimeout (s : State) : Host.Outcome State Fault Refusal := .next (announceTimeoutMove s.place s)

/-! ### Syncs (R266, R272 to R274) -/

/-- The rate of the grandmaster of a module, in parts per 10^9 of the rate of true time. -/
def grandRate : Nat → State → Nat → Int
  | 0, s, m => (getMod s m).time.adj
  | n + 1, s, m =>
    let t := (getMod s m).time
    match t.mfrom with
    | some q => grandRate n s q
    | none => if t.master = .self ∨ t.master = .none then t.adj else 0

/-- The rate that the discipline chooses after a Sync: while LOCKED within 2 parts in 10^9 of the grandmaster's (R272), else open; within the bound
of 500 parts in 10^6 (R266). -/
def chooseRate (m : Nat) (s : State) : State :=
  if (getMod s m).time.disc = .locked then
    let (v, s) := openValue 0 4 s
    updTime s m fun t => { t with adj := max (-500000) (min 500000 (grandRate 8 s m + (v : Int) - 2)) }
  else
    let (v, s) := openValue 0 1000000 s
    updTime s m fun t => { t with adj := (v : Int) - 500000 }

/-- How far a module's time is ahead of its master's, in the units of module time: of a module, or of the grandmaster outside the pod. -/
def aheadOf (s : State) (m : Nat) (from_ : Option Nat) : Int :=
  ((getMod s m).time.now : Int) - match from_ with
    | some q => (getMod s q).time.now
    | none => Config.tai * nsUnits + 10 ^ 10 * s.cycle

/-- The measured difference in ns, within 1 ns (R272); from a clock of which nothing is known, it is open. -/
def measure (m : Nat) (from_ : Option Nat) (s : State) : Int × State :=
  if from_ = none ∧ (getMod s m).time.master = .other then
    let (v, s) := openAny s
    let (sgn, s) := openValue 0 1 s
    (if sgn = 0 then (v : Int) else -(v : Int), s)
  else
    let (d, s) := openValue 0 1 s
    (aheadOf s m from_ / nsUnits + d, s)

/-- SYNC_RECEIVE (R266, R270, R272): on the port of the master, once the delay of its link is known, the measured difference and, where the master is not the grandmaster, the master's
bound U; in ACQUIRING, a clock more than 1 ms behind is corrected by a forward step. -/
def syncMove (m port : Nat) (from_ : Option Nat) (u log : Nat) (s : State) : State :=
  let t := (getMod s m).time
  if !portOn t port || t.master == .none || t.master == .self || t.mport != port || t.disc == .free || t.disc == .holdover ||
      (Tbl.get none (t.delays.map fun x => (x.1, some x.2)) port).isNone then s else
  let (meas, s) := measure m from_ s
  let off := meas.natAbs + (if t.master = .grandmaster then 0 else u)
  let s := chooseRate m (updTime s m fun t => t.onOffset off log (timeOf s m))
  if t.disc == .acquiring && decide (meas < -1000000) then stepForward m meas.natAbs s else s

@[inherit_doc syncMove] def execSyncReceive (m port : Nat) (x : SyncMsg) (s : State) : Host.Outcome State Fault Refusal :=
  .next (syncMove m port x.from_ x.u x.log s)

/-- The offset bound U that a Sync carries (R272), in ns; a module that is not LOCKED keeps none, and sends the largest value (log 76). -/
def TimeUnit.bound (t : TimeUnit) (now : Nat) : Nat :=
  if t.disc = .locked then t.offset + 2 + (2 * (now - t.lastSync) + 10 ^ 9 - 1) / 10 ^ 9 else 2 ^ 32 - 1

/-- The Announce that a module sends on: its grandmaster, one step further. -/
def nextAnnounce (t : TimeUnit) (m : Nat) : Announce :=
  match t.parent with
  | some a => { a with steps := a.steps + 1, sender := Config.clockIdentity m, from_ := some m }
  | none => ownAnnounce t m

/-- Of two Announces of one grandmaster the first is better by its way alone (IEEE 1588), to a receiver of an identity. -/
def byTopology (me : Nat) (a b : Announce) : Bool :=
  a.gm == b.gm && ((a.steps == b.steps && decide (a.sender ≤ b.sender)) || (a.steps + 1 == b.steps && decide (b.sender < me)))

/-- A port is PASSIVE (IEEE 1588): its Announces are better than the module, whose class takes no master; or the master's are better than the port's by
their way alone. -/
def passive (t : TimeUnit) (m now port : Nat) : Bool :=
  match (t.records.find? fun x => x.1 == port && qualified t now port).map Prod.snd with
  | none => false
  | some a =>
    if t.master = .self then strongClock (ownAnnounce t m) && betterAnnounce a (ownAnnounce t m)
    else t.parent.any fun b => byTopology (Config.clockIdentity m) b a

/-- The ports on which the module is master: all that take part but that of its own master and the passive ones. -/
def masterPorts (t : TimeUnit) (m now : Nat) : List Nat :=
  (List.range 33).filter fun p => portOn t p && (t.master == .self || p != t.mport) && !passive t m now p

/-- SYNC_INTERVAL (R270, R272): a Sync with the bound U goes out on every master port, with an Announce where an Announce interval has passed, and a peer
delay request on every port. The grandmaster's own offset is 0. -/
def syncIntervalMove (m : Nat) (s : State) : State :=
  let now := timeOf s m
  if !(getMod s m).time.intervalOver now then s else
  let due := decide ((getMod s m).time.lastAnn + announceInterval ≤ now)
  let s := updTime s m fun t =>
    { (if t.master = .self then t.onOffset 0 t.logsync now else t) with lastSent := now, lastAnn := if due then now else t.lastAnn }
  let t := (getMod s m).time
  let s := (masterPorts t m now).foldl (fun s port =>
    let s := sendPtp m port 0 (.sync (t.bound now) t.logsync) s
    if due then sendPtp m port 0 (.announce (nextAnnounce t m)) s else s) s
  ((List.range 33).filter (portOn t)).foldl (fun s port => sendPtp m port 0 (.peer (.pdelayReq now)) s) s

@[inherit_doc syncIntervalMove] def execSyncInterval (s : State) : Host.Outcome State Fault Refusal := .next (syncIntervalMove s.place s)

/-- OFFSET_BOUND_EXPIRY (R272). -/
def execOffsetBoundExpiry (s : State) : Host.Outcome State Fault Refusal :=
  let m := s.place
  .next (if (getMod s m).time.boundReached (timeOf s m) then
      updTime s m fun t => { t with disc := .holdover, heldSince := timeOf s m } else s)

/-- HOLDOVER_EXPIRY (R272). -/
def execHoldoverExpiry (s : State) : Host.Outcome State Fault Refusal :=
  let m := s.place
  .next (if (getMod s m).time.heldOut (timeOf s m) then updTime s m fun t => { t with disc := .free } else s)

end Sys2Proof.Machine
end

