-- ==== Sys2Proof/Machine/Save.lean ====
section
/-! DEFINITION. Sys2Proof/Machine/Save.lean: stopping and releasing a sequencer (R36, R369, R373), landing points and saves (R31, R340 to R344),
whole-context saves (R230, R346, R352) and restores (R142, R195, R345). -/

namespace Sys2Proof.Machine

/-! ### A sequencer that stops and goes on (R36, R359, R369) -/

/-- The exposed results of a core are held, T the last cycle in which it could issue (R369). -/
def Core.freeze (T : Nat) (c : Core) : Core :=
  { c with frozen := true, frozenAt := T, frozenHeld := (holdPend T c.regs c.pend).1, pend := (holdPend T c.regs c.pend).2 }

/-- A load's read, moved by d cycles. -/
def Eff.readLater (d : Nat) (e : Eff) : Eff :=
  match e with
  | .loadS r q t => .loadS r q (t + d)
  | .loadV b q t => .loadV b q (t + d)
  | e => e

/-- The cycles of a wait, moved by d. -/
def Wait.later (d : Nat) : Wait → Wait
  | .waita a n c x bundle test wake => .waita a n c x bundle (test + d) (wake.map (· + d))
  | .waitt t wake => .waitt t (wake.map (· + d))
  | .waittk g t0 wake => .waittk g t0 (wake.map (· + d))
  | .tokget w r slot word q l last a mask loops tr => .tokget w r slot word (q + d) (l + d) (last + d) a mask loops tr
  | .fence scope t => .fence scope (t + d)
  | .graph load slot ea t a mask loops tr => .graph load slot ea (t + d) a mask loops tr
  | w => w

/-- The cycle of a stream register's entry, moved by d. -/
def EState.later (d : Nat) : EState → EState
  | .ready t => .ready (t + d)
  | .marked t => .marked (t + d)
  | .filled t => .filled (t + d)
  | .gone t => .gone (t + d)
  | e => e

/-- A stepped core's accesses and waits take their course in steps (R372): for it, d cycles have not passed. -/
def Core.stepShift (d : Nat) (c : Core) : Core :=
  if c.stepT.isNone then c else
  { c with
    pend := c.pend.map fun p => { p with vis := p.vis + d, seq := p.seq + d, eff := (p.eff.later d).readLater d }
    frozenHeld := c.frozenHeld.map fun x => (x.1, { x.2 with eff := x.2.eff.readLater d })
    held := c.held.map fun x => (x.1, { x.2 with eff := x.2.eff.readLater d })
    stores := c.stores.map fun p => { p with perf := p.perf + d, seq := p.seq + d }
    rels := c.rels.map fun r => { r with issued := r.issued + d, due := r.due.map (· + d) }
    wait := c.wait.later d
    streams := c.streams.map fun x => (x.1, x.2.map fun st => { st with slots := st.slots.map fun e => { e with st := e.st.later d } }) }

/-- The core goes on: R is the first cycle in which it may issue, and its held results, idle cycles and delay line take their course (R362, R373). -/
def Core.thaw (R : Nat) (c : Core) : Core :=
  if !c.frozen then c else
  let d := R - 1 - c.frozenAt
  let c := c.stepShift d
  { c with
    pend := c.pend ++ releaseHeld (R - 1) c.frozenAt c.frozenHeld
    frozenHeld := [], frozen := false, stepT := none
    nextIssue := if c.nextIssue ≤ c.frozenAt + 1 then R else c.nextIssue + d
    line := c.line.map fun x => { x with due := x.due + d } }

/-- A wait is tested again at the release in cycle R (R36): one whose condition holds, or came true meanwhile, wakes within its bound of R33. -/
def retestWait (k R : Nat) (s : State) : State :=
  let put := fun (w : Wait) (s : State) => updCore s k fun c => { c with wait := w }
  match (getCore s k).wait with
  | .waita a n c x bundle _ wake =>
    let hit := wake.isSome || WCond.holds c (leNat (readScratch (getCluster s (clusterOf k)) a n)) x
    if hit then
      let (d, s) := openValue 0 39 s
      put (.waita a n c x bundle (R - 1) (some (R + d))) s
    else put (.waita a n c x bundle (R - 1) none) s
  | .waitt t wake =>
    if wake.isSome ∨ t ≤ dieTime s (dieOf k) then
      let (d, s) := openValue 0 wakeLag s
      put (.waitt t (some (R + d))) s
    else s
  | .waittk g t0 wake =>
    if wake.isSome || (tickOf s (modOf k) g).firedAfter t0 then
      let (d, s) := openValue 0 wakeLag s
      put (.waittk g t0 (some (R + d))) s
    else s
  | .tokget w d slot word q l last a mask loops tr =>
    put (.tokget w d slot word (if q < s.cycle then max q R else q) (max l R) (max last R) a mask loops tr) s
  | .acq b _ => put (.acq b (some R)) s
  | _ => s

/-! ### The live set (R341, R343) -/

/-- A live-set descriptor (R341). -/
structure LiveSet where
  arr : Bool
  smask : Nat
  pmask : Nat
  kmask : Nat
  qmask : Nat
  vmask : Nat
  tmask : Nat
  amask : Nat
  ranges : List (Nat × Nat)
  deriving DecidableEq, Repr

/-- The live set of a descriptor's words. -/
def liveSetOf (ws : List Nat) : LiveSet :=
  let w := fun i => ws.getD i 0
  { arr := bit (w 0) 3, smask := pairWord w 1, pmask := fld (w 3) 15 0, kmask := fld (w 3) 23 16, qmask := fld (w 4) 15 0, vmask := w 5,
    tmask := fld (w 6) 15 0, amask := fld (w 6) 31 16,
    ranges := (List.range (fld (w 0) 2 0)).map fun i => (w (8 + 2 * i), w (9 + 2 * i)) }

/-- The words break R341, or a range leaves the scratchpad (R343). -/
def liveBad (ws : List Nat) : Bool :=
  let w := fun i => ws.getD i 0
  let n := fld (w 0) 2 0
  decide (4 < n) || fld (w 0) 31 4 != 0 || fld (w 3) 31 24 != 0 || fld (w 4) 31 16 != 0 || w 7 != 0 ||
  (List.range 4).any fun i =>
    let a := w (8 + 2 * i)
    let z := w (9 + 2 * i)
    if i < n then a % 32 != 0 || z % 32 != 0 || z == 0 || !inScratch a z else a != 0 || z != 0

/-- The words of the descriptor of a landed core; one that landed with its group under a guard of 0 names no live data (R43). -/
def liveWords (s : State) (k : Nat) : List Nat :=
  match (getCore s k).liveAddr with
  | some a => wordsOf 16 (ownRead s k a 64 (s.cycle + 1))
  | none => List.replicate 16 0

/-! ### Landed cores (R31, R340, R343) -/

/-- The cores of a task within its launch's ranks (R344). -/
def usedCores (s : State) (c : Nat) : List Nat := (List.range (getCluster s c).ctx.nranks).map fun r => 8 * c + r

/-- A landed core has let its results land and its streams drain (R31, R195). -/
def landedStill (c : Core) : Bool := c.seq == .landed && coreStill c

/-- Every core of a task has landed or retired, and one has landed (R340). -/
def allLanded (s : State) (c : Nat) : Bool :=
  let cs := (usedCores s c).map (getCore s)
  (cs.all fun x => landedStill x || x.seq == .retired) && cs.any fun x => x.seq == .landed

/-- Requests of the task have finished, paused ones aside (R220). -/
def requestsOver (s : State) (c : Nat) : Bool :=
  let cl := getCluster s c
  (ownRequests cl).all fun q => q.paused.isSome && q.active == 0

/-- The request of an operation of a graph is paused by a page fault, and nothing of it is under way (R220, R320). -/
def opPaused (s : State) (c g i : Nat) : Bool :=
  (ownRequests (getCluster s c)).any fun q => q.r.kind == .graph g i && q.paused.isSome && q.active == 0

/-- Fired graph operations of the task have finished (R329), paused ones aside (R220, R320). -/
def firedOver (s : State) (c : Nat) : Bool :=
  (getCluster s c).graphs.all fun x => match x.2 with
    | some g => !g.active || (!g.finishing && g.states.zipIdx.all fun y => y.1 != .fired || opPaused s c x.1 y.2)
    | none => true

/-- Writes into the task's scratchpad that are due through its engines have been performed, but for ticks and tokens (R181, R220). -/
def dueOver (s : State) (c : Nat) : Bool := (getCluster s c).due.all fun d => d.cls == 1 || d.cls == 2

/-- What is wrong with the descriptor of a landed core, as cause and detail: a tag in it (R102, R111), an uncorrectable error (R365), or what breaks
R341 (R343). -/
def liveError (s : State) (k : Nat) : Option (Nat × Nat) :=
  match (getCore s k).liveAddr with
  | none => none
  | some a =>
    match ownTag (getCore s k) a 64 (s.cycle + 1), errorIn s k a 64 with
    | some p, _ => some (p.cause, p.addr)
    | none, some x => some (0x31, x)
    | none, none => if liveBad (liveWords s k) then some (0x1A, 1) else none

/-- A live fault (R343), or what a tag or an error in the descriptor raises: on the landing bundle with every slot but E completed; the loop-bottom
processing has not taken effect. A core of a broadcast group gets the landing bundle again with the group's return (R42, R43). -/
def liveFault (k cause detail : Nat) (s : State) : State :=
  let c := getCore s k
  let cl := getCluster s (clusterOf k)
  let again := if cl.ctx.bcast && k % 8 != leadOf s (clusterOf k) then cl.history.take 1 else []
  let s := updFocus (updCore s k fun c => { c with seq := .running, line := again }) fun f => { f with core := k, counted := true }
  issued (trapBundle k c.pc c.liveMask (8, cause, detail, cause == 0x30 || cause == 0x31) s)

/-- The position after the landing bundle takes effect (R343), with the trace entry of a loop-back (R375). -/
def Core.leaveLanding (t : Nat) (c : Core) : Core :=
  match c.resumeAt with
  | none => { c with seq := .running }
  | some n =>
    let tr : List Trace := if n.xfer then [⟨3, (c.sched - 1) % 2 ^ 24, c.pc, n.pc⟩] else []
    let c := { c with seq := .running, pc := n.pc, xfer := n.xfer, loops := n.loops, nextIssue := max c.nextIssue t, resumeAt := none,
                      trace := (tr ++ c.trace).take 1024 }
    if n.ends then endCore t c else c

/-! ### Frames (R344, R348) -/

/-- Lines of 512 bytes that named views meet and that are dirty (R141), by rising number, each once (R379). -/
def liveLines (c : Core) (l : LiveSet) : List Nat :=
  let views := ((List.range 32).filter (bit l.vmask)).map (viewOf c 0) ++ ((List.range 16).filter (bit l.tmask)).map (viewOf c 1) ++
    ((List.range 16).filter (bit l.amask)).map (viewOf c 2)
  let named := (views.filter fun v => v.cfg).flatMap fun v => lines v.base v.extent
  (c.regs.dirty.filter fun x => x.2 && named.contains x.1).map Prod.fst

/-- A range joined to rising pieces that do not meet. -/
def joinRange (a n : Nat) : List (Nat × Nat) → List (Nat × Nat)
  | [] => [(a, n)]
  | (b, m) :: rest =>
    if a + n < b then (a, n) :: (b, m) :: rest
    else if b + m < a then (b, m) :: joinRange a n rest
    else joinRange (min a b) (max (a + n) (b + m) - min a b) rest

/-- The union of ranges as maximal pieces in rising order (R344). -/
def unionRanges (rs : List (Nat × Nat)) : List (Nat × Nat) := rs.foldl (fun acc r => joinRange r.1 r.2 acc) []

/-- Bytes of a frame (R344): used cores, saved lines, arrays, scratchpad ranges. -/
def frameBytes (cores nlines arrays : Nat) (ranges : List (Nat × Nat)) : Nat :=
  256 + 40960 + 8192 * cores + 544 * nlines + 8192 * arrays + (ranges.map fun r => 32 + r.2).sum

/-- The lowest free frame of a partition's pool that a size fits (R340, R348). -/
def freeFrame (p : Part) (size : Nat) : Option Nat :=
  if p.frsize = 0 ∨ 2 ^ p.frsize < size then none else (List.range p.nframes).find? fun n => !p.used.contains n

/-- The state with a function applied to a partition's registers. -/
def updPart (s : State) (m part : Nat) (f : Part → Part) : State :=
  updMod s m fun md => { md with parts := Tbl.set md.parts part (f (Tbl.get .reset md.parts part)) }

/-- Bytes that the device writes in a layout stated nowhere are open (log 9). -/
def openBytes (m pa n : Nat) (s : State) : State :=
  physWrite m pa ((List.range n).map fun i => Config.freeNat (s.free + i) % 256) { s with free := s.free + n }

/-- Records of a frame one after another: for each, a header of 32 bytes whose layout is open, then its bytes (R344). -/
def writeRecords (m : Nat) : List (List Nat) → Nat → State → State
  | [], _, s => s
  | bs :: rest, pa, s => writeRecords m rest (pa + 32 + bs.length) (physWrite m (pa + 32) bs (openBytes m pa 32 s))

/-- The frame of a task (R344): header, cluster and core records, the lines with their 512 bytes, the arrays, and the scratchpad ranges with
their bytes, in this order; the layout inside header, cluster, core and array records and inside the 32-byte headers is open (log 52). -/
def writeFrame (m pa cores arrays : Nat) (lines ranges : List (List Nat)) (s : State) : State :=
  let head := 256 + 40960 + 8192 * cores
  let s := writeRecords m lines (pa + head) (openBytes m pa head s)
  let mid := pa + head + 544 * lines.length
  writeRecords m ranges (mid + 8192 * arrays) (openBytes m mid (8192 * arrays) s)

/-- A frame goes back to its pool (R348). -/
def freeTheFrame (m part frame : Nat) (s : State) : State := updPart s m part fun p => { p with used := p.used.filter fun n => n != frame }

/-! ### What a save keeps (R344 to R346) -/

/-- A table with the entries of a mask. -/
def maskTbl {α : Type} (mask : Nat) (t : Tbl α) : Tbl α := t.filter fun x => bit mask x.1

/-- A stream register as a save at a landing point keeps it: held read entries are fetched again (R195). -/
def savedStream (st : Stream) : Stream :=
  if st.write then { st with slots := [] }
  else { st with slots := [], pos := match st.slots.find? SEntry.live with | some e => e.pos | none => st.pos }

/-- The core's array as R165 gives it. -/
def Core.clearArray (c : Core) : Core := { c with arrB := [], arrSum := [], sa := [], sb := [] }

/-- A landed core as its restore gives it back (R142, R176, R195, R344, R345). -/
def landedCore (t : Nat) (l : LiveSet) (c : Core) : Core :=
  let ls := liveLines c l
  let inLine := fun (a : Nat) => ls.contains (a / 512)
  let views := c.views.filter fun x => x.2.cfg &&
    (if x.1 < 32 then bit l.vmask x.1 else if x.1 < 48 then bit l.tmask (x.1 - 32) else bit l.amask (x.1 - 48))
  let regs : Regs := { c.regs with
    s := maskTbl l.smask c.regs.s, sTag := maskTbl l.smask c.regs.sTag, p := maskTbl l.pmask c.regs.p, pTag := maskTbl l.pmask c.regs.pTag,
    k := maskTbl l.kmask c.regs.k, kTag := maskTbl l.kmask c.regs.kTag, mem := c.regs.mem.filter fun x => inLine x.1,
    dirty := ls.foldl (fun t n => Tbl.set t n true) [], mTag := c.regs.mTag.filter fun x => inLine (32 * x.1),
    chk := c.regs.chk.filter fun x => ls.contains (4096 + x.1) }
  let c := c.leaveLanding t
  let c := if l.arr then c else c.clearArray
  { c with regs := regs, views := views, fcache := [], fills := [], trace := [], wd := 0
           streams := c.streams.filterMap fun x => if bit l.qmask x.1 then some (x.1, x.2.map savedStream) else none }

/-- A retired core as its restore gives it back: it names no live data, and it stays retired (R142, R344). -/
def retiredCore (c : Core) : Core := { landedCore 0 (liveSetOf []) c with seq := c.seq }

/-- The upper words, with their holder fields, of the scratchpad sync words that a task's cores hold (R213, R220). -/
def heldWords (s : State) (c : Nat) : List (Nat × List Nat) :=
  let cl := getCluster s c
  (usedCores s c).flatMap fun k => (getCore s k).heldBind.filterMap fun b =>
    match cl.bindings[b]? with
    | some x => if x.virt then none else some (x.sync + 4, readScratch cl (x.sync + 4) 4)
    | none => none

/-- What a save keeps of the cluster. -/
def savedCluster (whole : Bool) (cl : Cluster) : Cluster :=
  { Cluster.reset with
    scratch := if whole then cl.scratch else [], codeOld := cl.codeOld, bindings := cl.bindings, swapped := cl.swapped, pubs := cl.pubs,
    graphs := cl.graphs, ctx := cl.ctx, cv := cl.cv, recon := cl.recon, reconAt := cl.reconAt, history := cl.history,
    stopped := cl.stopped && whole && !cl.preempt, failedCopy := cl.failedCopy }

/-- The cluster's task has left it: the cluster is free. -/
def leaveCluster (c : Nat) (s : State) : State :=
  let s := (List.range 8).foldl (fun s r => setCore s (8 * c + r) .reset) s
  updCluster s c fun cl =>
    { cl with bindings := [], swapped := [], pubs := [], graphs := [], cache := [], ctx := .none, task := .none, preempt := false, holdoff := 0,
              wholeSave := false, cv := none, recon := 0, reconAt := none, history := [], stopped := false, failedCopy := false }

/-- Requests of a launch that a page-ready has made ready go on (R231). -/
def resumeReady (c uid : Nat) (s : State) : State :=
  updCluster s c fun cl =>
    { cl with queues := cl.queues.map fun y => (y.1, y.2.map fun q =>
        if q.uid = uid ∧ (q.paused.any fun f => f.ready) then { q with paused := none } else q) }

/-- A save is abandoned (R340): counted, reported, and no request goes to the task for 1,000,000 ns; its requests that are ready go on (R231). -/
def abandonSave (c : Nat) (s : State) : State :=
  let m := c / 96
  let cl := getCluster s c
  let s := updPart s m cl.part fun p => { p with abandon := (p.abandon + 1) % 2 ^ 32 }
  let s := tellHost (.abandoned m cl.part cl.ctx.uid c) s
  updCluster (resumeReady c cl.ctx.uid s) c fun x => { x with preempt := false, wholeSave := false, task := .running, holdoff := timeOf s m + 1000000 }

/-- No launch runs on any cluster of a die. -/
def dieIdle (s : State) (d : Nat) : Bool :=
  (List.range 12).all fun i => (getCluster s (12 * d + i)).task == .none

/-- A die without a running launch is IDLE (R403). -/
def restDie (d : Nat) (s : State) : State := if dieIdle s d then updDie s d fun x => { x with power := .idle } else s

/-- The marks of the register spaces and the scratchpad of a cluster, and those of its fetch caches (R394). -/
def clusterMark (c : Nat) (x : Nat × Nat × Nat) : Bool := ((x.1 == 1 || x.1 == 4) && x.2.1 / 8 == c) || (x.1 == 2 && x.2.1 == c)

/-- A mark of a saved task lies in what its frame holds: a saved line of a core, the scratchpad whole, or one of its ranges (R343, R344). -/
def Saved.keeps (v : Saved) (x : Nat × Nat × Nat) : Bool :=
  if x.1 == 1 then (Tbl.get Core.reset v.cores x.2.1).regs.dirty.any fun y => y.2 && y.1 == x.2.2 / 512
  else x.1 == 2 && (v.whole || v.ranges.any fun r => (List.range r.2.length).any fun i =>
    meets x.2.2 8 (physAddr false v.cl.swapped v.cl.bindings 0 (r.1 + i)) 1)

/-- What a frame brings back takes the place of what the cluster's stores held: the marks of its cores go, its own come back. -/
def bringMarks (c : Nat) (v : Saved) (s : State) : State :=
  { s with marks := (s.marks.filter fun x => !clusterMark c x || (x.1 == 2 && !v.whole)) ++ v.marks.filter v.keeps }

/-- A task has been saved: its record, its launch's count; the cluster is free. -/
def recordSave (c : Nat) (v : Saved) (s : State) : State :=
  let m := c / 96
  let ready := allReady s c v.uid
  let v := { v with since := if ready then timeOf s m else 2 ^ 64, marks := s.marks.filter (clusterMark c) }
  let s := updMod s m fun md => { md with saves := md.saves ++ [v] }
  restDie (c / 12) (leaveCluster c (updLaunch s m v.uid fun l => { l with nsave := l.nsave + 1 }))

/-! ### The save engine (R347, R352) -/

/-- The hypervisor has pre-empted the cluster's partition (R352). -/
def hyperWanted (s : State) (c : Nat) : Bool := (Tbl.get Part.reset (getMod s (c / 96)).parts (getCluster s c).part).preempted

/-- The engine begins on a frame, in chunks of 4,096 bytes of an open time each: a save takes the frame, a restore has it. -/
def beginEngine (m part : Nat) (dir whole : Bool) (c uid frame size : Nat) (s : State) : State :=
  let (d, s) := openAny s
  updPart s m part fun p =>
    { p with act := true, dir := dir, frame := frame, lcl := c % 96, offset := 0, uid := uid, whole := whole, size := size, due := s.cycle + 1 + d
             used := if dir then p.used else frame :: p.used }

/-- The engine has done 4,096 bytes more of its frame. -/
def engineChunk (m part : Nat) (s : State) : State :=
  let (d, s) := openAny s
  updPart s m part fun p => { p with offset := p.offset + 4096, due := s.cycle + 1 + d }

/-- The engine rests (log 100). -/
def engineRest (m part : Nat) (s : State) : State :=
  updPart s m part fun p => { p with act := false, dir := false, frame := 0, lcl := 0, offset := 0, uid := 0, whole := false, size := 0, due := 0 }

/-- What the engine of a partition does next for the save of a task, or for its restore. -/
inductive Turn where
  /-- it waits: for its chunk, for another task, or for the hypervisor, which has pre-empted the partition (R352) -/
  | wait
  | begin_
  | chunk
  /-- the last chunk of the frame is done -/
  | last
  deriving DecidableEq, Repr

@[inherit_doc Turn] def turnOf (s : State) (p : Part) (dir : Bool) (c uid : Nat) : Turn :=
  if p.preempted then .wait
  else if !p.act then .begin_
  else if !p.has dir c uid || decide (s.cycle < p.due) then .wait
  else if p.size ≤ p.offset + 4096 then .last
  else .chunk

/-- Line records of a frame in ascending order of line number, those of one number in the order of their cores (R379). -/
def orderLines (xs : List (Nat × List Nat)) : List (List Nat) := (sortBy (fun a b => decide (a.1 ≤ b.1)) xs).map Prod.snd

/-- A save at a landing point, once all is still (R340 to R344): the engine writes the frame, and the task is SAVED at its end. -/
def saveLanded (c : Nat) (s : State) : State :=
  let cl := getCluster s c
  let m := c / 96
  let ks := usedCores s c
  let live := fun k => if (getCore s k).seq = .landed then some (liveSetOf (liveWords s k)) else none
  let nl := (ks.map fun k => match live k with | some l => (liveLines (getCore s k) l).length | none => 0).sum
  let na := (ks.filter fun k => match live k with | some l => l.arr | none => false).length
  let rs := unionRanges (ks.flatMap fun k => match live k with | some l => l.ranges | none => [])
  let size := frameBytes ks.length nl na rs
  let p := partOf s c
  match turnOf s p false c cl.ctx.uid with
  | .wait => s
  | .chunk => engineChunk m cl.part s
  | .begin_ =>
    match freeFrame p size with
    | none =>
      ks.foldl (fun s k => if (getCore s k).seq = .landed then updCore s k (Core.leaveLanding (s.cycle + 1)) else s)
        (updCluster (abandonSave c s) c fun x => { x with stopped := false })
    | some f => beginEngine m cl.part false false c cl.ctx.uid f size s
  | .last =>
    let cores := ks.map fun k => (k, match live k with | some l => landedCore 0 l (getCore s k) | none => retiredCore (getCore s k))
    let lines := orderLines (ks.flatMap fun k => match live k with
      | some l => (liveLines (getCore s k) l).map fun n => (n, lineBytes (getCore s k) n)
      | none => [])
    let ranges := rs.map fun r => (r.1, readScratch cl r.1 r.2)
    let v : Saved := { uid := cl.ctx.uid, cluster := c, part := cl.part, frame := p.frame, whole := false, hyper := false, cores := cores,
                       ranges := ranges ++ heldWords s c, cl := savedCluster false cl, since := 0, size := p.size, marks := [] }
    recordSave c v (engineRest m cl.part (writeFrame m (p.frbase + p.frame * 2 ^ p.frsize) ks.length na lines (ranges.map Prod.snd) s))

/-- TASK_SAVE (R31, R340, R343): each landed core's live set is read once it is still; the save waits for all. -/
def taskSaveMove (c : Nat) (s : State) : State :=
  if (getCluster s c).task ≠ .landing ∨ enginesHeld s c then s else
  let bad := if guestSave s c then [] else (usedCores s c).filterMap fun k =>
    if landedStill (getCore s k) then (liveError s k).map fun e => (k, e) else none
  if !bad.isEmpty then bad.foldl (fun s x => liveFault x.1 x.2.1 x.2.2 s) s
  else if allLanded s c && requestsOver s c && firedOver s c && dueOver s c then saveLanded c s else s

@[inherit_doc taskSaveMove] def execTaskSave (s : State) : Host.Outcome State Fault Refusal := .next (taskSaveMove s.place s)

/-! ### Whole-context saves (R230, R264, R346, R352) -/

/-- A task that is not at its end is on the cluster: a core of it has not retired, or a request of it has not finished (R230). -/
def taskLives (s : State) (c : Nat) : Bool :=
  let cl := getCluster s c
  let seqs := (usedCores s c).map fun k => (getCore s k).seq
  (cl.task == .running || cl.task == .landing) &&
  ((seqs.any fun q => match q with | .off | .retired | .fatal => false | _ => true) ||
    (!(ownRequests cl).isEmpty && seqs.all fun q => q == .retired))

/-- Every core of a task has retired, and the requests they issued have finished. -/
def coresOver (s : State) (c : Nat) : Bool :=
  ((usedCores s c).all fun k => (getCore s k).seq == .retired && (getCore s k).rels.isEmpty) && (ownRequests (getCluster s c)).isEmpty

/-- Blocks of a cluster's phase that are left: none under RMODE = 1 or without a descriptor. -/
def reconLeft (cl : Cluster) : Bool :=
  match cl.cv with
  | some d => !d.rmode && decide (cl.recon < d.blocks)
  | none => false

/-- A request of the launch has failed so that the launch fails: phases that have not begun are cancelled (R204, R310). -/
def copyFailed (s : State) (m uid : Nat) : Bool :=
  ((List.range 96).any fun i => (getCluster s (96 * m + i)).ctx.uid == uid && (getCluster s (96 * m + i)).failedCopy) ||
  (getMod s m).saves.any fun v => v.uid == uid && v.cl.failedCopy

/-- A cluster's phase has blocks left that are to be done. -/
def reconDue (s : State) (c : Nat) : Bool :=
  let cl := getCluster s c
  reconLeft cl && (cl.task == .recon || !copyFailed s (c / 96) cl.ctx.uid)

/-- The task is one that the hypervisor's save of its partition takes (R352): any that stands on the cluster, one that waits for the other tasks of
its launch among them. A reconstruction phase overlaps no save: the save waits for its end (R310; log 107). -/
def taskStands (s : State) (c : Nat) : Bool :=
  (match (getCluster s c).task with | .running | .landing | .recon => true | _ => false) && !(reconDue s c && coresOver s c)

/-- No core of the task has a call outstanding or a held entry in its kitty (R264). -/
def callsOver (s : State) (c : Nat) : Bool := (usedCores s c).all fun k => (getCore s k).ra.isNone && (getCore s k).kitty.isEmpty

/-- The save begins: the task's sequencers stop, their results held as pending writes (R230). -/
def beginWhole (c : Nat) (s : State) : State :=
  (usedCores s c).foldl (fun s k => updCore s k (Core.freeze (s.cycle - 1))) (updCluster s c fun x => { x with task := .saving })

/-- A load has not read. -/
def unread (c : Core) : Bool :=
  c.frozenHeld.any fun x => match x.2.eff with | .loadS .. | .loadV .. => true | .amoS _ none => true | _ => false

/-- Everything that the stopped cores had under way in the scratchpad has been performed. -/
def coresQuiet (s : State) (c : Nat) : Bool :=
  (usedCores s c).all fun k =>
    let x := getCore s k
    x.pend.isEmpty && x.stores.isEmpty && !unread x && (match x.wait with | .graph .. => false | _ => true)

/-- A stopped core as a whole-context save keeps it (R143, R346): everything, but for its fetch cache and its trace ring; one that has landed
stands after its landing bundle (R343). -/
def wholeCore (c : Core) : Core :=
  { (if c.seq = .landed then c.leaveLanding 0 else c) with fcache := [], fills := [], trace := [] }

/-- A stopped core goes on where it stands, in cycle R at the earliest. -/
def goOn (R k : Nat) (s : State) : State :=
  let s := updCore s k (Core.thaw R)
  retestWait k R (if (getCore s k).seq = .landed then updCore s k (Core.leaveLanding R) else s)

/-- In a broadcast group that lands, every core has landed on the lead's bundle (R43). -/
def landingOver (s : State) (c : Nat) : Bool :=
  !(getCluster s c).ctx.bcast || (let ks := usedCores s c
                                  ks.all (fun k => (getCore s k).seq == .landed) || ks.all fun k => (getCore s k).seq != .landed)

/-- A stopped core as the hypervisor's save keeps it: one whose guest save is in progress stands as it is, so that the save can go on (R352). -/
def hyperCore (s : State) (c k : Nat) : Core := if guestSave s c then getCore s k else wholeCore (getCore s k)

/-- A whole-context save (R346, R352): the hypervisor's goes to its own area; a guest's frame is written by the engine, or the save is abandoned and
the task runs on. -/
def saveWhole (c : Nat) (s : State) : State :=
  let cl := getCluster s c
  let m := c / 96
  let hyper := hyperWanted s c
  let ks := usedCores s c
  let nl := (ks.map fun k => ((getCore s k).regs.dirty.filter fun x => x.2).length).sum
  let size := frameBytes ks.length nl ks.length [(0x1000000, 0x800000)]
  let p := partOf s c
  let v : Saved := { uid := cl.ctx.uid, cluster := c, part := cl.part, frame := 0, whole := true, hyper := hyper,
                     cores := ks.map fun k => (k, hyperCore s c k), ranges := [], cl := savedCluster true cl, since := 0, size := 0,
                     marks := [] }
  if hyper then recordSave c v s else
  match turnOf s p false c cl.ctx.uid with
  | .wait => s
  | .chunk => engineChunk m cl.part s
  | .last =>
    let lines := orderLines (ks.flatMap fun k =>
      ((getCore s k).regs.dirty.filter fun x => x.2).map fun x => (x.1, lineBytes (getCore s k) x.1))
    recordSave c { v with frame := p.frame, size := p.size, cores := ks.map fun k => (k, wholeCore (getCore s k)) }
      (engineRest m cl.part (writeFrame m (p.frbase + p.frame * 2 ^ p.frsize) ks.length ks.length lines [readScratch cl 0x1000000 0x800000] s))
  | .begin_ =>
    match freeFrame p size with
    | some f => beginEngine m cl.part false true c cl.ctx.uid f size s
    | none =>
      ks.foldl (fun s k => goOn (s.cycle + 1) k s) (updCluster (abandonSave c s) c fun x => { x with stopped := x.stopped && !cl.preempt })

/-- WHOLE_CONTEXT_SAVE (R230, R346, R352). -/
def wholeSaveMove (c : Nat) (s : State) : State :=
  let cl := getCluster s c
  if enginesHeld s c then s
  else if cl.task = .saving then (if coresQuiet s c && requestsOver s c && firedOver s c && dueOver s c then saveWhole c s else s)
  else if ((cl.wholeSave && !guestSave s c && taskLives s c) || (hyperWanted s c && taskStands s c)) &&
    callsOver s c && landingOver s c then beginWhole c s
  else s

@[inherit_doc wholeSaveMove] def execWholeContextSave (s : State) : Host.Outcome State Fault Refusal := .next (wholeSaveMove s.place s)

/-! ### Restores (R142, R231, R345) -/

/-- Blocks that a sequencer fills before its first bundle (R60): the bundle's and the one after it. -/
def entryBlocks (pc : Nat) : List Nat := [pc / 512, pc / 512 + 1]

/-- A sequencer fills its entry blocks, each in an open time. -/
def fillEntry (k : Nat) (s : State) : State :=
  askBlocks k (entryBlocks (getCore s k).pc) (updCore s k fun c => { c with fcache := [], fills := [], seq := .entry })

/-- A saved core is loaded and goes on from cycle R: one that fetches for itself, in its own handler in a broadcast group too (R42), fills its
fetch cache first (R380). -/
def restoreCore (R lead k : Nat) (x : Core) (s : State) : State :=
  let s := setCore s k (x.thaw R)
  let s := retestWait k R s
  let fetches := k == lead || onItsOwn s k
  match x.seq with
  | .running | .entry => if fetches then fillEntry k s else updCore s k fun y => { y with seq := .running }
  | _ => s

/-- A saved task comes back to its cluster (R345); its paused requests go on in the first cycle after the restore (R220, R231), and its graphs take
the signals that have waited (R329). Where its launch has failed meanwhile, its cores stop then (R347). A task whose guest save the hypervisor has interrupted comes back into that save (R352). -/
def restoreTask (c : Nat) (v : Saved) (s : State) : State :=
  let m := c / 96
  let p := Tbl.get Part.reset (getMod s m).parts v.part
  let held := v.hyper && p.has false c v.uid
  let s := updCluster s c fun cl =>
    { cl with bindings := v.cl.bindings, swapped := v.cl.swapped, pubs := v.cl.pubs, graphs := v.cl.graphs, ctx := v.cl.ctx, cv := v.cl.cv,
              history := v.cl.history, stopped := v.cl.stopped, failedCopy := v.cl.failedCopy, cache := []
              recon := v.cl.recon, reconAt := v.cl.reconAt
              task := if held then (if p.whole then .saving else .landing) else if 0 < v.cl.recon then .recon else .running, preempt := held && !p.whole
              scratch := if v.whole then v.cl.scratch else cl.scratch }
  let s := updDie s (c / 12) fun d => { d with power := .active }
  let s := if held then s else resumeReady c v.uid s
  let s := updCluster s c fun cl => { cl with wholeSave := (ownRequests cl).any fun q => q.paused.isSome }
  let s := v.ranges.foldl (fun s r =>
    clearScratchMarks (updCluster s c fun cl => { cl with scratch := writeHalf cl false r.1 r.2 }) c false r.1 r.2.length) s
  let s := bringMarks c v s
  let s := updCluster s c fun cl => { cl with codeOld := if v.whole then v.cl.codeOld else cl.scratch }
  let lead := match v.cores.find? fun x => takesPart x.2.seq with | some x => x.1 | none => 8 * c
  let s := v.cores.foldl (fun s x => if held && p.whole then setCore s x.1 x.2 else restoreCore (s.cycle + 1) lead x.1 x.2 s) s
  let s := if v.hyper then s else freeTheFrame m v.part v.frame s
  let s := updMod s m fun md => { md with saves := md.saves.filter fun y => !(y.uid == v.uid && y.cluster == c) }
  let s := (List.range 16).foldl (fun s g => if runs s c g then takeHeld c g s else s) s
  match (getMod s m).launches.find? fun l => l.uid == v.uid with
  | some l => if l.state = .failing then stopLaunch m v.uid l.cause 0 s else s
  | none => s

/-- The saved task of a launch on a cluster. -/
def savedOn (s : State) (c uid : Nat) : Option Saved := (getMod s (c / 96)).saves.find? fun v => v.cluster == c && v.uid == uid

/-- TASK_RESTORE (R345, R352): the engine reads the frame, and the task runs at its end. -/
def taskRestoreMove (c : Nat) (s : State) : State :=
  if (getCluster s c).task ≠ .restoring then s else
  match savedOn s c (getCluster s c).ctx.uid with
  | none => s
  | some v =>
    let m := c / 96
    match turnOf s (Tbl.get Part.reset (getMod s m).parts v.part) true c v.uid with
    | .wait => again 1 c .taskRestore s
    | .begin_ => again 1 c .taskRestore (beginEngine m v.part true v.whole c v.uid v.frame v.size s)
    | .chunk => again 1 c .taskRestore (engineChunk m v.part s)
    | .last => restoreTask c v (engineRest m v.part s)

@[inherit_doc taskRestoreMove] def execTaskRestore (s : State) : Host.Outcome State Fault Refusal := .next (taskRestoreMove s.place s)

/-- ABANDON_HOLDOFF_EXPIRY (R335): requests may go to the task again. -/
def execAbandonHoldoffExpiry (s : State) : Host.Outcome State Fault Refusal :=
  let c := s.place
  .next (if (getCluster s c).holdoff ≠ 0 ∧ (getCluster s c).holdoff ≤ timeOf s (c / 96) then updCluster s c fun x => { x with holdoff := 0 } else s)

/-! ### Partitions pre-empted by the hypervisor (R352) -/

/-- An operation of the hypervisor alone (R350, R352): any other caller's is refused (R354). The event's place names the caller (log 13). -/
def forHypervisor (m : Nat) (s : State) (k : State → State) : State := if s.place = 0 then k s else refuseOp m s

/-- PARTPREEMPT (R352): every task of the partition takes a whole-context save. -/
def execPartPreempt (m part : Nat) (s : State) : Host.Outcome State Fault Refusal :=
  .next (unlessPaused m (.partPreempt m part) s fun s =>
    forHypervisor m s fun s => answerDone m (updPart s m part fun p => { p with preempted := true }))

/-- PARTRESUME (R352): the hypervisor's own save is restored first; a task whose save has not been written stays on its cluster. -/
def partResumeMove (m part : Nat) (s : State) : State :=
  unlessPaused m (.partResume m part) s fun s =>
  forHypervisor m s fun s =>
  let mine := (getMod s m).saves.filter fun v => v.part == part && v.hyper
  let s := updPart s m part fun p => { p with preempted := false }
  let s := mine.foldl (fun s v => if (getCluster s v.cluster).task = .none then restoreTask v.cluster v s else s) s
  let stuck := ((List.range 96).map fun i => 96 * m + i).filter fun c =>
    (getCluster s c).part == part && (getCluster s c).task == .saving && !(getCluster s c).wholeSave
  answerDone m (stuck.foldl (fun s c =>
    (usedCores s c).foldl (fun s k => retestWait k (s.cycle + 1) (updCore s k (Core.thaw (s.cycle + 1))))
      (updCluster (resumeReady c (getCluster s c).ctx.uid s) c fun x =>
        { x with task := if x.preempt then .landing else if 0 < x.recon then .recon else .running })) s)

@[inherit_doc partResumeMove] def execPartResume (m part : Nat) (s : State) : Host.Outcome State Fault Refusal := .next (partResumeMove m part s)

end Sys2Proof.Machine
end

