-- ==== Sys2Proof/Machine/Launch.lean ====
section
/-! DEFINITION. Sys2Proof/Machine/Launch.lean: the launch unit (R330 to R339, R347): queues and their rings (R384 to R389), dependences, choice and
placement (R45, R334, R335), LOADING, weight-store writes, the reconstruction phase (R300), completion and the launch watchdog. -/

namespace Sys2Proof.Machine

/-! ### Rings (R384 to R389) -/

/-- Slots of a queue's rings. -/
def Queue.slots (q : Queue) : Nat := 2 ^ q.qlog

/-- A count that wraps modulo 2^32, less another. -/
def sub32 (a b : Nat) : Nat := (a + 2 ^ 32 - b % 2 ^ 32) % 2 ^ 32

/-- CHK of a packet's words (R331): words 2 to 15, word i rotated left by i bits. -/
def chkOf (ws : List Nat) : Nat :=
  ((List.range' 2 14).map fun i => let x := ws.getD i 0; x * 2 ^ i % 2 ^ 32 + x / 2 ^ (32 - i)).sum % 2 ^ 32

/-- The sequence number expected of packet p (R385). -/
def Queue.expected (q : Queue) : Nat := q.qpos / q.slots % 65535 + 1

/-- The words agree with FOLD and CHK (R386, R387). -/
def packetAgrees (ws : List Nat) : Bool :=
  let chk := ws.getD 1 0
  fld (ws.getD 0 0) 31 16 == Nat.xor (chk / 2 ^ 16) (chk % 2 ^ 16) && chkOf ws == chk

/-- The physical address of a ring access, or whether its entry is absent (R389). -/
def ringPlace (md : Module) (q : Queue) (va n : Nat) : Bool ⊕ Nat :=
  match walkFrom md 4 q.qroot (va % 2 ^ 57) with
  | .absent => .inl true
  | .bad => .inl false
  | .leaf _ pa size _ _ _ => let a := pa + va % size; if hasTarget a n then .inr a else .inl false

/-- The interrupt of a queue (R388). -/
def queueIrq (m n : Nat) (s : State) : State :=
  let q := queueAt s m n
  if q.irqen then tellHost (.interrupt m q.irqv q.part 0) s else s

/-- A queue pauses (R387, R389): for a page fault of a ring with its record, of a read or of a write, or for a failed read. -/
def pauseQueue (m n : Nat) (fault write : Bool) (va : Nat) (s : State) : State :=
  let s := if fault then sendFault m (queueAt s m n).part [0, 0, b2n write, va / 65536 * 65536, n, 1023, timeOf s m] s else s
  queueIrq m n (updQueue s m n fun q => { q with pause := true, flt := q.flt || fault, err := q.err || !fault })

/-- The packet at QPOS lies less than N above QCACK (R385): the records of device submissions, which QPOS does not count, can take QCACK above
QPOS. -/
def Queue.inRing (q : Queue) : Bool := let d := sub32 q.qpos q.qcack; decide (d < q.slots) || decide (2 ^ 31 ≤ d)

/-- The fetcher may read the packet at QPOS (R385, R391); of a module that is not in service it reads none (R402). -/
def mayFetch (s : State) (m n : Nat) : Bool :=
  let q := queueAt s m n
  (getMod s m).up && q.go && !q.pause && q.inRing && decide ((getMod s m).fwPause ≤ timeOf s m)

/-- A read of the packet at QPOS (R385, R387, R389). -/
def readPacket (m n : Nat) (s : State) : State :=
  if !mayFetch s m n then s else
  let q := queueAt s m n
  let va := q.qbase + 64 * (q.qpos % q.slots)
  match ringPlace (getMod s m) q va 64 with
  | .inl fault => pauseQueue m n fault false va s
  | .inr pa =>
    let ws := wordsOf 16 (physRead (getMod s m) pa 64)
    let now := timeOf s m
    if fld (ws.getD 0 0) 15 0 ≠ q.expected then updQueue s m n fun q => { q with retries := 0, poll := now + 10000 }
    else if packetAgrees ws && !(!isHost pa && hbmMarked (getMod s m) pa 64) then
      updQueue s m n fun q => { q with retries := 0, poll := now + 10000, qpos := q.qpos + 1, pkts := q.pkts ++ [⟨ws, false, false⟩] }
    else if 16 ≤ q.retries then pauseQueue m n false false va (updQueue s m n fun q => { q with retries := 0 })
    else updQueue s m n fun q => { q with retries := q.retries + 1, poll := now + 1000 }

/-- QUEUE_DOORBELL (R385). -/
def execQueueDoorbell (m n : Nat) (s : State) : Host.Outcome State Fault Refusal :=
  .next (afterHeld m (.queueDoorbell m n) s fun s => readPacket m n s)

/-- QUEUE_POLL_TIMER (R385). -/
def execQueuePollTimer (m n : Nat) (s : State) : Host.Outcome State Fault Refusal :=
  .next (if (queueAt s m n).retries = 0 ∧ (queueAt s m n).poll ≤ timeOf s m then readPacket m n s else s)

/-- PACKET_READ (R387): the packet is read again. -/
def execPacketRead (m n : Nat) (s : State) : Host.Outcome State Fault Refusal :=
  .next (if 0 < (queueAt s m n).retries ∧ (queueAt s m n).poll ≤ timeOf s m then readPacket m n s else s)

/-- GO is written with 1 (R384, R387, R389): a pause ends, and the access that paused is made again. -/
def goQueue (m n : Nat) (s : State) : State :=
  readPacket m n (updQueue s m n fun q =>
    let q := { q with go := true, pause := false, retries := 0 }
    if q.qpos % 2 ^ 32 = 0 ∧ q.qcpos = 0 ∧ q.qcack = 0 then { q with qpos := 0, qcpos := 0 } else q)

/-- QUEUE_GO (R384). -/
def execQueueGo (m caller n : Nat) (s : State) : Host.Outcome State Fault Refusal :=
  .next (afterHeld m (.queueGo m caller n) s fun s => if mayCall caller (queueAt s m n).part then goQueue m n s else s)

/-- QUEUE_ERR_CLEAR (R384): ERR and FLT are cleared by writing 1. -/
def execQueueErrClear (m caller n : Nat) (err flt : Bool) (s : State) : Host.Outcome State Fault Refusal :=
  .next (afterHeld m (.queueErrClear m caller n err flt) s fun s =>
    if mayCall caller (queueAt s m n).part then updQueue s m n fun q => { q with err := q.err && !err, flt := q.flt && !flt } else s)

/-- QUEUE_COMPLETION_ACK (R384, R388). -/
def execQueueCompletionAck (m caller n v : Nat) (s : State) : Host.Outcome State Fault Refusal :=
  .next (afterHeld m (.queueCompletionAck m caller n v) s fun s =>
    if mayCall caller (queueAt s m n).part then updQueue s m n fun q => { q with qcack := v } else s)

/-! ### Packets and launches (R330, R332, R336) -/

/-- Fields of a packet's words (R330). -/
def pktKind (ws : List Nat) : Nat := fld (ws.getD 4 0) 19 18
@[inherit_doc pktKind] def pktJob (ws : List Nat) : Nat := fld (ws.getD 4 0) 15 0
@[inherit_doc pktKind] def pktLid (ws : List Nat) : Nat := ws.getD 5 0
@[inherit_doc pktKind] def pktArg (ws : List Nat) : Nat := pairWord (fun i => ws.getD i 0) 2
@[inherit_doc pktKind] def pktTmpl (ws : List Nat) : Nat := pairWord (fun i => ws.getD i 0) 10
@[inherit_doc pktKind] def pktDepAddr (ws : List Nat) : Nat := pairWord (fun i => ws.getD i 0) 8
@[inherit_doc pktKind] def pktCtl (ws : List Nat) : Option Nat := if bit (ws.getD 4 0) 22 then some (fld (ws.getD 4 0) 27 24) else none

/-- The dies of a module that a mask of 8 bits names. -/
def maskDies (m mask : Nat) : List Nat := ((List.range 8).filter (bit mask)).map fun i => 8 * m + i

/-- A weight-store write packet that cannot be served (R330, R351): its length, its die mask, its destination, or a store of another partition. -/
def writeBad (s : State) (m part : Nat) (ws : List Nat) : Bool :=
  let n := pktArg ws % 2 ^ 32
  let dies := maskDies m (fld (pktArg ws) 39 32)
  n == 0 || n % 32 != 0 || dies.isEmpty || !inWeight (ws.getD 12 0) n || !dies.all fun d => (getDie s d).owner == part

/-- The packet completes with STATUS 8 (R332). -/
def packetBad (s : State) (m part : Nat) (ws : List Nat) : Bool :=
  let w := fun i => ws.getD i 0
  pktKind ws == 3 || bit (w 4) 23 || fld (w 4) 31 28 != 0 || w 13 != 0 || w 14 != 0 || w 15 != 0 || decide (2 ^ 52 ≤ pktDepAddr ws) ||
  decide (2 ^ 52 ≤ pktTmpl ws) || pktLid ws == 0 || !jobOn s m (pktJob ws) || (partOfJob s m (pktJob ws) != 0 && partOfJob s m (pktJob ws) != part) ||
  (bit (w 4) 21 && !hasTarget (pktDepAddr ws) 8) || (pktKind ws == 1 && writeBad s m part ws)

/-- The launch at the head of a queue: its packet has not left the head (R333). -/
def headLaunch (md : Module) (n : Nat) : Option Launch :=
  md.launches.find? fun l => l.queue == n && (l.state == .waiting || l.state == .ready)

/-- A completion record's values (R332), less its TEND: they wait for their write. -/
def pushRecord (m n uid status level cause : Nat) (ws : List Nat) (nsave tstart : Nat) (s : State) : State :=
  updQueue s m n fun q => { q with comps := q.comps ++ [(uid, [status, level, cause, pktLid ws, pktJob ws, nsave, tstart])] }

/-- The head packet of a queue completes without running (R332, R333). -/
def dropHead (m n status : Nat) (ws : List Nat) (s : State) : State :=
  let s := updMod s m fun md => { md with launches := md.launches.filter fun l => !(l.queue == n && (l.state == .waiting || l.state == .ready)) }
  pushRecord m n 0 status 0 0 ws 0 0 (updQueue s m n fun q => { q with pkts := q.pkts.drop 1 })

/-! ### Dependences (R337, R338) -/

/-- What the launch unit knows of a launch identifier of a job. -/
inductive Dep where
  | unknown | pending | failed | met
  deriving DecidableEq, Repr

/-- DEPL of a packet (R337); a launch that has ended completes with its record, and is pending until then. -/
def depOf (md : Module) (n : Nat) (ws : List Nat) : Dep :=
  if !bit (ws.getD 4 0) 20 then .met else
  let job := pktJob ws
  let id := ws.getD 6 0
  let queued := md.queues.any fun x => (if x.1 = n then x.2.pkts.drop 1 else x.2.pkts).any fun p => pktJob p.words == job && pktLid p.words == id
  let running := md.launches.any fun l => !(l.queue == n && (l.state == .waiting || l.state == .ready)) && l.job == job && pktLid l.words == id
  let ended := md.queues.any fun x => x.2.comps.any fun r => r.2.getD 4 0 == job && r.2.getD 3 0 == id
  if queued || running || ended then .pending
  else match md.recent.find? fun r => r.1 == job && r.2.1 == id with
    | some r => if r.2.2 = 0 then .met else .failed
    | none => if pktLid ws = id then .pending else .unknown

/-- DEPW of a packet is met (R337). -/
def depwMet (md : Module) (ws : List Nat) : Bool :=
  !bit (ws.getD 4 0) 21 || decide (ws.getD 7 0 ≤ leNat (physRead md (pktDepAddr ws) 4))

/-- A template breaks R69, or the conditions of R297 on LATTICE and COVLVL alone (R338); an ENTRY that is no multiple of 4 breaks it too
(log 78). -/
def templateBad (ws : List Nat) : Bool :=
  let w := fun i => ws.getD i 0
  let ncl := fld (w 1) 6 0
  let nrank := fld (w 1) 11 8
  let wdog := fld (w 1) 29 24
  let lvl := fld (w 3) 2 0
  let code := fld (w 3) 31 16
  w 0 % 4 != 0 || !inFetch (w 0) 4 || ncl == 0 || decide (96 < ncl) || bit (w 1) 7 || nrank == 0 || decide (8 < nrank) || fld (w 1) 15 13 != 0 ||
  fld (w 1) 23 16 == 0 || decide (wdog < 10) || decide (32 < wdog) || fld (w 1) 31 30 != 0 || (bit (w 1) 12 && (nrank != 8 || fld (w 2) 3 0 != 0)) ||
  decide (5 < lvl) || fld (w 3) 15 3 != 0 || fld code 1 0 == 3 || decide (5 < fld code 4 2) || fld code 15 13 != 0 || fld code 4 2 != lvl ||
  decide (64 < fld (w 4) 6 0) || fld (w 4) 31 7 != 0 || w 6 != 0 || w 7 != 0

/-- The words of a template that can be read (R338). -/
def templateAt (md : Module) (pa : Nat) : Option (List Nat) :=
  if pa % 32 ≠ 0 ∨ !hasTarget pa 32 ∨ (!isHost pa && hbmMarked md pa 32) then none else some (wordsOf 8 (physRead md pa 32))

/-- Every dependence of a head launch is met (R336, R338). -/
def dependencesMet (m n : Nat) (l : Launch) (s : State) : State :=
  let ready := fun (t : List Nat) (s : State) => updLaunch s m l.uid fun l => { l with state := .ready, tmpl := t, eligible := timeOf s m }
  match pktKind l.words with
  | 0 => match templateAt (getMod s m) (pktTmpl l.words) with
    | some t => if templateBad t then dropHead m n 1 l.words s else ready t s
    | none => dropHead m n 1 l.words s
  | 1 => ready [] s
  | _ => dropHead m n 0 l.words s

/-- A test of the dependences of a waiting head launch (R337): each is met at the first test that finds it so; the next one follows within
1,000 ns. -/
def testDeps (m n : Nat) (l : Launch) (s : State) : State :=
  let d := if l.depMet then .met else depOf (getMod s m) n l.words
  let w := l.wordMet || depwMet (getMod s m) l.words
  if d = .failed then dropHead m n 6 l.words s
  else if d = .met ∧ w then dependencesMet m n l s
  else
    let (t, s) := openValue 1 1000 s
    updLaunch s m l.uid fun l => { l with depTest := timeOf s m + t, depMet := d == .met, wordMet := w }

/-- A job that the hypervisor created runs within the partition of its first launch on the module (R48). -/
def claimJob (m n : Nat) (ws : List Nat) (s : State) : State :=
  if partOfJob s m (pktJob ws) = 0 then updJob s (pktJob ws) fun j => { j with part := Tbl.set j.part m (queueAt s m n).part } else s

/-- A packet reaches the head of its queue (R336). -/
def enterHead (m n : Nat) (p : Packet) (s : State) : State :=
  let md := getMod s m
  if p.gone then dropHead m n 7 p.words s
  else if packetBad s m (queueAt s m n).part p.words then dropHead m n 8 p.words s
  else if depOf md n p.words = .unknown then dropHead m n 5 p.words s
  else
    let l : Launch := { uid := md.nextUid, queue := n, words := p.words, tmpl := [], state := .waiting, level := 0, clusters := [], eligible := 0,
                        loadedAt := 0, tstart := none, frozen := 0, nsave := 0, status := 0, cause := 0, sse := 0, nel := 0, nsmp := 0, depTest := 0, depMet := false, wordMet := false }
    testDeps m n l (updMod (claimJob m n p.words s) m fun md => { md with launches := md.launches ++ [l], nextUid := md.nextUid + 1 })

/-- DEPENDENCE_TEST (R336, R337). -/
def dependenceMove (m n : Nat) (s : State) : State :=
  let q := queueAt s m n
  if !q.en then s else
  match headLaunch (getMod s m) n with
  | some l => if l.state = .waiting ∧ l.depTest ≤ timeOf s m then testDeps m n l s else s
  | none => match q.pkts with
    | p :: _ => enterHead m n p s
    | [] => s

@[inherit_doc dependenceMove] def execDependenceTest (m n : Nat) (s : State) : Host.Outcome State Fault Refusal := .next (dependenceMove m n s)

/-! ### Choice and placement (R45, R334, R335, R345) -/

/-- A competitor of a decision: effective priority, queue, launch, and for a saved task its save. -/
structure Cand where
  eff : Nat
  queue : Nat
  l : Launch
  saved : Option Saved
  deriving DecidableEq, Repr

/-- The effective priority after w ns of waiting (R334). -/
def effPri (pri age w : Nat) : Nat := pri - w / (2 ^ age * 1000)

/-- READY kernel launches and restorable saved tasks of partitions that are not pre-empted (R334, R345, R352). -/
def candidates (s : State) (m : Nat) : List Cand :=
  let md := getMod s m
  let now := timeOf s m
  let free := fun (part : Nat) => !(Tbl.get Part.reset md.parts part).preempted
  let q := fun n => Tbl.get Queue.reset md.queues n
  (md.launches.filterMap fun l =>
    if l.state = .ready ∧ pktKind l.words = 0 ∧ (q l.queue).en ∧ free (q l.queue).part then
      some ⟨effPri l.pri (q l.queue).age (now - l.eligible), l.queue, l, none⟩ else none) ++
  md.saves.filterMap fun v =>
    match md.launches.find? fun l => l.uid == v.uid with
    | some l =>
      if !v.hyper && decide (v.since ≤ now) && l.state != .failing && l.state != .done && free v.part then
        some ⟨effPri l.pri (q l.queue).age (now - v.since), l.queue, l, some v⟩ else none
    | none => none

/-- Best effective priority first; ties go round robin in queue number after the queue last served at it (R334). -/
def candBefore (md : Module) (a b : Cand) : Bool :=
  let turn := fun (c : Cand) => (c.queue + 63 - Tbl.get 63 md.served c.eff) % 64
  decide (a.eff < b.eff) || (a.eff == b.eff && decide (turn a ≤ turn b))

/-- A die can run tasks: in service, powered, its store not under scrub and not being written (R330, R351, R392, R403). -/
def dieUsable (s : State) (d : Nat) : Bool :=
  let x := getDie s d
  x.inService && x.power != .off && x.scrub.isNone && !x.writing

/-- The controller of a die is being updated (R392). -/
def dieUpdating (s : State) (d : Nat) : Bool := (getMod s (d / 8)).updating == some d

/-- A die can take a new launch (R392). -/
def dieOpen (s : State) (d : Nat) : Bool := dieUsable s d && !dieUpdating s d

/-- Clusters of a partition on masked dies: all of them, and those that are free on dies that no reservation keeps (R45, R334, R349). -/
def partClusters (s : State) (m part dies : Nat) : List Nat :=
  ((List.range 96).map fun i => 96 * m + i).filter fun c => (getCluster s c).part == part && bit dies (c / 12 % 8)
@[inherit_doc partClusters] def freeClusters (s : State) (m part dies kept : Nat) : List Nat :=
  (partClusters s m part dies).filter fun c =>
    (getCluster s c).task == .none && (getCluster s c).scrub.isNone && dieOpen s (c / 12) && !bit kept (c / 12 % 8)

/-- n of the members of a list: which ones is open (R45). -/
def pickSome : Nat → List Nat → State → List Nat × State
  | 0, _, s => ([], s)
  | _, [], s => ([], s)
  | n + 1, xs, s =>
    let (i, s) := openValue 0 (xs.length - 1) s
    let (r, s) := pickSome n (xs.eraseIdx i) s
    (xs.getD i 0 :: r, s)

/-- A competitor's name among the reservations. -/
def Cand.key (x : Cand) : Nat × Nat := (x.l.uid, match x.saved with | some v => v.cluster + 1 | none => 0)

/-- The dies of a competitor: its packet's mask, or that of its saved task. -/
def Cand.dies (x : Cand) : Nat :=
  match x.saved with
  | some v => 2 ^ (v.cluster / 12 % 8)
  | none => fld (x.l.tmpl.getD 1 0) 23 16

/-- Dies that reservations keep from a competitor: those of its partition at a better effective priority, and at an equal one those that are older than
its own (R334, log 89). -/
def keptDies (s : State) (m : Nat) (xs : List Cand) (x : Cand) : Nat :=
  let part := fun (y : Cand) => (queueAt s m y.l.queue).part
  let older := (getMod s m).reserved.takeWhile fun r => r != x.key
  ((getMod s m).reserved.filterMap fun r => xs.find? fun y => y.key == r).foldl
    (fun t y => if part y = part x ∧ (y.eff < x.eff ∨ (y.eff = x.eff ∧ older.contains y.key)) then Nat.lor t y.dies else t) 0

/-- The dies of a mask whose controllers are not being updated (R392): no launch is to come to such a die. -/
def steadyDies (s : State) (m dies : Nat) : Nat :=
  match (getMod s m).updating with
  | some d => if d / 8 = m ∧ bit dies (d % 8) then dies - 2 ^ (d % 8) else dies
  | none => dies

/-- A saved task can go back to its cluster (R345): the cluster is free and its die runs tasks; what runs on a die under update finishes first (R392), so
that no reservation keeps that die from it. -/
def mayGoBack (s : State) (v : Saved) (kept : Nat) : Bool :=
  let c := v.cluster
  (getCluster s c).part == v.part && (getCluster s c).task == .none && (getCluster s c).scrub.isNone && dieUsable s (c / 12) &&
  (dieUpdating s (c / 12) || !bit kept (c / 12 % 8))

/-- The controller of a launch is not to be used (R297). -/
def ctlBad (s : State) (m : Nat) (l : Launch) : Bool :=
  match pktCtl l.words with
  | none => false
  | some n =>
    let c := Tbl.get CvCtl.reset (getMod s m).ctls n
    !c.en || c.part != (queueAt s m l.queue).part || c.job != l.job

/-- A launch has ended: its record waits for its write, and until then its clusters stay its own (R339). -/
def endLaunch (m : Nat) (l : Launch) (status cause : Nat) (s : State) : State :=
  let s := updLaunch s m l.uid fun l => { l with state := .done, status := status, cause := cause }
  pushRecord m l.queue l.uid status l.level (if status = 3 then cause else 0) l.words l.nsave (l.tstart.getD 0) s

/-- A launch takes its clusters and begins LOADING (R336, R338): its level is fixed and its controller checked at once (R297), and the loading ends
after an open time. -/
def beginLoading (m : Nat) (l : Launch) (cs : List Nat) (s : State) : State :=
  let cs := sortBy (fun a b => decide (a ≤ b)) cs
  let level := match pktCtl l.words with
    | some n => (Tbl.get CvCtl.reset (getMod s m).ctls n).level
    | none => fld (l.tmpl.getD 3 0) 2 0
  let s := updQueue s m l.queue fun q => { q with pkts := q.pkts.drop 1 }
  let s := updLaunch s m l.uid fun l =>
    { l with state := .loading, level := level, clusters := cs, loadedAt := timeOf s m, frozen := frozenTime s m l.job }
  let s := cs.foldl (fun s c => updCluster s c fun x =>
    { x with task := .loading, ctx := { Ctx.none with uid := l.uid, job := l.job, lid := pktLid l.words } }) s
  let s := cs.foldl (fun s c => updDie s (c / 12) fun d => { d with power := .active }) s
  if ctlBad s m l then endLaunch m { l with level := level } 1 0 s
  else
    let (d, s) := openAny s
    again (d + 1) (cs.headD 0) .launchLoading s

/-- A saved task begins its restore (R345), which the engine of its partition makes (R352). -/
def beginRestore (v : Saved) (s : State) : State :=
  again 1 v.cluster .taskRestore (updCluster (updDie s (v.cluster / 12) fun d => { d with power := .active }) v.cluster fun x => { x with task := .restoring, ctx := v.cl.ctx })

/-- Tasks of a partition that a launch of a priority may push off masked dies (R335): larger PRI first, then the youngest start. -/
def victims (s : State) (m part pri dies : Nat) : List Nat :=
  let md := getMod s m
  let ts : List (Nat × Nat × Nat) := (partClusters s m part dies).filterMap fun c =>
    let t := (getCluster s c).task
    match md.launches.find? fun l => l.uid == (getCluster s c).ctx.uid with
    | some l => if (t = .running ∨ t = .landing ∨ t = .saving) ∧ pri < l.pri then some (l.pri, l.tstart.getD (2 ^ 64), c) else none
    | none => none
  (sortBy (fun (a b : Nat × Nat × Nat) => decide (b.1 < a.1) || (a.1 == b.1 && decide (b.2.1 ≤ a.2.1))) ts).map fun x => x.2.2

/-- Requests of R335: until enough clusters would be free, and only if they can be. -/
def preemptFor (m part pri dies need : Nat) (s : State) : State :=
  let vs := victims s m part pri dies
  let (asked, rest) := vs.partition fun c => (getCluster s c).preempt || (getCluster s c).task == .saving
  let able := rest.filter fun c => decide ((getCluster s c).holdoff ≤ timeOf s m)
  if asked.length + able.length < need then s
  else (able.take (need - asked.length)).foldl (fun s c => requestPreempt c s) s

/-- A competitor holds a reservation while it waits (R334). -/
def reserve (m : Nat) (x : Cand) (s : State) : State :=
  updMod s m fun md => { md with reserved := if md.reserved.contains x.key then md.reserved else md.reserved ++ [x.key] }

/-- A competitor is placed: its queue has been served, and its reservation ends. -/
def serve (m : Nat) (x : Cand) (s : State) : State :=
  updMod s m fun md => { md with served := Tbl.set md.served x.eff x.queue, reserved := md.reserved.filter fun r => r != x.key }

/-- A decision (R334, R335): competitors in their order, until one is placed or dropped; each that has to wait holds a reservation and asks for what
pre-emption can free on dies that are not kept from it. -/
def decide_ (m : Nat) (all : List Cand) : List Cand → State → State
  | [], s => s
  | x :: xs, s =>
    let part := (queueAt s m x.l.queue).part
    let kept := keptDies s m all x
    match x.saved with
    | some v =>
      if mayGoBack s v kept then beginRestore v (serve m x s)
      else if bit kept (v.cluster / 12 % 8) then decide_ m all xs (reserve m x s)
      else
        let ask := (victims s m part x.l.pri x.dies).contains v.cluster && !(getCluster s v.cluster).preempt
        decide_ m all xs (reserve m x (if ask then requestPreempt v.cluster s else s))
    | none =>
      let n := fld (x.l.tmpl.getD 1 0) 6 0
      let free := freeClusters s m part x.dies kept
      if (partClusters s m part x.dies).length < n then dropHead m x.l.queue 2 x.l.words s
      else if n ≤ free.length then
        let (cs, s) := pickSome n free s
        beginLoading m x.l cs (serve m x s)
      else decide_ m all xs (reserve m x (preemptFor m part x.l.pri (steadyDies s m (x.dies - Nat.land x.dies kept)) (n - free.length) s))

/-- LAUNCH_DECISION (R334, R335). -/
def decisionMove (m : Nat) (s : State) : State :=
  let xs := sortBy (candBefore (getMod s m)) (candidates s m)
  decide_ m xs xs (updMod s m fun md => { md with reserved := md.reserved.filter fun r => xs.any fun x => x.key == r })

@[inherit_doc decisionMove] def execLaunchDecision (s : State) : Host.Outcome State Fault Refusal := .next (decisionMove s.place s)

/-! ### LOADING (R206, R208, R296, R297, R338) -/

/-- A binding entry of eight words (R208). -/
def bindingEntry (ws : List Nat) : Binding :=
  let w := fun i => ws.getD i 0
  { pair := bit (w 0) 0, win := bit (w 0) 1, excl := bit (w 0) 2, virt := bit (w 0) 3, wkey := fld (w 0) 31 16, base := pairWord w 1, size := w 3,
    alt := w 4, sync := pairWord w 5 }

/-- One entry breaks R208. -/
def bindingBad (ws : List Nat) : Bool :=
  let w := fun i => ws.getD i 0
  let b := bindingEntry ws
  fld (w 0) 15 4 != 0 || fld (w 2) 31 25 != 0 || fld (w 6) 31 25 != 0 || w 7 != 0 || (!b.win && b.wkey != 0) || b.base % 32 != 0 ||
  b.size == 0 || b.size % 32 != 0 || (!b.pair && b.alt != 0) || b.sync % 8 != 0 || ((b.pair || b.win) && b.virt) ||
  (!b.virt && (!inScratch b.base b.size || (b.sync != 0 && !inScratch b.sync 8))) || (b.pair && !inScratch b.alt b.size)

/-- The regions and halves of a binding in its space. -/
def Binding.areas (b : Binding) : List (Bool × Nat × Nat) := (b.virt, b.base, b.size) :: if b.pair then [(false, b.alt, b.size)] else []

/-- Two areas of one space meet. -/
def areasMeet (a b : Bool × Nat × Nat) : Bool := a.1 == b.1 && meets a.2.1 a.2.2 b.2.1 b.2.2

/-- Some area of a list meets a later one. -/
def anyMeet : List (Bool × Nat × Nat) → Bool
  | [] => false
  | a :: rest => rest.any (areasMeet a) || anyMeet rest

/-- A binding table breaks R208 or declares a key twice (R206). -/
def tableBad (entries : List (List Nat)) : Bool :=
  let bs := entries.map bindingEntry
  let areas := bs.flatMap Binding.areas
  let keys := (bs.filter fun b => b.win).map fun b => b.wkey
  entries.any bindingBad || anyMeet areas || (bs.any fun b => b.sync != 0 && areas.any fun a => areasMeet (b.virt, b.sync, 8) a) ||
  decide (keys.eraseDups.length < keys.length)

/-- The binding entries of a launch in a cluster's scratchpad. -/
def entriesAt (cl : Cluster) (a n : Nat) : List (List Nat) := (List.range n).map fun i => wordsOf 8 (readScratch cl (a + 32 * i) 32)

/-- A coverage descriptor of eight words (R296). -/
def cvDescOf (mexp : Nat) (ws : List Nat) : CvDesc :=
  let w := fun i => ws.getD i 0
  { gx := fld (w 0) 15 0, gy := fld (w 0) 31 16, br := fld (w 1) 7 0, bc := fld (w 1) 15 8,
    fmt := match fld (w 1) 18 16 with | 0 => .f32 | 1 => .bf16 | 2 => .f16 | 3 => .i32 | 4 => .n32 | 5 => .i8 | 6 => .n8 | _ => .ln6,
    rmode := bit (w 1) 20, sen := bit (w 1) 21, obase := w 2, apitch := w 3, mexp := mexp }

/-- The descriptor breaks R296. -/
def cvDescBad (ws : List Nat) : Bool :=
  let w := fun i => ws.getD i 0
  let d := cvDescOf 0 ws
  bit (w 1) 19 || fld (w 1) 31 22 != 0 || (ws.drop 4).any (fun v => v != 0) || (d.fmt == .ln6 && (d.bc + 1) % 4 != 0) || d.obase % 32 != 0 ||
  d.apitch % 32 != 0 || decide (d.apitch < lanesBytes d.fmt ((d.gx + 1) * (d.bc + 1))) ||
  !inScratch d.obase (((d.gy + 1) * (d.br + 1) - 1) * d.apitch + lanesBytes d.fmt ((d.gx + 1) * (d.bc + 1)))

/-- Window keys that other running launches of the job declare on the module (R206). -/
def takenKeys (s : State) (m : Nat) (l : Launch) : List Nat :=
  ((List.range 96).map fun i => getCluster s (96 * m + i)).flatMap fun cl =>
    if cl.ctx.job = l.job ∧ cl.ctx.uid ≠ l.uid ∧ cl.task ≠ .none ∧ cl.task ≠ .loading then (cl.bindings.filter fun b => b.win).map fun b => b.wkey else []

/-- Window keys that saved tasks of other launches of the job declare: such a launch is running too (R206). -/
def savedKeys (s : State) (m : Nat) (l : Launch) : List Nat :=
  (getMod s m).saves.flatMap fun v =>
    if v.cl.ctx.job = l.job ∧ v.uid ≠ l.uid then (v.cl.bindings.filter fun b => b.win).map fun b => b.wkey else []

/-- A template error that LOADING finds (R338). -/
def loadingBad (s : State) (m : Nat) (l : Launch) : Bool :=
  let nb := fld (l.tmpl.getD 4 0) 6 0
  let list := l.tmpl.getD 5 0
  let cvdesc := l.words.getD 12 0
  let keys := l.clusters.flatMap fun c => ((entriesAt (getCluster s c) list nb).map bindingEntry).filterMap fun b => if b.win then some b.wkey else none
  (fld (l.tmpl.getD 3 0) 2 0 != 0 && cvdesc == 0) ||
  (nb != 0 && (list % 32 != 0 || !inScratch list (32 * nb) || l.clusters.any fun c => tableBad (entriesAt (getCluster s c) list nb))) ||
  decide (keys.eraseDups.length < keys.length) || (keys.any fun k => (takenKeys s m l ++ savedKeys s m l).contains k) ||
  (cvdesc != 0 && (!inScratch cvdesc 32 || l.clusters.any fun c => cvDescBad (wordsOf 8 (readScratch (getCluster s c) cvdesc 32))))

/-- What LOADING sets for cluster `lcl` of a launch (R46). -/
def ctxOf (s : State) (m : Nat) (l : Launch) (lcl : Nat) : Ctx :=
  let t := fun i => l.tmpl.getD i 0
  let j := getJob s l.job
  let bcast := bit (t 1) 12
  { uid := l.uid, lid := pktLid l.words, job := l.job, member := match j with | some j => memberOf j m | none => 0,
    nmembers := match j with | some j => j.members.length | none => 0, lcl := lcl, ncl := l.clusters.length, nranks := fld (t 1) 11 8, bcast := bcast,
    skew := if bcast then (List.range 8).map fun r => fld (t 2) (4 * r + 3) (4 * r) else [], level := l.level,
    code := fld (t 3) 31 16 - fld (fld (t 3) 31 16) 4 2 * 4 + l.level * 4, wdog := fld (t 1) 29 24, arg := pktArg l.words, entry := t 0,
    cvdesc := l.words.getD 12 0, cvctl := pktCtl l.words }

/-- A core's register space is written whole: no word of it is marked any more (R394). -/
def clearCoreMarks (k : Nat) (s : State) : State :=
  { s with marks := s.marks.filter fun x => !((x.1 == 1 || x.1 == 4) && x.2.1 == k) }

/-- A core at the first bundle of a launch (R106, R126, R128, R165, R184). Its entry bundle is reached neither by a transfer nor in sequence: a header
without TAG 1011 there is an illegal bundle, reason 2 (R70; log 62). -/
def Core.atLaunch (mtol entry arg : Nat) : Core :=
  { Core.reset with pc := entry, mtol := mtol, regs := Regs.clean.putS 1 (BitVec.ofNat 64 arg) none, seq := .running }

/-- One cluster of a launch is loaded and its cores start (R338); MEXP of its controller is read now, at the end of LOADING (R298; log 111). -/
def startCluster (m : Nat) (l : Launch) (c lcl : Nat) (s : State) : State :=
  let cx := ctxOf s m l lcl
  let mexp := match cx.cvctl with | some n => (Tbl.get CvCtl.reset (getMod s m).ctls n).mexp | none => 0
  let s := updCluster s c fun cl =>
    { cl with ctx := cx, task := .running, codeOld := cl.scratch, bindings := (entriesAt cl (l.tmpl.getD 5 0) (fld (l.tmpl.getD 4 0) 6 0)).map bindingEntry,
              swapped := [], pubs := [], graphs := [], cache := [], preempt := false, holdoff := 0, wholeSave := false, recon := 0, reconAt := none, history := [],
              stopped := false, failedCopy := false,
              cv := if cx.cvdesc = 0 then none else some (cvDescOf mexp (wordsOf 8 (readScratch cl cx.cvdesc 32))) }
  (List.range cx.nranks).foldl (fun s r =>
    let k := 8 * c + r
    let s := clearCoreMarks k (setCore s k (.atLaunch (getMod s m).cfg.mtol cx.entry cx.arg))
    if cx.bcast ∧ r ≠ 0 then s else fillEntry k s) s

/-- LAUNCH_LOADING (R338): every cluster of the launch; a template error ends it before any core issues. -/
def loadingMove (c : Nat) (s : State) : State :=
  let m := c / 96
  match (getMod s m).launches.find? fun l => l.uid == (getCluster s c).ctx.uid && l.state == .loading with
  | none => s
  | some l =>
    if loadingBad s m l then endLaunch m l 1 0 s
    else
      let s := updLaunch s m l.uid fun l => { l with state := .running }
      l.clusters.zipIdx.foldl (fun s x => startCluster m l x.1 x.2 s) s

@[inherit_doc loadingMove] def execLaunchLoading (s : State) : Host.Outcome State Fault Refusal := .next (loadingMove s.place s)

/-! ### Weight-store writes (R330) -/

/-- Dies of a weight-store write. -/
def writeDies (m : Nat) (l : Launch) : List Nat := maskDies m (fld (pktArg l.words) 39 32)

/-- A weight-store write begins: no launch is placed on its dies until it is done; its copy takes an open time. -/
def beginWrite (m : Nat) (l : Launch) (s : State) : State :=
  let (d, s) := openAny s
  let s := (writeDies m l).foldl (fun s x => updDie s x fun y => { y with writing := true }) s
  let s := updQueue s m l.queue fun q => { q with pkts := q.pkts.drop 1 }
  updLaunch s m l.uid fun l => { l with state := .running, depTest := s.cycle + 1 + d, loadedAt := timeOf s m, frozen := frozenTime s m l.job }

/-- The copy of a weight-store write has been performed on its dies; a source that cannot be read fails the launch with an open cause. -/
def finishWrite (m : Nat) (l : Launch) (s : State) : State :=
  let n := pktArg l.words % 2 ^ 32
  let src := pktTmpl l.words
  let dst := l.words.getD 12 0
  let ok := hasTarget src n && !(!isHost src && hbmMarked (getMod s m) src n)
  let bs := if ok then physRead (getMod s m) src n else []
  let s := if ok then countHbmRead [(m, src, n)] s else if hasTarget src n then countHbm m src s else s
  let s := (writeDies m l).foldl (fun s d =>
    let s := updDie s d fun x => { x with writing := false, weights := if ok then Mem.write x.weights dst bs else x.weights }
    if ok then clearMarks s 3 d dst n else s) s
  if ok then endLaunch m l 0 0 s
  else
    let (cause, s) := openValue 0 65535 s
    endLaunch m l 3 cause s

/-- WEIGHT_STORE_WRITE_LAUNCH (R330): head packets of KIND 01 whose dies are idle begin, if the stores are still their partition's (R351), and copies
that are due end. -/
def weightWriteMove (m : Nat) (s : State) : State :=
  (getMod s m).launches.foldl (fun s l =>
    if pktKind l.words ≠ 1 then s
    else if l.state = .ready ∧ (queueAt s m l.queue).en ∧ writeBad s m (queueAt s m l.queue).part l.words then dropHead m l.queue 8 l.words s
    else if l.state = .ready ∧ (queueAt s m l.queue).en ∧ (writeDies m l).all (fun d => dieOpen s d && dieIdle s d) then beginWrite m l s
    else if l.state = .running ∧ l.depTest ≤ s.cycle then finishWrite m l s
    else s) s

@[inherit_doc weightWriteMove] def execWeightStoreWriteLaunch (s : State) : Host.Outcome State Fault Refusal := .next (weightWriteMove s.place s)

/-! ### The reconstruction phase (R300 to R304, R310) -/

/-- Off-lattice blocks below b (R298). -/
def skipIndex (d : CvDesc) (code b : Nat) : Nat :=
  ((List.range b).filter fun i => !onLattice code (i % (d.gx + 1)) (i / (d.gx + 1))).length

/-- The rows of a block with their addresses, in pieces of one access. -/
def reconWrites (d : CvDesc) (b : Nat) (rows : List (List Nat)) : List (Nat × List Nat) :=
  rows.zipIdx.flatMap fun r =>
    windowPieces 9 (blockRow d (b % (d.gx + 1)) (b / (d.gx + 1)) r.2) (fromLanes d.fmt r.1)

/-- An element of the array is marked in a range of rows (R310). -/
def arrayMarked (s : State) (c : Nat) (d : CvDesc) : Bool :=
  isMarked s 2 c d.obase (((d.gy + 1) * (d.br + 1) - 1) * d.apitch + lanesBytes d.fmt ((d.gx + 1) * (d.bc + 1)))

/-- A block reads marked data: its own if it is sampled, or that of the blocks it is reconstructed from. -/
def blockMarked (s : State) (c : Nat) (d : CvDesc) (b : Nat) : Bool :=
  (List.range (d.br + 1)).any fun i =>
    isMarked s 2 c (blockRow d (b % (d.gx + 1)) (b / (d.gx + 1)) i) (lanesBytes d.fmt (d.bc + 1))

/-- Blocks that the reconstruction of a block reads (R301, R303): an anchor of weight 0 is never read (R302). -/
def reconSources (d : CvDesc) (code b : Nat) : List Nat :=
  let bx := b % (d.gx + 1)
  let by_ := b / (d.gx + 1)
  let near := match nearest d code bx by_ with | some n => [n] | none => []
  if !d.fmt.isFloat || fld code 1 0 == 2 then near else
  let sp := spacing code
  let ys := if fld code 1 0 = 0 then some (by_, by_, 0) else anchors by_ (latticeW code by_) sp.2 d.gy
  match anchors bx (latticeU code bx) sp.1 d.gx, ys with
  | some (x0, x1, nx), some (y0, y1, ny) =>
    let xs := if nx = 0 then [x0] else [x0, x1]
    (if ny = 0 then [y0] else [y0, y1]).flatMap fun y => xs.map fun x => y * (d.gx + 1) + x
  | _, _ => near

/-- One block of the phase (R300 to R304): an uncorrectable error ends the phase and fails the launch (R310). -/
def reconStep (c : Nat) (d : CvDesc) (s : State) : State :=
  let cl := getCluster s c
  let m := c / 96
  let cx := cl.ctx
  let b := cl.recon
  let cls := classOf d cx.code b (skipIndex d cx.code b)
  let next := fun (s : State) => updCluster s c fun x => { x with task := .recon, recon := b + 1, reconAt := none }
  if cls = .kept then next s else
  let reads := reconSources d cx.code b ++ (if cls = .sampled then [b] else [])
  if reads.any fun n => blockMarked s c d n then
    failLaunch m cx.uid 3 0x31 (stopLaunch m cx.uid 0x31 0 (countErr (updCluster s c fun x => { x with recon := d.blocks }) m cl.part 1 1))
  else
    let (rows, orphan) := reconBlock cl d cx.code b
    let s := match cx.cvctl with
      | some n => if orphan then updCtl s m n fun x => { x with orph := (x.orph + 1) % 2 ^ 32 } else s
      | none => s
    if cls = .skipped then
      next ((reconWrites d b rows).foldl (fun s p => dueWrite c 3 4 b p.1 p.2 .nothing s) s)
    else
      let e := blockError d.fmt (blockRows cl d b) rows
      next (match cx.cvctl with
        | some n => addSample m cx.uid n e ((d.br + 1) * (d.bc + 1)) s
        | none => s)

/-- RECONSTRUCTION_PHASE (R300): the next block, after the writes of the block before it, from a cycle on that the device chooses then (log 9); the
halt wave stops it between blocks. A launch that fails cancels the phases that have not begun (R310). -/
def reconMove (c : Nat) (s : State) : State :=
  let cl := getCluster s c
  match cl.cv with
  | some d =>
    if (cl.task = .running ∨ cl.task = .landing ∨ cl.task = .recon) ∧ reconDue s c ∧ coresOver s c ∧ !enginesHeld s c ∧ !(cl.due.any fun x => x.cls == 4) ∧
        ((getMod s (c / 96)).launches.any fun l =>
          l.uid == cl.ctx.uid && (l.state == .running || l.state == .recon || (l.state == .failing && cl.task == .recon))) then
      match cl.reconAt with
      | some t => if t ≤ s.cycle then reconStep c d s else s
      | none =>
        let (n, s) := openAny s
        if n = 0 then reconStep c d s else updCluster s c fun x => { x with reconAt := some (s.cycle + n) }
    else s
  | none => s

@[inherit_doc reconMove] def execReconstructionPhase (s : State) : Host.Outcome State Fault Refusal := .next (reconMove s.place s)

/-! ### Completion (R332, R339, R347, R361) -/

/-- A task has nothing left to do (R339). -/
def taskOver (s : State) (c uid : Nat) : Bool :=
  let cl := getCluster s c
  cl.ctx.uid == uid && (cl.task == .running || cl.task == .landing || cl.task == .recon) && coresOver s c && !reconDue s c &&
  (cl.graphs.all fun x => match x.2 with | some g => !g.active | none => true) && !cl.due.any fun d => d.cls == 3 || d.cls == 4 || d.cls == 6

/-- Requests that can finish no more are reported failed, with an open STATUS: paused ones and those of graphs (R230, R347, R397). -/
def failRequests (c uid : Nat) (s : State) : State :=
  (List.range 4).foldl (fun s e =>
    (queueOf (getCluster s c) e).foldl (fun s q =>
      let graph : Bool := match q.r.kind with | .graph .. => true | _ => false
      if q.uid == uid && q.status == 0 && (q.paused.isSome || graph) then
        let (n, s) := openValue 1 5 s
        updReq c e q.id (fun q => { q with status := n, paused := none }) s
      else s) s) (updCluster s c fun x => { x with backlog := x.backlog.filter fun y => y.2.uid != uid })

/-- Fired operations of a task's graphs that no request carries any more are reported failed (R397). -/
def failGraphs (c : Nat) (s : State) : State :=
  ((getCluster s c).graphs.map Prod.fst).foldl (fun s g =>
    match slotAt s c g with
    | some x =>
      if !x.active || x.finishing then s else
      (List.range x.ops.length).foldl (fun s i =>
        let carried := (queueOf (getCluster s c) (i % 4)).any fun q => q.r.kind == .graph g i && q.uid == (getCluster s c).ctx.uid
        if x.stateOf i = .fired ∧ !carried then
          let (n, s) := openValue 1 6 s
          completeOp c g i n s
        else s) s
    | none => s) s

/-- The requests of a task that is not on its cluster go with it: its completion words have no scratchpad to go to (R397). -/
def dropRequests (c uid : Nat) (s : State) : State :=
  (List.range 4).foldl (fun s e =>
    (queueOf (getCluster s c) e).foldl (fun s q =>
      if q.uid ≠ uid then s else
      let (n, s) := openValue 1 5 s
      leaveQueue c e q (countFailure c { q with status := if q.status = 0 then n else q.status } s)) s) s

/-- The saves of a launch are given up, and their frames freed (R347, R348). -/
def dropSaves (m uid : Nat) (s : State) : State :=
  let mine := (getMod s m).saves.filter fun v => v.uid == uid
  let s := mine.foldl (fun s v =>
    let s := dropRequests v.cluster uid s
    if v.hyper then s else freeTheFrame m v.part v.frame s) s
  updMod s m fun md => { md with saves := md.saves.filter fun v => v.uid != uid }

/-- The clusters on which a launch's tasks stand. -/
def heldClusters (s : State) (l : Launch) : List Nat := l.clusters.filter fun c => (getCluster s c).ctx.uid == l.uid && (getCluster s c).task != .restoring

/-- The partition whose engine has a save of a launch in progress (R347). -/
def savingPart (s : State) (m uid : Nat) : Option (Nat × Part) := (getMod s m).parts.find? fun x => x.2.act && !x.2.dir && x.2.uid == uid

/-- The save of a launch that fails is finished first, and then its frame is discarded (R347). -/
def finishSave (m n : Nat) (p : Part) (s : State) : State :=
  if s.cycle < p.due then s
  else if p.size ≤ p.offset + 4096 then freeTheFrame m n p.frame (engineRest m n s)
  else engineChunk m n s

/-- A failing launch: what is outstanding completes or is reported failed, its saves are given up; it ends when nothing is left (R347, R361). -/
def failingMove (m : Nat) (l : Launch) (s : State) : State :=
  if l.clusters.any fun c => (getCluster s c).ctx.uid == l.uid && (getCluster s c).task == .restoring then s else
  match savingPart s m l.uid with
  | some x => finishSave m x.1 x.2 s
  | none =>
  let s := dropSaves m l.uid s
  let cs := heldClusters s l
  let s := cs.foldl (fun s c => failGraphs c (failRequests c l.uid s)) s
  let past := fun c =>
    let cl := getCluster s c
    (ownRequests cl).isEmpty && (cl.graphs.all fun x => match x.2 with | some g => !g.active | none => true) && !(cl.task == .recon && reconLeft cl) &&
    !cl.due.any fun d => d.cls == 3 || d.cls == 4 || d.cls == 6
  if cs.all past then endLaunch m l l.status l.cause s else s

/-- A launch that runs: it ends once all of its tasks are over (R339); a failed `cpy` of a retired core fails it (R204). -/
def runningMove (m : Nat) (l : Launch) (s : State) : State :=
  let s := if l.state = .running ∧ l.clusters.all (fun c => (getCluster s c).ctx.uid == l.uid && coresOver s c) ∧
      l.clusters.any (reconDue s) then updLaunch s m l.uid fun l => { l with state := .recon } else s
  if l.clusters.all fun c => taskOver s c l.uid then
    if l.clusters.any fun c => (getCluster s c).failedCopy then endLaunch m l 3 0x21 s else endLaunch m l 0 0 s
  else s

/-- The bytes of a completion record (R332) with its TEND. -/
def recordBytes (n : Nat) (r : List Nat) (tend : Nat) : List Nat :=
  let w := fun i => r.getD i 0
  leBytes 4 (w 0 + w 1 * 2 ^ 8 + w 2 * 2 ^ 16) ++ leBytes 4 (w 3) ++ leBytes 4 (w 4 + n * 2 ^ 16) ++ leBytes 4 (w 5) ++ leBytes 8 (w 6) ++ leBytes 8 tend

/-- The 1,024 most recent completions of each job (R337). -/
def keepRecent (x : Nat × Nat × Nat) (rs : List (Nat × Nat × Nat)) : List (Nat × Nat × Nat) :=
  let mine := (x :: rs).filter fun r => r.1 == x.1
  mine.take 1024 ++ rs.filter fun r => r.1 != x.1

/-- A launch's sums reach its controller at its successful completion under UMODE = 0, and the update instant follows (R306). -/
def updateInstant (m : Nat) (l : Launch) (s : State) : State :=
  match pktCtl l.words with
  | none => s
  | some n =>
    if l.status ≠ 0 ∨ pktKind l.words ≠ 0 ∨ (Tbl.get CvCtl.reset (getMod s m).ctls n).umode then s
    else updCtl s m n fun c => CvCtl.instant { c with sse := addSse c.sse l.sse, nel := addNel c.nel l.nel, nsmp := c.nsmp + l.nsmp }

/-- A completion record has been performed (R339): the launch is known as completed, its clusters are free, dependences are tested (R337), and
its places on channels are finished (R238). -/
def recorded (m uid : Nat) (r : List Nat) (s : State) : State :=
  let s := countMod s m 0x0B 1
  let test := fun (l : Launch) => if l.state = .waiting then { l with depTest := 0 } else l
  let s := updMod s m fun md => { md with recent := keepRecent (r.getD 4 0, r.getD 3 0, r.getD 0 0) md.recent, launches := md.launches.map test }
  match (getMod s m).launches.find? fun l => l.uid == uid && l.state == .done with
  | none => s
  | some l =>
    let s := updateInstant m l s
    let s := (heldClusters s l).foldl (fun s c => leaveCluster c s) s
    let s := updMod s m fun md => { md with launches := md.launches.filter fun x => x.uid != uid }
    let s := l.clusters.foldl (fun s c => restDie (c / 12) s) s
    finishPlaces l.job (fun p => p.uid == uid && modOf p.core == m && ((getCluster s (clusterOf p.core)).ctx.uid != uid)) s

/-- The oldest completion record of a queue is written, if the ring has room and its page is there (R388, R389). -/
def flushRecord (m n : Nat) (s : State) : State :=
  let q := queueAt s m n
  match q.comps with
  | [] => s
  | (uid, r) :: rest =>
    if q.pause ∨ q.slots ≤ sub32 q.qcpos q.qcack then s else
    let va := q.qcbase + 32 * (q.qcpos % q.slots)
    match ringPlace (getMod s m) q va 32 with
    | .inl fault => pauseQueue m n fault true va s
    | .inr pa =>
      let s := physWrite m pa (recordBytes n r (timeOf s m)) s
      let s := updQueue s m n fun q => { q with comps := rest, qcpos := (q.qcpos + 1) % 2 ^ 32 }
      recorded m uid r (queueIrq m n s)

/-- LAUNCH_COMPLETE (R339, R355, R388): launches that are over end, and records that can be written are. A frozen job's launches stay as they stand. -/
def completeMove (m : Nat) (s : State) : State :=
  let s := (getMod s m).launches.foldl (fun s l =>
    if (jobSlot s m l.job).stopped ∨ pktKind l.words ≠ 0 then s
    else match l.state with
      | .running | .recon => runningMove m l s
      | .failing => failingMove m l s
      | _ => s) s
  flushFaults m (((getMod s m).queues.map Prod.fst).foldl (fun s n => flushRecord m n s) s)

@[inherit_doc completeMove] def execLaunchComplete (s : State) : Host.Outcome State Fault Refusal := .next (completeMove s.place s)

/-- The sequencer has not retired or stopped. -/
def Core.going (c : Core) : Bool := match c.seq with | .off | .retired | .fatal => false | _ => true

/-- The scratchpad as a saved task's frame holds it (R344). -/
def Saved.scratch (v : Saved) : Mem := if v.whole then v.cl.scratch else v.ranges.foldl (fun m r => Mem.write m r.1 r.2) []

/-- The dump of every core of a launch that has not retired or stopped, those of its saved tasks as their frames hold them (R347). -/
def dumpLaunch (m uid cause : Nat) (going : List Nat) (s : State) : State :=
  let vs := ((getMod s m).saves.filter fun v => v.uid == uid).map fun v => (v, v.cores.filter fun x => x.2.going)
  let vs := vs.filter fun v => !v.2.isEmpty
  let cl := match going, vs with | [], v :: _ => v.1.cl | _, _ => getCluster s (clusterOf (going.headD 0))
  dumpWith cl ((going.map fun k => (k, getCore s k)) ++ vs.flatMap fun v => v.2.map fun x => (x.1, x.2.stopAt x.2.pc s.cycle 0 cause 0))
    (((going.map clusterOf).eraseDups.map fun c => (getCluster s c).scratch) ++ vs.map fun v => v.1.scratch) cause 0 s

/-- A launch is stopped (R347, R350): its cores as at a fatal trap, dumped with cause 0x62 where a watchdog has expired (R356); it completes with a
STATUS unless it has already failed. -/
def killLaunch (m status : Nat) (dump : Bool) (l : Launch) (s : State) : State :=
  let going := ((heldClusters s l).flatMap fun c => usedCores s c).filter fun k => (getCore s k).going
  let cause := if dump then 0x62 else 0
  let s := stopLaunch m l.uid cause 0 s
  let s := if dump then dumpLaunch m l.uid cause going s else s
  failLaunch m l.uid status 0 s

/-- The launch's watchdog has expired (R347): module time since LOADING, less frozen time. -/
def watchdogOver (s : State) (m : Nat) (l : Launch) : Bool :=
  let frozen := frozenTime s m l.job - l.frozen
  (l.state == .loading || l.state == .running || l.state == .recon || l.state == .failing) && !(jobSlot s m l.job).stopped &&
  decide (2 ^ (queueAt s m l.queue).lwdog + frozen ≤ timeOf s m - l.loadedAt)

/-- Cores of a launch that have not stopped. -/
def anyGoing (s : State) (l : Launch) : Bool :=
  (heldClusters s l).any fun c => (usedCores s c).any fun k => (getCore s k).going

/-- LAUNCH_WATCHDOG_EXPIRY (R347). A save or restore that is in progress completes first. -/
def watchdogMove (m : Nat) (s : State) : State :=
  (getMod s m).launches.foldl (fun s l =>
    let restoring := l.clusters.any fun c => (getCluster s c).ctx.uid == l.uid && (getCluster s c).task == .restoring
    if watchdogOver s m l && !restoring && (savingPart s m l.uid).isNone && (l.state != .failing || anyGoing s l) then
      if pktKind l.words = 1 then
        endLaunch m l 4 0 ((writeDies m l).foldl (fun s d => updDie s d fun x => { x with writing := false }) s)
      else killLaunch m 4 true l s
    else s) s

@[inherit_doc watchdogMove] def execLaunchWatchdogExpiry (s : State) : Host.Outcome State Fault Refusal := .next (watchdogMove s.place s)

/-! ### Coverage controllers (R305) -/

/-- A controller with its fields written; what the device counts is kept. -/
def CvCtl.write (c : CvCtl) (ws : List Nat) : CvCtl :=
  let w := fun i => ws.getD i 0
  { c with en := bit (w 0) 0, umode := bit (w 0) 1, level := fld (w 0) 6 4, lmin := fld (w 0) 10 8, lmax := fld (w 0) 14 12, mexp := fld (w 0) 19 16,
           uexp := fld (w 0) 24 20, job := fld (w 1) 15 0, part := fld (w 1) 23 16, low := w 2 % 2 ^ 32, high := w 3 % 2 ^ 32 }

/-- A band bound that an enable accepts: not negative, infinite or NaN; −0 counts as zero. -/
def boundOk (x : Nat) : Bool := (unpack .f32 x).finite && !(unpack .f32 x).lt (.fin false 0 0)

/-- The controller may be enabled as written (R305). -/
def CvCtl.valid (c : CvCtl) : Bool :=
  decide (c.lmin ≤ c.lmax) && decide (c.lmax ≤ 5) && decide (c.lmin ≤ c.level) && decide (c.level ≤ c.lmax) && boundOk c.low && boundOk c.high &&
  !(unpack .f32 c.high).lt (unpack .f32 c.low) && decide (c.uexp ≤ 20)

/-- A write of a controller's registers (R305), and whether it is done: one that sets EN = 1 is checked. -/
def writeCtl (m caller n : Nat) (setsEn : Bool) (ws : List Nat) (s : State) : State × Bool :=
  let old := Tbl.get CvCtl.reset (getMod s m).ctls n
  let new := old.write ws
  if !mayCall caller new.part || (old.part != 0 && !mayCall caller old.part) then (s, false)
  else if setsEn ∧ new.en ∧ !new.valid then (updCtl s m n fun _ => { new with en := false }, false)
  else (updCtl s m n fun _ => new, true)

/-- CVALLOT (R305, R354). -/
def cvAllotMove (m caller n : Nat) (ws : List Nat) (s : State) : State :=
  unlessPaused m (.cvAllot m caller n ws) s fun s => answerIf m (writeCtl m caller n true ws s)

@[inherit_doc cvAllotMove] def execCvAllot (m caller n : Nat) (ws : List Nat) (s : State) : Host.Outcome State Fault Refusal :=
  .next (cvAllotMove m caller n ws s)

end Sys2Proof.Machine
end

