-- ==== Sys2Proof/Machine/Runahead.lean ====
section
/-! DEFINITION. Sys2Proof/Machine/Runahead.lean: the end of a run-ahead (R247, R248, R254 to R257), in a broadcast group that of every core (R41);
the draining kitty (R254); dead members (R259). -/

namespace Sys2Proof.Machine

/-! ### Keeping and discarding (R254, R255) -/

/-- The slots popped in a run-ahead are freed in the cycle after the call (R195). -/
def keepStreams (t : Nat) (c : Core) : Tbl (Option Stream) :=
  c.streams.map fun x => (x.1, x.2.map fun st => { st with slots := popMany t st.taken st.slots, taken := 0 })

/-- The heads of stream registers return to where they stood (R195, R255). -/
def restoreStreams (c : Core) : Tbl (Option Stream) :=
  c.streams.map fun x => (x.1, x.2.map fun st => { st with ops := st.ops - st.taken, taken := 0 })

/-- Journal bytes of the requests held in the kitty beyond its n first entries (R253). -/
def heldBytes (n : Nat) (es : List KEntry) : Nat :=
  ((es.drop n).map fun e => match e with | .req _ j => j | _ => 0).sum

/-- The kitty drains from the cycle after the call; entries from before the run-ahead drain on (R254). -/
def drainFrom (t : Nat) (ra : RunAhead) (c : Core) : Nat := if 0 < ra.old then c.kittyFrom else t + 1

/-- Ranges that the results of a run-ahead have taken from older stores, once its arm is kept: like any others. -/
def keepLater (later : List (Bool × Nat × Nat)) : List (Bool × Nat × Nat) := later.map fun x => (false, x.2)

/-- Those ranges once the arm is discarded: given back. -/
def dropLater (later : List (Bool × Nat × Nat)) : List (Bool × Nat × Nat) := later.filter fun x => !x.1

/-- A held or released store with a function applied to the ranges taken from it. -/
def KEntry.withLater (f : List (Bool × Nat × Nat) → List (Bool × Nat × Nat)) : KEntry → KEntry
  | .store seq slot segs tag later => .store seq slot segs tag (f later)
  | e => e
@[inherit_doc KEntry.withLater] def Pend.withLater (f : List (Bool × Nat × Nat) → List (Bool × Nat × Nat)) (p : Pend) : Pend :=
  match p.eff with
  | .released segs tag seq later => { p with eff := .released segs tag seq (f later) }
  | _ => p

/-- A result of the core once the call has kept the arm. -/
def Pend.kept (p : Pend) : Pend := { p.withLater keepLater with ra := false }

/-- The call keeps the arm in cycle t (R254): the journal is emptied, the kitty drains from t + 1, and a bundle that R252 stalled in the cycle
before may issue from t + 1. -/
def keepCore (t : Nat) (ra : RunAhead) (c : Core) : Core :=
  { c with ra := none, pend := c.pend.map Pend.kept, frozenHeld := c.frozenHeld.map (fun x => (x.1, x.2.kept))
           streams := keepStreams t c, kitty := c.kitty.map (KEntry.withLater keepLater)
           kittyBytes := c.kittyBytes + heldBytes ra.old c.kitty, kittyFrom := drainFrom t ra c
           nextIssue := if c.raStall + 1 = t then max c.nextIssue (t + 1) else c.nextIssue }

/-- The call discards the arm in cycle t (R255): results cancelled, those that a freeze holds too (R262), files and streams returned, the
kitty's own entries gone. The next bundle comes no earlier than the IDLE of the agreement bundle lets it (R58); while a freeze lasts, cycles
count from the one in which the sequencer stopped (R262). -/
def discardCore (t : Nat) (ra : RunAhead) (c : Core) : Core :=
  { c with ra := none, regs := ra.shadow, pend := (c.pend.filter fun p => !p.ra).map (Pend.withLater dropLater)
           frozenHeld := (c.frozenHeld.filter fun x => !x.2.ra).map fun x => (x.1, x.2.withLater dropLater)
           streams := restoreStreams c
           kitty := (c.kitty.take ra.old).map (KEntry.withLater dropLater), kittyFrom := drainFrom t ra c, wait := .none, nextIssue := max ((if c.frozen then c.frozenAt else t) + 2) ra.idleTo, loops := ra.loops }

/-- What a discard counts (R400). -/
def countDiscard (k : Nat) (ra : RunAhead) (s : State) : State :=
  countCore (countCore s k 0x0D 1) k 0x03 ((getCore s k).sched - ra.sched0)

/-- The trace entry of a call (R375). -/
def traceCall (k kind : Nat) (ra : RunAhead) (record : Nat) (s : State) : State :=
  updCore s k fun c => { c with trace := (⟨kind, (ra.sched0 - 1) % 2 ^ 24, ra.addr, record % 2 ^ 64⟩ :: c.trace).take 1024 }

/-- The fall-through arm (R247). -/
def RunAhead.fall (ra : RunAhead) : Next := ⟨ra.fallPc, ra.fallXfer, ra.loops, ra.fallEnd⟩

/-- The arm that a call without fault names: taken or not (R247). -/
def RunAhead.names (ra : RunAhead) (record : Nat) : Bool := !ra.agree && record % 2 ^ 16 == 1

/-- The call gives what the core predicted (R247, R248). -/
def RunAhead.kept (ra : RunAhead) (record : Nat) : Bool :=
  if ra.agree then agreeResult ra.signedCall (record % 2 ^ 16) == agreeResult ra.signedCall ra.guess
  else ra.names record == (ra.guess == 1)

/-- An `end` that the agreement bundle held takes effect in cycle t (R118, R375). -/
def endHeld (t : Nat) (ra : RunAhead) (c : Core) : Core :=
  pushTrace [⟨18, (ra.sched0 - 1) % 2 ^ 24, ra.addr, 0⟩] (endCore t c)

/-- A call keeps the arm on a core; an `end` that its agreement bundle held takes effect where the fall-through arm is kept (R118). -/
def keepCall (k record : Nat) (ra : RunAhead) (s : State) : State :=
  let t := s.cycle
  let ends := ra.fallEnd && (ra.agree || ra.guess != 1)
  traceCall k 8 ra record (updCore (noteWake k (t + 1) s) k fun c =>
    let c := keepCore t ra c
    if ends then endHeld t ra { c with wait := .none } else c)

/-- A call discards the arm on a core: it goes on at the arm that the call names, with the result of an `agree` visible in the next cycle. -/
def discardCall (k record : Nat) (ra : RunAhead) (s : State) : State :=
  let t := s.cycle
  let taken := ra.names record
  let s := noteWake k (t + 2) (countDiscard k ra s)
  traceCall k 9 ra record (updCore s k fun c =>
    let c := discardCore t ra c
    let c := if ra.agree then
        { c with pend := c.pend ++ [⟨t + 1, t, 8, false, .sreg ra.sx (agreeResult ra.signedCall (record % 2 ^ 16)) none⟩] }
      else c
    let c := { c with pc := if taken then ra.takenPc else ra.fallPc, xfer := taken || ra.fallXfer
                      loops := if taken then ra.takenLoops else ra.loops }
    if ra.fallEnd && !taken then endHeld t ra c else c)

/-- A call raises an agreement fault (R257, R259): the arm is discarded, and the trap stands on the agreement bundle with every slot completed;
`rte` goes on at the fall-through position. No write is pending in the record: results of earlier bundles and of the agreement bundle itself
land at their own times (R251). -/
def faultCall (k detail record : Nat) (ra : RunAhead) (s : State) : State :=
  let t := s.cycle
  let s := countDiscard k ra s
  let s := traceCall k 9 ra record (updCore s k (discardCore t ra))
  let before := getCore s k
  let s := stopGroup k (takeTrap k ra.addr t ra.mask 0x16 detail s)
  updCore s k fun c =>
    { c with callAt := some ra.fall, pend := before.pend, held := before.held
             trace := match c.trace with | e :: es => { e with sched := (ra.sched0 - 1) % 2 ^ 24 } :: es | [] => []
             nextIssue := if c.frozen then c.frozenAt + 4 else c.nextIssue }

/-- A call whose record is known acts on a core: `group` says whether some core of its group has predicted wrongly (R41). -/
def applyCall (k record : Nat) (ra : RunAhead) (wrong : Bool) (s : State) : State :=
  let detail := record / 2 ^ 64
  if detail ≠ 0 then faultCall k detail record ra s
  else if wrong then discardCall k record ra s
  else keepCall k record ra s

/-! ### Delivery (R241, R244, R247, R262) -/

/-- The words of a core take a call (R241): SEQ follows the trick that a joining bid has joined; a failed channel shows. -/
def noteCall (job ch k uid record trick : Nat) (s : State) : State :=
  let c := match getJob s job with | some j => channelOf j ch | none => .fresh
  let joined := c.places.any fun p => p.isOf k uid && !p.finished && p.from_ == some trick
  let late := bit record 17
  updCore s k fun x => x.updChan ch fun y =>
    { y with outst := false
             failed := y.failed || c.failed
             seq := if joined && !late && record / 2 ^ 64 != 5 then (trick + 1) % 2 ^ 32 else y.seq
             call := if record / 2 ^ 64 = 5 then y.call else record % 2 ^ 64 }

/-- Cores of a broadcast group that take part in a call: those that still run. -/
def groupOf (s : State) (k : Nat) : List Nat :=
  ((List.range 8).map fun r => k / 8 * 8 + r).filter fun j => (getCore s j).seq == .running

/-- Calls of a job are held on a module until the stage of R373 that delivers them (R262). -/
def callsHeld (s : State) (m job : Nat) : Bool :=
  let sl := jobSlot s m job
  sl.stopped && decide (sl.stage < 3)

/-- A core of the group is still to have its call, or is still to issue the agreement bundle that core `holder` has issued: its delay line holds that
bundle once more than the holder's does. A core whose own guard of it read 0 sends no bid and has no call (R39, R247). -/
def awaitsCall (s : State) (holder : Nat) (ra : RunAhead) (j : Nat) : Bool :=
  let sent := fun k => ((getCore s k).line.filter fun x => x.addr == ra.addr).length
  match (getCore s j).ra with
  | some r => r.call.isNone
  | none => decide (sent holder < sent j)

/-- A core whose guard of the agreement bundle read 0 goes with its group to the arm that the call names (R41; log 21). -/
def followCall (t : Nat) (ra : RunAhead) (record : Nat) (c : Core) : Core :=
  let taken := decide (record / 2 ^ 64 = 0) && ra.names record
  let c := { c with pc := if taken then ra.takenPc else ra.fallPc, xfer := taken || ra.fallXfer
                    loops := if taken then ra.takenLoops else ra.loops, nextIssue := max c.nextIssue (t + 2) }
  if ra.fallEnd && !taken && decide (record / 2 ^ 64 = 0) then endHeld t ra c else c

/-- In a broadcast group the call acts on every core at once, when that of the last core that has bid has arrived; where one core has predicted
wrongly, each discards and the lead redirects the stream (R41; log 21). -/
def groupCall (k : Nat) (s : State) : State :=
  let ks := groupOf s k
  let ras := ks.filterMap fun j => (getCore s j).ra.bind fun r => r.call.map fun rec => (j, r, rec)
  match ras with
  | [] => s
  | (h, ra, rec) :: _ =>
    if callsHeld s (modOf k) (getCluster s (clusterOf k)).ctx.job || ks.any (awaitsCall s h ra) then s else
    let wrong := ras.any fun x => !x.2.1.kept x.2.2
    let s := ras.foldl (fun s x => applyCall x.1 x.2.2 x.2.1 wrong s) s
    if wrong || ras.any fun x => x.2.2 / 2 ^ 64 != 0 then
      let s := (ks.filter fun j => !ras.any fun x => x.1 == j).foldl (fun s j => updCore s j (followCall s.cycle ra rec)) s
      (List.range 8).foldl (fun s r => updCore s (k / 8 * 8 + r) fun c => { c with line := [] }) s
    else s

/-- CALL_DELIVERY (R247, R248): no earlier than cycle T + 4 of the core's own agreement instruction (R245). -/
def callDeliveryMove (s : State) : State :=
  match dueFlight s with
  | some ⟨_, _, _, .call job ch k uid record trick⟩ =>
    if callsHeld s (modOf k) job then s
    else if (getCluster s (clusterOf k)).ctx.uid ≠ uid then landFlight s else
    match (if (getCore s k).seq = .running then (getCore s k).ra else none) with
    | none => noteCall job ch k uid record trick (landFlight s)
    | some ra =>
      if s.cycle < ra.issued + 4 then s else
      let s := noteCall job ch k uid record trick (landFlight s)
      if (getCluster s (clusterOf k)).ctx.bcast then
        groupCall k (updCore s k fun c => { c with ra := some { ra with call := some record } })
      else applyCall k record ra (!ra.kept record) s
  | _ => s

@[inherit_doc callDeliveryMove] def execCallDelivery (s : State) : Host.Outcome State Fault Refusal := .next (callDeliveryMove s)

/-! ### The kitty drains (R254) -/

/-- An entry has left the kitty; those from before a run-ahead are counted in it. -/
def popKitty (c : Core) : Core :=
  { c with kitty := c.kitty.drop 1, ra := c.ra.map fun r => { r with old := r.old - 1 } }

/-- The head of the kitty acts as if its instruction had issued in this cycle. A request waits for room in its engine's queue, a `pub` for its
swap (R211). -/
def releaseHead (k : Nat) (s : State) : State :=
  let c := getCore s k
  let t := s.cycle
  match c.kitty with
  | [] => s
  | .store seq slot segs tag later :: _ =>
    updCore s k fun c =>
      let c := popKitty c
      if segs.all fun x => inReg x.1 x.2.length then { c with pend := c.pend ++ [⟨t + 3, t, slot, false, .released segs tag seq later⟩] }
      else { c with stores := c.stores ++ segs.map fun x => ⟨t + 3, seq, slot, .bytes x.1 x.2⟩ }
  | .req r j :: _ =>
    if 16 ≤ queued (getCluster s (clusterOf k)) (homeEngine k) then s
    else
      let s := updCore s k fun c => { popKitty c with kittyBytes := c.kittyBytes - j }
      acceptReq (clusterOf k) (homeEngine k) { r with issued := t } s
  | .pub b :: _ =>
    if (getCluster s (clusterOf k)).pubs.any fun p => p.core == k && p.kitty then s
    else updCluster s (clusterOf k) fun x => { x with pubs := x.pubs ++ [⟨b, t + 3, s.nextId, k, none, true⟩] }
  | .rel b :: _ => beginRel k b t (updCore s k popKitty)

/-- The kitty has an entry to release in this cycle. -/
def kittyDue (s : State) (k : Nat) : Bool :=
  let c := getCore s k
  !c.kitty.isEmpty && decide (c.kittyFrom ≤ s.cycle) && (match c.ra with | some r => decide (0 < r.old) | none => true) && !seqFrozen s k

/-- KITTY_RELEASE (R254): one entry per cycle. -/
def execKittyRelease (s : State) : Host.Outcome State Fault Refusal :=
  .next (if kittyDue s s.place then releaseHead s.place s else s)

/-! ### Issue (R58, R40) -/

/-- The issue of a broadcast group in a cycle (R40): a power hold holds its delay lines too (R404). A call that has arrived acts first, once no
core of the group is still to come to its agreement bundle. While the lead fills its entry blocks after a restore, the group stands (R380). -/
def groupMove (c : Nat) (s : State) : State :=
  let s := groupCall (8 * c) s
  if powerHeld s c then holdLines c ((List.range 8).foldl (fun s r => holdCore (8 * c + r) s) s)
  else if (getCore s (8 * c + leadOf s c)).seq = .entry then holdLines c s
  else issueGroup c s

/-- ISSUE_BUNDLE (R58): a core on its own; the whole group by the move of its rank 0 (R39, R40). -/
def issueMove (k : Nat) (s : State) : State :=
  let own := if onItsOwn s k && !seqFrozen s k then (if powerHeld s (clusterOf k) then holdCore k s else issueAlone k s) else s
  if (getCluster s (clusterOf k)).ctx.bcast && k % 8 == 0 then groupMove (clusterOf k) own else own

@[inherit_doc issueMove] def execIssueBundle (s : State) : Host.Outcome State Fault Refusal := .next (issueMove s.place s)

/-! ### Dead members (R259) -/

/-- FRECVs that wait for a dead member go on without it (R321). -/
def refoldJob (job : Nat) (s : State) : State :=
  (s.clusters.map Prod.fst).foldl (fun s c =>
    if (getCluster s c).ctx.job ≠ job then s else foldCluster c s) s

/-- Operations that are under way toward a member that dies complete without effect (R321): one whose request an engine holds as that request ends, one
that awaits its answer by an answer. -/
def abandonSlot (c g : Nat) (s : State) : State :=
  match slotAt s c g with
  | none => s
  | some x =>
    if !x.active then s else
    (List.range x.ops.length).foldl (fun s i =>
      match x.op i with
      | none => s
      | some o =>
        if x.stateOf i != .fired || !towardDead s c o then s else
        match (queueOf (getCluster s c) (i % 4)).find? fun q => q.r.kind == .graph g i && q.uid == (getCluster s c).ctx.uid with
        | some q => updReq c (i % 4) q.id (fun q => if q.next < q.total ∧ q.status = 0 then { q with status := 2, paused := none } else q) s
        | none =>
          if (backlogOf (getCluster s c) (i % 4)).any fun q => q.r.kind == .graph g i then s
          else answerSender 0 (c, g, i) (updGraph s c g fun y => { y with dead := true })) s

/-- The same in every slot of the job's clusters. -/
def abandonOps (job : Nat) (s : State) : State :=
  (s.clusters.map Prod.fst).foldl (fun s c =>
    if (getCluster s c).ctx.job ≠ job then s
    else ((getCluster s c).graphs.map Prod.fst).foldl (fun s g => abandonSlot c g s) s) s

/-- A module is declared dead for a job (R259). -/
def declareDead (job member : Nat) (s : State) : State := refoldJob job (abandonOps job (killMember job member s))

/-- MEMBER_DEATH (R259): a module is dead for every job of which it is a member. -/
def execMemberDeath (s : State) : Host.Outcome State Fault Refusal :=
  .next (s.jobs.foldl (fun t j => if j.members.contains s.place then declareDead j.id (memberOf j s.place) t else t) s)

end Sys2Proof.Machine
end

