-- ==== Sys2Proof/Machine/HostPort.lean ====
section
/-! DEFINITION. Sys2Proof/Machine/HostPort.lean: jobs (R48, R221, R239, R354), reserved paths (R313), partitions and weight-store owners (R350, R351), the
registers that system software reaches by messages (R383, R384, R401) and the firmware complexes (R390 to R392). -/

namespace Sys2Proof.Machine

/-! ### Jobs (R48, R221, R238, R239) -/

/-- The declaration of four words (R239). -/
def declOfWords (ws : List Nat) : Decl :=
  let w := fun i => ws.getD i 0
  { ch := fld (w 0) 2 0, bop := fld (w 0) 3 3, late := fld (w 0) 5 4, shrink := bit (w 0) 6, npm := fld (w 0) 25 16, absv := fld (w 1) 15 0,
    deadline := w 2 % 2 ^ 32 }

/-- Four words break a condition of R239. -/
def declBad (ws : List Nat) : Bool :=
  let w := fun i => ws.getD i 0
  let d := declOfWords ws
  (ws.any fun x => decide (2 ^ 32 ≤ x)) || d.late == 3 || fld (w 0) 15 7 != 0 || d.npm == 0 || decide (768 < d.npm) || fld (w 0) 31 26 != 0 ||
  fld (w 1) 31 16 != 0 || (if d.late = 0 then d.deadline != 0 else d.deadline == 0) || w 3 != 0

/-- A set of declarations is rejected: one breaks R239, or two name one channel. -/
def declsBad (ds : List (List Nat)) : Bool :=
  let chs := ds.map fun d => (declOfWords d).ch
  ds.any declBad || decide (chs.eraseDups.length < chs.length)

/-- The job slot that a job takes: the one whose HWCTL already names it, or the lowest without a job (R48, R366). -/
def slotFor (md : Module) (job : Nat) : Option Nat :=
  let free := (List.range 16).filter fun i => !(Tbl.get JobSlot.reset md.slots i).used
  match free.find? fun i => (Tbl.get JobSlot.reset md.slots i).job == job with
  | some i => some i
  | none => free.head?

/-- A request of the job is accepted on the module (R221). -/
def anyRequest (s : State) (m job : Nat) : Bool :=
  (List.range 96).any fun i =>
    let cl := getCluster s (96 * m + i)
    (cl.ctx.job == job && !(ownRequests cl).isEmpty) ||
    (getMod s m).saves.any fun v => v.cluster == 96 * m + i && v.cl.ctx.job == job && (cl.queues.any fun y => y.2.any fun q => q.uid == v.uid)

/-- The job's space, partition and slot on a module. -/
def enterJob (m caller job root slot : Nat) (s : State) : State :=
  let s := updJob s job fun j => { j with roots := Tbl.set j.roots (memberOf j m) (some root), part := Tbl.set j.part m caller }
  let taken := fun (x : JobSlot) =>
    { x with job := job, used := true, state := .running, stopped := false, stage := 0, pending := none, incoming := none, calls := [], total := 0,
             causeRec := .zero }
  updMod s m fun md => { md with slots := Tbl.set md.slots slot (taken (Tbl.get .reset md.slots slot)) }

/-- JOBCREATE (R48, R221, R239, R354): the first one of a job names its members and declares its channels; each later one gives the job its space
on another member, or a new root where no request of the job is accepted. -/
def jobCreateMove (m caller job : Nat) (members : List Nat) (root : Nat) (ds : List (List Nat)) (s : State) : State :=
  unlessPaused m (.jobCreate m caller job members root ds) s fun s =>
  let bad := declsBad ds
  let decls := if bad then [] else ds.map declOfWords
  if root % 4096 ≠ 0 ∨ !members.contains m ∨ members.eraseDups.length < members.length then refuseOp m s
  else match getJob s job with
    | some j =>
      if j.members ≠ members ∨ (!bad && j.decls != decls) then refuseOp m s
      else if jobOn s m job then
        if !mayCall caller (partOfJob s m job) ∨ anyRequest s m job then refuseOp m s
        else answerDone m (updJob s job fun j => { j with roots := Tbl.set j.roots (memberOf j m) (some root) })
      else match slotFor (getMod s m) job with
        | some i => answerIf m (enterJob m caller job root i s, !bad)
        | none => refuseOp m s
    | none =>
      match slotFor (getMod s m) job with
      | some i =>
        let j : Job := { id := job, members := members, roots := [], part := [], decls := decls, chans := [], dead := [] }
        answerIf m (enterJob m caller job root i { s with jobs := s.jobs ++ [j] }, !bad)
      | none => refuseOp m s

@[inherit_doc jobCreateMove] def execJobCreate (m caller job : Nat) (members : List Nat) (root : Nat) (ds : List (List Nat)) (s : State) :
    Host.Outcome State Fault Refusal := .next (jobCreateMove m caller job members root ds s)

/-- A launch ends with STATUS 7 (R347, R350, R354): one that has not begun leaves its queue; a weight-store write ends; a kernel is stopped. -/
def cancelLaunch (m : Nat) (l : Launch) (s : State) : State :=
  match l.state with
  | .waiting | .ready => dropHead m l.queue 7 l.words s
  | .done => s
  | _ =>
    if pktKind l.words = 1 then
      endLaunch m l 7 0 ((writeDies m l).foldl (fun s d => updDie s d fun x => { x with writing := false }) s)
    else killLaunch m 7 false l s

/-- The windows of a job on a module are shut and its pins released (R279). -/
def shutWindows (m job : Nat) (s : State) : State :=
  (List.range 64).foldl (fun s n =>
    match Tbl.get none (getMod s m).windows n with
    | some w => if w.job = job then shutWindow m n s else s
    | none => s) s

/-- JOBREMOVE (R354): the job's launches on the module end with STATUS 7, those whose packets still wait in a queue in their turn, and its generators, windows, paths and space there go; its channels go
with its last space. -/
def jobRemoveMove (m caller job : Nat) (s : State) : State :=
  unlessPaused m (.jobRemove m caller job) s fun s =>
  if !jobOn s m job ∨ !mayCall caller (partOfJob s m job) then refuseOp m s else
  let s := ((getMod s m).launches.filter fun l => l.job == job).foldl (fun s l => cancelLaunch m l s) s
  let s := shutWindows m job s
  let gone := fun (p : Packet) => if pktJob p.words = job then { p with gone := true } else p
  let s := updMod s m fun md => { md with
    queues := md.queues.map fun x => (x.1, { x.2 with pkts := x.2.pkts.map gone })
    ticks := md.ticks.map fun x => if x.2.job = job ∧ x.2.en then (x.1, { x.2 with en := false }) else x
    fab := md.fab.filter fun f => f.1 != job
    slots := md.slots.map fun x => if x.2.used ∧ x.2.job = job then (x.1, { x.2 with used := false, state := .running, stopped := false, pending := none, incoming := none, causeRec := .zero }) else x }
  let s := finishPlaces job (fun p => modOf p.core == m) s
  let s := updJob s job fun j => { j with roots := Tbl.set j.roots (memberOf j m) none }
  answerDone m { s with jobs := s.jobs.filter fun j => j.id != job || j.roots.any fun x => x.2.isSome }

@[inherit_doc jobRemoveMove] def execJobRemove (m caller job : Nat) (s : State) : Host.Outcome State Fault Refusal := .next (jobRemoveMove m caller job s)

/-- JOBSHRINK (R259, R354). -/
def jobShrinkMove (m caller job member : Nat) (s : State) : State :=
  unlessPaused m (.jobShrink m caller job member) s fun s =>
  match getJob s job with
  | some j =>
    if !jobOn s m job ∨ !mayCall caller (partOfJob s m job) ∨ j.members.length ≤ member then refuseOp m s
    else answerDone m (declareDead job member s)
  | none => refuseOp m s

@[inherit_doc jobShrinkMove] def execJobShrink (m caller job member : Nat) (s : State) : Host.Outcome State Fault Refusal :=
  .next (jobShrinkMove m caller job member s)

/-- A reservation: job, source member, destination member, hops, rate in Gb/s, ports. -/
abbrev Path := Nat × Nat × Nat × Nat × Nat × List Nat

/-- The sum of a job's reserved rates through a port (R313). -/
def portRate (fab : List Path) (job p : Nat) : Nat :=
  ((fab.filter fun f => f.1 == job && f.2.2.2.2.2.contains p).map fun f => f.2.2.2.2.1).sum

/-- FABSCHED (R313, R354): the job's sum through each port stays within 400 Gb/s; a path that the job has already is reserved anew. -/
def fabSchedMove (m caller job src dst hops rate : Nat) (ports : List Nat) (s : State) : State :=
  unlessPaused m (.fabSched m caller job src dst hops rate ports) s fun s =>
  match getJob s job with
  | some j =>
    let fab := ((getMod s m).fab.filter fun f => !(f.1 == job && f.2.1 == src && f.2.2.1 == dst)) ++ [(job, src, dst, hops, rate, ports)]
    if !jobOn s m job ∨ !mayCall caller (partOfJob s m job) ∨ j.members.length ≤ src ∨ j.members.length ≤ dst ∨ rate = 0 ∨
        ports.any (fun p => decide (400 < portRate fab job p)) then refuseOp m s
    else answerDone m (updMod s m fun md => { md with fab := fab })
  | none => refuseOp m s

@[inherit_doc fabSchedMove] def execFabSched (m caller job src dst hops rate : Nat) (ports : List Nat) (s : State) : Host.Outcome State Fault Refusal :=
  .next (fabSchedMove m caller job src dst hops rate ports s)

/-! ### Partitions (R350) and weight stores (R351) -/

/-- A cluster as the scrub leaves it (R350). -/
def Cluster.scrubbed (cl : Cluster) : Cluster :=
  { Cluster.reset with part := cl.part, scrub := cl.scrub, newPart := cl.newPart, hold := cl.hold, lastWake := cl.lastWake }

/-- The scrub of a cluster and its cores (R350): the marks of their stores go with what they held. -/
def scrubCluster (c : Nat) (s : State) : State :=
  let s := updCluster s c Cluster.scrubbed
  let s := (List.range 8).foldl (fun s r => setCore s (8 * c + r) .reset) s
  { s with marks := s.marks.filter fun x => !clusterMark c x }

/-- Launches with a task on a cluster, saved ones among them (R350). -/
def launchesOn (s : State) (c : Nat) : List Launch :=
  (getMod s (c / 96)).launches.filter fun l =>
    ((getCluster s c).ctx.uid == l.uid && (getCluster s c).task != .none) || (getMod s (c / 96)).saves.any fun v => v.uid == l.uid && v.cluster == c

/-- The place at which an operation of the hypervisor that is half handled goes on. -/
def halfPlace : Nat := 2 ^ 32

/-- PARTASSIGN (R350): the hypervisor's. The launches on the cluster complete with STATUS 7, then the scrub begins, for at most 150 µs. A die under
update takes none (R392). -/
def partAssignMove (c part : Nat) (s : State) : State :=
  let m := c / 96
  let go := fun (k : State → State) => if s.place = halfPlace then k s else unlessPaused m (.partAssign c part) s fun s => forHypervisor m s k
  go fun s =>
  if (getCluster s c).scrub.isSome ∨ (getDie s (c / 12)).power = .off ∨ (dieUpdating s (c / 12) ∧ s.place ≠ halfPlace) then refuseOp m s else
  let ls := launchesOn s c
  if (getCluster s c).task ≠ .none ∨ !ls.isEmpty then
    again 1 halfPlace (.partAssign c part) (ls.foldl (fun s l => if l.state = .failing then s else cancelLaunch m l s) s)
  else
    let (d, s) := openValue 1 149999 s
    answerDone m (scrubCluster c (updCluster s c fun x => { x with scrub := some (timeOf s m + d), newPart := part }))

@[inherit_doc partAssignMove] def execPartAssign (c part : Nat) (s : State) : Host.Outcome State Fault Refusal := .next (partAssignMove c part s)

/-- CLUSTER_SCRUB_DONE (R350): the cluster takes its new partition. -/
def clusterScrubDoneMove (c : Nat) (s : State) : State :=
  match (getCluster s c).scrub with
  | some t =>
    if t ≤ timeOf s (c / 96) then updCluster (scrubCluster c s) c fun x => { x with scrub := none, part := x.newPart } else s
  | none => s

@[inherit_doc clusterScrubDoneMove] def execClusterScrubDone (s : State) : Host.Outcome State Fault Refusal := .next (clusterScrubDoneMove s.place s)

/-- The store of a die with every byte zero and no mark (R351). -/
def clearStore (d : Nat) (s : State) : State :=
  { (updDie s d fun x => { x with weights := [] }) with marks := s.marks.filter fun x => !(x.1 == 3 && x.2.1 == d) }

/-- WSOWN_WRITE (R351): refused while a launch runs on the die, or the die is under update (R392); otherwise a scrub of at most 2,000,000 ns begins. -/
def wsownMove (d part : Nat) (s : State) : State :=
  if !dieIdle s d || (getDie s d).writing || dieUpdating s d then s else
  let (n, s) := openValue 1 1999999 s
  clearStore d (updDie s d fun x => { x with owner := part, scrub := some (timeOf s (d / 8) + n) })

@[inherit_doc wsownMove] def execWsownWrite (d part : Nat) (s : State) : Host.Outcome State Fault Refusal :=
  .next (afterHeld (d / 8) (.wsownWrite d part) s fun s => wsownMove d part s)

/-- WEIGHT_STORE_SCRUB_DONE (R351). -/
def weightScrubDoneMove (d : Nat) (s : State) : State :=
  match (getDie s d).scrub with
  | some t => if t ≤ timeOf s (d / 8) then clearStore d (updDie s d fun x => { x with scrub := none }) else s
  | none => s

@[inherit_doc weightScrubDoneMove] def execWeightStoreScrubDone (s : State) : Host.Outcome State Fault Refusal := .next (weightScrubDoneMove s.place s)

/-! ### Register writes (R383, R384, R401) -/

/-- The address registers of a queue are not written while GO = 1 (R384). -/
def unlessGo (f : Queue → Queue) (q : Queue) : Queue := if q.go then q else f q

/-- A write into a queue's registers at an offset (R333, R384). -/
def writeQueue (m caller n off v : Nat) (s : State) : State :=
  let set := fun (f : Queue → Queue) => updQueue s m n f
  if off = 0x38 then
    if caller = 0 then set fun q => { q with en := bit v 0, part := fld v 15 8, lwdog := fld v 21 16, age := fld v 27 24 } else s
  else if !mayCall caller (queueAt s m n).part then s
  else match off with
    | 0x00 => set (unlessGo fun q => { q with qbase := v % 2 ^ 57 })
    | 0x08 => set (unlessGo fun q => { q with qlog := v % 16 })
    | 0x0C => set (unlessGo fun q => { q with qcbase := v % 2 ^ 57 })
    | 0x14 => set (unlessGo fun q => { q with qroot := v % 2 ^ 52 })
    | 0x1C =>
      let s := set fun q => { q with err := q.err && !bit v 1, flt := q.flt && !bit v 2, irqen := bit v 3, irqv := fld v 9 4 }
      if bit v 0 then goQueue m n s else s
    | 0x28 => readPacket m n s
    | 0x2C => set fun q => { q with qcack := v % 2 ^ 32 }
    | _ => s

/-- The words of a generator's registers that software writes (R275). -/
def Tick.words (t : Tick) : List Nat :=
  [b2n t.en + t.kind * 2 + b2n t.gate * 8 + t.gwin * 2 ^ 8 + t.part * 2 ^ 16 + t.job * 2 ^ 32, t.period, t.phase,
   t.waddr + t.wcl * 2 ^ 32 + t.queue * 2 ^ 40, t.lpkt]

/-- The words of a controller's registers that software writes (R305). -/
def CvCtl.words (c : CvCtl) : List Nat :=
  [b2n c.en + b2n c.umode * 2 + c.level * 2 ^ 4 + c.lmin * 2 ^ 8 + c.lmax * 2 ^ 12 + c.mexp * 2 ^ 16 + c.uexp * 2 ^ 20, c.job + c.part * 2 ^ 16, c.low, c.high]

/-- A write of HWCTL (R366): the job that the slot names, before and after, is the caller's. The record of another job goes (R378). -/
def writeHwctl (m caller i v : Nat) (s : State) : State :=
  let old := Tbl.get JobSlot.reset (getMod s m).slots i
  let job := fld v 47 32
  if (old.used && !mayCall caller (partOfJob s m old.job)) || !mayCall caller (partOfJob s m job) then s
  else
    let new := { old with arm := bit v 0, cmask := fld v 13 8, job := job, causeRec := if job = old.job then old.causeRec else .zero }
    updMod s m fun md => { md with slots := Tbl.set md.slots i new }

/-- A write into a partition's registers (R348, R376): the hypervisor's. -/
def writePart (m caller p off v : Nat) (s : State) : State :=
  if caller ≠ 0 ∨ p = 0 then s else
  match off with
  | 0x00 => updPart s m p fun x => { x with frbase := v % 2 ^ 52, frsize := fld v 56 52 }
  | 0x08 => updPart s m p fun x => { x with nframes := v % 2 ^ 16 }
  | 0x10 => updPart s m p fun x => { x with dbase := v % 2 ^ 52 }
  | 0x18 => updPart s m p fun x => { x with dsize := v % 2 ^ 16 }
  | _ => s

/-- A counter's select word or count is written (R399). -/
def putCounter (off v : Nat) (sel cnt : Tbl Nat) (i : Nat) : Tbl Nat × Tbl Nat :=
  match off with
  | 0x0 => (Tbl.set sel i (v % 512), cnt)
  | 0x8 => (sel, Tbl.set cnt i (v % 2 ^ 64))
  | _ => (sel, cnt)

/-- A cluster's counters are written (R401). -/
def writeClusterCounter (m caller c i off v : Nat) (s : State) : State :=
  if 96 ≤ c ∨ 16 ≤ i ∨ !mayCall caller (getCluster s (96 * m + c)).part then s
  else updCluster s (96 * m + c) fun x =>
    let r := putCounter off v x.evsel x.evcnt i
    { x with evsel := r.1, evcnt := r.2 }

/-- The module's counters are written (R401). -/
def writeModuleCounter (m caller i off v : Nat) (s : State) : State :=
  if caller ≠ 0 ∨ 32 ≤ i then s
  else updMod s m fun x =>
    let r := putCounter off v x.evsel x.evcnt i
    { x with evsel := r.1, evcnt := r.2 }

/-- Any hypervisor write clears a partition's error counters (R398). -/
def clearErrors (m part : Nat) (s : State) : State := updMod s m fun md => { md with errs := md.errs.filter fun x => x.1 / 16 != part }

/-- ERROR_COUNTER_CLEAR (R398). -/
def execErrorCounterClear (m part : Nat) (s : State) : Host.Outcome State Fault Refusal :=
  .next (afterHeld m (.errorCounterClear m part) s fun s => clearErrors m part s)

/-- A write of PWRCFG (R404): a limit above 2,700 is written as 2,700. -/
def writePower (m caller v : Nat) (s : State) : State :=
  if caller = 0 then updMod s m fun md => { md with limit := min 2700 (fld v 11 0), wlog := fld v 15 12 } else s

/-- OWNER of a frame is written by the partition that owns the frame, or by the hypervisor (R228, R383). -/
def writeOwner (m caller g v : Nat) (s : State) : State :=
  if mayCall caller (frameAt s m g).owner then updFrame m g (fun f => { f with owner := v % 256 }) s else s

/-- A register write message by its offset (R383, R401): a value is written into the register that begins there; any other offset has no register
that software writes. The frame table (R228), for which no offset is given, stands from 2^31 on, and an offset from 2^32 on names a byte of host memory,
which the host writes itself (R382, log 13). -/
def registerWriteMove (m caller off v : Nat) (s : State) : State :=
  let md := getMod s m
  if off < 0x1000 then writeQueue m caller (off / 0x40) (off % 0x40) v s
  else if off = 0x10000 then writeTmcfg m v s
  else if off = 0x10008 then updTime s m fun t => { t with tmport := v % 2 ^ 32 }
  else if 0x11000 ≤ off ∧ off < 0x11400 ∧ off % 8 = 0 ∧ off % 0x40 < 40 then
    let g := (off - 0x11000) / 0x40
    (writeTick m caller g ((tickOf s m g).words.set (off % 0x40 / 8) (v % 2 ^ 64)) s).1
  else if 0x12000 ≤ off ∧ off < 0x12400 ∧ off % 4 = 0 ∧ off % 0x40 < 16 then
    let n := (off - 0x12000) / 0x40
    (writeCtl m caller n (off % 0x40 == 0) ((Tbl.get CvCtl.reset md.ctls n).words.set (off % 0x40 / 4) (v % 2 ^ 32)) s).1
  else if 0x13000 ≤ off ∧ off < 0x13400 then if off % 0x40 = 0 then writeHwctl m caller ((off - 0x13000) / 0x40) v s else s
  else if 0x18000 ≤ off ∧ off < 0x1C000 then writePart m caller ((off - 0x18000) / 0x40) (off % 0x40) v s
  else if 0x1C000 ≤ off ∧ off < 0x1C200 then
    if off % 0x40 = 0 ∧ caller = 0 then wsownMove (8 * m + (off - 0x1C000) / 0x40) (v % 256) s else s
  else if 0x30000 ≤ off ∧ off < 0x3C000 then
    writeClusterCounter m caller ((off - 0x30000) / 0x200) (off % 0x200 / 0x10) (off % 0x10) v s
  else if 0x3C000 ≤ off ∧ off < 0x3C200 then writeModuleCounter m caller ((off - 0x3C000) / 0x10) (off % 0x10) v s
  else if 0x40040 ≤ off ∧ off < 0x44000 then if caller = 0 then clearErrors m ((off - 0x40000) / 0x40) s else s
  else if off = 0x51000 then writePower m caller v s
  else if 2 ^ 31 ≤ off ∧ off < 2 ^ 31 + 4 * 0xC00000 ∧ off % 4 = 0 then
    writeOwner m caller ((off - 2 ^ 31) / 4) v s
  else s

/-- The host writes a byte of its memory (R382). -/
def hostWrite (m a v : Nat) (s : State) : State := updMod s m fun md => { md with host := Mem.write md.host a [v % 256] }

/-! ### Register reads (R7, R383, R401, R405) -/

/-- A queue's registers as they read (R333, R384): QDOOR is write-only. -/
def Queue.readAt (q : Queue) : Nat → Nat
  | 0x00 => q.qbase
  | 0x08 => q.qlog
  | 0x0C => q.qcbase
  | 0x14 => q.qroot
  | 0x1C => b2n q.go + b2n q.err * 2 + b2n q.flt * 4 + b2n q.irqen * 8 + q.irqv * 16
  | 0x20 => q.qpos % 2 ^ 32
  | 0x24 => q.qcpos
  | 0x2C => q.qcack
  | 0x38 => b2n q.en + q.part * 2 ^ 8 + q.lwdog * 2 ^ 16 + q.age * 2 ^ 24
  | _ => 0

/-- A generator's registers as they read (R275). -/
def Tick.readAt (t : Tick) (off : Nat) : Nat :=
  if off % 8 = 0 then (t.words ++ [t.fcnt, t.miss + t.skip * 2 ^ 32]).getD (off / 8) 0 else 0

/-- A controller's registers as they read, word by word (R305). -/
def CvCtl.readAt (c : CvCtl) (off : Nat) : Nat :=
  let part := fun (v i : Nat) => v / 2 ^ (32 * i) % 2 ^ 32
  let ws := [c.words.getD 0 0 + b2n c.below * 2 ^ 25] ++ (c.words.drop 1) ++ (List.range 4).map (part c.sse) ++ (List.range 2).map (part c.nel) ++
    [c.nsmp, c.ninst, c.ndn + c.nup * 2 ^ 16, c.orph]
  if off % 4 = 0 then ws.getD (off / 4) 0 else 0

/-- The code of STATE (R366). -/
def WaveState.code : WaveState → Nat
  | .running => 0 | .freezing => 1 | .frozen => 2 | .stepping => 3 | .resuming => 4

/-- A job slot's registers as they read (R366, R370). -/
def JobSlot.readAt (x : JobSlot) : Nat → Nat
  | 0x00 => b2n x.arm + x.cmask * 2 ^ 8 + x.state.code * 2 ^ 16 + x.job * 2 ^ 32
  | 0x20 => x.causeRec.cause + x.causeRec.count * 2 ^ 16 + x.causeRec.detail * 2 ^ 32
  | 0x28 => x.causeRec.member + x.causeRec.core * 2 ^ 16 + x.causeRec.addr * 2 ^ 32
  | 0x30 => x.causeRec.time
  | 0x38 => x.causeRec.sched
  | _ => 0

/-- A partition's registers as they read (R348, R352, R376). -/
def Part.readAt (p : Part) : Nat → Nat
  | 0x00 => p.frbase + p.frsize * 2 ^ 52
  | 0x08 => p.nframes + (p.nframes - p.used.length) * 2 ^ 16 + p.abandon * 2 ^ 32
  | 0x10 => p.dbase
  | 0x18 => p.dsize + p.ndump * 2 ^ 16 + b2n p.trunc * 2 ^ 48
  | 0x20 => b2n p.act + b2n p.dir * 2 + p.frame * 2 ^ 8 + p.lcl * 2 ^ 24 + p.offset * 2 ^ 32
  | _ => 0

/-- A counter as it reads (R399). -/
def counterAt (off : Nat) (sel cnt : Tbl Nat) (i : Nat) : Nat :=
  match off with | 0x0 => Tbl.get 0 sel i | 0x8 => Tbl.get 0 cnt i | _ => 0

/-- What a register read returns (R383, R401): the register that begins at the offset; zero where it is refused, reserved, write-only or named
nowhere (R7, R405). -/
def registerValue (s : State) (m caller off : Nat) : Nat :=
  let md := getMod s m
  let for_ := fun (part v : Nat) => if mayCall caller part then v else 0
  if off < 0x1000 then for_ (queueAt s m (off / 0x40)).part ((queueAt s m (off / 0x40)).readAt (off % 0x40))
  else if off = 0x10000 then md.time.tmcfg
  else if off = 0x10008 then md.time.tmport
  else if 0x11000 ≤ off ∧ off < 0x11400 then
    let t := tickOf s m ((off - 0x11000) / 0x40)
    for_ t.part (t.readAt (off % 0x40))
  else if 0x12000 ≤ off ∧ off < 0x12400 then
    let c := Tbl.get CvCtl.reset md.ctls ((off - 0x12000) / 0x40)
    for_ c.part (c.readAt (off % 0x40))
  else if 0x13000 ≤ off ∧ off < 0x13400 then
    let x := Tbl.get JobSlot.reset md.slots ((off - 0x13000) / 0x40)
    for_ (partOfJob s m x.job) (x.readAt (off % 0x40))
  else if 0x18040 ≤ off ∧ off < 0x1C000 then
    let p := (off - 0x18000) / 0x40
    for_ p ((Tbl.get Part.reset md.parts p).readAt (off % 0x40))
  else if 0x1C000 ≤ off ∧ off < 0x1C200 ∧ off % 0x40 = 0 then
    let d := getDie s (8 * m + (off - 0x1C000) / 0x40)
    for_ d.owner (d.owner + b2n d.scrub.isSome * 2 ^ 32)
  else if off = 0x20000 then b2n md.act + md.sbst * 2 + md.vact * 2 ^ 8 + md.vsby * 2 ^ 24 + md.tver * 2 ^ 40
  else if 0x30000 ≤ off ∧ off < 0x3C000 ∧ off % 0x200 < 0x100 then
    let cl := getCluster s (96 * m + (off - 0x30000) / 0x200)
    for_ cl.part (counterAt (off % 0x10) cl.evsel cl.evcnt (off % 0x200 / 0x10))
  else if 0x3C000 ≤ off ∧ off < 0x3C200 then for_ 0 (counterAt (off % 0x10) md.evsel md.evcnt ((off - 0x3C000) / 0x10))
  else if 0x40040 ≤ off ∧ off < 0x44000 ∧ off % 4 = 0 then
    let p := (off - 0x40000) / 0x40
    for_ p (Tbl.get 0 md.errs (16 * p + off % 0x40 / 4))
  else if 0x50000 ≤ off ∧ off < 0x51000 ∧ off % 4 = 0 then for_ 0 (Tbl.get 0 md.shared ((off - 0x50000) / 4))
  else if off = 0x51000 then for_ 0 (md.limit + md.wlog * 2 ^ 12)
  else if 2 ^ 31 ≤ off ∧ off < 2 ^ 31 + 4 * 0xC00000 ∧ off % 4 = 0 then
    let f := frameAt s m ((off - 2 ^ 31) / 4)
    for_ f.owner (f.owner + f.pin * 2 ^ 8 + b2n f.swap * 2 ^ 24)
  else 0

/-- REGISTER_WRITE (R9, R383): a register write message with its value, or a register read message, which the module answers; from 2^32 on, a byte of
host memory that the host writes. -/
def registerMove (m caller off : Nat) (v : Option Nat) (s : State) : State :=
  if 2 ^ 32 ≤ off then (match v with | some v => hostWrite m (off - 2 ^ 32) v s | none => s) else
  afterHeld m (.registerWrite m caller off v) s fun s =>
  match v with
  | some v => registerWriteMove m caller off v s
  | none => tellHost (.register m off (registerValue s m caller off)) s

@[inherit_doc registerMove] def execRegisterWrite (m caller off : Nat) (v : Option Nat) (s : State) : Host.Outcome State Fault Refusal :=
  .next (registerMove m caller off v s)

/-! ### Firmware (R390 to R392) -/

/-- The place at which a load of firmware goes on after its stages: loading, importing. -/
def loadPlace (stage : Nat) : Nat := 2 ^ 32 + stage

/-- SBST (R390). -/
def setStandby (m v : Nat) (s : State) : State := updMod s m fun md => { md with sbst := v }

/-- FWLOAD (R391): the signature, the boot, the import of the state table, each after an open time; then the takeover awaits its boundary. -/
def fwloadMove (m : Nat) (signed accepts : Bool) (version : Nat) (s : State) : State :=
  let me : Instr := .fwload m signed accepts version
  let busy := decide (1 ≤ (getMod s m).sbst) && decide ((getMod s m).sbst ≤ 3)
  if s.place = loadPlace 1 then
    let (d, s) := openAny s
    again (d + 1) (loadPlace 2) me (setStandby m 2 s)
  else if s.place = loadPlace 2 then
    if accepts then
      let (d, s) := openAny s
      again (d + 1) m .firmwareTakeover (updMod s m fun md => { md with sbst := 3, vsby := version })
    else setStandby m 4 s
  else unlessPaused m me s fun s =>
    if busy then refuseOp m s
    else if signed then
      let (d, s) := openAny s
      answerDone m (again (d + 1) (loadPlace 1) me (setStandby m 1 s))
    else refuseOp m (setStandby m 4 s)

@[inherit_doc fwloadMove] def execFwload (m : Nat) (signed accepts : Bool) (version : Nat) (s : State) : Host.Outcome State Fault Refusal :=
  .next (fwloadMove m signed accepts version s)

/-- An event of a module is an operation that is half handled (R391): a reassignment whose launches end, or a step of a bundle. -/
def Move.halfDone (m : Nat) (x : Move) : Bool :=
  decide (halfPlace ≤ x.at_) && match x.i with
    | .partAssign c _ => c / 96 == m
    | .stepBundle k _ => modOf k == m
    | _ => false

/-- The module is at a quiescent boundary (R391): no fetcher is reading a packet again, and no shoot-down, swap, reassignment or step is half handled. -/
def quiescent (s : State) (m : Nat) : Bool :=
  let md := getMod s m
  !md.queues.any (fun x => decide (0 < x.2.retries)) && md.shoots.isEmpty && !(md.swaps.any fun x => x.2.isSome) &&
  !(s.inputs.any fun x => x.2.halfDone m) && !(s.agenda.any fun x => x.halfDone m)

/-- FIRMWARE_TAKEOVER (R391): at a quiescent boundary the standby becomes active, and fetching pauses for at most 50 µs. The state table's version of
the new image is open, and so are the protocol versions that it accepts (R392). -/
def takeoverMove (m : Nat) (s : State) : State :=
  let md := getMod s m
  if md.sbst ≠ 3 then s
  else if !quiescent s m then again 1 m .firmwareTakeover s
  else
    let (d, s) := openValue 0 50000 s
    let (t, s) := openValue 0 65535 s
    let (lo, s) := openValue 0 65535 s
    let (hi, s) := openValue lo 65535 s
    updMod s m fun md =>
      { md with act := !md.act, vact := md.vsby, vsby := md.vact, sbst := 0, tver := t, fwPause := timeOf s m + d, ioLo := lo, ioHi := hi, updHalted := false }

@[inherit_doc takeoverMove] def execFirmwareTakeover (s : State) : Host.Outcome State Fault Refusal := .next (takeoverMove s.place s)

/-- The module of a die, the twelve base dies of module m numbered from 2^16 + 12 m on (log 109). -/
def dieMod (d : Nat) : Nat := if d < 2 ^ 16 then d / 8 else (d - 2 ^ 16) / 12

/-- A base die still works (R392): on a matrix-vector request whose pages are its stack's, or on a swap of its frames. -/
def baseBusy (s : State) (m b : Nat) : Bool :=
  let here := fun (pa : Nat) => !isHost pa && stackOf pa == b
  (s.clusters.any fun x => (x.2.queues.flatMap fun y => y.2).any fun q =>
    (match q.r.kind with | .gemv .. => true | _ => false) && q.status == 0 && decide (q.next < q.total) && q.maps.any fun p => p.m == m && here p.pa) ||
  (getMod s m).swaps.any fun x => match x.2 with
    | some w => (swapCmdOf w.words).granules.any fun g => stackOf (g * 65536) == b
    | none => false

/-- Nothing runs on a die under update (R392): no task, no saved task, no weight-store write; on a base die, no matrix-vector work of its units and
no swap of its frames. -/
def dieQuiet (s : State) (d : Nat) : Bool :=
  let m := dieMod d
  if d < 2 ^ 16 then dieIdle s d && !(getDie s d).writing && !(getMod s m).saves.any fun v => v.cluster / 12 == d
  else !baseBusy s m ((d - 2 ^ 16) % 12)

/-- The exchange of versions over a mailbox (R392): each side's range; the highest common version. -/
def commonVersion (a b : Nat × Nat) : Option Nat := if max a.1 b.1 ≤ min a.2 b.2 then some (min a.2 b.2) else none

/-- A die that has no common version stays out of service, and the updates halt (R392). -/
def haltUpdates (m d : Nat) (s : State) : State :=
  let s := updMod s m fun md => { md with updHalted := true, baseOut := if d < 2 ^ 16 then md.baseOut else d :: md.baseOut.filter fun b => b != d }
  if d < 2 ^ 16 then updDie s d fun x => { x with inService := false } else s

/-- A die rejoins (R392): it keeps the highest common version with the I/O die, its neighbour (R12, R13), and those that the event names beside it; a
pair with none keeps it out of service, its image as it was, and halts the update. -/
def rejoinDie (d lo hi : Nat) (neighbours : List (Nat × Nat)) (s : State) : State :=
  let m := dieMod d
  let md := getMod s m
  let done := fun (md : Module) => { md with updating := none }
  match commonVersion (lo, hi) (md.ioLo, md.ioHi) with
  | some v =>
    if neighbours.all fun n => (commonVersion (lo, hi) n).isSome then
      let s := updMod s m fun md => { done md with pairs := Tbl.set md.pairs d v, baseOut := md.baseOut.filter fun b => b != d }
      if d < 2 ^ 16 then updDie s d fun x => { x with fwLo := lo, fwHi := hi, inService := true } else s
    else haltUpdates m d (updMod s m done)
  | none => haltUpdates m d (updMod s m done)

/-- DIE_FIRMWARE_REJOIN (R392): dies are updated one at a time, after the I/O die; a die under update takes no new launch or command, and what runs on
it finishes first. -/
def rejoinMove (d lo hi : Nat) (neighbours : List (Nat × Nat)) (s : State) : State :=
  let m := dieMod d
  let md := getMod s m
  let me : Instr := .dieFirmwareRejoin d lo hi neighbours
  if !md.up || md.standby then s
  else if s.place = halfPlace then
    if dieQuiet s d then rejoinDie d lo hi neighbours s else again 1 halfPlace me s
  else if md.updHalted then s
  else if md.updating.isSome || (decide (1 ≤ md.sbst) && decide (md.sbst ≤ 3)) then again 1 s.place me s
  else again 1 halfPlace me (updMod s m fun md => { md with updating := some d })

@[inherit_doc rejoinMove] def execDieFirmwareRejoin (d lo hi : Nat) (neighbours : List (Nat × Nat)) (s : State) : Host.Outcome State Fault Refusal :=
  .next (rejoinMove d lo hi neighbours s)

end Sys2Proof.Machine
end

