-- ==== Sys2Proof/Machine/Debug.lean ====
section
/-! DEFINITION. Sys2Proof/Machine/Debug.lean: what a debugger reads of a FROZEN job (R371): the state of its cores, clusters and engines as lists of
numbers, in a layout of the model's own (log 38). -/

namespace Sys2Proof.Machine

/-! ### Items of a core -/

/-- A tag as data. -/
def tagWords (t : Option Poison) : List Nat := match t with | some p => [1, p.cause, p.addr] | none => [0, 0, 0]

/-- An integer as data. -/
def intWord (i : Int) : Nat := (i % 2 ^ 64).toNat

/-- What may be absent as data. -/
def optWords {α : Type} (f : α → List Nat) (x : Option α) : List Nat := match x with | some y => 1 :: f y | none => [0]

/-- A list as data: its length, then its members. -/
def listWords {α : Type} (f : α → List Nat) (xs : List α) : List Nat := xs.length :: xs.flatMap f

/-- A table as data: keys with their values. -/
def tblWords {α : Type} (f : α → Nat) (t : Tbl α) : List Nat := t.flatMap fun x => [x.1, f x.2]

/-- Bytes at an address as data. -/
def pieceWords (x : Nat × List Nat) : List Nat := x.1 :: x.2.length :: x.2

/-- A range as data. -/
def rangeWords (x : Nat × Nat) : List Nat := [x.1, x.2]

/-- What a load still reads, as data. -/
def LoadReq.words (r : LoadReq) : List Nat := listWords rangeWords r.src ++ (r.pad.length :: r.pad) ++ optWords (fun j => [j]) r.pick

/-- A view register as data. -/
def View.words (v : View) : List Nat := [v.base, v.cls, b2n v.cfg, v.rows, v.cols, v.tfmt.code, v.pitch]

/-- What a pending write does, as data: kind, destination and value. -/
def Eff.words : Eff → List Nat
  | .sreg d v t => [0, d, v.toNat] ++ tagWords t
  | .pair n c t => [1, n, b2n c] ++ tagWords t
  | .kmask n v sel t => [2, n, v.toNat, sel.toNat] ++ tagWords t
  | .bytes segs t st => 3 :: tagWords t ++ optWords (fun u => [u]) st ++ listWords pieceWords segs
  | .ln6 base ls sel => 4 :: base :: sel.toNat :: ls
  | .loadS d r u => 5 :: d :: u :: r.words
  | .amoS d v => [6, d] ++ optWords (fun x => [x.toNat]) v
  | .loadV base r u => 7 :: base :: u :: r.words
  | .mfeed r y p w bad t => [8, r, p, w, b2n bad] ++ tagWords t ++ y
  | .mzero r => [9, r]
  | .view cls idx v => 10 :: cls :: idx :: v.words
  | .latch ws => 11 :: ws.flatMap fun w => [b2n w.1, w.2.1, w.2.2.1, intWord w.2.2.2]
  | .fill q res e => 12 :: q :: res :: e
  | .sysw n v => [13, n, v]
  | .regions rs => 14 :: listWords rangeWords rs
  | .rel w n => [15, w, intWord n]
  | .accRow r bs c t => [16, r, c.cphi, c.cplo, c.cwhi, c.cwlo, b2n c.unchk, b2n c.taint] ++ tagWords t ++ bs
  | .released segs t seq later => 17 :: tagWords t ++ [seq] ++ listWords pieceWords segs ++ listWords (fun x => [b2n x.1, x.2.1, x.2.2]) later

/-- A pending write as data: its delay, slot, whether a run-ahead has made it, and what it does. -/
def pendWords (x : Nat × Pend) : List Nat := [x.1, x.2.slot, b2n x.2.ra] ++ x.2.eff.words

/-- The pending writes of a stopped core with their delays: those that the freeze and a trap hold, and those that take their own course. -/
def Core.pending (c : Core) : List (Nat × Pend) := (c.pend.map fun p => (p.vis - c.frozenAt, p)) ++ c.frozenHeld ++ c.held

/-- One side of a request as data. -/
def Side.words : Side → List Nat
  | .local_ a => [0, a, 0, 0]
  | .virt m a => [1, m, a, 0]
  | .window m key off => [2, m, key, off]

/-- What a request asks as data. -/
def ReqKind.words : ReqKind → List Nat
  | .copy => [0]
  | .atomic op sgn n x y => [1, op, b2n sgn, n, x, y]
  | .gemv m n k args => [2, m, n, k] ++ args
  | .graph g i => [3, g, i]

/-- A request as data. -/
def Req.words (r : Req) : List Nat :=
  [r.tag, r.core, r.issued] ++ r.kind.words ++ r.src.words ++ r.dst.words ++ [r.len] ++ listWords (fun n => [n]) r.cnt ++ r.sstr.map intWord ++
    r.dstr.map intWord ++ [b2n r.shd, b2n r.pub, r.bind] ++ optWords rangeWords r.cw

/-- An entry of the kitty as data. -/
def kittyWords : KEntry → List Nat
  | .store seq slot segs tag later => [0, seq, slot] ++ tagWords tag ++ listWords pieceWords segs ++ listWords (fun x => [b2n x.1, x.2.1, x.2.2]) later
  | .req r j => 1 :: j :: r.words
  | .pub b => [2, b]
  | .rel b => [3, b]

/-- The two state words of a channel (R241). -/
def Chan.words (x : Chan) : List Nat := [b2n x.enr + 2 * b2n x.outst + 4 * b2n x.failed + 8 * x.place + 2 ^ 32 * (x.seq % 2 ^ 32), x.call]

/-- An entry of a stream register as data: its position, its state with what belongs to it, its bytes. -/
def SEntry.words (e : SEntry) : List Nat :=
  e.pos :: (match e.st with
    | .ready t => [0, t] | .outside => [1, 0] | .marked t => [2, t] | .reserved r => [3, r] | .filled t => [4, t] | .gone t => [5, t]) ++ e.bs

/-- A stream register as data. -/
def Stream.words (x : Stream) : List Nat :=
  [x.unit, b2n x.write, x.pat.base, x.pat.len, x.pos, x.moves, x.ops, x.taken] ++ x.pat.cnt ++ x.pat.stride.map intWord ++
    x.slots.flatMap SEntry.words

/-- What a sequencer does as data. -/
def Seq.code : Seq → Nat
  | .off => 0 | .entry => 1 | .running => 2 | .ending => 3 | .retired => 4 | .fatal => 5 | .landed => 6 | .saved => 7

/-- A store not yet performed as data. -/
def PStore.words (x : PStore) : List Nat :=
  [x.perf, x.seq, x.slot] ++ match x.op with | .bytes a bs => 0 :: pieceWords (a, bs) | .amo op sgn a size v w d => [1, op, b2n sgn, a, size, v, w, d]

/-- A loop entry as data. -/
def Loop.words (l : Loop) : List Nat := [l.count, l.start, l.stop]

/-- A position as data. -/
def Next.words (n : Next) : List Nat := [n.pc, b2n n.xfer, b2n n.ends] ++ listWords Loop.words n.loops

/-- An entry of the trace ring as data. -/
def Trace.words (t : Trace) : List Nat := [t.kind, t.sched, t.addr, t.data]

/-- A condition of `waita` as data. -/
def WCond.code : WCond → Nat
  | .eq => 0 | .ne => 1 | .ge => 2 | .lt => 3

/-- Why a sequencer waits, as data. -/
def Wait.words : Wait → List Nat
  | .none => [0]
  | .waita a n c x bundle t wake => [1, a, n, c.code, x, bundle, t] ++ optWords (fun u => [u]) wake
  | .waitt t wake => [2, t] ++ optWords (fun u => [u]) wake
  | .waittk g t wake => [3, g, t] ++ optWords (fun u => [u]) wake
  | .tokget w d slot word q l last a mask loops tr =>
    [4, w, d, slot, word, q, l, last, a] ++ optWords (fun u => [u]) mask ++ listWords Loop.words loops ++ listWords Trace.words tr
  | .acq b t => [5, b] ++ optWords (fun u => [u]) t
  | .pub b => [6, b]
  | .fence scope t => [7, scope, t]
  | .call => [8]
  | .graph load slot ea t a mask loops tr =>
    [9, b2n load, slot, ea, t, a] ++ optWords (fun u => [u]) mask ++ listWords Loop.words loops ++ listWords Trace.words tr

/-- What a lead's X slot asked, as data. -/
def Ctl.words : Ctl → List Nat
  | .seq => [0]
  | .jump t k hi => [1, t, k, b2n hi]
  | .push l => 2 :: l.words
  | .leave n t => [3, n, t]
  | .endd => [4]

/-- A bundle of a delay line as data. -/
def Sent.words (x : Sent) : List Nat := [x.addr, b2n x.xfer, x.due, x.idle, b2n x.land] ++ x.ctl.words ++ listWords (fun w => [w]) x.ws

/-- A sequencer as data. -/
def Core.seqWords (c : Core) : List Nat :=
  [c.seq.code, b2n c.xfer, c.nextIssue, c.wd, c.sched, b2n c.ra.isSome, c.frozenAt, c.trapT, c.trapDepth, c.kittyBytes, c.kittyFrom, c.nextRes, c.liveMask] ++
    c.wait.words ++ optWords Next.words c.resumeAt ++ optWords Next.words c.callAt ++ optWords (fun n => [n]) c.replay ++
    optWords (fun n => [n]) c.liveAddr ++ optWords rangeWords c.fatalCause ++ listWords rangeWords c.async ++ listWords Sent.words c.line ++
    listWords (fun n => [n]) c.fcache ++ listWords rangeWords c.fills

/-- Register files as a journal keeps them, as data. -/
def Regs.words (r : Regs) : List Nat :=
  tblWords BitVec.toNat r.s ++ r.sTag.flatMap (fun x => x.1 :: tagWords x.2) ++ tblWords b2n r.p ++ r.pTag.flatMap (fun x => x.1 :: tagWords x.2) ++
    tblWords BitVec.toNat r.k ++ r.kTag.flatMap (fun x => x.1 :: tagWords x.2) ++ r.mem.flatMap (fun x => [x.1, x.2.toNat]) ++ tblWords b2n r.dirty ++
    r.mTag.flatMap (fun x => x.1 :: tagWords x.2) ++
    r.chk.flatMap (fun x => [x.1, x.2.cphi, x.2.cplo, x.2.cwhi, x.2.cwlo, b2n x.2.unchk, b2n x.2.taint]) ++ [r.walker, r.reqCount]

/-- A journal as data: the agreement bundle, the arms, and what a discard returns (R253, R255). -/
def RunAhead.words (ra : RunAhead) : List Nat :=
  [ra.ch, b2n ra.agree, ra.sx, ra.guess, b2n ra.signedCall, ra.addr, ra.fallPc, b2n ra.fallXfer, b2n ra.fallEnd, ra.takenPc, ra.idleTo, ra.jbytes, ra.old,
   ra.sched0, ra.issued, ra.mask] ++ listWords Loop.words ra.loops ++ listWords Loop.words ra.takenLoops ++ optWords (fun n => [n]) ra.call ++
    ra.shadow.words

/-! ### Items of a cluster -/

/-- A translation as data. -/
def PageMap.words (p : PageMap) : List Nat := [b2n p.write, p.va, p.size, p.m, p.pa, p.job, p.member]

/-- A request in an engine's queue as data. -/
def reqWords (q : QReq) : List Nat :=
  [q.id, q.uid] ++ q.r.words ++ [q.next, q.active, q.done, q.status] ++ optWords (fun f => [f.member, f.va, b2n f.write, b2n f.ready]) q.paused ++
    listWords rangeWords q.pins ++ [b2n q.published, b2n q.cwSent, b2n q.cwDone, b2n q.bounded] ++ listWords pieceWords q.acc ++
    listWords PageMap.words q.maps

/-- The chunk in hand of an engine as data. -/
def Chunk.words (h : Chunk) : List Nat :=
  [h.id, h.home, h.req, h.src, h.dst, h.len, h.off] ++ optWords (fun bs => bs.length :: bs) h.buf ++ [b2n h.flight] ++ listWords PageMap.words h.maps

/-- An operation of a graph image as data. -/
def GOp.words (o : GOp) : List Nat :=
  [o.kind, o.ffmt, o.ord, o.cnt, o.thr, o.icnt, b2n o.ien, b2n o.rmt, o.inc, o.mem, o.fm, o.nc, o.sb, o.db, o.dop, o.len, o.soff, o.doff]

/-- The state of an operation as data. -/
def OpState.code : OpState → Nat
  | .armed => 0 | .fired => 1 | .completed => 2

/-- A graph slot as data (R318, R324). -/
def GSlot.words (g : GSlot) : List Nat :=
  listWords GOp.words g.ops ++ [g.ncnt, g.run, b2n g.active] ++ g.counters ++ g.states.map OpState.code ++ (g.bases.flatMap fun b => [b2n b.1, b.2]) ++
    [g.recAddr, g.cwaddr, g.cwval, g.irq, b2n g.irqen, g.core] ++ optWords rangeWords g.failed ++ [b2n g.dead, b2n g.moved, g.sig] ++
    listWords (fun x => x.1 :: x.2) g.applied ++ [b2n g.finishing]

/-- The context of a task as data (R46). -/
def Ctx.words (x : Ctx) : List Nat :=
  [x.lid, x.job, x.member, x.nmembers, x.lcl, x.ncl, x.nranks, b2n x.bcast, x.level, x.code, x.wdog, x.arg, x.entry, x.cvdesc] ++ x.skew ++
    optWords (fun n => [n]) x.cvctl

/-- The state of a task as data. -/
def TaskState.code : TaskState → Nat
  | .none => 0 | .loading => 1 | .running => 2 | .landing => 3 | .saving => 4 | .saved => 5 | .restoring => 6 | .recon => 7 | .done => 8

/-- A coverage descriptor as data. -/
def CvDesc.words (d : CvDesc) : List Nat :=
  [d.gx, d.gy, d.br, d.bc, d.fmt.code, b2n d.rmode, b2n d.sen, d.obase, d.apitch, d.mexp]

/-- A publish that waits as data. -/
def PubOp.words (p : PubOp) : List Nat := [p.b, p.from_, p.before, p.core] ++ optWords (fun n => [n]) p.req ++ [b2n p.kitty]

/-- What follows a write as data. -/
def After.words : After → List Nat
  | .nothing => [0, 0, 0]
  | .finish e req => [1, e, req]
  | .graph slot step => [2, slot, step]
  | .chunk id => [3, id, 0]
  | .piece thief => [4, thief, 0]

/-- A write due through an engine as data. -/
def DueWrite.words (d : DueWrite) : List Nat := [d.engine, d.cls, d.ord, b2n d.shadow] ++ pieceWords (d.addr, d.bs) ++ d.after.words

/-- A task and what its cluster has under way, as data. -/
def Cluster.taskWords (cl : Cluster) : List Nat :=
  [cl.task.code, b2n cl.preempt, b2n cl.wholeSave, cl.recon, b2n cl.stopped, b2n cl.failedCopy] ++ cl.ctx.words ++ optWords CvDesc.words cl.cv ++
    listWords PubOp.words cl.pubs ++ listWords (fun x => x.1 :: reqWords x.2) cl.backlog ++ listWords DueWrite.words cl.due ++
    listWords (fun x => [x.b, x.member, x.va, x.v]) cl.cache ++ listWords Sent.words cl.history

/-! ### Reading -/

/-- The cluster or die that a source lies in. -/
def sourceCluster : DbgSource → Nat
  | .scalar k _ | .pred k _ | .mask k _ | .view k _ _ | .pc k | .handler k | .pending k | .trace k | .kitty k | .journal k | .regspace k _ _ => clusterOf k
  | .sequencer k | .sysreg k _ | .loops k | .regions k | .channel k _ | .stream k _ | .array k | .rowSum k _ | .granule k _ | .memory k => clusterOf k
  | .scratch c _ _ | .queue c _ | .chunk c _ | .tlb c _ | .binding c _ | .graph c _ | .task c => c
  | .weight d _ _ => 12 * d
  | .virt m _ _ _ => 96 * m

/-- Bytes of a job's memory on a module at a virtual address; a byte without a translation answers nothing (log 38). -/
def virtBytes (s : State) (m job va n : Nat) : List Nat :=
  match getJob s job with
  | none => []
  | some j => match Tbl.get none j.roots (memberOf j m) with
    | none => []
    | some root => (List.range n).flatMap fun i =>
        match walkFrom (getMod s m) 4 root ((va + i) % 2 ^ 57) with
        | .leaf _ pa size _ _ _ => physRead (getMod s m) (pa + (va + i) % size) 1
        | _ => []

/-- What a debugger reads (R371). -/
def debugData (s : State) : DbgSource → List Nat
  | .scalar k n => ((getCore s k).regs.getS n).toNat :: tagWords ((getCore s k).regs.tagS n)
  | .pred k n => b2n ((getCore s k).regs.getP n) :: tagWords ((getCore s k).regs.tagP n)
  | .mask k n => ((getCore s k).regs.getK n).toNat :: tagWords ((getCore s k).regs.tagK n)
  | .view k cls n => (List.range 4).map (viewWord (getCore s k) s.cycle (viewOf (getCore s k) cls n))
  | .pc k => [(getCore s k).pc]
  | .handler k => [b2n (getCore s k).handler]
  | .pending k => (getCore s k).pending.flatMap pendWords
  | .trace k => (getCore s k).trace.flatMap Trace.words
  | .kitty k => (getCore s k).kitty.flatMap kittyWords
  | .journal k => match (getCore s k).ra with
    | some ra => ra.words
    | none => []
  | .regspace k a n => if inReg a n then Mem.read (getCore s k).regs.mem a n else []
  | .scratch c a n => if inScratch a n then readScratch (getCluster s c) a n else []
  | .weight d a n => if inWeight a n then Mem.read (getDie s d).weights a n else []
  | .queue c e => (queueOf (getCluster s c) e).flatMap reqWords
  | .sequencer k => (getCore s k).seqWords
  | .sysreg k n => [sysRead s k n]
  | .loops k => (getCore s k).loops.flatMap Loop.words
  | .regions k => (getCore s k).regions.flatMap rangeWords
  | .channel k ch => (Tbl.get Chan.zero (getCore s k).chans ch).words
  | .stream k q => match Tbl.get none (getCore s k).streams q with | some x => x.words | none => []
  | .array k =>
    let c := getCore s k
    tblWords id c.arrB ++ tblWords id c.arrSum ++ tblWords intWord c.sa ++ tblWords intWord c.sb
  | .rowSum k row => let x := Tbl.get ChkCol.clean (getCore s k).regs.chk row; [x.cphi, x.cplo, x.cwhi, x.cwlo, b2n x.unchk, b2n x.taint]
  | .granule k g => b2n (Tbl.get false (getCore s k).regs.dirty (g / 16)) :: tagWords (Tbl.get none (getCore s k).regs.mTag g)
  | .memory k =>
    let c := getCore s k
    c.stores.flatMap PStore.words ++ listWords (fun n => [n]) c.heldBind ++ listWords (fun r => [r.b, r.issued] ++ optWords (fun t => [t]) r.due) c.rels
  | .chunk c e => match handOf s c e with | some h => h.words | none => []
  | .tlb c e => (tlbOf (getCluster s c) e).flatMap fun x => [x.job, x.member, x.va, x.size, x.pa, b2n x.rd, b2n x.wr, b2n x.dirty, x.pte]
  | .binding c b => match (getCluster s c).bindings[b]? with
    | some x => [b2n x.pair, b2n x.win, b2n x.excl, b2n x.virt, x.wkey, x.base, x.size, x.alt, x.sync, b2n (Tbl.get false (getCluster s c).swapped b)]
    | none => []
  | .graph c i => match Tbl.get none (getCluster s c).graphs i with | some g => g.words | none => []
  | .task c => (getCluster s c).taskWords
  | .virt m job a n => virtBytes s m job a n

end Sys2Proof.Machine
end

