-- ==== Sys2Proof/Machine/Halt.lean ====
section
/-! DEFINITION. Sys2Proof/Machine/Halt.lean: the halt wave on a member (R262, R367 to R370), the debugger's operations (R371, R372, R378) and the
release after a resume (R36, R373). -/

namespace Sys2Proof.Machine

/-! ### The freeze (R368, R369) -/

/-- Clusters of a module on which a task of the job stands. -/
def jobClusters (s : State) (m job : Nat) : List Nat :=
  ((List.range 96).map fun i => 96 * m + i).filter fun c => (getCluster s c).ctx.job == job && (getCluster s c).task != .none

/-- Cores of the job on a module, those that a whole-context save has stopped aside. -/
def jobCores (s : State) (m job : Nat) : List Nat :=
  ((jobClusters s m job).filter fun c => (getCluster s c).task != .saving && (getCluster s c).task != .loading && (getCluster s c).task != .restoring).flatMap
    (usedCores s)

/-- A trace entry of a freeze or a resume (R375). -/
def traceHalt (kind k : Nat) (s : State) : State := traceCore s k kind (getCore s k).pc (timeOf s (modOf k))

/-- The sequencers of a member that a freeze has reached stop in this cycle, T the cycle before (R369); a core of a broadcast group once it has
issued what its delay line holds (R42). -/
def freezeCores (m job : Nat) (s : State) : State :=
  let sl := jobSlot s m job
  ((jobCores s m job).filter fun k => !(getCore s k).frozen && !drainsLine s sl k).foldl (fun s k =>
    updCore (traceHalt 16 k s) k (Core.freeze (s.cycle - 1))) s

/-- The freeze reaches the member (R369): its sequencers stop, and the leads of its broadcast groups send no more (R42). -/
def freezeJob (m job : Nat) (s : State) : State :=
  let s := updSlot s m job fun x => { x with stopped := true, stage := 0, stopAt := s.cycle, since := timeOf s m }
  let s := ((jobClusters s m job).filter fun c => (getCluster s c).ctx.bcast).foldl (fun s c =>
    updCluster s c fun x => { x with stopped := true }) s
  freezeCores m job s

/-- The hand of an engine is empty, or awaits an access that a receiver or a park holds. -/
def handStopped (s : State) (c e : Nat) : Bool :=
  match handOf s c e with
  | none => true
  | some h => h.flight && s.flights.any fun f => decide (f.due ≤ s.cycle) && (match f.kind with
    | .access _ _ _ c' e' => c' == c && e' == e
    | .atomic _ _ c' e' _ => c' == c && e' == e
    | .window _ _ _ _ _ _ c' e' => c' == c && e' == e
    | .fold _ _ _ _ _ c' e' => c' == c && e' == e
    | _ => false)

/-- Every engine of the job on the member has finished its chunk, and what its cores had issued to memory has been performed. -/
def allStopped (s : State) (m job : Nat) : Bool :=
  (jobClusters s m job).all fun c =>
    ((List.range 4).all (handStopped s c)) && ((getCluster s c).due.all fun d => d.cls != 4) && (usedCores s c).all fun k => (getCore s k).stores.isEmpty && !unread (getCore s k) &&
      ((getCore s k).frozen || (getCluster s c).task == .loading || (getCluster s c).task == .restoring)

/-- HALT_WAVE_TRIGGER (R368, R369): the freeze reaches the member; it is FROZEN once every sequencer and engine of the job has stopped. -/
def waveMove (m job : Nat) (s : State) : State :=
  let s := if (jobSlot s m job).incoming.isSome then updSlot s m job JobSlot.takeWave else s
  if (jobSlot s m job).state ≠ .freezing then s else
  let s := if (jobSlot s m job).stopped then freezeCores m job s else freezeJob m job s
  if allStopped s m job then updSlot s m job fun x => { x with state := .frozen }
  else again 1 s.place (.haltWaveTrigger m job) s

@[inherit_doc waveMove] def execHaltWaveTrigger (m job : Nat) (s : State) : Host.Outcome State Fault Refusal := .next (waveMove m job s)

/-! ### The debugger (R371, R378) -/

/-- A debugger's operation on a job: the caller is the job's partition or the hypervisor (R378). -/
def mayDebug (s : State) (m caller job : Nat) : Bool := jobOn s m job && mayCall caller (partOfJob s m job)

/-- HALT (R367, R371). -/
def haltMove (m caller job : Nat) (s : State) : State :=
  unlessPaused m (.halt m caller job) s fun s =>
  if !mayDebug s m caller job then refuseOp m s else
  let member := match getJob s job with | some j => memberOf j m | none => 0
  answerDone m (fireWave m job
    { cause := 0x51, count := 0, detail := 0, member := member, core := 1023, addr := 0, time := timeOf s m, sched := 0 } s)

@[inherit_doc haltMove] def execHalt (m caller job : Nat) (s : State) : Host.Outcome State Fault Refusal := .next (haltMove m caller job s)

/-- The source is of the job on the module: a cluster with its task, or the store of a die that its partition owns. -/
def ofJob (s : State) (m job : Nat) (src : DbgSource) : Bool :=
  match src with
  | .weight d _ _ => decide (d / 8 = m) && (getDie s d).owner == partOfJob s m job
  | .virt m' job' _ _ => m' == m && job' == job
  | src => decide (sourceCluster src / 96 = m) && (jobClusters s m job).contains (sourceCluster src)

/-- DBGREAD (R371): while the job is FROZEN. -/
def dbgReadMove (m caller job : Nat) (src : DbgSource) (s : State) : State :=
  unlessPaused m (.dbgRead m caller job src) s fun s =>
  if !mayDebug s m caller job ∨ (jobSlot s m job).state ≠ .frozen ∨ !ofJob s m job src then refuseOp m s
  else tellHost (.answer m 0 (debugData s src)) s

@[inherit_doc dbgReadMove] def execDbgRead (m caller job : Nat) (src : DbgSource) (s : State) : Host.Outcome State Fault Refusal :=
  .next (dbgReadMove m caller job src s)

/-- The core belongs to a FROZEN job of the caller's (R371). -/
def frozenFor (s : State) (k caller : Nat) : Bool :=
  let cl := getCluster s (clusterOf k)
  cl.task != .none && mayDebug s (modOf k) caller cl.ctx.job && (jobSlot s (modOf k) cl.ctx.job).state == .frozen

/-- What a debugger writes (R172, R371). -/
def Regs.debugWrite (r : Regs) : DbgTarget → Regs
  | .scalar n v => r.putS n v none
  | .pred n v => if n ≤ 1 then r else { r with p := Tbl.set r.p n v, pTag := Tbl.set r.pTag n none }
  | .mask n v => r.putK n v (BitVec.allOnes 128) none
  | .bytes a bs => r.putBytes a (bs.map BitVec.toNat) none

/-- DBGWRITE (R371). -/
def dbgWriteMove (k caller : Nat) (t : DbgTarget) (s : State) : State :=
  unlessPaused (modOf k) (.dbgWrite k caller t) s fun s =>
  if !frozenFor s k caller then refuseOp (modOf k) s else
  let s := updCore s k fun c => { c with regs := c.regs.debugWrite t }
  answerDone (modOf k) (match t with | .bytes a bs => clearMarks s 1 k a bs.length | _ => s)

@[inherit_doc dbgWriteMove] def execDbgWrite (k caller : Nat) (t : DbgTarget) (s : State) : Host.Outcome State Fault Refusal :=
  .next (dbgWriteMove k caller t s)

/-! ### Single steps (R372) -/

/-- The unit's next move is a write. -/
def unitWrites (s : State) (k u : Nat) : Bool :=
  match chooseReg (unitRegs (getCore s k) u) with
  | some (_, st) => st.write
  | none => false

/-- The units of cores whose move of a cycle is a write, or a read. -/
def unitsOf (s : State) (ks : List Nat) (write : Bool) : List (Nat × Nat) :=
  ks.flatMap fun k => ((List.range 4).filter fun u => unitWrites s k u == write).map fun u => (k, u)

/-- One cycle of cores less their issue, in the order of a cycle (R180 to R182): fences, the writes of their units, their stores and sync words, the
reads of their units, results, kitty and wakes. -/
def coresCycle (ks : List Nat) (s : State) : State :=
  let s := ks.foldl (fun s k => fenceMove k s) s
  let writes := unitsOf s ks true
  let reads := unitsOf s ks false
  let s := writes.foldl (fun s x => unitMove x.1 x.2 s) s
  let s := ks.foldl (fun s k => acqMove k (relMove k (storePerformMove k s.cycle s))) s
  let s := reads.foldl (fun s x => unitMove x.1 x.2 s) s
  let s := ks.foldl (fun s k => resultLandMove k s) s
  let s := ks.foldl (fun s k => if kittyDue s k then releaseHead k s else s) s
  ks.foldl (fun s k => waitaMove k (waittMove k (waittkMove k (tokgetMove k s)))) s

/-- One cycle of a cluster's reconstruction unit: its block, or one write of it through engine 3 (R181, R300, R310). -/
def reconCycle (c : Nat) (s : State) : State :=
  let s := reconMove c s
  match topDue 3 true ((getCluster s c).due.filter fun d => d.cls == 4) with
  | some d => performDue c d s
  | none => s

/-- One cycle passes for the cores of a step alone, and for the reconstruction unit of their cluster (R310, R372). -/
def stepCores (m job : Nat) (ks : List Nat) (s : State) : State :=
  let u := s.cycle
  let s := updSlot s m job fun x => { x with stage := 4 }
  let s := ks.foldl (fun s k => updCore s k (Core.thaw u)) s
  let s := ((ks.map clusterOf).eraseDups).foldl (fun s c => reconCycle c (returnMove c s)) s
  let s := coresCycle ks s
  let s := ks.foldl (fun s k => issueMove k (asyncMove k s)) s
  let s := ks.foldl (fun s k => updCore s k fun c => { (c.freeze u) with stepT := some u }) s
  updSlot s m job fun x => { x with stage := 0 }

/-- The cores that a step moves: one, or a group with its lead. -/
def steppedCores (s : State) (k : Nat) : List Nat :=
  if (getCluster s (clusterOf k)).ctx.bcast then (List.range 8).map fun r => k / 8 * 8 + r else [k]

/-- The report of a step, with every pending write, those that a trap holds among them (R372); the step is done (R383). -/
def reportStep (k : Nat) (issued : Bool) (s : State) : State :=
  let c := getCore s k
  answerDone (modOf k) (tellHost (.step (modOf k) (coreNo k) issued c.pc c.sched (c.pending.map pendWords)) s)

/-- A step may be made of a core: its own, or the lead of its group. -/
def mayStep (s : State) (k caller : Nat) : Bool :=
  frozenFor s k caller && (!(getCluster s (clusterOf k)).ctx.bcast || k % 8 == leadOf s (clusterOf k)) && (getCluster s (clusterOf k)).task != .saving

/-- One cycle of a step, and whether a bundle has issued. -/
def stepOnce (k : Nat) (s : State) : State × Bool :=
  let before := (getCore s k).sched
  let s := stepCores (modOf k) (getCluster s (clusterOf k)).ctx.job (steppedCores s k) s
  (s, (getCore s k).sched != before)

/-- The state of the job's slot on the core's module. -/
def putWave (k : Nat) (w : WaveState) (s : State) : State :=
  updSlot s (modOf k) (getCluster s (clusterOf k)).ctx.job fun x => { x with state := w }

/-- STEP_CYCLE (R372). -/
def stepCycleMove (k caller : Nat) (s : State) : State :=
  unlessPaused (modOf k) (.stepCycle k caller) s fun s =>
  if !mayStep s k caller then refuseOp (modOf k) s else
  let r := stepOnce k (putWave k .stepping s)
  reportStep k r.2 (putWave k .frozen r.1)

@[inherit_doc stepCycleMove] def execStepCycle (k caller : Nat) (s : State) : Host.Outcome State Fault Refusal := .next (stepCycleMove k caller s)

/-- The place at which a STEP bundle goes on after n cycles. -/
def stepPlace (n : Nat) : Nat := 2 ^ 32 + n

/-- STEP_BUNDLE (R372): one cycle after another until a bundle issues, at most 64. -/
def stepBundleMove (k caller : Nat) (s : State) : State :=
  let n := s.place - stepPlace 0
  let go := fun (s : State) =>
    let r := stepOnce k (putWave k .stepping s)
    if r.2 || decide (63 ≤ n) then reportStep k r.2 (putWave k .frozen r.1)
    else again 1 (stepPlace (n + 1)) (.stepBundle k caller) r.1
  if stepPlace 0 < s.place then go s
  else unlessPaused (modOf k) (.stepBundle k caller) s fun s => if !mayStep s k caller then refuseOp (modOf k) s else go s

@[inherit_doc stepBundleMove] def execStepBundle (k caller : Nat) (s : State) : Host.Outcome State Fault Refusal := .next (stepBundleMove k caller s)

/-! ### Resume (R36, R373) -/

/-- Members of a job that have not been declared dead. -/
def liveMembers (j : Job) : List Nat := ((List.range j.members.length).filter fun i => !j.dead.contains i).map (moduleOf j)

/-- Members of a job that a resume releases once the live ones are FROZEN: those too that have been declared dead while the wave held them. -/
def resumed (s : State) (j : Job) : List Nat :=
  j.members.filter fun x => jobOn s x j.id &&
    ((liveMembers j).contains x || match (jobSlot s x j.id).state with | .freezing | .frozen => true | _ => false)

/-- RESUME (R373): the root's time Q goes to every member. -/
def resumeMove (m caller job : Nat) (s : State) : State :=
  unlessPaused m (.resume m caller job) s fun s =>
  match getJob s job with
  | none => refuseOp m s
  | some j =>
    let ms := (liveMembers j).filter fun x => jobOn s x job
    if !mayDebug s m caller job || !(ms.all fun x => (jobSlot s x job).state == .frozen) ||
        (j.members.any fun x => (jobSlot s x job).state == .stepping) then refuseOp m s else
    let (d, s) := openAny s
    let q := timeOf s (rootModule j) + 10000 + d
    answerDone m ((resumed s j).foldl (fun s x => updSlot s x job fun y => { y with state := .resuming, q := q, stage := 0 }) s)

@[inherit_doc resumeMove] def execResume (m caller job : Nat) (s : State) : Host.Outcome State Fault Refusal := .next (resumeMove m caller job s)

/-- The time of a stage of the release has come: Q, Q + 500, the cycle before Q + 1,000, Q + 1,000. -/
def stageDue (s : State) (m q stage : Nat) : Bool :=
  match stage with
  | 0 => decide (q ≤ timeOf s m)
  | 1 => decide (q + 500 ≤ timeOf s m)
  | 2 => decide (q + 1000 ≤ (getMod s m).time.tick.now / nsUnits)
  | _ => decide (q + 1000 ≤ timeOf s m)

/-- A sequencer is released in this cycle (R36, R373); a fatal trap that it has held fails its launch (R361). -/
def releaseCore (k : Nat) (s : State) : State :=
  let s := traceHalt 17 k s
  let s := retestWait k s.cycle (updCore s k (Core.thaw s.cycle))
  match (getCore s k).seq, (getCore s k).fatalCause with
  | .fatal, some (cause, detail) =>
    let uid := (getCluster s (clusterOf k)).ctx.uid
    failLaunch (modOf k) uid 3 cause (stopLaunch (modOf k) uid cause detail s)
  | _, _ => s

/-- The sequencers of a job go on on a member; the time that it was frozen is counted; a trigger held meanwhile starts a new freeze there, as it
does on every member that held it (R368). -/
def releaseJob (m job : Nat) (s : State) : State :=
  let now := timeOf s m
  let p := (jobSlot s m job).pending
  let s := (jobCores s m job).foldl (fun s k => releaseCore k s) s
  let s := updSlot s m job fun x => { x with state := .running, stopped := false, stage := 0, total := x.total + (now - x.since), pending := none }
  let s := releaseTicks m job s
  match p with
  | some rec =>
    let s := updSlot s m job fun x => { x with incoming := some { rec with count := 0 }, accepted := s.cycle }.takeWave
    { s with inputs := s.inputs ++ [(s.cycle + 1, ⟨m, .haltWaveTrigger m job⟩)] }
  | none => s

/-- RESUME_RELEASE_STAGE (R373): receivers, engines, held calls, sequencers. -/
def releaseStageMove (m job stage : Nat) (s : State) : State :=
  let x := jobSlot s m job
  if x.state ≠ .resuming ∨ x.stage ≠ stage ∨ !stageDue s m x.q stage then s
  else if stage = 3 then releaseJob m job s
  else
    let s := updSlot s m job fun x => { x with stage := stage + 1 }
    if stage = 1 then (jobClusters s m job).foldl (fun s c => foldCluster c s) s else s

@[inherit_doc releaseStageMove] def execResumeReleaseStage (m job stage : Nat) (s : State) : Host.Outcome State Fault Refusal :=
  .next (releaseStageMove m job stage s)

end Sys2Proof.Machine
end

