-- ==== Sys2Proof/Machine/Power.lean ====
section
/-! DEFINITION. Sys2Proof/Machine/Power.lean: bring-up (R402), refresh windows (R198), errors and their repair (R167, R393 to R397), links (R394) and
power (R403, R404). -/

namespace Sys2Proof.Machine

/-! ### Bring-up (R8, R266, R402) -/

/-- A module after a cold reset: host memory is the host's, the records and the tables of R395 are loaded again. -/
def Module.restarted (md : Module) (ok : Bool) (hostTime : Nat) : Module :=
  let r := Module.reset
  { r with
    up := ok, host := md.host, erasures := md.erasures, repaired := md.repaired, cfg := md.cfg, vact := md.cfg.vact, tver := md.cfg.tver
    limit := md.cfg.limit, wlog := md.cfg.wlog
    time := { r.time with now := hostTime * nsUnits, heardAt := hostTime, tmcfg := md.cfg.tmcfg, tmport := md.cfg.tmport } }

/-- An item in flight that belongs to a part of the module. -/
def ofModule (m : Nat) (f : Flight) : Bool :=
  match f.kind with
  | .access _ _ _ c _ | .atomic _ _ c _ _ | .window _ _ _ _ _ _ c _ | .fold _ _ _ _ _ c _ | .graphDone c _ _ _ => c / 96 == m
  | .bid _ _ k _ _ _ _ _ _ | .call _ _ k _ _ _ => modOf k == m
  | .signal m' _ | .contribution m' _ => m' == m

/-- The module holds no job and has nothing under way. -/
def dropModule (m : Nat) (s : State) : State :=
  let jobs := (s.jobs.map fun j => { j with roots := if j.members.contains m then Tbl.set j.roots (memberOf j m) none else j.roots }).filter fun j =>
    j.roots.any fun x => x.2.isSome
  { s with
    jobs := jobs, flights := s.flights.filter fun f => !ofModule m f
    cores := s.cores.filter fun x => modOf x.1 != m, clusters := s.clusters.filter fun x => x.1 / 96 != m
    dies := s.dies.filter fun x => x.1 / 8 != m
    marks := s.marks.filter fun x => !(((x.1 == 1 || x.1 == 4) && modOf x.2.1 == m) || (x.1 == 2 && x.2.1 / 96 == m) || (x.1 == 3 && x.2.1 / 8 == m)) }

/-- The copies of module time of a module's dies are within 1 ns of the master copy (R265). -/
def drawCopies (m : Nat) (s : State) : State :=
  (List.range 8).foldl (fun s i =>
    let (d, s) := openValue 0 2 s
    updDie s (8 * m + i) fun x => { x with copyOff := (d : Int) - 1 }) s

/-! ### Refresh windows (R198) -/

/-- WS_REFRESH_WINDOW (R198): a group leaves a window that is over; at a listed time it enters one of 800 ns, unless a window still lasts. -/
def refreshMove (d g : Nat) (s : State) : State :=
  if refreshAge s d g = 0 then openRefresh d g s else endRefresh d s

@[inherit_doc refreshMove] def execWsRefreshWindow (d g : Nat) (s : State) : Host.Outcome State Fault Refusal := .next (refreshMove d g s)

/-! ### Links (R394) -/

/-- The shared count of retried flits: a word beyond those of R398's table. -/
def retryWord : Nat := 21

/-- FLIT_RETRY (R394): a flit fails its CRC and is tried again; how many tries fail is open, and the eighth takes the link down. -/
def flitMove (m port : Nat) (s : State) : State :=
  let (n, s) := openValue 1 8 s
  let s := countErr s m 0 retryWord n
  if n = 8 ∧ !((getMod s m).down.any fun x => x.1 == port) then
    updMod s m fun md => { md with down := Tbl.set md.down port (timeOf s m) }
  else s

@[inherit_doc flitMove] def execFlitRetry (m port : Nat) (s : State) : Host.Outcome State Fault Refusal := .next (flitMove m port s)

/-- LINK_DOWN_TIMEOUT (R259, R394): a module all of whose ports have been down for 10 µs has no path, and is dead for every job of which it is a
member. -/
def linkDownMove (m : Nat) (s : State) : State :=
  if cutOff s m && (getMod s m).down.all (fun x => decide (x.2 + 10000 ≤ timeOf s m)) then
    s.jobs.foldl (fun t j => if j.members.contains m then declareDead j.id (memberOf j m) t else t) s
  else s

@[inherit_doc linkDownMove] def execLinkDownTimeout (m _port : Nat) (s : State) : Host.Outcome State Fault Refusal := .next (linkDownMove m s)

/-- DOLSEL_LINK_UP (R394). -/
def execDolselLinkUp (m port : Nat) (s : State) : Host.Outcome State Fault Refusal :=
  .next (updMod s m fun md => { md with down := md.down.filter fun x => x.1 != port })

/-! ### Stored errors (R167, R393 to R396, R398) -/

/-- The symbol positions that the reads of a line decode as erasures (R395): the first six entries of its rank's table (log 113). -/
def erasedIn (md : Module) (l : Nat) : List Nat := (Tbl.get [] md.erasures (Config.rankOf l)).take 6

/-- The code of a line does not correct its errors: with t of them outside the e erasures, 2t + e > 8 (R393). -/
def tooMany (md : Module) (l : Nat) (syms : List Nat) : Bool :=
  let e := erasedIn md l
  decide (8 < 2 * (syms.filter fun x => !e.contains x).length + e.length)

/-- Lines that their code does not correct any more are marked (R394). -/
def Module.remark (md : Module) : Module :=
  let bad := (md.symErrs.filter fun x => tooMany md x.1 x.2).map Prod.fst
  { md with marks := md.marks ++ bad.filter (fun l => !md.marks.contains l), symErrs := md.symErrs.filter fun x => !bad.contains x.1 }

/-- An entry is added to the erasure table of a rank; a full table takes no further one (R395). -/
def Module.addErasure (rank sym : Nat) (md : Module) : Module :=
  let t := Tbl.get [] md.erasures rank
  if 16 ≤ t.length ∨ t.contains sym then md else ({ md with erasures := Tbl.set md.erasures rank (t ++ [sym]) } : Module).remark

/-- ERASURE_ADD (R395). -/
def execErasureAdd (m rank sym : Nat) (s : State) : Host.Outcome State Fault Refusal := .next (updMod s m (Module.addErasure rank sym))

/-- A symbol position of a rank is corrected once more: firmware adds it to the table when that has happened 64 times within 10^12 ns (R395). -/
def noteCorrection (rank sym now : Nat) (md : Module) : Module :=
  let xs := (rank, sym, now) :: md.corrected.filter fun x => decide (now ≤ x.2.2 + 10 ^ 12)
  let same := fun (x : Nat × Nat × Nat) => x.1 == rank && x.2.1 == sym
  if (xs.filter same).length < 64 then { md with corrected := xs }
  else Module.addErasure rank sym { md with corrected := xs.filter fun x => !same x }

/-- The repair of a rank empties the entries that it covers, in the order in which they were added: how many is open (R395). -/
def repairRank (m rank : Nat) (s : State) : State :=
  let t := Tbl.get [] (getMod s m).erasures rank
  let (n, s) := openValue 1 t.length s
  updMod s m fun md => { md with erasures := Tbl.set md.erasures rank (t.drop n), repaired := if md.repaired.contains rank then md.repaired else md.repaired ++ [rank] }

/-- A rank whose table holds more than six entries is marked for repair (R395). -/
def needsRepair (md : Module) (rank : Nat) : Bool := decide (6 < (Tbl.get [] md.erasures rank).length)

/-- HBM_REPAIR (R395): a marked rank, at bring-up, or at run time on a frame with PIN = 0 that a swap has moved away. -/
def repairMove (m rank frame : Nat) (bringUp : Bool) (s : State) : State :=
  let f := frameOf s m frame
  let md := getMod s m
  let may := if bringUp then !md.up else f.pin == 0 && !f.swap && md.vacated.contains (frame / 65536)
  if !needsRepair md rank || !may then s
  else repairRank m rank (updMod s m fun md => { md with vacated := md.vacated.filter fun g => g != frame / 65536 })

@[inherit_doc repairMove] def execHbmRepair (m rank frame : Nat) (bringUp : Bool) (s : State) : Host.Outcome State Fault Refusal :=
  .next (repairMove m rank frame bringUp s)

/-- COLD_RESET (R8, R266, R402): a record that fails verification stops bring-up, and only the host die hears of it. The marked ranks are repaired
(R395). -/
def coldResetMove (m : Nat) (ok : Bool) (hostTime : Nat) (s : State) : State :=
  let s := updMod (dropModule m s) m fun md => md.restarted ok hostTime
  if !ok then tellHost (.bootFailed m) s
  else
    let ranks := ((getMod s m).erasures.map Prod.fst).filter (needsRepair (getMod s m))
    openWindows m (drawCopies m (ranks.foldl (fun s r => repairRank m r s) s))

@[inherit_doc coldResetMove] def execColdReset (m : Nat) (ok : Bool) (hostTime : Nat) (s : State) : Host.Outcome State Fault Refusal :=
  .next (coldResetMove m ok hostTime s)

/-- The 8-byte word of a stored bit that SEC-DED protects and that a mark names: kind of store, owner, core-local address. -/
def wordOf : BitLoc → Option (Nat × Nat × Nat)
  | .regspace k a => some (1, k, a / 8 * 8)
  | .scratch c a => some (2, c, 0x1000000 + a / 8 * 8)
  | .weight d a => some (3, d, 0x40000000 + a / 8 * 8)
  | .fcache k a => some (4, k, a / 8 * 8)
  | .hbm .. | .array .. | .tlb .. | .fold .. | .ioSram .. => none

/-- The place holds something: a word of a fetch cache only in a block that is cached. -/
def placeHeld (s : State) : BitLoc → Bool
  | .fcache k a => (getCore s k).fcache.contains (a / 512)
  | _ => true

/-- The module, partition and first counter word of an error in a place (R398): places other than register spaces, scratchpads, arrays and owned frames
are shared. -/
def errorOwner (s : State) : BitLoc → Nat × Nat × Nat
  | .regspace k _ => (modOf k, (getCluster s (clusterOf k)).part, 0)
  | .scratch c _ => (c / 96, (getCluster s c).part, 0)
  | .weight d _ => (d / 8, 0, 0)
  | .hbm m a => (m, (frameOf s m a).owner, 2)
  | .array k .. => (modOf k, (getCluster s (clusterOf k)).part, 4)
  | .fcache k _ => (modOf k, 0, 0)
  | .tlb c .. => (c / 96, 0, 0)
  | .fold m _ => (m, 0, 0)
  | .ioSram m => (m, 0, 0)

/-- A symbol of an HBM line is in error (R393): corrected and counted, or past what the code corrects, and the line is marked. Bits 8 to 15 fall on the
check symbols 64 to 71. -/
def hitLine (m a b : Nat) (s : State) : State :=
  let l := a / 64
  let sym := if b < 8 then a % 64 else 64 + b % 8
  let md := getMod s m
  if md.marks.contains l then s else
  let syms := (sym :: Tbl.get [] md.symErrs l).eraseDups
  if tooMany md l syms then updMod s m fun md => { md with marks := md.marks ++ [l], symErrs := md.symErrs.filter fun x => x.1 != l }
  else
    let o := errorOwner s (.hbm m a)
    countErr (updMod s m fun md => noteCorrection (Config.rankOf l) sym (timeOf s m) { md with symErrs := Tbl.set md.symErrs l syms }) o.1 o.2.1 o.2.2 1

/-- The n-th contribution in the fold buffers of a module, around their number, is marked (R394). -/
def markFold (m n : Nat) (s : State) : State :=
  updMod s m fun md =>
    let ks := (md.contribs.map fun k => { k with bs := [] }) ++ md.partials.map Partial.k
    match ks[n % ks.length]? with
    | some k => if md.badFolds.contains k then md else { md with badFolds := md.badFolds ++ [k] }
    | none => md

/-- An error that SEC-DED does not correct strikes a place: a word is marked; a TLB entry is dropped, to be walked again (log 113); of the I/O die's
SRAM it is counted alone. -/
def uncorrected (loc : BitLoc) (s : State) : State :=
  match loc with
  | .fold m n => markFold m n s
  | .tlb c e va =>
    updCluster (countErr s (c / 96) 0 1 1) c fun cl =>
      { cl with tlbs := Tbl.set cl.tlbs e ((tlbOf cl e).filter fun y => !(decide (y.va ≤ va) && decide (va < y.va + y.size))) }
  | .ioSram m => countErr s m 0 1 1
  | loc => match wordOf loc with
    | some w => { s with marks := if s.marks.contains w then s.marks else s.marks ++ [w] }
    | none => s

/-- SOFT_ERROR (R167, R393, R394): one wrong bit of a SEC-DED word is corrected, and counted; a second in the same word is not. HBM counts the symbols
of its line. A B code of the array takes the flipped bit, and its checksum row keeps the old sum. -/
def softErrorMove (loc : BitLoc) (b : Nat) (second : Bool) (s : State) : State :=
  match loc with
  | .array k r c =>
    if b < 6 then updCore s k fun x => { x with arrB := Tbl.set x.arrB (64 * r + c) (Nat.xor (arrAt x r c) (2 ^ b)) } else s
  | .hbm m a => hitLine m a b s
  | loc =>
    let o := errorOwner s loc
    if !placeHeld s loc then s else if second then uncorrected loc s else countErr s o.1 o.2.1 o.2.2 1

@[inherit_doc softErrorMove] def execSoftError (loc : BitLoc) (b : Nat) (second : Bool) (s : State) : Host.Outcome State Fault Refusal :=
  .next (softErrorMove loc b second s)

/-! ### The patrol scrubber (R396) -/

/-- The interval of 2^46 ns in which a module is. -/
def patrolNow (s : State) (m : Nat) : Nat := timeOf s m / 2 ^ 46

/-- The places of a module in error that its patrol has not read in this interval; a place without an error it reads without effect. -/
def patrolLeft (s : State) (m : Nat) : List BitLoc :=
  let md := getMod s m
  let all := (md.symErrs.map fun x => BitLoc.hbm m (64 * x.1)) ++ (md.marks.map fun l => .hbm m (64 * l)) ++
    (s.marks.filter fun x => x.1 == 3 && x.2.1 / 8 == m).map fun x => .weight x.2.1 (x.2.2 - 0x40000000)
  if md.patrolAt = patrolNow s m then all.filter fun x => !md.patrolled.contains x else all

/-- The place that names a read which the patrol makes of itself: it falls in this cycle or a later one, but inside the interval. -/
def patrolPlace : Nat := 2 ^ 32

/-- What the patrol does with what it reads: a corrected line is written back corrected; what cannot be corrected is counted. -/
def patrolRead (loc : BitLoc) (s : State) : State :=
  let o := errorOwner s loc
  let i := patrolNow s o.1
  let s := updMod s o.1 fun md => { md with patrolAt := i, patrolled := (if md.patrolAt = i then md.patrolled else []) ++ [loc] }
  match loc with
  | .hbm m a =>
    let s := updMod s m fun md => { md with symErrs := md.symErrs.filter fun x => x.1 != a / 64 }
    if (getMod s m).marks.contains (a / 64) then countErr s o.1 o.2.1 3 1 else s
  | .weight d a => if isMarked s 3 d (0x40000000 + a / 8 * 8) 8 then countErr s o.1 o.2.1 1 1 else s
  | _ => s

/-- PATROL_SCRUB (R396). -/
def patrolMove (loc : BitLoc) (s : State) : State :=
  if s.place < patrolPlace then patrolRead loc s else
  let m := (errorOwner s loc).1
  if patrolNow s m ≠ (timeOf s m + 1) / 2 ^ 46 then patrolRead loc s else
  let (x, s) := openValue 0 1 s
  if x = 0 then s else patrolRead loc s

@[inherit_doc patrolMove] def execPatrolScrub (loc : BitLoc) (s : State) : Host.Outcome State Fault Refusal := .next (patrolMove loc s)

/-- The patrol's own reads of a module in a cycle. -/
def patrolMoves (s : State) (m : Nat) : List (Nat × Instr) := (patrolLeft s m).map fun x => (patrolPlace, .patrolScrub x)

/-! ### Device faults (R397) -/

/-- An engine stops before its next chunk boundary: its chunk and every request held on it fail, with an open STATUS. -/
def engineFault (c e : Nat) (s : State) : State :=
  let mine := fun (f : Flight) => match f.kind with
    | .access _ _ _ c' e' | .atomic _ _ c' e' _ | .window _ _ _ _ _ _ c' e' | .fold _ _ _ _ _ c' e' => c' == c && e' == e
    | _ => false
  let s := { s with flights := s.flights.filter fun f => !mine f }
  let (n, s) := openValue 1 5 s
  let s := match handOf s c e with
    | some h => failChunk c e n h s
    | none => s
  (queueOf (getCluster s c) e).foldl (fun s q =>
    let (n, s) := openValue 1 5 s
    updReq c e q.id (fun q => { q with paused := none }) (failReq c e q.id n s)) s

/-- DEVICE_FAULT (R397): an engine, or a die: every launch with a task on it fails, with an open cause, the requests held on its engines fail, and the die
takes no more. -/
def deviceFaultMove (p : FaultPart) (s : State) : State :=
  match p with
  | .engine c e => engineFault c e s
  | .die d =>
    let m := d / 8
    let ls := (List.range 12).flatMap fun i => launchesOn s (12 * d + i)
    let s := ls.foldl (fun s l =>
      let (cause, s) := openValue 0 65535 s
      failLaunch m l.uid 3 cause (stopLaunch m l.uid cause 0 s)) s
    let s := updDie s d fun x => { x with inService := false }
    (List.range 12).foldl (fun s i => (List.range 4).foldl (fun s e => engineFault (12 * d + i) e s) s) s

@[inherit_doc deviceFaultMove] def execDeviceFault (p : FaultPart) (s : State) : Host.Outcome State Fault Refusal := .next (deviceFaultMove p s)

/-! ### Power (R403, R404) -/

/-- POWER_HOLD (R404): the I/O die holds the cluster in this cycle, at most one in two, and in none of the 64 cycles after a wake; a wake in the cycle
itself cancels it (`powerHeld`), and it is counted as the cycle ends (`countHolds`). -/
def powerHoldMove (c : Nat) (s : State) : State :=
  let cl := getCluster s c
  if cl.hold = s.cycle ∨ cl.hold = s.cycle + 1 ∨ (cl.lastWake ≠ 0 ∧ s.cycle < cl.lastWake + 64) then s
  else updCluster s c fun x => { x with hold := s.cycle + 1 }

@[inherit_doc powerHoldMove] def execPowerHold (s : State) : Host.Outcome State Fault Refusal := .next (powerHoldMove s.place s)

/-- The clusters of a die. -/
def dieClusters (d : Nat) : List Nat := (List.range 12).map fun i => 12 * d + i

/-- SRAM and weight store of a die are lost. -/
def loseDie (d : Nat) (s : State) : State := clearStore d ((dieClusters d).foldl (fun s c => scrubCluster c s) s)

/-- DIE_OFF (R403): a die none of whose clusters is assigned. -/
def dieOffMove (d : Nat) (s : State) : State :=
  if (dieClusters d).any fun c => (getCluster s c).part != 0 || (getCluster s c).scrub.isSome || (getCluster s c).task != .none then s
  else if (getDie s d).writing || dieUpdating s d then s
  else loseDie d (updDie s d fun x => { x with power := .off, powerAt := 0 })

@[inherit_doc dieOffMove] def execDieOff (s : State) : Host.Outcome State Fault Refusal := .next (dieOffMove s.place s)

/-- DIE_POWER_UP (R403): after 5 ms, the scrub of R350 of each cluster. -/
def diePowerUpMove (d : Nat) (s : State) : State :=
  let now := timeOf s (d / 8)
  let x := getDie s d
  if x.power ≠ .off ∨ dieUpdating s d then s
  else if x.powerAt = 0 then again 1 d .diePowerUp (updDie s d fun x => { x with powerAt := now + 5000000 })
  else if now < x.powerAt then again 1 d .diePowerUp s
  else (dieClusters d).foldl (fun s c =>
    let (n, s) := openValue 1 149999 s
    updCluster s c fun y => { y with scrub := some (now + n), newPart := y.part }) (updDie s d fun x => { x with power := .idle, powerAt := 0 })

@[inherit_doc diePowerUpMove] def execDiePowerUp (s : State) : Host.Outcome State Fault Refusal := .next (diePowerUpMove s.place s)

/-- MODULE_STANDBY (R403): the module is parked once nothing runs on it; what its compute dies hold is lost. -/
def standbyMove (m : Nat) (s : State) : State :=
  if !(getMod s m).launches.isEmpty ∨ (List.range 96).any (fun i => (getCluster s (96 * m + i)).task != .none) then s
  else (List.range 8).foldl (fun s i => loseDie (8 * m + i) s) (updMod s m fun md => { md with standby := true, exitAt := 0 })

@[inherit_doc standbyMove] def execModuleStandby (s : State) : Host.Outcome State Fault Refusal := .next (standbyMove s.place s)

/-- MODULE_STANDBY_EXIT (R403): 20 ms later the module is in service; module time has kept running. -/
def standbyExitMove (m : Nat) (s : State) : State :=
  let now := timeOf s m
  let md := getMod s m
  if !md.standby then s
  else if md.exitAt = 0 then again 1 m .moduleStandbyExit (updMod s m fun md => { md with exitAt := now + 20000000 })
  else if now < md.exitAt then again 1 m .moduleStandbyExit s
  else openWindows m (updMod s m fun md => { md with standby := false, exitAt := 0 })

@[inherit_doc standbyExitMove] def execModuleStandbyExit (s : State) : Host.Outcome State Fault Refusal := .next (standbyExitMove s.place s)

end Sys2Proof.Machine
end

