-- ==== Sys2Proof/Machine/Cycle.lean ====
section
/-! DEFINITION. Sys2Proof/Machine/Cycle.lean: the moves of one core cycle in their order (R36, R180 to R182, log 1), the beginning of a cycle, and a
bundle placed where the machine fetches (log 2). -/

namespace Sys2Proof.Machine

/-! ### What counts with a cycle (R399, R400) -/

/-- The sequencer sleeps in a wait of R33. -/
def Wait.sleeps : Wait → Bool
  | .waita .. | .waitt .. | .waittk .. | .acq .. => true
  | _ => false

/-- A core at the beginning of a cycle: the last cycle's events reach its counters, and this cycle counts, also for a selection that takes effect in it
(R399). -/
def Core.newCycle (c : Core) : Core :=
  let c := c.countNew
  let chosen := c.pend.any fun p => match p.eff with | .sysw n _ => decide (0x060 ≤ n) && decide (n ≤ 0x067) | _ => false
  if c.evsel.isEmpty && !chosen then c else { c with evnew := (0x01, 1) :: if c.wait.sleeps then [(0x06, 1)] else [] }

/-- One of a cluster's engines is busy. -/
def Cluster.busy (cl : Cluster) : Bool := !cl.due.isEmpty || cl.chunks.any fun x => x.2.isSome

/-- A cluster at the beginning of a cycle. -/
def Cluster.newCycle (cl : Cluster) : Cluster :=
  if cl.evsel.isEmpty then cl else
  let n := countIn cl.evsel cl.evcnt 0x01 1
  { cl with evcnt := if cl.busy then countIn cl.evsel n 0x08 1 else n }

/-- A module at the beginning of a cycle: its time unit runs (R265). -/
def Module.newCycle (md : Module) : Module :=
  if md.up then { md with time := md.time.tick, evcnt := countIn md.evsel md.evcnt 0x01 1 } else md

/-! ### Moves (R180 to R182) -/

/-- The port of an arrival of a token, which finds the slots that close at its instant closed (R284); 33 for any other event. -/
def Move.port (x : Move) : Nat := match x.i with | .tokenArrival _ p _ => p | _ => 33
@[inherit_doc Move.port] def Move.isToken (x : Move) : Bool := decide (x.port < 33)

/-- A message of the host that brings a token: the host port's number is 32 (R270). A token that a receiver has held is none. -/
def Move.fromHost (x : Move) : Bool := x.port == 32 && x.at_ != heldPlace

/-- Tokens of one cycle go in port order, the host port last; of one port, those that the receiver has held go first (R282, R291). -/
def tokenBefore (a b : Move) : Bool := decide (a.port < b.port) || (a.port == b.port && (a.at_ == heldPlace || b.at_ != heldPlace))

/-- The inputs of a cycle that come before its timed moves, and those that come after them: the tokens of the ports, and then, in the order of their
arrival, the host's messages from its first token on (R282, R382). -/
def earlyInputs (ins : List Move) : List Move := (ins.takeWhile fun x => !x.fromHost).filter fun x => !x.isToken
@[inherit_doc earlyInputs] def lateInputs (ins : List Move) : List Move :=
  sortBy tokenBefore (ins.filter fun x => x.isToken && !x.fromHost) ++ (ins.dropWhile fun x => !x.fromHost).filter fun x => !x.isToken || x.fromHost

/-- Cores whose sequencer has something left to do. -/
def liveCores (s : State) : List Nat :=
  (s.cores.filter fun x => match x.2.seq with | .off | .retired | .saved => false | _ => true).map Prod.fst

/-- The refresh windows of a die that open or have ended (R198), t0 the die's time one cycle ago. -/
def refreshMoves (s : State) (d t0 : Nat) : List Move :=
  let t := dieTime s d
  let phase := (getMod s (d / 8)).cfg.wsPhase % 64000
  let n := (t + 64000 - phase) / 4000
  let opens := if (t0 + 64000 - phase) / 4000 < n then [n % 16] else []
  let past := ((getDie s d).refresh.filter fun x => decide (x.2 ≤ t)).map Prod.fst
  (past ++ opens.filter fun g => !past.contains g).map fun g => ⟨d, .wsRefreshWindow d g⟩

/-- The fetcher's moves (R385, R387) and the tests of dependences (R337). -/
def queueMoves (s : State) (m : Nat) : List Move :=
  let md := getMod s m
  let now := timeOf s m
  (md.queues.filterMap fun x =>
    if x.2.go && !x.2.pause && decide (x.2.poll ≤ now) then
      some ⟨m, if x.2.retries = 0 then .queuePollTimer m x.1 else .packetRead m x.1⟩ else none) ++
  (md.queues.filter fun x => x.2.en && !x.2.pkts.isEmpty).map fun x => ⟨m, .dependenceTest m x.1⟩

/-- The launch unit's moves (R334, R330, R339, R347). -/
def launchMoves (s : State) (m : Nat) : List Move :=
  let md := getMod s m
  (if (candidates s m).isEmpty then [] else [⟨m, .launchDecision⟩]) ++
  (if md.launches.any fun l => pktKind l.words == 1 then [⟨m, .weightStoreWriteLaunch⟩] else []) ++
  (if md.launches.isEmpty && md.queues.all (fun x => x.2.comps.isEmpty) && md.faultWait.isEmpty then [] else [⟨m, .launchComplete⟩]) ++
  (if md.launches.any fun l => watchdogOver s m l then [⟨m, .launchWatchdogExpiry⟩] else [])

/-- Stages of a resume whose time has come (R373). -/
def stageMoves (s : State) (m : Nat) : List Move :=
  (getMod s m).slots.filterMap fun x =>
    if x.2.used && x.2.state == .resuming && stageDue s m x.2.q x.2.stage then some ⟨m, .resumeReleaseStage m x.2.job x.2.stage⟩ else none

/-- The moves of a module (in STANDBY, those of its time unit alone). -/
def moduleMoves (old s : State) (m : Nat) : List Move :=
  let md := getMod s m
  if !md.up then [] else
  dueTimed s m ++ (if md.standby then [] else
    (patrolMoves s m).map (fun x => ⟨x.1, x.2⟩) ++ stageMoves s m ++ queueMoves s m ++ launchMoves s m ++ (List.range 8).flatMap fun i => refreshMoves s (8 * m + i) (dieTime old (8 * m + i)))

/-- Deadlines of agreement tricks that have passed (R257). -/
def deadlineMoves (s : State) : List Move :=
  s.jobs.flatMap fun j => (j.decls.filter fun d => deadlinePassed s j d (channelOf j d.ch)).map fun d => ⟨0, .agreementDeadlineExpiry j.id d.ch⟩

/-- The moves of a cluster's task (R300, R335, R340, R346, R350). -/
def clusterMoves (s : State) (c : Nat) : List Move :=
  let cl := getCluster s c
  (match cl.scrub with | some t => if t ≤ timeOf s (c / 96) then [⟨c, .clusterScrubDone⟩] else [] | none => []) ++
  (if cl.task = .none then [] else
    (if cl.holdoff ≠ 0 ∧ cl.holdoff ≤ timeOf s (c / 96) then [⟨c, .abandonHoldoffExpiry⟩] else []) ++
    (if cl.task = .landing then [⟨c, .taskSave⟩] else []) ++
    (if cl.wholeSave || cl.task == .saving || hyperWanted s c then [⟨c, .wholeContextSave⟩] else []) ++
    (if reconDue s c && coresOver s c then [⟨c, .reconstructionPhase⟩] else []))

/-- Scrubs of weight stores that are over (R351). -/
def dieMoves (s : State) : List Move :=
  s.dies.filterMap fun x => match x.2.scrub with
    | some t => if t ≤ timeOf s (x.1 / 8) then some ⟨x.1, .weightStoreScrubDone⟩ else none
    | none => none

/-- The arrival of an item in flight. -/
def arrivalOf : FKind → Instr
  | .access .. => .accessArrival
  | .atomic .. => .remoteAtomicPerform
  | .window .. => .windowChunkArrival
  | .bid .. => .bidArrival
  | .call .. => .callDelivery
  | .signal _ _ => .graphSignalArrival
  | .contribution _ _ => .foldContributionArrival
  | .fold .. => .foldContributionArrival
  | .graphDone .. => .graphOperationComplete

/-- Items in flight that are due and not held, calls or the others. -/
def flightMoves (s : State) (calls : Bool) : List Move :=
  (s.flights.filter fun f => decide (f.due ≤ s.cycle) && !f.held && (match f.kind with | .call .. => calls | _ => !calls)).map fun f => ⟨f.id, arrivalOf f.kind⟩

/-- Signals that a full table has refused, to be sent again (R322). -/
def retryMoves (s : State) : List Move :=
  (s.flights.filter fun f => decide (f.due ≤ s.cycle) && f.held && (match f.kind with | .signal .. => true | _ => false)).map fun f => ⟨f.id, .signalRetry⟩

/-- The engines of a cluster, in order, then their requests' ends and the graph runs' (R181). -/
def engineMoves (s : State) (c : Nat) : List Move :=
  let cl := getCluster s c
  if cl.due.isEmpty && cl.queues.all (fun x => x.2.isEmpty) && cl.chunks.all (fun x => x.2.isNone) && cl.graphs.isEmpty then [] else
  ((List.range 4).map fun e => ⟨c, .chunkPerform c e⟩) ++ ((List.range 4).map fun e => ⟨c, .requestFinish c e⟩) ++
    cl.graphs.filterMap fun x => if x.2.any (fun g => g.active) then some ⟨c, .graphRunFinish c x.1⟩ else none

/-- The moves of a core's stream units, writes or reads (R180, R189). -/
def unitList (s : State) (write : Bool) (k : Nat) : List Move :=
  if (getCore s k).streams.isEmpty then [] else
  ((List.range 4).filter fun u => unitWrites s k u == write).map fun u => ⟨k, .streamUnitMove k u⟩

/-- A core's stores, and its place for sync words: one access of the E slot in a cycle, an attempt of `acq` before an update of `rel` (R180, R213,
R214). -/
def storeMoves (s : State) (k : Nat) : List Move :=
  let c := getCore s k
  (if c.stores.isEmpty then [] else [⟨k, .storePerform⟩]) ++ (if c.rels.isEmpty then [] else [⟨k, .relComplete⟩]) ++
    match c.wait with | .acq .. => [⟨k, .acqAttempt⟩] | _ => []

/-- A sequencer's waits that may end. -/
def wakeMoves (s : State) (k : Nat) : List Move :=
  match (getCore s k).wait with
  | .waita .. => [⟨k, .waitaWake⟩]
  | .waitt .. => [⟨k, .waittWake⟩]
  | .waittk .. => [⟨k, .waittkWake⟩]
  | .tokget .. => [⟨k, .tokgetResult⟩]
  | _ => []

/-- What a core does at the end of a cycle: its fetch cache fills, its watchdog, an asynchronous trap, its issue, its retirement. -/
def issueMoves (s : State) (k : Nat) : List Move :=
  let c := getCore s k
  (if c.fills.isEmpty then [] else [⟨k, .fetchBlockFill⟩]) ++ (if wdExpired s k then [⟨k, .stallWatchdogExpiry⟩] else []) ++
    (if c.async.isEmpty then [] else [⟨k, .asyncTrap⟩]) ++ (match c.seq with
      | .running | .entry => if k % 8 = 0 && (getCluster s (clusterOf k)).ctx.bcast then [] else [⟨k, .issueBundle⟩]
      | _ => [])

/-- The moves of the broadcast groups (R40): that of rank 0's place, whether or not rank 0 itself goes on. -/
def groupMoves (s : State) : List Move :=
  (s.clusters.filter fun x => x.2.ctx.bcast && x.2.task != .none).map fun x => ⟨8 * x.1, .issueBundle⟩

/-- Groups in broadcast mode whose sending has stopped (R42). -/
def returnMoves (s : State) : List Move :=
  (s.clusters.filter fun x => x.2.ctx.bcast && x.2.stopped && (x.2.task == .running || x.2.task == .landing)).map fun x => ⟨x.1, .broadcastGroupReturn⟩

/-- Publishes that wait (R211). -/
def publishMoves (s : State) : List Move :=
  s.clusters.flatMap fun x => ((x.2.pubs.map PubOp.b).eraseDups).map fun b => ⟨x.1, .publishSwap x.1 b⟩

/-- The modules with something in the tables of the state: each has its own moves. -/
def livingMods (s : State) : List Nat :=
  (s.mods.map Prod.fst ++ s.cores.map (modOf ∘ Prod.fst) ++ s.clusters.map ((· / 96) ∘ Prod.fst) ++ s.dies.map ((· / 8) ∘ Prod.fst)).eraseDups

/-- The moves of a cycle in their order; a move whose condition does not hold when its turn comes changes nothing. -/
def cycleMoves (old s : State) (ins : List Move) : List Move :=
  let ks := liveCores s
  let cs := s.clusters.map Prod.fst
  let ms := livingMods s
  earlyInputs ins ++
  ((ks.filter fun k => match (getCore s k).wait with | .fence .. => true | _ => false).map fun k => ⟨k, .fenceComplete⟩) ++
  ms.flatMap (moduleMoves old s) ++ lateInputs ins ++ deadlineMoves s ++ cs.flatMap (clusterMoves s) ++ dieMoves s ++ flightMoves s false ++ retryMoves s ++ cs.flatMap (engineMoves s) ++
  ks.flatMap (unitList s true) ++ ks.flatMap (storeMoves s) ++ ks.flatMap (unitList s false) ++ (ks.map fun k => ⟨k, .resultLand⟩) ++ flightMoves s true ++
  ((ks.filter fun k => !(getCore s k).kitty.isEmpty).map fun k => ⟨k, .kittyRelease⟩) ++ ks.flatMap (wakeMoves s) ++ returnMoves s ++
  ks.flatMap (issueMoves s) ++ groupMoves s ++ ((ks.filter fun k => (getCore s k).seq == .ending).map fun k => ⟨k, .sequencerRetire⟩) ++ publishMoves s

/-- The messages of the modules that a takeover no longer holds: they go before what arrives in the cycle (R382, R391). -/
def freedMessages (s : State) : List Move := s.mods.flatMap fun x => if x.2.fwPause ≤ timeOf s x.1 then x.2.fwHeld else []
@[inherit_doc freedMessages] def freeMessages (s : State) : State :=
  { s with mods := s.mods.map fun x => if x.2.fwPause ≤ timeOf s x.1 then (x.1, { x.2 with fwHeld := [] }) else x }

/-- A cluster held for power in the cycle that is over is counted (R400, R404): one in which a sequencer woke was not held. -/
def countHolds (old s : State) : State :=
  (old.clusters.filter fun x => x.2.hold == old.cycle + 1 && x.2.lastWake != old.cycle + 1).foldl (fun s x => countMod s (x.1 / 96) 0x0C 1) s

/-- A new cycle begins: true time and the modules' times go on, and the moves of the cycle are set out. -/
def beginCycle (s : State) : State :=
  let now := s.cycle + 1
  let s' : State := { s with
    cycle := now
    cores := s.cores.map (fun x => (x.1, x.2.newCycle))
    clusters := s.clusters.map (fun x => (x.1, x.2.newCycle))
    mods := s.mods.map (fun x => (x.1, x.2.newCycle))
    inputs := s.inputs.filter (fun x => decide (now < x.1)) }
  let s' := countHolds s s'
  { freeMessages s' with agenda := cycleMoves s s' (freedMessages s' ++ (s.inputs.filter fun x => decide (x.1 ≤ now)).map Prod.snd) }

/-! ### A bundle where the machine fetches (log 2) -/

/-- The address at which the bundle is placed: the first of the scratchpad. -/
def placeAddr : Nat := 0x1000000

/-- Core 0 runs at the address, with its fetch cache filled. -/
def Core.placed (c : Core) : Core :=
  { c with seq := .running, pc := placeAddr, wait := .none, nextIssue := 0, fcache := [placeAddr / 512, placeAddr / 512 + 1] }

/-- Words of code in the scratchpad of cluster 0, as the launch found them. -/
def Cluster.placed (cl : Cluster) (ws : List Nat) : Cluster :=
  let mem := Mem.write cl.scratch placeAddr (ws.flatMap (leBytes 4))
  { cl with scratch := mem, codeOld := mem }

/-- The bundle that holds a row's word is the next that the machine issues. -/
def placeBundle (s : State) (nbits w : Nat) : State :=
  let s := updCluster s 0 fun cl => cl.placed (tableBundle nbits w)
  { (updCore s 0 Core.placed) with agenda := [⟨0, .issueBundle⟩] }

end Sys2Proof.Machine
end

