-- ==== Sys2Proof/Machine/Dispatch.lean ====
section
/-! DEFINITION. Sys2Proof/Machine/Dispatch.lean: one arm per constructor of Instr, a direct call of its meaning. -/

namespace Sys2Proof.Machine

/-- The meaning of an instruction or event. -/
def exec (i : Instr) (s : State) : Host.Outcome State Fault Refusal :=
  match i with
  | .coldReset m ok hostTime => Sys2Proof.Machine.execColdReset m ok hostTime s
  | .wsRefreshWindow d grp => Sys2Proof.Machine.execWsRefreshWindow d grp s
  | .streamUnitMove k u => Sys2Proof.Machine.execStreamUnitMove k u s
  | .chunkPerform c e => Sys2Proof.Machine.execChunkPerform c e s
  | .requestFinish c e => Sys2Proof.Machine.execRequestFinish c e s
  | .publishSwap c b => Sys2Proof.Machine.execPublishSwap c b s
  | .agreementDeadlineExpiry job ch => Sys2Proof.Machine.execAgreementDeadlineExpiry job ch s
  | .syncReceive m port x => Sys2Proof.Machine.execSyncReceive m port x s
  | .tmcfgWrite m v => Sys2Proof.Machine.execTmcfgWrite m v s
  | .tickFiring m tg => Sys2Proof.Machine.execTickFiring m tg s
  | .tokenArrival m port t => Sys2Proof.Machine.execTokenArrival m port t s
  | .slotClose m w => Sys2Proof.Machine.execSlotClose m w s
  | .graphRunFinish c slot => Sys2Proof.Machine.execGraphRunFinish c slot s
  | .queueDoorbell m q => Sys2Proof.Machine.execQueueDoorbell m q s
  | .queuePollTimer m q => Sys2Proof.Machine.execQueuePollTimer m q s
  | .packetRead m q => Sys2Proof.Machine.execPacketRead m q s
  | .queueGo m caller q => Sys2Proof.Machine.execQueueGo m caller q s
  | .queueErrClear m caller q err flt => Sys2Proof.Machine.execQueueErrClear m caller q err flt s
  | .queueCompletionAck m caller q v => Sys2Proof.Machine.execQueueCompletionAck m caller q v s
  | .dependenceTest m q => Sys2Proof.Machine.execDependenceTest m q s
  | .jobCreate m caller job members root decls => Sys2Proof.Machine.execJobCreate m caller job members root decls s
  | .jobRemove m caller job => Sys2Proof.Machine.execJobRemove m caller job s
  | .jobShrink m caller job member => Sys2Proof.Machine.execJobShrink m caller job member s
  | .tickSet m caller tg words => Sys2Proof.Machine.execTickSet m caller tg words s
  | .winOpen m caller job c decl => Sys2Proof.Machine.execWinOpen m caller job c decl s
  | .winClose m caller w => Sys2Proof.Machine.execWinClose m caller w s
  | .cvAllot m caller n words => Sys2Proof.Machine.execCvAllot m caller n words s
  | .shootdown m caller job member va bytes => Sys2Proof.Machine.execShootdown m caller job member va bytes s
  | .pageReady m caller job member va bytes => Sys2Proof.Machine.execPageReady m caller job member va bytes s
  | .fabSched m caller job src dst hops rate ports => Sys2Proof.Machine.execFabSched m caller job src dst hops rate ports s
  | .partAssign c part => Sys2Proof.Machine.execPartAssign c part s
  | .partPreempt m part => Sys2Proof.Machine.execPartPreempt m part s
  | .partResume m part => Sys2Proof.Machine.execPartResume m part s
  | .wsownWrite d part => Sys2Proof.Machine.execWsownWrite d part s
  | .swapCommand m caller words => Sys2Proof.Machine.execSwapCommand m caller words s
  | .halt m caller job => Sys2Proof.Machine.execHalt m caller job s
  | .haltWaveTrigger m job => Sys2Proof.Machine.execHaltWaveTrigger m job s
  | .dbgRead m caller job src => Sys2Proof.Machine.execDbgRead m caller job src s
  | .dbgWrite k caller t => Sys2Proof.Machine.execDbgWrite k caller t s
  | .stepCycle k caller => Sys2Proof.Machine.execStepCycle k caller s
  | .stepBundle k caller => Sys2Proof.Machine.execStepBundle k caller s
  | .resume m caller job => Sys2Proof.Machine.execResume m caller job s
  | .resumeReleaseStage m job stage => Sys2Proof.Machine.execResumeReleaseStage m job stage s
  | .fwload m signed accepts version => Sys2Proof.Machine.execFwload m signed accepts version s
  | .dieFirmwareRejoin d lo hi neighbours => Sys2Proof.Machine.execDieFirmwareRejoin d lo hi neighbours s
  | .registerWrite m caller off v => Sys2Proof.Machine.execRegisterWrite m caller off v s
  | .errorCounterClear m part => Sys2Proof.Machine.execErrorCounterClear m part s
  | .flitRetry m port => Sys2Proof.Machine.execFlitRetry m port s
  | .linkDownTimeout m port => Sys2Proof.Machine.execLinkDownTimeout m port s
  | .erasureAdd m rank sym => Sys2Proof.Machine.execErasureAdd m rank sym s
  | .hbmRepair m rank frame bringUp => Sys2Proof.Machine.execHbmRepair m rank frame bringUp s
  | .patrolScrub loc => Sys2Proof.Machine.execPatrolScrub loc s
  | .add g d a b => Sys2Proof.Machine.execAdd g d a b s
  | .sub g d a b => Sys2Proof.Machine.execSub g d a b s
  | .mul g d a b => Sys2Proof.Machine.execMul g d a b s
  | .mulh g d a b => Sys2Proof.Machine.execMulh g d a b s
  | .and g d a b => Sys2Proof.Machine.execAnd g d a b s
  | .or g d a b => Sys2Proof.Machine.execOr g d a b s
  | .xor g d a b => Sys2Proof.Machine.execXor g d a b s
  | .shl g d a b => Sys2Proof.Machine.execShl g d a b s
  | .shr g d a b => Sys2Proof.Machine.execShr g d a b s
  | .sra g d a b => Sys2Proof.Machine.execSra g d a b s
  | .min g d a b => Sys2Proof.Machine.execMin g d a b s
  | .max g d a b => Sys2Proof.Machine.execMax g d a b s
  | .clz g d a => Sys2Proof.Machine.execClz g d a s
  | .popc g d a => Sys2Proof.Machine.execPopc g d a s
  | .addi g d a imm => Sys2Proof.Machine.execAddi g d a imm s
  | .addiWide g d a imm => Sys2Proof.Machine.execAddiWide g d a imm s
  | .movi g d imm => Sys2Proof.Machine.execMovi g d imm s
  | .moviWide g d imm => Sys2Proof.Machine.execMoviWide g d imm s
  | .movhi g d imm => Sys2Proof.Machine.execMovhi g d imm s
  | .sext g d a w => Sys2Proof.Machine.execSext g d a w s
  | .zext g d a w => Sys2Proof.Machine.execZext g d a w s
  | .bfx g d a pos len => Sys2Proof.Machine.execBfx g d a pos len s
  | .bfi g d a pos len => Sys2Proof.Machine.execBfi g d a pos len s
  | .madd g d a b c => Sys2Proof.Machine.execMadd g d a b c s
  | .sld g d a sz off => Sys2Proof.Machine.execSld g d a sz off s
  | .sldWide g d a sz off => Sys2Proof.Machine.execSldWide g d a sz off s
  | .sst g v a sz off => Sys2Proof.Machine.execSst g v a sz off s
  | .sstWide g v a sz off => Sys2Proof.Machine.execSstWide g v a sz off s
  | .rdsys g d n => Sys2Proof.Machine.execRdsys g d n s
  | .wrsys g a n => Sys2Proof.Machine.execWrsys g a n s
  | .endOp g => Sys2Proof.Machine.execEndOp g s
  | .br g disp => Sys2Proof.Machine.execBr g disp s
  | .brWide g disp => Sys2Proof.Machine.execBrWide g disp s
  | .brr g a => Sys2Proof.Machine.execBrr g a s
  | .call g d disp => Sys2Proof.Machine.execCall g d disp s
  | .callWide g d disp => Sys2Proof.Machine.execCallWide g d disp s
  | .ret g a => Sys2Proof.Machine.execRet g a s
  | .loop g a disp => Sys2Proof.Machine.execLoop g a disp s
  | .loopWide g a disp => Sys2Proof.Machine.execLoopWide g a disp s
  | .brk g n disp => Sys2Proof.Machine.execBrk g n disp s
  | .cmp g p cond a b => Sys2Proof.Machine.execCmp g p cond a b s
  | .cmpi g p cond a imm => Sys2Proof.Machine.execCmpi g p cond a imm s
  | .cmpiWide g p cond a imm => Sys2Proof.Machine.execCmpiWide g p cond a imm s
  | .fcmp g p cond f a b => Sys2Proof.Machine.execFcmp g p cond f a b s
  | .pand g p a b na nb => Sys2Proof.Machine.execPand g p a b na nb s
  | .por g p a b na nb => Sys2Proof.Machine.execPor g p a b na nb s
  | .pxor g p a b na nb => Sys2Proof.Machine.execPxor g p a b na nb s
  | .vany g p km => Sys2Proof.Machine.execVany g p km s
  | .vall g p km => Sys2Proof.Machine.execVall g p km s
  | .vadd g f d a b => Sys2Proof.Machine.execVadd g f d a b s
  | .vaddExt g f d a b e => Sys2Proof.Machine.execVaddExt g f d a b e s
  | .vsub g f d a b => Sys2Proof.Machine.execVsub g f d a b s
  | .vsubExt g f d a b e => Sys2Proof.Machine.execVsubExt g f d a b e s
  | .vmul g f d a b => Sys2Proof.Machine.execVmul g f d a b s
  | .vmulExt g f d a b e => Sys2Proof.Machine.execVmulExt g f d a b e s
  | .vmin g f d a b => Sys2Proof.Machine.execVmin g f d a b s
  | .vminExt g f d a b e => Sys2Proof.Machine.execVminExt g f d a b e s
  | .vmax g f d a b => Sys2Proof.Machine.execVmax g f d a b s
  | .vmaxExt g f d a b e => Sys2Proof.Machine.execVmaxExt g f d a b e s
  | .vand g f d a b => Sys2Proof.Machine.execVand g f d a b s
  | .vandExt g f d a b e => Sys2Proof.Machine.execVandExt g f d a b e s
  | .vor g f d a b => Sys2Proof.Machine.execVor g f d a b s
  | .vorExt g f d a b e => Sys2Proof.Machine.execVorExt g f d a b e s
  | .vxor g f d a b => Sys2Proof.Machine.execVxor g f d a b s
  | .vxorExt g f d a b e => Sys2Proof.Machine.execVxorExt g f d a b e s
  | .vshl g f d a b => Sys2Proof.Machine.execVshl g f d a b s
  | .vshlExt g f d a b e => Sys2Proof.Machine.execVshlExt g f d a b e s
  | .vshr g f d a b => Sys2Proof.Machine.execVshr g f d a b s
  | .vshrExt g f d a b e => Sys2Proof.Machine.execVshrExt g f d a b e s
  | .vsra g f d a b => Sys2Proof.Machine.execVsra g f d a b s
  | .vsraExt g f d a b e => Sys2Proof.Machine.execVsraExt g f d a b e s
  | .vfma g f d a b => Sys2Proof.Machine.execVfma g f d a b s
  | .vfmaExt g f d a b e => Sys2Proof.Machine.execVfmaExt g f d a b e s
  | .vfms g f d a b => Sys2Proof.Machine.execVfms g f d a b s
  | .vfmsExt g f d a b e => Sys2Proof.Machine.execVfmsExt g f d a b e s
  | .vperm g f d a b => Sys2Proof.Machine.execVperm g f d a b s
  | .vpermExt g f d a b e => Sys2Proof.Machine.execVpermExt g f d a b e s
  | .vslide g f d a b e n => Sys2Proof.Machine.execVslide g f d a b e n s
  | .vabs g f d a => Sys2Proof.Machine.execVabs g f d a s
  | .vabsExt g f d a e => Sys2Proof.Machine.execVabsExt g f d a e s
  | .vneg g f d a => Sys2Proof.Machine.execVneg g f d a s
  | .vnegExt g f d a e => Sys2Proof.Machine.execVnegExt g f d a e s
  | .vmov g d a => Sys2Proof.Machine.execVmov g d a s
  | .vmovExt g d a e => Sys2Proof.Machine.execVmovExt g d a e s
  | .vexp2 g f d a => Sys2Proof.Machine.execVexp2 g f d a s
  | .vexp2Ext g f d a e => Sys2Proof.Machine.execVexp2Ext g f d a e s
  | .vlog2 g f d a => Sys2Proof.Machine.execVlog2 g f d a s
  | .vlog2Ext g f d a e => Sys2Proof.Machine.execVlog2Ext g f d a e s
  | .vrcp g f d a => Sys2Proof.Machine.execVrcp g f d a s
  | .vrcpExt g f d a e => Sys2Proof.Machine.execVrcpExt g f d a e s
  | .vrsq g f d a => Sys2Proof.Machine.execVrsq g f d a s
  | .vrsqExt g f d a e => Sys2Proof.Machine.execVrsqExt g f d a e s
  | .vtanh g f d a => Sys2Proof.Machine.execVtanh g f d a s
  | .vtanhExt g f d a e => Sys2Proof.Machine.execVtanhExt g f d a e s
  | .vsum g f d a => Sys2Proof.Machine.execVsum g f d a s
  | .vsumExt g f d a e => Sys2Proof.Machine.execVsumExt g f d a e s
  | .vmaxr g f d a => Sys2Proof.Machine.execVmaxr g f d a s
  | .vmaxrExt g f d a e => Sys2Proof.Machine.execVmaxrExt g f d a e s
  | .vcvt g f d a sf rm => Sys2Proof.Machine.execVcvt g f d a sf rm s
  | .vcvtExt g f d a sf rm e => Sys2Proof.Machine.execVcvtExt g f d a sf rm e s
  | .vsel g f d a b km => Sys2Proof.Machine.execVsel g f d a b km s
  | .vselExt g f d a b km e => Sys2Proof.Machine.execVselExt g f d a b km e s
  | .vcmp g f kd cond a b => Sys2Proof.Machine.execVcmp g f kd cond a b s
  | .vcmpExt g f kd cond a b e => Sys2Proof.Machine.execVcmpExt g f kd cond a b e s
  | .vsplat g f d a => Sys2Proof.Machine.execVsplat g f d a s
  | .mpush g kr b src => Sys2Proof.Machine.execMpush g kr b src s
  | .mfeed g b src ad row => Sys2Proof.Machine.execMfeed g b src ad row s
  | .mshiftDown g n => Sys2Proof.Machine.execMshiftDown g n s
  | .mshiftAcross g n => Sys2Proof.Machine.execMshiftAcross g n s
  | .mdrain g f td trow ad arow => Sys2Proof.Machine.execMdrain g f td trow ad arow s
  | .mzero g ad arow => Sys2Proof.Machine.execMzero g ad arow s
  | .kset g edgeB l col sc => Sys2Proof.Machine.execKset g edgeB l col sc s
  | .kld g edgeB l a => Sys2Proof.Machine.execKld g edgeB l a s
  | .vwset g cls idx a => Sys2Proof.Machine.execVwset g cls idx a s
  | .vwclr g cls idx => Sys2Proof.Machine.execVwclr g cls idx s
  | .vwget g cls idx d w => Sys2Proof.Machine.execVwget g cls idx d w s
  | .vld g f d a off => Sys2Proof.Machine.execVld g f d a off s
  | .vldWide g f d a off => Sys2Proof.Machine.execVldWide g f d a off s
  | .vst g f v a off => Sys2Proof.Machine.execVst g f v a off s
  | .vstWide g f v a off => Sys2Proof.Machine.execVstWide g f v a off s
  | .tsr g f v t col n => Sys2Proof.Machine.execTsr g f v t col n s
  | .tsw g f v t col n => Sys2Proof.Machine.execTsw g f v t col n s
  | .wsld g f d a off => Sys2Proof.Machine.execWsld g f d a off s
  | .wsldWide g f d a off => Sys2Proof.Machine.execWsldWide g f d a off s
  | .qbind g q a write u => Sys2Proof.Machine.execQbind g q a write u s
  | .qbindNone g q write u => Sys2Proof.Machine.execQbindNone g q write u s
  | .qadv g q n => Sys2Proof.Machine.execQadv g q n s
  | .amoAdd g f d a b w => Sys2Proof.Machine.execAmoAdd g f d a b w s
  | .amoMin g f d a b w => Sys2Proof.Machine.execAmoMin g f d a b w s
  | .amoMax g f d a b w => Sys2Proof.Machine.execAmoMax g f d a b w s
  | .amoSwap g f d a b w => Sys2Proof.Machine.execAmoSwap g f d a b w s
  | .amoCas g f d a b c w => Sys2Proof.Machine.execAmoCas g f d a b c w s
  | .vmovPop g v q => Sys2Proof.Machine.execVmovPop g v q s
  | .vmovPush g v q => Sys2Proof.Machine.execVmovPush g v q s
  | .cpy g a d => Sys2Proof.Machine.execCpy g a d s
  | .cpyw g a b c => Sys2Proof.Machine.execCpyw g a b c s
  | .pub g b => Sys2Proof.Machine.execPub g b s
  | .acq g b => Sys2Proof.Machine.execAcq g b s
  | .rel g b => Sys2Proof.Machine.execRel g b s
  | .fenceCore g => Sys2Proof.Machine.execFenceCore g s
  | .fenceCluster g => Sys2Proof.Machine.execFenceCluster g s
  | .fenceModule g => Sys2Proof.Machine.execFenceModule g s
  | .waita g a b cond w => Sys2Proof.Machine.execWaita g a b cond w s
  | .gemv g a d => Sys2Proof.Machine.execGemv g a d s
  | .cgload g a slot => Sys2Proof.Machine.execCgload g a slot s
  | .cgrun g slot a => Sys2Proof.Machine.execCgrun g slot a s
  | .abr g ch p h disp => Sys2Proof.Machine.execAbr g ch p h disp s
  | .abrWide g ch p h disp => Sys2Proof.Machine.execAbrWide g ch p h disp s
  | .agreeAnd g ch x => Sys2Proof.Machine.execAgreeAnd g ch x s
  | .agreeOr g ch x => Sys2Proof.Machine.execAgreeOr g ch x s
  | .agreeMin g ch x => Sys2Proof.Machine.execAgreeMin g ch x s
  | .agreeMax g ch x => Sys2Proof.Machine.execAgreeMax g ch x s
  | .agreeSum g ch x => Sys2Proof.Machine.execAgreeSum g ch x s
  | .acall g d ch => Sys2Proof.Machine.execAcall g d ch s
  | .xchk g cls idx => Sys2Proof.Machine.execXchk g cls idx s
  | .tnow g d => Sys2Proof.Machine.execTnow g d s
  | .waitt g a => Sys2Proof.Machine.execWaitt g a s
  | .waittk g tg => Sys2Proof.Machine.execWaittk g tg s
  | .tokget g d w a => Sys2Proof.Machine.execTokget g d w a s
  | .tokrel g w a => Sys2Proof.Machine.execTokrel g w a s
  | .cvget g d => Sys2Proof.Machine.execCvget g d s
  | .cvsample g a => Sys2Proof.Machine.execCvsample g a s
  | .live g a => Sys2Proof.Machine.execLive g a s
  | .trap g code => Sys2Proof.Machine.execTrap g code s
  | .rte g => Sys2Proof.Machine.execRte g s
  | .brkp g code => Sys2Proof.Machine.execBrkp g code s
  | .ctopen g a => Sys2Proof.Machine.execCtopen g a s
  | .ctclose g => Sys2Proof.Machine.execCtclose g s
  | .sysYield g a => Sys2Proof.Machine.execSysYield g a s
  | .sysSubmit g a => Sys2Proof.Machine.execSysSubmit g a s
  | .sysNotify g a => Sys2Proof.Machine.execSysNotify g a s
  | .announceReceive m x => Sys2Proof.Machine.execAnnounceReceive m x s
  | .peerDelayMessage m port msg => Sys2Proof.Machine.execPeerDelayMessage m port msg s
  | .dolselLinkUp m port => Sys2Proof.Machine.execDolselLinkUp m port s
  | .softError loc b second => Sys2Proof.Machine.execSoftError loc b second s
  | .deviceFault part => Sys2Proof.Machine.execDeviceFault part s
  | .issueBundle => Sys2Proof.Machine.execIssueBundle s
  | .fetchBlockFill => Sys2Proof.Machine.execFetchBlockFill s
  | .broadcastGroupReturn => Sys2Proof.Machine.execBroadcastGroupReturn s
  | .resultLand => Sys2Proof.Machine.execResultLand s
  | .storePerform => Sys2Proof.Machine.execStorePerform s
  | .stallWatchdogExpiry => Sys2Proof.Machine.execStallWatchdogExpiry s
  | .asyncTrap => Sys2Proof.Machine.execAsyncTrap s
  | .sequencerRetire => Sys2Proof.Machine.execSequencerRetire s
  | .waitaWake => Sys2Proof.Machine.execWaitaWake s
  | .waittWake => Sys2Proof.Machine.execWaittWake s
  | .waittkWake => Sys2Proof.Machine.execWaittkWake s
  | .acqAttempt => Sys2Proof.Machine.execAcqAttempt s
  | .windowChunkArrival => Sys2Proof.Machine.execWindowChunkArrival s
  | .remoteAtomicPerform => Sys2Proof.Machine.execRemoteAtomicPerform s
  | .relComplete => Sys2Proof.Machine.execRelComplete s
  | .fenceComplete => Sys2Proof.Machine.execFenceComplete s
  | .bidArrival => Sys2Proof.Machine.execBidArrival s
  | .callDelivery => Sys2Proof.Machine.execCallDelivery s
  | .kittyRelease => Sys2Proof.Machine.execKittyRelease s
  | .memberDeath => Sys2Proof.Machine.execMemberDeath s
  | .announceReceiptTimeout => Sys2Proof.Machine.execAnnounceReceiptTimeout s
  | .offsetBoundExpiry => Sys2Proof.Machine.execOffsetBoundExpiry s
  | .holdoverExpiry => Sys2Proof.Machine.execHoldoverExpiry s
  | .reconstructionPhase => Sys2Proof.Machine.execReconstructionPhase s
  | .graphSignalArrival => Sys2Proof.Machine.execGraphSignalArrival s
  | .signalRetry => Sys2Proof.Machine.execSignalRetry s
  | .foldContributionArrival => Sys2Proof.Machine.execFoldContributionArrival s
  | .launchDecision => Sys2Proof.Machine.execLaunchDecision s
  | .launchLoading => Sys2Proof.Machine.execLaunchLoading s
  | .weightStoreWriteLaunch => Sys2Proof.Machine.execWeightStoreWriteLaunch s
  | .launchComplete => Sys2Proof.Machine.execLaunchComplete s
  | .launchWatchdogExpiry => Sys2Proof.Machine.execLaunchWatchdogExpiry s
  | .taskSave => Sys2Proof.Machine.execTaskSave s
  | .wholeContextSave => Sys2Proof.Machine.execWholeContextSave s
  | .taskRestore => Sys2Proof.Machine.execTaskRestore s
  | .weightStoreScrubDone => Sys2Proof.Machine.execWeightStoreScrubDone s
  | .firmwareTakeover => Sys2Proof.Machine.execFirmwareTakeover s
  | .powerHold => Sys2Proof.Machine.execPowerHold s
  | .dieOff => Sys2Proof.Machine.execDieOff s
  | .moduleStandby => Sys2Proof.Machine.execModuleStandby s
  | .syncInterval => Sys2Proof.Machine.execSyncInterval s
  | .clusterScrubDone => Sys2Proof.Machine.execClusterScrubDone s
  | .diePowerUp => Sys2Proof.Machine.execDiePowerUp s
  | .moduleStandbyExit => Sys2Proof.Machine.execModuleStandbyExit s
  | .accessArrival => Sys2Proof.Machine.execAccessArrival s
  | .graphOperationComplete => Sys2Proof.Machine.execGraphOperationComplete s
  | .tokgetResult => Sys2Proof.Machine.execTokgetResult s
  | .abandonHoldoffExpiry => Sys2Proof.Machine.execAbandonHoldoffExpiry s

end Sys2Proof.Machine
end

