-- ==== Sys2Proof/Machine/Step.lean ====
section
/-! DEFINITION. Sys2Proof/Machine/Step.lean: one step of the machine: the next move of the cycle, or the beginning of the next cycle (log 1). -/

namespace Sys2Proof.Machine

/-- One step: the first move of the agenda happens at its place; with none left, the next cycle begins. A move that names operands or a place
that the part does not have is no event of the part: it is passed over (log 73). -/
def step (s : State) : Host.Outcome State Fault Refusal :=
  match s.agenda with
  | [] => .next (beginCycle s)
  | x :: rest => if x.i.wf && x.i.placeOk x.at_ then exec x.i { s with agenda := rest, place := x.at_ } else .next { s with agenda := rest }

/-- The state with the bundle of a row's word placed where the machine fetches its next bundle (log 2). -/
def State.withFetchWord (s : State) (nbits w : Nat) : State := placeBundle s nbits w

end Sys2Proof.Machine
end

