-- ==== Sys2Proof/Safety.lean ====
section
/-! DEFINITION. Sys2Proof/Safety.lean: what holds in every state that the machine reaches: every memory is in its canonical form, in its place and in
every copy of a core or a cluster that the machine keeps, and the agenda holds moves that the part has. -/

namespace Sys2Proof.Machine

/-- The memories of a core: its register space, and the copy of it that a discard of the run-ahead gives back (R253). -/
def Core.memOk (c : Core) : Prop := Mem.wf c.regs.mem = true ∧ ∀ r, c.ra = some r → Mem.wf r.shadow.mem = true

/-- The memories of a cluster: its scratchpad, and the code as the launch found it (R29). -/
def Cluster.memOk (c : Cluster) : Prop := Mem.wf c.scratch = true ∧ Mem.wf c.codeOld = true

/-- The memories of a saved task (R344). -/
def Saved.memOk (v : Saved) : Prop := v.cl.memOk ∧ ∀ x ∈ v.cores, Core.memOk x.2

/-- The memories of the cores that a partition's dumps hold (R377). -/
def Part.memOk (p : Part) : Prop := ∀ d ∈ p.dumps, ∀ x ∈ d.cores, Core.memOk x.2

/-- The memories of a module: HBM, host memory, and those of its saved tasks and its dumps. -/
def Module.memOk (m : Module) : Prop :=
  Mem.wf m.hbm = true ∧ Mem.wf m.host = true ∧ (∀ v ∈ m.saves, v.memOk) ∧ ∀ x ∈ m.parts, Part.memOk x.2

/-- Every memory of the machine has its canonical form. -/
def State.memOk (s : State) : Prop :=
  (∀ x ∈ s.cores, Core.memOk x.2) ∧ (∀ x ∈ s.clusters, Cluster.memOk x.2) ∧ (∀ x ∈ s.dies, Mem.wf x.2.weights = true) ∧ ∀ x ∈ s.mods, Module.memOk x.2

/-- Every move on the agenda is one that the part has. -/
def State.agendaOk (s : State) : Prop := ∀ x ∈ s.agenda, (x.i.wf && x.i.placeOk x.at_) = true

end Sys2Proof.Machine
end

