-- ==== Sys2Proof/Certificates/Slice0/Obligations.lean ====
section
/-! DEFINITION. Sys2Proof/Certificates/Slice0/Obligations.lean: the statements about the machine, from the numbered rules of the spec. The namespace
Claims holds their vocabulary, written from the rules: what a form reads and writes, what an event finds and leaves. -/

namespace Sys2Proof.Claims

open Sys2Proof.Machine

/-! ### Words of the statements -/

/-- The guard of a syllable reads 1 and carries no tag (R59). -/
abbrev Enabled (s : State) (g : Nat) : Prop := (focusCore s).regs.tagP g = none ∧ (focusCore s).regs.getP g = true

/-- The core is not in run-ahead and its kitty does not drain (R251, R254). -/
abbrev Calm (s : State) : Prop := inRa s = false ∧ draining s = false

/-- s and nothing else changed than this: a result is pending, visible L cycles from now (R61, R62), and in run-ahead j more bytes of
the journal are asked for (R253). -/
def withResult (s : State) (L : Nat) (e : Eff) (j : Nat) : State :=
  { s with
    cores := Tbl.set s.cores s.focus.core { focusCore s with
      pend := (focusCore s).pend ++ [⟨s.cycle + L, s.cycle, s.focus.slot, (focusCore s).ra.isSome, e⟩] }
    focus := { s.focus with jbytes := s.focus.jbytes + if (focusCore s).ra.isSome then j else 0 } }

/-- Journal bytes of a scalar result: none for s0 (R253). -/
def scalarBytes (d : Nat) : Nat := if d = 0 then 0 else 16

/-! ### What each form writes, from the tables of the spec -/

/-- A scalar form: guard, destination, latency, sources in operand order, and the value it writes (R62, R107, R108). -/
structure ScalarSpec where
  g : Nat
  d : Nat
  lat : Nat
  srcs : List Nat
  val : List DWord → DWord

/-- The value at a place of a list of values. -/
def at_ (xs : List DWord) (n : Nat) : DWord := xs.getD n 0

/-- The number of leading zero bits of a 64-bit value: 64 less the length of its binary form. -/
def leadingZeros (x : DWord) : Nat := ((List.range 64).find? fun i => x.getLsbD (63 - i)).getD 64

/-- The SR forms of R107. -/
def srForm : Instr → Option ScalarSpec
  | .add g d a b => some ⟨g, d, 1, [a, b], fun xs => BitVec.ofNat 64 ((at_ xs 0).toNat + (at_ xs 1).toNat)⟩
  | .sub g d a b => some ⟨g, d, 1, [a, b], fun xs => BitVec.ofInt 64 (((at_ xs 0).toNat : Int) - (at_ xs 1).toNat)⟩
  | .mul g d a b => some ⟨g, d, 3, [a, b], fun xs => BitVec.ofNat 64 ((at_ xs 0).toNat * (at_ xs 1).toNat)⟩
  | .mulh g d a b => some ⟨g, d, 3, [a, b], fun xs =>
      BitVec.extractLsb' 64 64 (BitVec.signExtend 128 (at_ xs 0) * BitVec.signExtend 128 (at_ xs 1))⟩
  | .and g d a b => some ⟨g, d, 1, [a, b], fun xs => at_ xs 0 &&& at_ xs 1⟩
  | .or g d a b => some ⟨g, d, 1, [a, b], fun xs => at_ xs 0 ||| at_ xs 1⟩
  | .xor g d a b => some ⟨g, d, 1, [a, b], fun xs => at_ xs 0 ^^^ at_ xs 1⟩
  | .shl g d a b => some ⟨g, d, 1, [a, b], fun xs => BitVec.ofNat 64 ((at_ xs 0).toNat * 2 ^ ((at_ xs 1).toNat % 64))⟩
  | .shr g d a b => some ⟨g, d, 1, [a, b], fun xs => BitVec.ofNat 64 ((at_ xs 0).toNat / 2 ^ ((at_ xs 1).toNat % 64))⟩
  | .sra g d a b => some ⟨g, d, 1, [a, b], fun xs => BitVec.ofInt 64 ((at_ xs 0).toInt / 2 ^ ((at_ xs 1).toNat % 64))⟩
  | .min g d a b => some ⟨g, d, 1, [a, b], fun xs => BitVec.ofInt 64 (Min.min (at_ xs 0).toInt (at_ xs 1).toInt)⟩
  | .max g d a b => some ⟨g, d, 1, [a, b], fun xs => BitVec.ofInt 64 (Max.max (at_ xs 0).toInt (at_ xs 1).toInt)⟩
  | .clz g d a => some ⟨g, d, 1, [a], fun xs => BitVec.ofNat 64 (leadingZeros (at_ xs 0))⟩
  | .popc g d a => some ⟨g, d, 1, [a], fun xs => BitVec.ofNat 64 ((List.range 64).countP fun i => (at_ xs 0).getLsbD i)⟩
  | _ => none

/-- Bit i of the value that a field form writes, as a value. -/
def bitsOf (f : Nat → Bool) : DWord := BitVec.ofNat 64 (((List.range 64).map fun i => if f i then 2 ^ i else 0).sum)

/-- The immediate and field forms of R108: `movhi` and `bfi` read their destination. -/
def immForm : Instr → Option ScalarSpec
  | .addi g d a i | .addiWide g d a i => some ⟨g, d, 1, [a], fun xs => BitVec.ofInt 64 ((at_ xs 0).toNat + i)⟩
  | .movi g d i | .moviWide g d i => some ⟨g, d, 1, [], fun _ => BitVec.ofInt 64 i⟩
  | .movhi g d i => some ⟨g, d, 1, [d], fun xs => BitVec.ofNat 16 i ++ BitVec.extractLsb' 0 48 (at_ xs 0)⟩
  | .sext g d a w => some ⟨g, d, 1, [a], fun xs => BitVec.signExtend 64 (BitVec.extractLsb' 0 w (at_ xs 0))⟩
  | .zext g d a w => some ⟨g, d, 1, [a], fun xs => BitVec.setWidth 64 (BitVec.extractLsb' 0 w (at_ xs 0))⟩
  | .bfx g d a p n => some ⟨g, d, 1, [a], fun xs => BitVec.setWidth 64 (BitVec.extractLsb' p n (at_ xs 0))⟩
  | .bfi g d a p n => some ⟨g, d, 1, [a, d], fun xs =>
      bitsOf fun i => if p ≤ i ∧ i < p + n then (at_ xs 0).getLsbD (i - p) else (at_ xs 1).getLsbD i⟩
  | .madd g d a b c => some ⟨g, d, 3, [a, b, c], fun xs => BitVec.ofNat 64 ((at_ xs 0).toNat * (at_ xs 1).toNat + (at_ xs 2).toNat)⟩
  | _ => none

/-- What a scalar form does: its value, or poison from its first tagged source in operand order (R102), at its latency. -/
def ScalarSpec.next (p : ScalarSpec) (s : State) : State :=
  withResult s p.lat (.sreg p.d (p.val (p.srcs.map (srcS s))) (firstTag (p.srcs.map (tagOfS s)))) (scalarBytes p.d)

/-- A C-slot form: guard, pair, its result, and the tags of its sources in operand order (R104, R114). -/
structure PairSpec where
  g : Nat
  pair : Nat
  res : State → Bool
  tags : State → List (Option Poison)

/-- A condition as a Bool. -/
def condBool (c : Cond) (x y : DWord) : Bool :=
  match c with
  | .eq => decide (x = y) | .ne => decide (x ≠ y) | .lt => BitVec.slt x y | .ge => BitVec.sle y x
  | .c4 => BitVec.ult x y | .c5 => BitVec.ule y x | .unord | .ord => false

/-- The C-slot forms of R114. -/
def pairForm : Instr → Option PairSpec
  | .cmp g p c a b => some ⟨g, p, fun s => condBool c (srcS s a) (srcS s b), fun s => [tagOfS s a, tagOfS s b]⟩
  | .cmpi g p c a i | .cmpiWide g p c a i => some ⟨g, p, fun s => condBool c (srcS s a) (BitVec.ofInt 64 i), fun s => [tagOfS s a]⟩
  | .fcmp g p c f a b => some ⟨g, p, fun s =>
      (unpack f ((srcS s a).toNat % 2 ^ laneBits f)).cmp c (unpack f ((srcS s b).toNat % 2 ^ laneBits f)), fun s => [tagOfS s a, tagOfS s b]⟩
  | .pand g p a b na nb => some ⟨g, p, fun s => ((focusCore s).regs.getP a ^^ na) && ((focusCore s).regs.getP b ^^ nb),
      fun s => [(focusCore s).regs.tagP a, (focusCore s).regs.tagP b]⟩
  | .por g p a b na nb => some ⟨g, p, fun s => ((focusCore s).regs.getP a ^^ na) || ((focusCore s).regs.getP b ^^ nb),
      fun s => [(focusCore s).regs.tagP a, (focusCore s).regs.tagP b]⟩
  | .pxor g p a b na nb => some ⟨g, p, fun s => ((focusCore s).regs.getP a ^^ na) ^^ ((focusCore s).regs.getP b ^^ nb),
      fun s => [(focusCore s).regs.tagP a, (focusCore s).regs.tagP b]⟩
  | .vany g p k => some ⟨g, p, fun s => (List.range 128).any fun i => ((focusCore s).regs.getK k).getLsbD i, fun s => [(focusCore s).regs.tagK k]⟩
  | .vall g p k => some ⟨g, p, fun s => (List.range 128).all fun i => ((focusCore s).regs.getK k).getLsbD i, fun s => [(focusCore s).regs.tagK k]⟩
  | _ => none

/-- What a C-slot form does. -/
def PairSpec.next (p : PairSpec) (s : State) : State :=
  withResult s 2 (.pair p.pair (p.res s) (firstTag (p.tags s))) 16

/-! ### Vector forms (R144 to R162) -/

/-- A vector form: guard, latency, format of the destination, destination, sources with the formats in which they are read, KE with its
mask, the mask of `vsel`, and its lane function F(A, B, D, M, i) of R148. -/
structure VecSpec where
  g : Nat
  lat : Nat
  f : Fmt
  dst : VOp
  srcs : List (VOp × Fmt)
  ke : Bool
  km : Nat
  sel : Option Nat
  F : (Nat → Nat) → (Nat → Nat) → (Nat → Nat) → (Nat → Bool) → Nat → Nat

/-- A lane function of one lane of A, of A and B, of A, B and D. -/
def of1 (h : Nat → Nat) : (Nat → Nat) → (Nat → Nat) → (Nat → Nat) → (Nat → Bool) → Nat → Nat := fun a _ _ _ i => h (a i)
@[inherit_doc of1] def of2 (h : Nat → Nat → Nat) : (Nat → Nat) → (Nat → Nat) → (Nat → Nat) → (Nat → Bool) → Nat → Nat :=
  fun a b _ _ i => h (a i) (b i)
@[inherit_doc of1] def of3 (h : Nat → Nat → Nat → Nat) : (Nat → Nat) → (Nat → Nat) → (Nat → Nat) → (Nat → Bool) → Nat → Nat :=
  fun a b d _ i => h (a i) (b i) (d i)

/-- An integer modulo 2^w (R149). -/
def modW (f : Fmt) (x : Int) : Nat := (x % 2 ^ laneBits f).toNat

/-- A floating-point lane is rounded once from the exact result; an integer lane is taken modulo its width (R149). -/
def arith (f : Fmt) (fl : FVal → FVal → FVal) (int : Int → Int → Int) (a b : Nat) : Nat :=
  if f.isFloat then pack f .rne (fl (unpack f a) (unpack f b)) else modW f (int a b)

/-- `vmin` and `vmax` (R149): on floating point a NaN in either gives the default NaN, and −0 counts below +0. -/
def lesser (f : Fmt) (a b : Nat) : Nat :=
  if f.isFloat then fmin f a b else if laneInt f a ≤ laneInt f b then a else b
@[inherit_doc lesser] def greater (f : Fmt) (a b : Nat) : Nat :=
  if f.isFloat then fmax f a b else if laneInt f a ≤ laneInt f b then b else a

/-- `vsra` (R150): shifted right by c with copies of the top bit, on w bits. -/
def sraBits (f : Fmt) (a b : Nat) : Nat :=
  let w := laneBits f
  let c := b % w
  a / 2 ^ c + (if 2 ^ (w - 1) ≤ a then 2 ^ w - 2 ^ (w - c) else 0)

/-- `vabs` and `vneg` (R151). -/
def absBits (f : Fmt) (a : Nat) : Nat :=
  if f.isFloat then (if unpack f a = .nan then nanCode f else a % 2 ^ (laneBits f - 1))
  else modW f (if laneInt f a < 0 then -laneInt f a else laneInt f a)
@[inherit_doc absBits] def negBits (f : Fmt) (a : Nat) : Nat :=
  if f.isFloat then (if unpack f a = .nan then nanCode f else if a < 2 ^ (laneBits f - 1) then a + 2 ^ (laneBits f - 1) else a - 2 ^ (laneBits f - 1))
  else modW f (0 - (a : Int))

/-- The tree of R161: x[d][i], of the lanes x[0]. -/
def treeAt (op : Nat → Nat → Nat) (x : Nat → Nat) : Nat → Nat → Nat
  | 0, i => x i
  | d + 1, i => op (treeAt op x d (2 * i)) (treeAt op x d (2 * i + 1))

/-- `vsum` and `vmaxr` (R161): lane 0 has x[7][0], the other lanes zero; BF16 and FP16 lanes are widened exactly and rounded at the end. -/
def reduce (f : Fmt) (fl int : Nat → Nat → Nat) : (Nat → Nat) → (Nat → Nat) → (Nat → Nat) → (Nat → Bool) → Nat → Nat :=
  fun a _ _ _ i => if i ≠ 0 then 0 else
    if f.isFloat then pack f .rne (unpack .f32 (treeAt fl (fun k => pack .f32 .rne (unpack f (a k))) 7 0)) else treeAt int a 7 0

/-- `vperm` (R156). -/
def permF (f : Fmt) : (Nat → Nat) → (Nat → Nat) → (Nat → Nat) → (Nat → Bool) → Nat → Nat :=
  fun a b _ _ j => if b j < 128 then a (b j) else if f = .ln6 then 0x10 else 0
/-- `vslide` (R157). -/
def slideF (n : Nat) : (Nat → Nat) → (Nat → Nat) → (Nat → Nat) → (Nat → Bool) → Nat → Nat :=
  fun a b _ _ j => if j + n < 128 then a (j + n) else b (j + n - 128)
/-- `vsel` (R152). -/
def selF : (Nat → Nat) → (Nat → Nat) → (Nat → Nat) → (Nat → Bool) → Nat → Nat := fun a b _ m i => if m i then a i else b i

/-- The forms on va and vb, on va alone, on va, vb and the addend vd. -/
def onAB (lat g : Nat) (f : Fmt) (d a b : Nat) (e : VExt) (F : (Nat → Nat) → (Nat → Nat) → (Nat → Nat) → (Nat → Bool) → Nat → Nat) : VecSpec :=
  ⟨g, lat, f, ⟨e.qd, d⟩, [(⟨e.qa, a⟩, f), (⟨e.qb, b⟩, f)], e.ke, e.km, none, F⟩
@[inherit_doc onAB] def onA (lat g : Nat) (f : Fmt) (d a : Nat) (e : VExt) (F : (Nat → Nat) → (Nat → Nat) → (Nat → Nat) → (Nat → Bool) → Nat → Nat) : VecSpec :=
  ⟨g, lat, f, ⟨e.qd, d⟩, [(⟨e.qa, a⟩, f)], e.ke, e.km, none, F⟩
@[inherit_doc onAB] def onABD (lat g : Nat) (f : Fmt) (d a b : Nat) (e : VExt) (F : (Nat → Nat) → (Nat → Nat) → (Nat → Nat) → (Nat → Bool) → Nat → Nat) : VecSpec :=
  ⟨g, lat, f, ⟨false, d⟩, [(⟨e.qa, a⟩, f), (⟨e.qb, b⟩, f), (⟨false, d⟩, f)], e.ke, e.km, none, F⟩

/-- The forms of one frame (R148), with the latencies of R62: the binary and unary forms of R149 to R161, `vmov` as 128 lanes of four bytes,
`vcvt`, `vsel`, `vperm`, `vslide`, and the L-slot pop of R193. -/
def vecForms : Instr → Option VecSpec
  | .vadd g f d a b => some (onAB 4 g f d a b .none (of2 (arith f FVal.add (· + ·))))
  | .vaddExt g f d a b e => some (onAB 4 g f d a b e (of2 (arith f FVal.add (· + ·))))
  | .vsub g f d a b => some (onAB 4 g f d a b .none (of2 (arith f (fun x y => x.add y.neg) (· - ·))))
  | .vsubExt g f d a b e => some (onAB 4 g f d a b e (of2 (arith f (fun x y => x.add y.neg) (· - ·))))
  | .vmul g f d a b => some (onAB 6 g f d a b .none (of2 (arith f FVal.mul (· * ·))))
  | .vmulExt g f d a b e => some (onAB 6 g f d a b e (of2 (arith f FVal.mul (· * ·))))
  | .vmin g f d a b => some (onAB 4 g f d a b .none (of2 (lesser f)))
  | .vminExt g f d a b e => some (onAB 4 g f d a b e (of2 (lesser f)))
  | .vmax g f d a b => some (onAB 4 g f d a b .none (of2 (greater f)))
  | .vmaxExt g f d a b e => some (onAB 4 g f d a b e (of2 (greater f)))
  | .vand g f d a b => some (onAB 4 g f d a b .none (of2 Nat.land))
  | .vandExt g f d a b e => some (onAB 4 g f d a b e (of2 Nat.land))
  | .vor g f d a b => some (onAB 4 g f d a b .none (of2 Nat.lor))
  | .vorExt g f d a b e => some (onAB 4 g f d a b e (of2 Nat.lor))
  | .vxor g f d a b => some (onAB 4 g f d a b .none (of2 Nat.xor))
  | .vxorExt g f d a b e => some (onAB 4 g f d a b e (of2 Nat.xor))
  | .vshl g f d a b => some (onAB 4 g f d a b .none (of2 fun x y => x * 2 ^ (y % laneBits f) % 2 ^ laneBits f))
  | .vshlExt g f d a b e => some (onAB 4 g f d a b e (of2 fun x y => x * 2 ^ (y % laneBits f) % 2 ^ laneBits f))
  | .vshr g f d a b => some (onAB 4 g f d a b .none (of2 fun x y => x / 2 ^ (y % laneBits f)))
  | .vshrExt g f d a b e => some (onAB 4 g f d a b e (of2 fun x y => x / 2 ^ (y % laneBits f)))
  | .vsra g f d a b => some (onAB 4 g f d a b .none (of2 (sraBits f)))
  | .vsraExt g f d a b e => some (onAB 4 g f d a b e (of2 (sraBits f)))
  | .vfma g f d a b => some (onABD 6 g f d a b .none (of3 fun x y z => pack f .rne (((unpack f x).mul (unpack f y)).add (unpack f z))))
  | .vfmaExt g f d a b e => some (onABD 6 g f d a b e (of3 fun x y z => pack f .rne (((unpack f x).mul (unpack f y)).add (unpack f z))))
  | .vfms g f d a b => some (onABD 6 g f d a b .none (of3 fun x y z => pack f .rne (((unpack f x).neg.mul (unpack f y)).add (unpack f z))))
  | .vfmsExt g f d a b e => some (onABD 6 g f d a b e (of3 fun x y z => pack f .rne (((unpack f x).neg.mul (unpack f y)).add (unpack f z))))
  | .vperm g f d a b => some ⟨g, 4, f, ⟨false, d⟩, [(⟨false, a⟩, f), (⟨false, b⟩, .n8)], false, 0, none, permF f⟩
  | .vpermExt g f d a b e => some ⟨g, 4, f, ⟨e.qd, d⟩, [(⟨e.qa, a⟩, f), (⟨e.qb, b⟩, .n8)], e.ke, e.km, none, permF f⟩
  | .vslide g f d a b e n => some (onAB 4 g f d a b e (slideF n))
  | .vabs g f d a => some (onA 4 g f d a .none (of1 (absBits f)))
  | .vabsExt g f d a e => some (onA 4 g f d a e (of1 (absBits f)))
  | .vneg g f d a => some (onA 4 g f d a .none (of1 (negBits f)))
  | .vnegExt g f d a e => some (onA 4 g f d a e (of1 (negBits f)))
  | .vmov g d a => some (onA 4 g .n32 d a .none (of1 fun x => x))
  | .vmovExt g d a e => some (onA 4 g .n32 d a e (of1 fun x => x))
  | .vexp2 g f d a => some (onA 10 g f d a .none (of1 fun x => pack f .rne (exp2Val (unpack f x))))
  | .vexp2Ext g f d a e => some (onA 10 g f d a e (of1 fun x => pack f .rne (exp2Val (unpack f x))))
  | .vlog2 g f d a => some (onA 10 g f d a .none (of1 fun x => pack f .rne (log2Val (unpack f x))))
  | .vlog2Ext g f d a e => some (onA 10 g f d a e (of1 fun x => pack f .rne (log2Val (unpack f x))))
  | .vrcp g f d a => some (onA 10 g f d a .none (of1 fun x => pack f .rne (rcpVal (unpack f x))))
  | .vrcpExt g f d a e => some (onA 10 g f d a e (of1 fun x => pack f .rne (rcpVal (unpack f x))))
  | .vrsq g f d a => some (onA 10 g f d a .none (of1 fun x => pack f .rne (rsqVal (unpack f x))))
  | .vrsqExt g f d a e => some (onA 10 g f d a e (of1 fun x => pack f .rne (rsqVal (unpack f x))))
  | .vtanh g f d a => some (onA 10 g f d a .none (of1 fun x => pack f .rne (tanhVal (unpack f x))))
  | .vtanhExt g f d a e => some (onA 10 g f d a e (of1 fun x => pack f .rne (tanhVal (unpack f x))))
  | .vsum g f d a => some (onA 10 g f d a .none (reduce f (fadd .f32) fun x y => modW f ((x : Int) + y)))
  | .vsumExt g f d a e => some (onA 10 g f d a e (reduce f (fadd .f32) fun x y => modW f ((x : Int) + y)))
  | .vmaxr g f d a => some (onA 10 g f d a .none (reduce f (fmax .f32) (greater f)))
  | .vmaxrExt g f d a e => some (onA 10 g f d a e (reduce f (fmax .f32) (greater f)))
  | .vcvt g f d a sf rm => some ⟨g, 6, f, ⟨false, d⟩, [(⟨false, a⟩, sf)], false, 0, none, of1 (cvtLane f sf rm)⟩
  | .vcvtExt g f d a sf rm e => some ⟨g, 6, f, ⟨e.qd, d⟩, [(⟨e.qa, a⟩, sf)], e.ke, e.km, none, of1 (cvtLane f sf rm)⟩
  | .vsel g f d a b km => some ⟨g, 4, f, ⟨false, d⟩, [(⟨false, a⟩, f), (⟨false, b⟩, f)], false, 0, some km, selF⟩
  | .vselExt g f d a b km e => some ⟨g, 4, f, ⟨e.qd, d⟩, [(⟨e.qa, a⟩, f), (⟨e.qb, b⟩, f)], e.ke, e.km, some km, selF⟩
  | .vmovPop g v q => some ⟨g, 4, .n32, ⟨false, v⟩, [(⟨true, q⟩, .n32)], false, 0, none, of1 fun x => x⟩
  | _ => none

/-- A source can be read in the issue cycle: a configured view whose bytes carry no uncorrectable error, or a stream register with an entry of
512 bytes at its head that carries none (R146, R190, R394). -/
abbrev SourceOpen (s : State) (x : VOp × Fmt) : Prop :=
  if x.1.str then ∃ bs, popStat s x.1.idx = .entry bs false ∧ bs.length = 512
  else (viewOf (focusCore s) 0 x.1.idx).cfg = true ∧
    errorIn s s.focus.core (viewOf (focusCore s) 0 x.1.idx).base (vecBytes x.2) = none

/-- A destination can take a result: a configured view, or a stream register with a free slot, outside run-ahead and with no draining kitty. -/
abbrev DestOpen (s : State) (d : VOp) : Prop :=
  if d.str then Calm s ∧ pushStat s d.idx = .entry [] false else (viewOf (focusCore s) 0 d.idx).cfg = true

/-- The lanes of a source in its format (R144). -/
def sourceLanes (s : State) (x : VOp × Fmt) : List Nat :=
  toLanes x.2 128 (if x.1.str then (match popStat s x.1.idx with | .entry bs _ => bs.take (vecBytes x.2) | _ => [])
    else Mem.read (focusCore s).regs.mem (viewOf (focusCore s) 0 x.1.idx).base (vecBytes x.2))

/-- The tag of a source: a stream entry carries none (R195). -/
def sourceTag (s : State) (x : VOp × Fmt) : Option Poison :=
  if x.1.str then none else (focusCore s).regs.tagMem (viewOf (focusCore s) 0 x.1.idx).base (vecBytes x.2)

/-- The tag that a form spreads, in operand order (R162). -/
def VecSpec.tag (p : VecSpec) (s : State) : Option Poison :=
  firstTag (p.srcs.map (sourceTag s) ++ [if p.ke then (focusCore s).regs.tagK p.km else none,
    match p.sel with | some k => (focusCore s).regs.tagK k | none => none])

/-- The 128 lanes of the result (R148). -/
def VecSpec.lanes (p : VecSpec) (s : State) : List Nat :=
  (List.range 128).map (p.F ((sourceLanes s (p.srcs.getD 0 (⟨false, 0⟩, .f32))).getD · 0)
    ((sourceLanes s (p.srcs.getD 1 (⟨false, 0⟩, .f32))).getD · 0) ((sourceLanes s (p.srcs.getD 2 (⟨false, 0⟩, .f32))).getD · 0)
    (((focusCore s).regs.getK (p.sel.getD 0)).getLsbD ·))

/-- Each stream register among the sources is popped, once (R190). -/
def VecSpec.popped (p : VecSpec) (s : State) : State :=
  (((p.srcs.filter fun x => x.1.str).map fun x => x.1.idx).eraseDups).foldl (fun s q => doPop q s) s

/-- Journal bytes of n bytes of register space: a header of 16 and the bytes, in units of 32 (R253). -/
def memBytes (n : Nat) : Nat := (16 + n + 31) / 32 * 32

/-- What a vector form does once its operands are open (R147, R148, R162, R195): its lanes at its latency, in a view or in a slot reserved in a
stream register; poison in all of the view's lanes, or the deferred fault of R111 in place of a push, where a source is tagged. -/
def VecSpec.next (p : VecSpec) (s : State) : State :=
  let t := p.popped s
  let base := (viewOf (focusCore s) 0 p.dst.idx).base
  let m := (focusCore s).regs.getK p.km
  match p.tag s, p.dst.str with
  | some x, true => { t with focus := { t.focus with deferred := t.focus.deferred ++ [x] } }
  | some x, false => withResult t p.lat (.bytes [(base, List.replicate (vecBytes p.f) 0)] (some x) none) (memBytes (vecBytes p.f))
  | none, true => withResult (doReserve p.dst.idx t) p.lat (.fill p.dst.idx (focusCore s).nextRes (entryOf p.f p.ke m (p.lanes s))) 0
  | none, false => withResult t p.lat (viewEff p.f base p.ke m (p.lanes s)) (memBytes (vecBytes p.f))

/-- The lane of a list as a bit of a mask. -/
def maskBits (f : Nat → Bool) : Mask := BitVec.ofNat 128 (((List.range 128).map fun i => if f i then 2 ^ i else 0).sum)

/-- A lane compare (R153): as R115 on floating point, else with the signedness of the format. -/
def laneHolds (c : Cond) (f : Fmt) (x y : Nat) : Bool :=
  if f.isFloat then (unpack f x).cmp c (unpack f y) else
  match c with
  | .eq => decide (laneInt f x = laneInt f y) | .ne => decide (laneInt f x ≠ laneInt f y)
  | .lt => decide (laneInt f x < laneInt f y) | .ge => decide (laneInt f x ≥ laneInt f y)
  | .c4 => decide (laneInt f x ≤ laneInt f y) | .c5 => decide (laneInt f x > laneInt f y)
  | .unord | .ord => false

/-- `vcmp` (R153): guard, format, lane mask, condition, sources, KE with its mask. -/
def vcmpParts : Instr → Option (Nat × Fmt × Nat × Cond × List (VOp × Fmt) × Bool × Nat)
  | .vcmp g f kd c a b => some (g, f, kd, c, [(⟨false, a⟩, f), (⟨false, b⟩, f)], false, 0)
  | .vcmpExt g f kd c a b e => some (g, f, kd, c, [(⟨e.qa, a⟩, f), (⟨e.qb, b⟩, f)], e.ke, e.km)
  | _ => none

/-! ### What the other forms do -/

/-- s with the focus changed: nothing else of the machine is touched. -/
def onFocus (s : State) (f : Focus → Focus) : State := { s with focus := f s.focus }

/-- s with an execution fault of the slot noted (R71). -/
def raised (s : State) (cause detail : Nat) : State :=
  onFocus s fun f => { f with faults := f.faults ++ [(f.slot, cause, detail)] }

/-- s with the deferred fault of a tag to be taken (R111). -/
def deferredAt (s : State) (p : Poison) : State := onFocus s fun f => { f with deferred := f.deferred ++ [p] }

/-- s with a request of the X slot, of the E slot, or a wait, noted until the bundle completes (R358). -/
def asksX (s : State) (c : Ctl) : State := onFocus s fun f => { f with ctl := c }
@[inherit_doc asksX] def asksE (s : State) (c : ECtl) : State := onFocus s fun f => { f with ectl := c }
@[inherit_doc asksX] def asksWait (s : State) (w : Wait) : State := onFocus s fun f => { f with wait := w }

/-- s with a trace entry of the bundle (R374). -/
def tracedAt (s : State) (kind data : Nat) : State :=
  onFocus s fun f => { f with trace := f.trace ++ [⟨kind, (focusCore s).sched % 2 ^ 24, f.addr, data⟩] }

/-- s with the issuing core replaced. -/
def onCore (s : State) (f : Core → Core) : State := { s with cores := Tbl.set s.cores s.focus.core (f (focusCore s)) }

/-- The cluster of the issuing core. -/
def itsCluster (s : State) : Cluster := getCluster s (s.focus.core / 8)

/-- An untagged scalar with upper half zero holds an address from which ea, a multiple of al, leads to n bytes that the form allows, none of
them in an ALT half (R18, R20, R210). -/
abbrev Reaches (s : State) (a : Nat) (ea : Int) (n al : Nat) (allowed : Nat → Nat → Bool) : Prop :=
  tagOfS s a = none ∧ (srcS s a).toNat < 2 ^ 32 ∧ ea % al = 0 ∧ 0 ≤ ea ∧ allowed ea.toNat n = true ∧
    touchesAlt (itsCluster s) ea.toNat n = false

/-- The operand file, accumulator store and scratchpad; the operand file and the scratchpad (R18). -/
def ownFiles (a n : Nat) : Bool := decide (a + n ≤ 0x380000) || decide (0x1000000 ≤ a) && decide (a + n ≤ 0x1800000)
@[inherit_doc ownFiles] def descFiles (a n : Nat) : Bool := decide (a + n ≤ 0x200000) || decide (0x1000000 ≤ a) && decide (a + n ≤ 0x1800000)
@[inherit_doc ownFiles] def scratchOnly (a n : Nat) : Bool := decide (0x1000000 ≤ a) && decide (a + n ≤ 0x1800000)
@[inherit_doc ownFiles] def weightOnly (a n : Nat) : Bool := decide (0x40000000 ≤ a) && decide (a + n ≤ 0x80000000)

/-- The lower half of a scalar as an address (R18). -/
def addrOf (s : State) (a : Nat) : Int := ((srcS s a).toNat % 2 ^ 32 : Nat)

/-- Bytes of a size code (R109): 1, 4 or 8. -/
def sizeOfCode (sz : Nat) : Nat := if sz = 0 then 1 else if sz = 1 then 4 else 8

/-! ### The matrix array (R164 to R174) -/

/-- Two cores agree but for B and its checksum row, and but for the edge B latches. -/
def sameButArray (c d : Core) : Prop := { c with arrB := [], arrSum := [], sb := [] } = { d with arrB := [], arrSum := [], sb := [] }

/-- Nothing of t differs from s but the issuing core. -/
def onlyItsCore (s t : State) : Prop := t = { s with cores := Tbl.set s.cores s.focus.core (focusCore t) }

/-- The checksum row of B is the sum of each column's codes (R167). -/
def sumsHold (c : Core) : Prop := ∀ n, n < 64 → sumAt c n = ((List.range 128).map fun k => arrAt c k n).sum

/-- The pops of a source that is a stream register. -/
def poppedOne (st : Bool) (q : Nat) (s : State) : State := if st then doPop q s else s

/-- The tree result of column n for an A vector (R94, R95): the products with their scales, each exact in FP32, summed by the fixed tree. -/
def treeResult (c : Core) (a : Nat → Nat) (n : Nat) : Nat :=
  treeAt (fadd .f32) (fun k => pack .f32 .rne (ln6Prod (a k) (arrAt c k n) (latchA c (k / 32)) (latchB c (k / 32) n))) 7 0

/-- A beat (R170): the 64 tree results, their plain and weighted check sums, and whether a column disagrees with the checksum row. -/
def beatOf (c : Core) (row : Nat) (a : Nat → Nat) (tag : Option Poison) : Eff :=
  let y := treeResult c a
  .mfeed row ((List.range 64).map y) (treeAt (fadd .f32) y 6 0)
    (treeAt (fadd .f32) (fun n => fmul .f32 (pack .f32 .rne (.fin false (n + 1) 0)) (y n)) 6 0)
    ((List.range 64).any fun n => ((List.range 128).map fun k => arrAt c k n).sum != sumAt c n) tag

/-- The row that an accumulator view and a row index name. -/
def rowAt (s : State) (ad row : Nat) : Nat := (viewOf (focusCore s) 2 ad).base + 512 * row

/-- The hi and lo words of element n of an accumulator row (R125). -/
def hiAt (s : State) (r n : Nat) : Nat := leNat (((Mem.read (focusCore s).regs.mem r 512).drop (8 * n)).take 4)
@[inherit_doc hiAt] def loAt (s : State) (r n : Nat) : Nat := leNat (((Mem.read (focusCore s).regs.mem r 512).drop (8 * n + 4)).take 4)

/-- `mdrain` finds its operands in order (R174): views configured, formats equal, rows inside the views, no error and no tag in the row. -/
abbrev DrainOpen (s : State) (f : Fmt) (td trow ad arow : Nat) : Prop :=
  let t := viewOf (focusCore s) 1 td
  let v := viewOf (focusCore s) 2 ad
  t.cfg = true ∧ v.cfg = true ∧ arow ≤ v.rows ∧ f = t.tfmt ∧ trow ≤ t.rows ∧
    isMarked s 1 s.focus.core (rowAt s ad arow) 512 = false

/-- The bytes of the drained elements that a tile row takes: the first C, at most 64. -/
def drained (s : State) (td trow : Nat) (f : Fmt) (out : Nat → Nat) : Nat × List Nat :=
  let t := viewOf (focusCore s) 1 td
  (t.base + 32 * t.pitch * trow, ((List.range (min (t.cols + 1) 64)).map out).flatMap (leBytes (laneBytes f)))

/-! ### Tiles, streams, atomics (R138, R183 to R193) -/

/-- Element (i, j) of a tile starts here; for LN6 its group of four does (R130). -/
def tileElement (t : View) (i j : Nat) : Nat :=
  t.base + 32 * t.pitch * i + if t.tfmt = .ln6 then 3 * (j / 4) else laneBytes t.tfmt * j

/-- The bytes of n elements of a row (R86): 6 bits each for LN6. -/
def rowBytes (f : Fmt) (n : Nat) : Nat := if f = .ln6 then 3 * (n / 4) else laneBytes f * n

/-- The slice fits the tile (R138): index inside it, format equal, and no column write of LN6. -/
abbrev SliceFits (t : View) (f : Fmt) (col : Bool) (i : Nat) (write : Bool) : Prop :=
  f = t.tfmt ∧ (if col then i % 128 ≤ t.cols ∧ 128 * (i / 128) ≤ t.rows else i ≤ t.rows) ∧ (col = true → write = true → t.tfmt ≠ .ln6)

/-- The pieces of the tile that a slice of a vector's bytes goes to (R138): a row as one piece, a column as one element a row. -/
def slicePieces (t : View) (f : Fmt) (col : Bool) (i : Nat) (bs : List Nat) : List (Nat × List Nat) :=
  if col then (List.range (min 128 (t.rows + 1 - 128 * (i / 128)))).map fun j =>
    (tileElement t (128 * (i / 128) + j) (i % 128), (bs.drop (laneBytes f * j)).take (laneBytes f))
  else [(tileElement t i 0, bs.take (rowBytes f (t.cols + 1)))]

/-- A descriptor's 16 words as R185 lays a pattern out: BASE, LEN + 1 units, and NDIM dimensions of count and stride; nothing else set. -/
abbrev PatternOk (w : Nat → Nat) : Prop :=
  let nd := w 1 / 2 ^ 16 % 8
  w 0 % 32 = 0 ∧ w 1 = w 1 % 16 + nd * 2 ^ 16 ∧ 1 ≤ nd ∧ nd ≤ 6 ∧ w 14 = 0 ∧ w 15 = 0 ∧
    ∀ d, d < 6 → if d < nd then w (2 + 2 * d) < 65536 ∧ w (3 + 2 * d) % 32 = 0 else w (2 + 2 * d) = 0 ∧ w (3 + 2 * d) = 0

/-- The stream register that a new binding makes (R188). -/
def boundTo (u : Nat) (write : Bool) (p : Pattern) : Stream :=
  { unit := u, write := write, pat := p, pos := 0, moves := 0, ops := 0, slots := [], taken := 0 }

/-- The forms of `amo` (R183): guard, operation, format, destination, address, operands, width. -/
def amoParts : Instr → Option (Nat × Nat × Fmt × Nat × Nat × Nat × Option Nat × Bool)
  | .amoAdd g f d a b w => some (g, 0, f, d, a, b, none, w)
  | .amoMin g f d a b w => some (g, 1, f, d, a, b, none, w)
  | .amoMax g f d a b w => some (g, 2, f, d, a, b, none, w)
  | .amoSwap g f d a b w => some (g, 3, f, d, a, b, none, w)
  | .amoCas g f d a b c w => some (g, 4, f, d, a, b, some c, w)
  | _ => none

/-- What an update of n bytes writes over an old value (R183), if it writes. -/
def updated (op : Nat) (sgn : Bool) (n old x y : Nat) : Option Nat :=
  let num := fun v : Nat => if sgn && decide (2 ^ (8 * n - 1) ≤ v) then (v : Int) - 2 ^ (8 * n) else v
  match op with
  | 0 => some ((old + x) % 2 ^ (8 * n))
  | 1 => some (if num x < num old then x else old)
  | 2 => some (if num old < num x then x else old)
  | 3 => some x
  | _ => if old = x then some y else none

/-! ### The E slot -/

/-- The tag of the core's next request (R203). -/
def tagNow (s : State) : Nat := s.focus.core % 768 * 2 ^ 22 + (focusCore s).regs.reqCount % 2 ^ 22

/-- A request enters the queue of its core's home engine in the issue cycle (R200, R203). -/
def accepted (s : State) (r : Req) : State := acceptReq (s.focus.core / 8) (s.focus.core % 8 / 2) r s

/-- A request joins the kitty (R254), and in run-ahead asks for n bytes of the journal (R253). -/
def joined (s : State) (r : Req) (n : Nat) : State :=
  onFocus (onCore s fun c => { c with kitty := c.kitty ++ [.req r (if (focusCore s).ra.isSome then n else 0)] })
    fun f => { f with kentries := f.kentries + 1, jbytes := f.jbytes + if (focusCore s).ra.isSome then n else 0 }

/-- A request is handed over (R203): accepted outside run-ahead with no draining kitty, else held in the kitty. -/
def handed (s : State) (r : Req) (n : Nat) : State := if inRa s || draining s then joined s r n else accepted s r

/-- The count of requests rises (R203). -/
def counted (s : State) : State := onCore s fun c => { c with regs := { c.regs with reqCount := (c.regs.reqCount + 1) % 2 ^ 22 } }

/-- The home engine's queue, graph operations counted, takes a request, or the request joins the kitty (R200). -/
abbrev QueueOpen (s : State) : Prop := ¬ Calm s ∨ queued (itsCluster s) (s.focus.core % 8 / 2) < 16

/-- An entry joins the kitty (R254). -/
def inKitty (s : State) (e : KEntry) : State :=
  onFocus (onCore s fun c => { c with kitty := c.kitty ++ [e] }) fun f => { f with kentries := f.kentries + 1 }

/-- s with its cluster replaced. -/
def onCluster (s : State) (f : Cluster → Cluster) : State :=
  { s with clusters := Tbl.set s.clusters (s.focus.core / 8) (f (itsCluster s)) }

/-- A binding of the core's cluster (R208). -/
def bindingAt (s : State) (b : Nat) : Option Binding := (itsCluster s).bindings[b]?

/-- The words of a descriptor of n bytes at an address (R203). -/
def descriptorAt (s : State) (ea : Int) (n : Nat) : List Nat := wordsOf (n / 4) (ownRead s s.focus.core ea.toNat n s.cycle)

/-- The tag of the bytes of a descriptor, as the core's own read sees them (R102, R111). -/
def descTag (s : State) (ea : Int) (n : Nat) : Option Poison := ownTag (focusCore s) ea.toNat n s.cycle

/-- A request of a descriptor reads no weight store but that of its core's partition (R20, R351). -/
abbrev StoreOpen (s : State) (ws : List Nat) : Prop :=
  ws.getD 0 0 / 4 % 4 = 0 → 0x40000000 ≤ ws.getD 4 0 + 2 ^ 32 * ws.getD 5 0 →
    (getDie s (s.focus.core / 96)).owner ≠ 0 ∧ (getDie s (s.focus.core / 96)).owner = (itsCluster s).part

/-- An agreement instruction (R247, R248): guard, channel, signature, and its bid as the state gives it. -/
structure BidSpec where
  g : Nat
  ch : Nat
  sig : Nat
  tag : State → Option Poison
  v : State → Int

/-- The low 16 bits of a scalar as a signed number, and its low bit (R248). -/
def low16 (s : State) (x : Nat) : Int :=
  if (srcS s x).toNat % 2 ^ 16 < 2 ^ 15 then (((srcS s x).toNat % 2 ^ 16 : Nat) : Int) else (((srcS s x).toNat % 2 ^ 16 : Nat) : Int) - 2 ^ 16
@[inherit_doc low16] def low1 (s : State) (x : Nat) : Int := (((srcS s x).toNat % 2 : Nat) : Int)

/-- The agreement instructions: `abr` bids a predicate under signature 0, `agree` bids sx, one bit for and and or. -/
def bidParts : Instr → Option BidSpec
  | .abr g ch p .. | .abrWide g ch p .. => some ⟨g, ch, 0, fun s => (focusCore s).regs.tagP p, fun s => if (focusCore s).regs.getP p then 1 else 0⟩
  | .agreeAnd g ch x => some ⟨g, ch, 1, fun s => tagOfS s x, fun s => low1 s x⟩
  | .agreeOr g ch x => some ⟨g, ch, 2, fun s => tagOfS s x, fun s => low1 s x⟩
  | .agreeMin g ch x => some ⟨g, ch, 3, fun s => tagOfS s x, fun s => low16 s x⟩
  | .agreeMax g ch x => some ⟨g, ch, 4, fun s => tagOfS s x, fun s => low16 s x⟩
  | .agreeSum g ch x => some ⟨g, ch, 5, fun s => tagOfS s x, fun s => low16 s x⟩
  | _ => none

/-- What the E slot asks for after a bid (R247, R248): the run-ahead on the predicted arm. -/
def predicts (i : Instr) (s : State) (e : ECtl) : Prop :=
  match i, e with
  | .abr _ ch _ h disp, .call ra arm | .abrWide _ ch _ h disp, .call ra arm =>
    arm = h ∧ ra.ch = ch ∧ ra.agree = false ∧ ra.guess = (if h then 1 else 0) ∧ ra.addr = s.focus.addr ∧
      ra.takenPc = ((s.focus.addr + 4 * disp) % 2 ^ 32).toNat
  | .agreeAnd _ ch x, .call ra arm | .agreeOr _ ch x, .call ra arm =>
    arm = false ∧ ra.ch = ch ∧ ra.agree = true ∧ ra.sx = x ∧ (ra.guess : Int) = low1 s x ∧ ra.signedCall = false ∧ ra.addr = s.focus.addr
  | .agreeMin _ ch x, .call ra arm | .agreeMax _ ch x, .call ra arm | .agreeSum _ ch x, .call ra arm =>
    arm = false ∧ ra.ch = ch ∧ ra.agree = true ∧ ra.sx = x ∧ ra.guess = (srcS s x).toNat % 2 ^ 16 ∧ ra.signedCall = true ∧ ra.addr = s.focus.addr
  | _, _ => False

/-- The state differs from s in the open values it has met, by one wait, and in nothing else. -/
def waitsFrom (s : State) (met : Nat) (w : Wait) : State := asksWait { s with free := s.free + met } w

/-- The window w that is open for the core's job and cluster (R288). -/
abbrev windowOpen (s : State) (w : Nat) (x : Window) : Prop :=
  Tbl.get none (getMod s (s.focus.core / 768)).windows w = some x ∧ x.job = (itsCluster s).ctx.job ∧ x.cluster = s.focus.core / 8 % 96

/-- Module time as the core's die holds it (R265). -/
def timeHere (s : State) : Nat := dieTime s (s.focus.core / 96)


/-! ### Events -/

/-- The time unit of a module, and module time in ns. -/
def unitOf (s : State) (m : Nat) : TimeUnit := (getMod s m).time
@[inherit_doc unitOf] def nowOf (s : State) (m : Nat) : Nat := (unitOf s m).now / (19 * 10 ^ 9)

/-- s with one module replaced, with one time unit replaced: nothing else of the machine changes. -/
def onMod (s : State) (m : Nat) (f : Module → Module) : State := { s with mods := Tbl.set s.mods m (f (getMod s m)) }
@[inherit_doc onMod] def onUnit (s : State) (m : Nat) (f : TimeUnit → TimeUnit) : State := onMod s m fun x => { x with time := f x.time }

/-- PTP is on: EN of TMCFG (R271). -/
abbrev ptpOn (s : State) (m : Nat) : Prop := (unitOf s m).tmcfg % 2 = 1

/-- A port takes part in PTP (R270, R271): a fabric port by its bit of TMPORT, the host port, 32, by HOSTP. -/
abbrev PortOn (s : State) (m port : Nat) : Prop :=
  ptpOn s m ∧ (if port = 32 then (unitOf s m).tmcfg / 4 % 2 else (unitOf s m).tmport / 2 ^ port % 2) = 1

/-- One Announce beats another (R270): the better grandmaster, and of one grandmaster the way of fewer steps. -/
abbrev Beats (a b : Announce) : Prop :=
  if a.gm = b.gm then a.steps < b.steps ∨ a.steps = b.steps ∧ a.sender < b.sender
  else a.prio1 < b.prio1 ∨ a.prio1 = b.prio1 ∧
    (a.quality < b.quality ∨ a.quality = b.quality ∧ (a.prio2 < b.prio2 ∨ a.prio2 = b.prio2 ∧ a.gm < b.gm))

/-- A generator, a window, of a module, and s with one of them replaced. -/
def tickAt (s : State) (m tg : Nat) : Tick := Tbl.get .reset (getMod s m).ticks tg
@[inherit_doc tickAt] def onTick (s : State) (m tg : Nat) (t : Tick) : State := onMod s m fun x => { x with ticks := Tbl.set x.ticks tg t }
@[inherit_doc tickAt] def windowAt (s : State) (m w : Nat) : Option Window := Tbl.get none (getMod s m).windows w

/-- The module is in service and no firmware takeover holds its messages (R391, R403). -/
abbrev Serving (s : State) (m : Nat) : Prop := (getMod s m).up = true ∧ (getMod s m).standby = false ∧ (getMod s m).fwPause ≤ nowOf s m

/-- The hypervisor, or the partition itself (R354). -/
abbrev Allowed (caller part : Nat) : Prop := caller = 0 ∨ caller = part

/-- The operation is done: status 0 is the answer (R354). -/
def done (m : Nat) (s : State) : State := { s with hostMsgs := s.hostMsgs ++ [.answer m 0 []] }

/-- t is s refused: the answer is some nonzero status, and nothing else changes (R354; the code is open, log 9). -/
def Refused (m : Nat) (s t : State) : Prop :=
  ∃ code, code ≠ 0 ∧ t = { s with hostMsgs := s.hostMsgs ++ [.answer m code []], free := s.free + 1 }

/-- s with one more write due through an engine of a cluster (R181). -/
def dueIn (s : State) (c : Nat) (d : DueWrite) : State :=
  { s with clusters := Tbl.set s.clusters c (let x := getCluster s c; { x with due := x.due ++ [d] }) }

/-- The job of a number is stopped by the halt wave on a module (R369). -/
abbrev Halted (s : State) (m job : Nat) : Prop := (jobSlot s m job).stopped = true

/-- Nothing of the sequencers of a module waits for a generator (R278). -/
def noneWaits (s : State) (m tg : Nat) : Prop := ∀ k ∈ s.cores.map Prod.fst, k / 768 = m → ∀ t0 w, (getCore s k).wait ≠ .waittk tg t0 w

/-- κ(n) of R283. -/
def closesAt (w : Window) (n : Int) : Int := w.origin + (n + 1) * w.period + w.guard

/-- The byte of a cluster's scratchpad, and what a store of bytes at an address leaves of it where no half of a buffer pair is swapped (R210). -/
def scratchByte (s : State) (c a : Nat) : Nat := Mem.byte (getCluster s c).scratch a
@[inherit_doc scratchByte] def storedOver (s t : State) (c a : Nat) (bs : List Nat) : Prop :=
  ∀ x, scratchByte t c x = if a ≤ x ∧ x < a + bs.length then bs.getD (x - a) 0 % 256 else scratchByte s c x

/-- No buffer pair of the cluster has been swapped (R210). -/
abbrev Unswapped (s : State) (c : Nat) : Prop := (getCluster s c).swapped.any (fun x => x.2) = false

/-- s with one cluster replaced. -/
def onClusterNo (s : State) (c : Nat) (f : Cluster → Cluster) : State := { s with clusters := Tbl.set s.clusters c (f (getCluster s c)) }

/-- The core of an event of one core, its stream register, and s with one core replaced. -/
def coreHere (s : State) : Core := getCore s s.place
@[inherit_doc coreHere] def onPlace (s : State) (f : Core → Core) : State := { s with cores := Tbl.set s.cores s.place (f (coreHere s)) }

/-- The core's sequencer is not stopped by the halt wave or by a whole-context save (R369, R230). -/
abbrev Going (s : State) (k : Nat) : Prop := seqFrozen s k = false

/-- The core wakes (R33): its next bundle issues no earlier than cycle t. -/
def Woken (s s' : State) (k t : Nat) : Prop := (getCore s' k).wait = .none ∧ (getCore s' k).nextIssue = max (getCore s k).nextIssue t

/-- The cluster of an event of one core. -/
def itsScratch (s : State) : Cluster := getCluster s (s.place / 8)

/-- The sync word of a binding in the scratchpad (R213). -/
def syncWord (s : State) (c : Nat) (x : Binding) : Nat := leNat (readScratch (getCluster s c) x.sync 8)

/-- A trap on the bundle at A, detected in cycle T (R357): what the core holds then; the register files and the loop stack stay, and the results
visible later than T are kept with their delays, except those that take their own course. -/
def TrapTaken (s t : State) (k A T mask cause detail : Nat) : Prop :=
  let c := getCore s k
  let d := getCore t k
  d.trapcause = cause ∧ d.trapdetail = detail ∧ d.trapaddr = A % 2 ^ 32 ∧ d.trapmask = mask ∧ d.handler = true ∧ d.pc = c.tvec ∧
    d.trapDepth = c.loops.length ∧ d.trapT = T ∧ d.nextIssue = T + 4 ∧ d.wait = .none ∧ d.regs = c.regs ∧ d.loops = c.loops ∧ d.tvec = c.tvec ∧
    d.pend = c.pend.filter (fun p => !(decide (T < p.vis) && p.eff.holdable)) ∧
    d.held = c.held ++ (fixRows c.regs c.regs 0 (sortBy landsBefore (c.pend.filter fun p => decide (T < p.vis) && p.eff.holdable))).map (fun p => (p.vis - T, p)) ∧
    (∀ j, j ≠ k → getCore t j = getCore s j) ∧ t.dies = s.dies ∧ t.jobs = s.jobs ∧ t.flights = s.flights

/-- The only vector base a trap can go to is set, and the core is not in a handler (R357, R361). -/
abbrev TrapOpen (s : State) (k : Nat) : Prop := (getCore s k).handler = false ∧ (getCore s k).tvec ≠ 0

/-- The item in flight that an event is about has arrived: nothing else has its number (R245, R320). -/
def Arrived (s : State) (k : FKind) : Prop :=
  ∃ due held, s.flights.find? (fun f => f.id == s.place) = some ⟨s.place, due, held, k⟩ ∧ due ≤ s.cycle

/-- s without the item in flight that an event is about. -/
def landed (s : State) : State := { s with flights := s.flights.filter fun f => f.id != s.place }

/-- The members of a channel that a trick expects and that have not bid (R242). -/
abbrev Waits (j : Job) (d : Decl) (c : Channel) : Prop := missing j d c ≠ 0

/-- What a fence of cycle t covers has been performed (R216). The core's stores and `amo` updates and the entries pushed to its write streams; at cluster
scope the writes of its earlier requests into the cluster's scratchpad too, completion words and atomic results with them; at module scope every write of
its earlier requests, and every earlier `rel`. A graph's operations are no requests of the core. -/
def FenceCovers (s : State) (k scope t : Nat) : Prop :=
  let c := getCore s k
  let cl := getCluster s (k / 8)
  (∀ p ∈ c.stores, t ≤ p.seq) ∧
  (∀ p ∈ c.pend, match p.eff with | .bytes _ _ (some u) => t ≤ u | .released _ _ u _ => t ≤ u | _ => True) ∧
  (∀ e ∈ c.kitty, match e with | .store u _ _ _ _ => t ≤ u | _ => True) ∧
  (∀ x ∈ c.streams, ∀ st, x.2 = some st → st.write = true → ∀ e ∈ st.slots, e.live = false) ∧
  (∀ x ∈ cl.queues, ∀ q ∈ x.2, q.uid = cl.ctx.uid → q.r.core = k → (∀ g i, q.r.kind ≠ .graph g i) → q.r.issued < t →
    let left := (if q.status = 0 then q.done < q.total else 0 < q.active) ∨ (q.r.cw ≠ none ∧ q.cwDone = false)
    let near := (∃ op sgn n x y, q.r.kind = .atomic op sgn n x y) ∨ (∃ a, q.r.dst = .local_ a) ∨ ownWindow s (k / 8) q.r ≠ none ∨ q.r.cw ≠ none
    (scope = 1 → near → ¬ left) ∧ (scope = 2 → ¬ left)) ∧
  (scope = 2 → ∀ r ∈ c.rels, t ≤ r.issued)

/-- The values of a trick's bids, ABSV where one is counted so (R243, R246). -/
def bidValues (d : Decl) (c : Channel) : List Int := c.bids.map fun b => if b.absv then absValue c.sig d.absv else b.v

/-- A trick has resolved with a record (R243 to R246): the channel goes on to the next trick, its history keeps the record, and a call goes to every
core that has bid. -/
def Resolved (s t : State) (job ch : Nat) (c : Channel) (record : Nat) : Prop :=
  (∃ j, getJob t job = some j ∧ (channelOf j ch).n = (c.n + 1) % 2 ^ 32 ∧ (channelOf j ch).gather = false ∧ (channelOf j ch).bids = [] ∧
    (channelOf j ch).history = ((c.n, record) :: c.history).take 64 ∧ (channelOf j ch).places = c.places) ∧
  (∀ b ∈ c.bids, ∃ f ∈ t.flights, f.kind = .call job ch b.core b.uid record c.n ∧ s.cycle < f.due) ∧ t.cores = s.cores

/-- Fields of a call record (R244). -/
def recordIs (record value flt present n detail : Nat) : Prop :=
  record % 2 ^ 16 = value ∧ record / 2 ^ 22 % 2 = flt ∧ record / 2 ^ 24 % 2 ^ 19 = present % 2 ^ 19 ∧ record / 2 ^ 48 % 2 ^ 16 = n % 2 ^ 16 ∧
    record / 2 ^ 64 = detail

/-- The value of a trick (R243): on bits the conjunction and the disjunction, on numbers the least, the greatest and the clamped sum. -/
def TrickValue (sig bop : Nat) (vs : List Int) (v : Int) : Prop :=
  let conj := (∀ x ∈ vs, x = 1) ∧ v = 1 ∨ (∃ x ∈ vs, x ≠ 1) ∧ v = 0
  let disj := (∃ x ∈ vs, x = 1) ∧ v = 1 ∨ (∀ x ∈ vs, x ≠ 1) ∧ v = 0
  (sig = 1 → conj) ∧ (sig = 2 → disj) ∧ (sig = 3 → vs ≠ [] → v ∈ vs ∧ ∀ x ∈ vs, v ≤ x) ∧ (sig = 4 → vs ≠ [] → v ∈ vs ∧ ∀ x ∈ vs, x ≤ v) ∧
    (sig = 5 → v = max (-32768) (min 32767 vs.sum)) ∧ (sig = 0 → if bop = 0 then conj else disj)

/-- The completion of a sender's operation is on its way back, if it names one (R320, R322). -/
def AnswerSent (s t : State) (f : Nat × Nat × Nat) (status : Nat) : Prop :=
  if 64 ≤ f.2.2 then t.flights = s.flights else ∃ id due, s.cycle < due ∧ t.flights = s.flights ++ [⟨id, due, false, .graphDone f.1 f.2.1 f.2.2 status⟩]

/-- Nothing of the modules differs but what their event counters have counted (R400). -/
def SameMods (s t : State) : Prop := ∀ m, ∃ ev er, getMod t m = { getMod s m with evcnt := ev, evrem := er }

/-- A shared error word of a module rises by one (R398). -/
def sharedCount (s t : State) (m word : Nat) : Prop :=
  Tbl.get 0 (getMod t m).shared word = (Tbl.get 0 (getMod s m).shared word + 1) % 2 ^ 32

/-- A queue of a module, and s with it replaced. -/
def onQueue (s : State) (m n : Nat) (f : Queue → Queue) : State :=
  onMod s m fun x => { x with queues := Tbl.set x.queues n (f (Tbl.get .reset x.queues n)) }

/-- The words agree with their CHK and FOLD (R331, R386): CHK is the sum of the words 2 to 15, word i rotated left by i bits. -/
abbrev sealed (ws : List Nat) : Prop :=
  let chk := ws.getD 1 0
  chk = ((List.range 14).map fun i => ws.getD (i + 2) 0 * 2 ^ (i + 2) % 2 ^ 32 + ws.getD (i + 2) 0 / 2 ^ (30 - i)).sum % 2 ^ 32 ∧
    ws.getD 0 0 / 2 ^ 16 % 2 ^ 16 = Nat.xor (chk / 2 ^ 16) (chk % 2 ^ 16)

/-- A completion record waits in a queue (R332): STATUS, LEVEL, CAUSE, LID, JOB, NSAVE, TSTART, with the launch that waits on it. -/
def recordWaits (s t : State) (m n uid status level cause nsave tstart : Nat) (ws : List Nat) : Prop :=
  (queueAt t m n).comps = (queueAt s m n).comps ++ [(uid, [status, level, cause, ws.getD 5 0, ws.getD 4 0 % 65536, nsave, tstart])]

/-- The packet at the head of a queue completes without running (R332, R333). -/
def DroppedHead (s t : State) (m n status : Nat) (ws : List Nat) : Prop :=
  recordWaits s t m n 0 status 0 0 0 0 ws ∧ (queueAt t m n).pkts = (queueAt s m n).pkts.drop 1 ∧ t.cores = s.cores ∧ t.clusters = s.clusters

/-- What a launch is on its module now. -/
def launchNow (t : State) (m uid : Nat) : Option Launch := (getMod t m).launches.find? fun l => l.uid == uid

/-- The size of the frame of a task that has landed (R344): its header, its used cores, their live dirty lines and arrays, and the scratchpad ranges. -/
def saveSize (s : State) (c : Nat) : Nat :=
  let live := ((usedCores s c).filter fun k => (getCore s k).seq = .landed).map fun k => (getCore s k, liveSetOf (liveWords s k))
  frameBytes (usedCores s c).length (live.map fun x => (liveLines x.1 x.2).length).sum (live.filter fun x => x.2.arr).length
    (unionRanges (live.flatMap fun x => x.2.ranges))

/-! ### Engines, operations and power -/

/-- A byte of a module's memory by its physical address, and what a write of bytes leaves (R222). -/
def physByte (s : State) (m a : Nat) : Nat :=
  if isHost a then Mem.byte (getMod s m).host (a - 0x8000000000000) else Mem.byte (getMod s m).hbm a
@[inherit_doc physByte] def physOver (s t : State) (m a : Nat) (bs : List Nat) : Prop :=
  ∀ x, isHost x = isHost a → physByte t m x = if a ≤ x ∧ x < a + bs.length then bs.getD (x - a) 0 % 256 else physByte s m x

/-- An access or a chunk in flight has arrived, and nothing holds it (R215, R234). -/
def ArrivedFree (s : State) (k : FKind) : Prop :=
  ∃ due, s.flights.find? (fun f => f.id == s.place) = some ⟨s.place, due, false, k⟩ ∧ due ≤ s.cycle

/-- An engine performs nothing but its chunk in hand: no write is due through it and the halt wave lets it work (R181, R369). -/
abbrev EngineFree (s : State) (c e : Nat) : Prop := enginesHeld s c = false ∧ ∀ d ∈ (getCluster s c).due, d.engine ≠ e

/-- The one request of its number in an engine's queue. -/
abbrev onlyReq (s : State) (c e : Nat) (q : QReq) : Prop := (queueOf (getCluster s c) e).filter (fun x => x.id == q.id) = [q]

/-- A request in an engine's queue now, and the chunk in its hand. -/
def reqNow (t : State) (c e id : Nat) : Option QReq := (queueOf (getCluster t c) e).find? fun q => q.id == id
@[inherit_doc reqNow] def handNow (t : State) (c e : Nat) : Option Chunk := Tbl.get none (getCluster t c).chunks e

/-- Nothing of a state but what a pass over memory and counters may touch: cores' registers and positions, dies, jobs stay. -/
def Apart (s t : State) : Prop := t.dies = s.dies ∧ t.jobs = s.jobs ∧ t.agenda = s.agenda ∧ t.cycle = s.cycle ∧ t.hostMsgs = s.hostMsgs

/-- The event comes back in a later cycle. -/
def comesBack (s : State) (n place : Nat) (i : Instr) : State := { s with inputs := s.inputs ++ [(s.cycle + n, ⟨place, i⟩)] }

/-- The caller may act on a job that the module holds (R221, R354). -/
abbrev Manages (s : State) (m caller job : Nat) : Prop := jobOn s m job = true ∧ Allowed caller (partOfJob s m job)

/-- The syllables of a bundle act one after another, each in its slot (R58). -/
def ran (is : List (Slot × Instr)) (s : State) : State :=
  is.foldl (fun s x => match exec x.2 { s with focus := { s.focus with slot := x.1.num } } with | .next t => t | _ => s) s

/-- A core that issues on its own in this cycle (R32, R58). -/
abbrev IssuesNow (s : State) (k : Nat) : Prop :=
  seqFrozen s k = false ∧ (getCluster s (k / 8)).hold ≠ s.cycle + 1 ∧ (getCluster s (k / 8)).ctx.bcast = false ∧ (getCore s k).seq = .running ∧
    (getCore s k).wait = .none ∧ (getCore s k).nextIssue ≤ s.cycle ∧ (getCore s k).replay = none

/-- The words at a core's position are in its fetch cache, unmarked and as the launch found them, and decode to a bundle of header h (R28, R29, R60, R70). -/
abbrev BundleAt (s : State) (k h : Nat) (is : List (Slot × Instr)) : Prop :=
  let a := (getCore s k).pc
  let n := bundleWords h
  let cl := getCluster s (k / 8)
  a % 4 = 0 ∧ inScratch a (4 * n) = true ∧ (∀ b ∈ blocksOf a (4 * n), b ∈ (getCore s k).fcache) ∧ isMarked s 2 (k / 8) a (4 * n) = false ∧
    isMarked s 4 k a (4 * n) = false ∧ Mem.read cl.codeOld a (4 * n) = readScratch cl a (4 * n) ∧ isHeader h = true ∧ (wordsOf n (readScratch cl a (4 * n))).head? = some h ∧
    decodeBundle h (getCore s k).xfer ((wordsOf n (readScratch cl a (4 * n))).drop 1) = .ok is

/-- The state in which the slots of a bundle begin to act: the blocks of its words have been used last, and the focus is on the core. -/
def startOf (s : State) (k h : Nat) : State :=
  let c := getCore s k
  { s with
    cores := Tbl.set s.cores k { c with fcache := touchBlocks (blocksOf c.pc (4 * bundleWords h)) c.fcache }
    focus := focusOn k c.pc h (4 * bundleWords h) none }

/-- The slots of a bundle in the order in which they act: the E slot last (R58). -/
def actOrder (is : List (Slot × Instr)) : List (Slot × Instr) := is.filter (fun x => x.1 != .E) ++ is.filter fun x => x.1 == .E

/-! ### Parts of the statements below that name them -/

/-- R146: a view form with an unconfigured view among its operands raises a view fault with detail 1 and does nothing else, outside run-ahead. -/
def VectorViewFault : Prop :=
  ∀ (i : Instr) (p : VecSpec) (s : State), vecForms i = some p → Enabled s p.g → inRa s = false → p.dst.str = false →
    (∀ x ∈ p.srcs, x.1.str = false) →
    ((viewOf (focusCore s) 0 p.dst.idx).cfg = false ∨ ∃ x ∈ p.srcs, (viewOf (focusCore s) 0 x.1.idx).cfg = false) →
    exec i s = .next { s with focus := { s.focus with faults := s.focus.faults ++ [(s.focus.slot, 0x11, 1)] } }

/-- R153: `vcmp` writes bit i of its lane mask at T + 4; bits that KE does not select keep their value; a tagged source poisons all 128 (R162). -/
def VectorCompare : Prop :=
  ∀ (i : Instr) (g : Nat) (f : Fmt) (kd : Nat) (c : Cond) (srcs : List (VOp × Fmt)) (ke : Bool) (km : Nat) (s : State),
    i.wf = true → vcmpParts i = some (g, f, kd, c, srcs, ke, km) → Enabled s g → (∀ x ∈ srcs, SourceOpen s x) →
    exec i s = .next (
      let t := (((srcs.filter fun x => x.1.str).map fun x => x.1.idx).eraseDups).foldl (fun s q => doPop q s) s
      let a := sourceLanes s (srcs.getD 0 (⟨false, 0⟩, .f32))
      let b := sourceLanes s (srcs.getD 1 (⟨false, 0⟩, .f32))
      match firstTag (srcs.map (sourceTag s) ++ [if ke then (focusCore s).regs.tagK km else none]) with
      | some x => withResult t 4 (.kmask kd 0 (BitVec.allOnes 128) (some x)) 32
      | none => withResult t 4 (.kmask kd (maskBits fun i => laneHolds c f (a.getD i 0) (b.getD i 0))
          (if ke then (focusCore s).regs.getK km else BitVec.allOnes 128) none) 32)

/-- R154: `vsplat` writes the low bits of sa in every lane at T + 4; a tagged sa poisons the vector, an unconfigured view faults with detail 1. -/
def VectorSplat : Prop :=
  ∀ (g : Nat) (f : Fmt) (d a : Nat) (s : State), Enabled s g →
    ((viewOf (focusCore s) 0 d).cfg = true → exec (.vsplat g f d a) s = .next (withResult s 4
      (match tagOfS s a with
        | some x => .bytes [((viewOf (focusCore s) 0 d).base, List.replicate (vecBytes f) 0)] (some x) none
        | none => .bytes [((viewOf (focusCore s) 0 d).base, fromLanes f (List.replicate 128 ((srcS s a).toNat % 2 ^ laneBits f)))] none none)
      (memBytes (vecBytes f)))) ∧
    ((viewOf (focusCore s) 0 d).cfg = false → inRa s = false → exec (.vsplat g f d a) s =
      .next { s with focus := { s.focus with faults := s.focus.faults ++ [(s.focus.slot, 0x11, 1)] } })

/-- R59: a syllable whose guard reads 0 has no effect at all. A position that a follower of a broadcast group takes from its lead is not under
the follower's own guard (R39). -/
def GuardedOff : Prop :=
  ∀ (i : Instr) (g : Nat) (s : State), guardOf i = some g → (focusCore s).regs.tagP g = none → (focusCore s).regs.getP g = false →
    (isControl i = true → s.focus.follow = none) → exec i s = .next s

/-- R111: a syllable whose guard is tagged takes the deferred fault of the tag outside run-ahead, and stalls the bundle in run-ahead. -/
def TaggedGuard : Prop :=
  ∀ (i : Instr) (g : Nat) (s : State) (p : Poison), guardOf i = some g → (focusCore s).regs.tagP g = some p →
    (isControl i = true → s.focus.follow = none) →
    (inRa s = false → exec i s = .next (deferredAt s p)) ∧
    (inRa s = true → ∃ x, exec i s = .next (onFocus s fun f => { f with stall := some x }) ∧ x.wd = false)

/-- R109, R110: `sld` reads its bytes at T + 3 for T + 8; from a tagged address it writes poison. -/
def ScalarLoads : Prop :=
  ∀ (i : Instr) (g d a sz : Nat) (off : Int) (s : State), i = .sld g d a sz off ∨ i = .sldWide g d a sz off → Enabled s g →
    (∀ p, tagOfS s a = some p → exec i s = .next (withResult s 8 (.sreg d 0 (some p)) (scalarBytes d))) ∧
    (let n := sizeOfCode sz
     let ea := addrOf s a + off * n
     Reaches s a ea n n ownFiles → errorIn s s.focus.core ea.toNat n = none →
      exec i s = .next (withResult s 8 (.loadS d ⟨[(ea.toNat, n)], [], none⟩ (s.cycle + 3)) (scalarBytes d)))

/-- R109, R62, R252: `sst` stores the low bytes at T + 3: into the register space, into the scratchpad, or in run-ahead and while the kitty
drains into the kitty; a tagged value or address is deferred (R111). -/
def ScalarStores : Prop :=
  ∀ (i : Instr) (g v a sz : Nat) (off : Int) (s : State), i = .sst g v a sz off ∨ i = .sstWide g v a sz off → Enabled s g →
    (∀ p, inRa s = false → firstTag [tagOfS s v, tagOfS s a] = some p → exec i s = .next (deferredAt s p)) ∧
    (let n := sizeOfCode sz
     let ea := addrOf s a + off * n
     let bs := leBytes n (srcS s v).toNat
     tagOfS s v = none → Reaches s a ea n n ownFiles →
      (Calm s → ea.toNat + n ≤ 0x380000 → exec i s = .next (withResult s 3 (.bytes [(ea.toNat, bs)] none (some s.cycle)) 0)) ∧
      (Calm s → 0x1000000 ≤ ea.toNat → exec i s = .next (onCore s fun c =>
        { c with stores := c.stores ++ [⟨s.cycle + 3, s.cycle, s.focus.slot, .bytes ea.toNat bs⟩] })) ∧
      (¬ Calm s → exec i s = .next (onFocus (onCore s fun c => { c with kitty := c.kitty ++ [.store s.cycle s.focus.slot [(ea.toNat, bs)] none []] })
        fun f => { f with kentries := f.kentries + 1 })))

/-- R117, R118, R39: what the transfers and `end` ask of the position, under their own guard; a follower takes the lead's outcome. -/
def ControlForms : Prop :=
  (∀ (i : Instr) (g : Nat) (disp : Int) (s : State), i = .br g disp ∨ i = .brWide g disp → s.focus.follow = none → Enabled s g →
    exec i s = .next (asksX s (.jump ((s.focus.addr + 4 * disp) % 2 ^ 32).toNat 1 false))) ∧
  (∀ (g a : Nat) (s : State), s.focus.follow = none → Enabled s g → tagOfS s a = none →
    exec (.brr g a) s = .next (asksX s (.jump ((srcS s a).toNat % 2 ^ 32) 1 (decide (2 ^ 32 ≤ (srcS s a).toNat)))) ∧
    exec (.ret g a) s = .next (asksX s (.jump ((srcS s a).toNat % 2 ^ 32) 2 (decide (2 ^ 32 ≤ (srcS s a).toNat))))) ∧
  (∀ (i : Instr) (g d : Nat) (disp : Int) (s : State), i = .call g d disp ∨ i = .callWide g d disp → s.focus.follow = none → Enabled s g →
    exec i s = .next (withResult (asksX s (.jump ((s.focus.addr + 4 * disp) % 2 ^ 32).toNat 1 false)) 1
      (.sreg d (BitVec.ofNat 64 (s.focus.addr + s.focus.len)) none) (scalarBytes d))) ∧
  (∀ (g : Nat) (s : State), s.focus.follow = none → Enabled s g → inRa s = false → exec (.endOp g) s = .next (asksX s .endd)) ∧
  (∀ (g n : Nat) (disp : Int) (s : State), s.focus.follow = none → Enabled s g →
    (n ≤ (focusCore s).loops.length → exec (.brk g n disp) s = .next (asksX s (.leave n ((s.focus.addr + 4 * disp) % 2 ^ 32).toNat))) ∧
    ((focusCore s).loops.length < n → inRa s = false → exec (.brk g n disp) s = .next (raised s 0x13 4))) ∧
  ∀ (i : Instr) (c : Ctl) (s : State), isControl i = true → (∀ g d disp, i ≠ .call g d disp ∧ i ≠ .callWide g d disp) →
    s.focus.follow = some c → exec i s = .next (asksX s c)

/-- R120: `loop` pushes an entry, skips the body for a count of 0, or faults; in a bundle of len bytes at A, B is A + len and E is A + 4 × disp
modulo 2^32 (R83). -/
def LoopForms : Prop :=
  ∀ (i : Instr) (g a : Nat) (disp : Int) (s : State), i = .loop g a disp ∨ i = .loopWide g a disp → s.focus.follow = none → Enabled s g →
    inRa s = false → tagOfS s a = none →
    let n := (srcS s a).toNat
    let b := s.focus.addr + s.focus.len
    let e := ((s.focus.addr + 4 * disp) % 2 ^ 32).toNat
    (2 ^ 32 ≤ n → exec i s = .next (raised s 0x13 2)) ∧
    (n < 2 ^ 32 → e < b → exec i s = .next (raised s 0x13 3)) ∧
    (n < 2 ^ 32 → b ≤ e → 0 < n → (focusCore s).loops.length = 6 → exec i s = .next (raised s 0x13 1)) ∧
    (n < 2 ^ 32 → b ≤ e → 0 < n → (focusCore s).loops.length ≠ 6 → exec i s = .next (asksX s (.push ⟨n, b, e⟩))) ∧
    (n = 0 → b ≤ e → inScratch e 4 = true → errorIn s s.focus.core e 4 = none →
      Mem.read (itsCluster s).codeOld e 4 = readScratch (itsCluster s) e 4 →
      let h := leNat (readScratch (itsCluster s) e 4)
      exec i s = .next (asksX s (.jump (if isHeader h then e + 4 * bundleWords h else e) 0 false)))

/-- R111, R146, R166, R167: `mpush` writes row kr of B from lanes 0 to 63 of its source, popping a stream source; a tagged one is deferred, and an
unconfigured one faults; the shifts move B by n places, the LN6 zero
entering, and `across` the edge B latches too; the checksum row follows B, and nothing else changes. -/
def ArrayForms : Prop :=
  (∀ (g kr : Nat) (st : Bool) (src : Nat) (s : State), Enabled s g → inRa s = false → SourceOpen s (⟨st, src⟩, .ln6) →
    sourceTag s (⟨st, src⟩, .ln6) = none →
    ∃ t, exec (.mpush g kr st src) s = .next t ∧ onlyItsCore (poppedOne st src s) t ∧ sameButArray (focusCore (poppedOne st src s)) (focusCore t) ∧
      (focusCore t).sb = (focusCore s).sb ∧ sumsHold (focusCore t) ∧
      ∀ k n, n < 64 → arrAt (focusCore t) k n = if k = kr then (sourceLanes s (⟨st, src⟩, .ln6)).getD n 0 else arrAt (focusCore s) k n) ∧
  (∀ (g kr src : Nat) (p : Poison) (s : State), Enabled s g → inRa s = false → SourceOpen s (⟨false, src⟩, .ln6) →
    sourceTag s (⟨false, src⟩, .ln6) = some p → exec (.mpush g kr false src) s = .next (deferredAt s p)) ∧
  (∀ (g kr src : Nat) (s : State), Enabled s g → inRa s = false → (viewOf (focusCore s) 0 src).cfg = false →
    exec (.mpush g kr false src) s = .next (raised s 0x11 1)) ∧
  (∀ (g m : Nat) (s : State), Enabled s g → inRa s = false → 0 < m →
    ∃ t, exec (.mshiftDown g m) s = .next t ∧ onlyItsCore s t ∧ sameButArray (focusCore s) (focusCore t) ∧
      (focusCore t).sb = (focusCore s).sb ∧ sumsHold (focusCore t) ∧
      ∀ k n, k < 128 → n < 64 → arrAt (focusCore t) k n = if m ≤ k then arrAt (focusCore s) (k - m) n else 0x10) ∧
  ∀ (g m : Nat) (s : State), Enabled s g → inRa s = false → 0 < m →
    ∃ t, exec (.mshiftAcross g m) s = .next t ∧ onlyItsCore s t ∧ sameButArray (focusCore s) (focusCore t) ∧ sumsHold (focusCore t) ∧
      (∀ k n, k < 128 → n < 64 → arrAt (focusCore t) k n = if m ≤ n then arrAt (focusCore s) k (n - m) else 0x10) ∧
      ∀ l n, n < 64 → latchB (focusCore t) l n = if m ≤ n then latchB (focusCore s) l (n - m) else 0

/-- R170, R171, R133: `mfeed` posts a beat and `mzero` a zeroing for T + 12; an unconfigured source or accumulator view faults with detail 1, and a row
outside the accumulator view with detail 6. -/
def FeedForms : Prop :=
  (∀ (g : Nat) (st : Bool) (src ad row : Nat) (s : State), Enabled s g → inRa s = false → (viewOf (focusCore s) 2 ad).cfg = true →
    row ≤ (viewOf (focusCore s) 2 ad).rows → SourceOpen s (⟨st, src⟩, .ln6) →
    exec (.mfeed g st src ad row) s = .next (withResult
      (onCore (poppedOne st src s) fun c => { c with evnew := (0x07, 1) :: c.evnew }) 12
      (beatOf (focusCore s) (rowAt s ad row) ((sourceLanes s (⟨st, src⟩, .ln6)).getD · 0) (sourceTag s (⟨st, src⟩, .ln6))) 0)) ∧
  (∀ (g : Nat) (st : Bool) (src ad row : Nat) (s : State), Enabled s g → inRa s = false → (st = true → ∃ bs, popStat s src = .entry bs false) →
    let v := viewOf (focusCore s) 2 ad
    let lacks := st = false ∧ (viewOf (focusCore s) 0 src).cfg = false
    (lacks ∨ v.cfg = false → exec (.mfeed g st src ad row) s = .next (raised s 0x11 1)) ∧
    (¬ lacks → v.cfg = true → v.rows < row → exec (.mfeed g st src ad row) s = .next (raised s 0x11 6))) ∧
  (∀ (g ad row : Nat) (s : State), Enabled s g → inRa s = false → (viewOf (focusCore s) 2 ad).cfg = false →
    exec (.mzero g ad row) s = .next (raised s 0x11 1)) ∧
  (∀ (g ad row : Nat) (s : State), Enabled s g → inRa s = false → (viewOf (focusCore s) 2 ad).cfg = true →
    (row ≤ (viewOf (focusCore s) 2 ad).rows → exec (.mzero g ad row) s = .next (withResult s 12 (.mzero (rowAt s ad row)) 0)) ∧
    ((viewOf (focusCore s) 2 ad).rows < row → exec (.mzero g ad row) s = .next (raised s 0x11 6)))

/-- The exact sum hi + lo of element n of an accumulator row, and that sum rounded to FP32 (R174). -/
def sumOf (s : State) (r n : Nat) : FVal := (unpack .f32 (hiAt s r n)).add (unpack .f32 (loAt s r n))
@[inherit_doc sumOf] def vOf (s : State) (r n : Nat) : Nat := pack .f32 .rne (sumOf s r n)

/-- What the compare of R174 weighs: the two check values, the two sums of the drained row, and their differences eP and eW. -/
structure Compared where
  cp : Nat
  cw : Nat
  dp : Nat
  dw : Nat
  eP : Nat
  eW : Nat

/-- The compare's values for an accumulator row with a checksum column. -/
def comparedOf (s : State) (r : Nat) (col : ChkCol) : Compared :=
  let cp := pack .f32 .rne ((unpack .f32 col.cphi).add (unpack .f32 col.cplo))
  let cw := pack .f32 .rne ((unpack .f32 col.cwhi).add (unpack .f32 col.cwlo))
  let dp := treeAt (fadd .f32) (vOf s r) 6 0
  let dw := treeAt (fadd .f32) (fun n => fmul .f32 (pack .f32 .rne (.fin false (n + 1) 0)) (vOf s r n)) 6 0
  ⟨cp, cw, dp, dw, fsub .f32 dp cp, fsub .f32 dw cw⟩

/-- R174: `mdrain` writes RNE(hi + lo) of the first C columns at T + 8 where checks are off, the row is unchecked, a value of the compare is not finite, or it
stays within the tolerance M × 2^−TEXP; a tagged row writes poison; a tainted row under checks is a matrix checksum error with detail 2, counted against the
core's partition, and writes no byte; past the tolerance, CORR corrects the element that the weighted check locates, counted as one correction, and else
the error has detail 1. -/
def DrainForms : Prop :=
  (∀ (g : Nat) (f : Fmt) (td trow ad arow : Nat) (s : State), f.isFloat = true → Enabled s g → inRa s = false → DrainOpen s f td trow ad arow →
    let r := rowAt s ad arow
    let col := Tbl.get .clean (focusCore s).regs.chk (r / 512 - 4096)
    let checks := bit (focusCore s).mtol 8 && !col.unchk
    let out := drained s td trow f fun n => pack f .rne (sumOf s r n)
    let counts := fun (word : Nat) (t : State) => countErr t (s.focus.core / 768) (itsCluster s).part word 1
    let refused := fun detail : Nat => (.next
      (onFocus (counts 5 s) fun x => { x with consumed := x.consumed ++ [(x.slot, 0x30, detail)] }) : Host.Outcome State Fault Refusal)
    (∀ p, (focusCore s).regs.tagMem r 512 = some p →
      exec (.mdrain g f td trow ad arow) s = .next (withResult s 8 (.bytes [(out.1, List.replicate (min ((viewOf (focusCore s) 1 td).cols + 1) 64 * laneBytes f) 0)] (some p) none) 0)) ∧
    ((focusCore s).regs.tagMem r 512 = none → checks = false →
      exec (.mdrain g f td trow ad arow) s = .next (withResult s 8 (.bytes [out] none none) 0)) ∧
    ((focusCore s).regs.tagMem r 512 = none → checks = true → col.taint = true → exec (.mdrain g f td trow ad arow) s = refused 2) ∧
    ((focusCore s).regs.tagMem r 512 = none → checks = true → col.taint = false →
      let x := comparedOf s r col
      let fin := fun y : Nat => (unpack .f32 y).finite
      let finite := fin x.cp = true ∧ fin x.cw = true ∧ (∀ n, n < 64 → fin (vOf s r n) = true) ∧ fin x.dp = true ∧ fin x.dw = true ∧ fin x.eP = true ∧ fin x.eW = true
      let p := unpack .f32 x.eP
      let w := unpack .f32 x.eW
      let m := ((List.range 64).map fun n => (unpack .f32 (vOf s r n)).abs).foldl FVal.maxOf (unpack .f32 x.cp).abs
      let tol := m.scale (-(((focusCore s).mtol % 64 : Nat) : Int))
      let past := tol.lt p.abs = true
      let wide := (tol.scale 6).lt w.abs = true
      let near := fun j : Nat => (tol.scale 6).lt (w.add ((FVal.fin false (j + 1) 0).mul p).neg).abs = false
      let fixes := fun j : Nat => bit (focusCore s).mtol 9 = true ∧ past ∧ locate w p = j ∧ j < 64 ∧ near j
      (¬ finite ∨ ¬ (past ∨ wide) → exec (.mdrain g f td trow ad arow) s = .next (withResult s 8 (.bytes [out] none none) 0)) ∧
      (finite → past ∨ wide → (∀ j, ¬ fixes j) → exec (.mdrain g f td trow ad arow) s = refused 1) ∧
      (∀ j, finite → fixes j → exec (.mdrain g f td trow ad arow) s =
        .next (withResult (counts 4 (onCore s fun c => { c with evnew := (0x0F, 1) :: c.evnew })) 8 (.bytes
          [drained s td trow f fun n => pack f .rne (if n = j then (sumOf s r n).add p.neg else sumOf s r n)] none none) 0)))) ∧
  (∀ (nw np : Bool) (a b : Nat) (e : Int), 0 < b →
    locate (.fin nw a e) (.fin np b e) = (if nw = np then (((2 * a + b) / (2 * b) : Nat) : Int) else -(((2 * a + b) / (2 * b) : Nat) : Int)) - 1) ∧
  ∀ (g : Nat) (f : Fmt) (td trow ad arow : Nat) (s : State), Enabled s g → inRa s = false →
    let t := viewOf (focusCore s) 1 td
    let v := viewOf (focusCore s) 2 ad
    let set := t.cfg = true ∧ v.cfg = true
    let run := exec (.mdrain g f td trow ad arow) s
    (¬ set → run = .next (raised s 0x11 1)) ∧ (set → v.rows < arow → run = .next (raised s 0x11 6)) ∧
      (set → arow ≤ v.rows → f ≠ t.tfmt → run = .next (raised s 0x11 3)) ∧ (set → arow ≤ v.rows → f = t.tfmt → t.rows < trow → run = .next (raised s 0x11 4))

/-- R137, R199: the vector loads. `vld` reads n bytes at T + 3 for T + 8; `wsld` reads the weight store of the core's own partition outside refresh
for T + 12, and stalls inside it; a tagged address writes poison; an unconfigured view faults with detail 1. -/
def VectorLoads : Prop :=
  (∀ (i : Instr) (g : Nat) (f : Fmt) (d a : Nat) (off : Int) (s : State), i = .vld g f d a off ∨ i = .vldWide g f d a off → Enabled s g →
    let v := viewOf (focusCore s) 0 d
    let n := vecBytes f
    let ea := addrOf s a + off * 32
    (v.cfg = true → ∀ p, tagOfS s a = some p → exec i s = .next (withResult s 8 (.bytes [(v.base, List.replicate n 0)] (some p) none) (memBytes n))) ∧
    (v.cfg = true → Reaches s a ea n 32 ownFiles → errorIn s s.focus.core ea.toNat n = none →
      exec i s = .next (withResult s 8 (.loadV v.base ⟨[(ea.toNat, n)], [], none⟩ (s.cycle + 3)) (memBytes n))) ∧
    (v.cfg = false → inRa s = false → exec i s = .next (raised s 0x11 1))) ∧
  ∀ (i : Instr) (g : Nat) (f : Fmt) (d a : Nat) (off : Int) (s : State), i = .wsld g f d a off ∨ i = .wsldWide g f d a off → Enabled s g →
    let v := viewOf (focusCore s) 0 d
    let n := vecBytes f
    let ea := addrOf s a + off * 32
    let die := s.focus.core / 96
    (v.cfg = true → ∀ p, tagOfS s a = some p → exec i s = .next (withResult s 12 (.bytes [(v.base, List.replicate n 0)] (some p) none) (memBytes n))) ∧
    (v.cfg = true → Reaches s a ea n 32 weightOnly → (getDie s die).owner ≠ 0 → (getDie s die).owner = (itsCluster s).part →
      inRefresh s die ea.toNat n = false → errorIn s s.focus.core ea.toNat n = none →
      exec i s = .next (withResult s 12 (.bytes [(v.base, Mem.read (getDie s die).weights ea.toNat n)] none none) (memBytes n))) ∧
    (v.cfg = true → Reaches s a ea n 32 weightOnly → (getDie s die).owner ≠ 0 → (getDie s die).owner = (itsCluster s).part →
      inRefresh s die ea.toNat n = true → ∃ x, exec i s = .next (onFocus s fun y => { y with stall := some x }) ∧ x.wd = false) ∧
    (v.cfg = true → inRa s = false → Reaches s a ea n 32 weightOnly → (getDie s die).owner = 0 ∨ (getDie s die).owner ≠ (itsCluster s).part →
      exec i s = .next (raised s 0x10 6)) ∧
    (v.cfg = false → inRa s = false → exec i s = .next (raised s 0x11 1))

/-- An entry of the kitty is a store into the register space. -/
def storesRegs (e : KEntry) : Bool := match e with | .store _ _ segs _ _ => segs.any fun x => decide (x.1 + x.2.length ≤ 0x380000) | _ => false

/-- A store into the register space (R62, R139, R254): a pending write at T + 3 with the journal entry of n bytes; where the kitty drains, in a second
run-ahead too, or holds such a store, it joins the kitty. -/
def storedAt (s : State) (segs : List (Nat × List Nat)) (tag : Option Poison) (n : Nat) : State :=
  let c := focusCore s
  if !c.kitty.isEmpty && c.ra.all fun r => decide (0 < r.old) || c.kitty.any storesRegs then inKitty s (.store s.cycle s.focus.slot segs tag [])
  else withResult s 3 (.bytes segs tag (some s.cycle)) (memBytes n)

/-- R137, R139: `vst` reads its view at issue and writes at T + 3: the register space, tags included, in program order after a draining kitty (R254);
the scratchpad, where a tagged source is deferred and the kitty holds the store in run-ahead and while it drains. -/
def VectorStores : Prop :=
  ∀ (i : Instr) (g : Nat) (f : Fmt) (v a : Nat) (off : Int) (s : State), i = .vst g f v a off ∨ i = .vstWide g f v a off → Enabled s g →
    let w := viewOf (focusCore s) 0 v
    let n := vecBytes f
    let ea := addrOf s a + off * 32
    let bs := Mem.read (focusCore s).regs.mem w.base n
    let tag := (focusCore s).regs.tagMem w.base n
    w.cfg = true → Reaches s a ea n 32 ownFiles → errorIn s s.focus.core w.base n = none →
      (ea.toNat + n ≤ 0x380000 → exec i s = .next (storedAt s [(ea.toNat, if tag.isSome then List.replicate n 0 else bs)] tag n)) ∧
      (0x1000000 ≤ ea.toNat → tag = none → Calm s → exec i s =
        .next (onCore s fun c => { c with stores := c.stores ++ [⟨s.cycle + 3, s.cycle, s.focus.slot, .bytes ea.toNat bs⟩] })) ∧
      (0x1000000 ≤ ea.toNat → tag = none → ¬ Calm s → exec i s =
        .next (onFocus (onCore s fun c => { c with kitty := c.kitty ++ [.store s.cycle s.focus.slot [(ea.toNat, bs)] none []] }) fun y => { y with kentries := y.kentries + 1 })) ∧
      (0x1000000 ≤ ea.toNat → ∀ p, tag = some p → inRa s = false → exec i s = .next (deferredAt s p))

/-- R138, R133: `tsr` gathers a slice at T + 3 for T + 8 and `tsw` writes one at T + 3, or poison in its whole tile from a tagged source (the
model's choice, log 83); an unconfigured tile faults with detail 1. -/
def TileForms : Prop :=
  ∀ (g : Nat) (f : Fmt) (v t : Nat) (col : Bool) (i : Nat) (s : State), Enabled s g →
    let w := viewOf (focusCore s) 0 v
    let tv := viewOf (focusCore s) 1 t
    (w.cfg = true → tv.cfg = true → SliceFits tv f col i false → (∀ x ∈ (sliceReq tv f col i).src, errorIn s s.focus.core x.1 x.2 = none) →
      exec (.tsr g f v t col i) s = .next (withResult s 8 (.loadV w.base (sliceReq tv f col i) (s.cycle + 3)) (memBytes (vecBytes f)))) ∧
    (w.cfg = true → tv.cfg = true → SliceFits tv f col i true → errorIn s s.focus.core w.base (vecBytes f) = none →
      let segs := slicePieces tv f col i (Mem.read (focusCore s).regs.mem w.base (vecBytes f))
      exec (.tsw g f v t col i) s = .next (match (focusCore s).regs.tagMem w.base (vecBytes f) with
        | none => storedAt s segs none (segs.map fun x => x.2.length).sum
        | some p => storedAt s [(tv.base, List.replicate tv.extent 0)] (some p) tv.extent)) ∧
    (w.cfg = true → tv.cfg = false → inRa s = false → exec (.tsr g f v t col i) s = .next (raised s 0x11 1)) ∧
    (tv.cfg = false → inRa s = false → exec (.tsw g f v t col i) s = .next (raised s 0x11 1))

/-- Lane j of the bytes of a row; the element of its own bytes, of three for LN6 (R91). -/
def laneOf (f : Fmt) (j : Nat) (bs : List Nat) : Nat :=
  if f = .ln6 then leNat ((bs.drop (3 * (j / 4))).take 3) / 64 ^ (j % 4) % 64 else leNat ((bs.drop (laneBytes f * j)).take (laneBytes f))

/-- R138: lane j of what `tsr` gathers is element (i, j) of a row, or element (128 g + j, c) of a column, and past the tile the zero of the format. -/
def TileGather : Prop :=
  ∀ (s : State) (k : Nat) (t : View) (f : Fmt) (col : Bool) (i before j : Nat), t.tfmt = f → t.cols < 128 → (f = .ln6 → (t.cols + 1) % 4 = 0) →
    SliceFits t f col i false → j < 128 → t.base + 32 * t.pitch * t.rows + rowBytes f (t.cols + 1) ≤ 0x380000 →
    let empty := if f = .ln6 then 0x10 else 0
    let row := 128 * (i / 128) + j
    let c := i % 128
    (toLanes f 128 (gather s k before (sliceReq t f col i))).getD j 0 =
      if col then (if row ≤ t.rows then laneOf f (if f = .ln6 then c % 4 else 0) (ownRead s k (tileElement t row c) (if f = .ln6 then 3 else laneBytes f) before) else empty)
      else if j ≤ t.cols then laneOf f j (ownRead s k (tileElement t i 0) (rowBytes f (t.cols + 1)) before) else empty

/-- R188, R192, R194: `qbind` binds a stream register to a unit with the pattern of its descriptor, faulting with detail 1 or 5; `qbind q, none`
unbinds; `qadv` discards held entries, then skips positions; an unbound register faults with detail 2. -/
def StreamForms : Prop :=
  (∀ (g q a : Nat) (write : Bool) (u : Nat) (s : State), Enabled s g → Calm s →
    let ea := addrOf s a
    Reaches s a ea 64 64 descFiles → errorIn s s.focus.core ea.toNat 64 = none →
    (∀ x, descTag s ea 64 = some x → exec (.qbind g q a write u) s = .next (deferredAt s x)) ∧ (descTag s ea 64 = none →
    let ws := descriptorAt s ea 64
    let w := fun i => ws.getD i 0
    let others := servedBy (focusCore s) u q
    let nd := w 1 / 2 ^ 16 % 8
    let p : Pattern := { base := w 0, len := 32 * (w 1 % 16 + 1), cnt := (List.range nd).map fun d => w (2 + 2 * d) + 1,
                         stride := (List.range nd).map fun d => signed 32 (w (3 + 2 * d)) }
    let fits := PatternOk w ∧ (scratchOnly (w 0) 1 = true ∨ write = false ∧ weightOnly (w 0) 1 = true)
    let served := others.length < 4 ∧ ∀ st ∈ others, st.write = write
    (fits → served → unwritten (focusCore s) q = false →
      exec (.qbind g q a write u) s = .next (tracedAt (onCore s fun c => { c with streams := Tbl.set c.streams q (some (boundTo u write p)) }) 15
        (q + ea.toNat * 2 ^ 32))) ∧
    (¬ fits → exec (.qbind g q a write u) s = .next (raised s 0x12 1)) ∧
    (fits → ¬ served → exec (.qbind g q a write u) s = .next (raised s 0x12 5)) ∧
    (fits → served → unwritten (focusCore s) q = true → ∃ x, exec (.qbind g q a write u) s = .next (onFocus s fun f => { f with stall := some x })))) ∧
  (∀ (g q : Nat) (write : Bool) (u : Nat) (s : State), Enabled s g → Calm s → unwritten (focusCore s) q = false →
    exec (.qbindNone g q write u) s = .next (tracedAt (onCore s fun c => { c with streams := Tbl.set c.streams q none }) 15 q)) ∧
  (∀ (g q n : Nat) (s : State), Enabled s g → inRa s = false → streamOf (focusCore s) q = none → exec (.qadv g q n) s = .next (raised s 0x12 2)) ∧
  ∀ (g q n : Nat) (st : Stream) (s : State), Enabled s g → Calm s → streamOf (focusCore s) q = some st →
    ∃ st', exec (.qadv g q n) s = .next (onCore s fun c => { c with streams := Tbl.set c.streams q (some st') }) ∧
      st'.ops = st.ops + n ∧ st'.pat = st.pat ∧ st'.unit = st.unit ∧ st'.write = st.write ∧
      (let held := if st.write then 0 else min n (st.slots.filter SEntry.live).length
       let skipped := min (n - held) (st.pat.total - st.pos)
       st'.pos = st.pos + skipped ∧ st'.moves = st.moves + skipped ∧
       (st'.slots.filter SEntry.live).length = (st.slots.filter SEntry.live).length - held)

/-- R193, R147: `vmov q, v` pushes the 512 bytes of the view, filled at issue; a tagged view takes its deferred fault; an unconfigured one faults. -/
def StreamPush : Prop :=
  ∀ (g v q : Nat) (s : State), Enabled s g → DestOpen s ⟨true, q⟩ →
    let w := viewOf (focusCore s) 0 v
    (w.cfg = false → exec (.vmovPush g v q) s = .next (raised s 0x11 1)) ∧
    (w.cfg = true → errorIn s s.focus.core w.base 512 = none → ∀ p, (focusCore s).regs.tagMem w.base 512 = some p →
      exec (.vmovPush g v q) s = .next (deferredAt s p)) ∧
    (w.cfg = true → errorIn s s.focus.core w.base 512 = none → (focusCore s).regs.tagMem w.base 512 = none →
      exec (.vmovPush g v q) s = .next (onCore (doReserve q s) fun c => { c with streams := Tbl.set c.streams q ((streamOf c q).map fun st =>
        { st with slots := st.slots.map fun e => if e.st = .reserved (focusCore s).nextRes then
            { e with bs := Mem.read (focusCore s).regs.mem w.base 512, st := .filled s.cycle } else e }) }))

/-- R200, R203, R236, R253: `cpy`, `cpyw` and `gemv` without a fault hand a request over with the core's next tag, which `cpy` and `gemv` write, and
the request count rises; in run-ahead the journal keeps tag and count in 16 bytes. -/
def Requests : Prop :=
  (∀ (g a d : Nat) (s : State), Enabled s g → QueueOpen s → let ea := addrOf s a
    Reaches s a ea 128 128 descFiles → errorIn s s.focus.core ea.toNat 128 = none → descTag s ea 128 = none →
    copyFaults (itsCluster s) (descriptorAt s ea 128) = [] → StoreOpen s (descriptorAt s ea 128) →
    exec (.cpy g a d) s = .next (tracedAt (counted (withResult
      (handed s (requestOf (itsCluster s) s.focus.core s.cycle (tagNow s) none (descriptorAt s ea 128)) 128) 1
      (.sreg d (BitVec.ofNat 64 (tagNow s)) none) 16)) 10 (tagNow s))) ∧
  (∀ (g a b c : Nat) (s : State), Enabled s g → QueueOpen s → let ea := addrOf s a
    Reaches s a ea 128 128 descFiles → Reaches s b (addrOf s b) 8 8 scratchOnly → tagOfS s c = none → errorIn s s.focus.core ea.toNat 128 = none →
    descTag s ea 128 = none → copyFaults (itsCluster s) (descriptorAt s ea 128) = [] → StoreOpen s (descriptorAt s ea 128) →
    exec (.cpyw g a b c) s = .next (tracedAt (counted
      (handed s (requestOf (itsCluster s) s.focus.core s.cycle (tagNow s) (some ((addrOf s b).toNat, (srcS s c).toNat % 2 ^ 32)) (descriptorAt s ea 128)) 128))
      10 (tagNow s))) ∧
  ∀ (g a d : Nat) (s : State), Enabled s g → QueueOpen s → let ea := addrOf s a
    Reaches s a ea 64 64 descFiles → errorIn s s.focus.core ea.toNat 64 = none → descTag s ea 64 = none → gemvFaults (itsCluster s) (descriptorAt s ea 64) = [] →
    exec (.gemv g a d) s = .next (tracedAt (counted (withResult
      (handed s (gemvRequest s.focus.core s.cycle (tagNow s) (descriptorAt s ea 64)) 64) 1
      (.sreg d (BitVec.ofNat 64 (tagNow s)) none) 16)) 10 (tagNow s))

/-- R211, R213, R214, R219: `pub`, `acq` and `rel` on a binding: the binding faults 2, 3 and 4, and what begins. -/
def BindingForms : Prop :=
  (∀ (g b : Nat) (s : State), Enabled s g → inRa s = false → bindingAt s b = none →
    exec (.pub g b) s = .next (raised s 0x15 2) ∧ exec (.rel g b) s = .next (raised s 0x15 2) ∧
    (draining s = false → exec (.acq g b) s = .next (raised s 0x15 2))) ∧
  ∀ (g b : Nat) (x : Binding) (s : State), Enabled s g → bindingAt s b = some x →
    (x.pair = true → Calm s → exec (.pub g b) s = .next (asksWait (tracedAt { (onCluster s fun c =>
      { c with pubs := c.pubs ++ [⟨b, s.cycle + 3, s.nextId, s.focus.core, none, false⟩] }) with
        agenda := s.agenda ++ [⟨s.focus.core / 8, .publishSwap (s.focus.core / 8) b⟩] } 11 b) (.pub b))) ∧
    (x.pair = true → ¬ Calm s → exec (.pub g b) s = .next (tracedAt (inKitty s (.pub b)) 11 b)) ∧
    (x.pair = false → inRa s = false → exec (.pub g b) s = .next (raised s 0x15 2)) ∧
    (Calm s → x.sync ≠ 0 → b ∉ (focusCore s).heldBind →
      exec (.acq g b) s = .next (if x.excl then asksWait (tracedAt s 11 (b + 256)) (.acq b (some (s.cycle + 3)))
        else onCluster (tracedAt s 11 (b + 256)) fun c => { c with cache := c.cache.filter fun y => y.b != b })) ∧
    (Calm s → x.sync ≠ 0 → b ∈ (focusCore s).heldBind → exec (.acq g b) s = .next (raised s 0x15 3)) ∧
    (x.sync ≠ 0 → (x.excl = true → holds (focusCore s) b = true) → Calm s → exec (.rel g b) s = .next (onCore (tracedAt s 11 (b + 512)) fun c =>
      { c with heldBind := c.heldBind.filter (· != b), rels := c.rels ++ [⟨b, s.cycle, none⟩] })) ∧
    (x.sync ≠ 0 → (x.excl = true → holds (focusCore s) b = true) → ¬ Calm s →
      exec (.rel g b) s = .next (inKitty (tracedAt s 11 (b + 512)) (.rel b))) ∧
    (x.sync ≠ 0 → x.excl = true → holds (focusCore s) b = false → inRa s = false → exec (.rel g b) s = .next (raised s 0x15 4))

/-- What the E slot asks for, and the result that it posts, when a group of one has resolved with the bid's own value (R260). -/
def aloneNext (i : Instr) (s t : State) : State :=
  let result := fun (x : Nat) (v : DWord) => withResult t 1 (.sreg x v none) (scalarBytes x)
  match i with
  | .abr _ _ p _ disp | .abrWide _ _ p _ disp =>
    if (focusCore s).regs.getP p then asksE t (.arm ((s.focus.addr + 4 * disp) % 2 ^ 32).toNat) else t
  | .agreeAnd _ _ x | .agreeOr _ _ x => result x (BitVec.ofInt 64 (low1 s x))
  | .agreeMin _ _ x | .agreeMax _ _ x | .agreeSum _ _ x => result x (BitVec.ofInt 64 (low16 s x))
  | _ => t

/-- The first place of a member that is empty, or else finished, of npm (R238). -/
def PlaceFree (c : Channel) (member npm n : Nat) : Prop :=
  let empty := fun k : Nat => ∀ p ∈ c.places, p.member = member → p.place ≠ k
  let done := fun k : Nat => ∃ p ∈ c.places, p.member = member ∧ p.place = k ∧ p.finished = true
  n < npm ∧ if ∃ k, k < npm ∧ empty k then empty n ∧ ∀ k, k < n → ¬ empty k else done n ∧ ∀ k, k < n → ¬ done k

/-- R238, R247, R248, R257, R260: an agreement instruction on a declared channel that has not failed. Of a core that holds its place, in a group with other
cores, it sends its bid, raises SEQ, sets OUTST and begins a run-ahead on the predicted arm; of one without a place it takes the first that is empty or
finished and sends a joining bid, without a number; with every place held it faults with detail 2. A group of one resolves at issue, with no run-ahead.
Undeclared, it faults with detail 1, on a failed channel with detail 4, and then a tagged bid is deferred. -/
def AgreementForms : Prop :=
  ∀ (i : Instr) (p : BidSpec) (s : State), bidParts i = some p → Enabled s p.g → inRa s = false →
    let k := s.focus.core
    let cx := (itsCluster s).ctx
    let job := cx.job
    (getJob s job = none → exec i s = .next (raised s 0x16 1)) ∧
    ∀ j, getJob s job = some j →
      (declOf j p.ch = none → exec i s = .next (raised s 0x16 1)) ∧
      ∀ d, declOf j p.ch = some d →
        let x := chanOf (focusCore s) p.ch
        let c := channelOf j p.ch
        let sends := fun (t : State) (joining : Bool) =>
          ∃ e due, t.focus.ectl = e ∧ predicts i s e ∧ s.cycle < due ∧
            t.flights = s.flights ++ [⟨s.nextId, due, false, .bid job p.ch k cx.uid joining x.seq p.sig (p.v s) (timeHere s)⟩] ∧
            t.clusters = s.clusters ∧ t.dies = s.dies ∧ t.mods = (countFlits (k / 768) (rootModule j) true 1 s).mods
        (x.failed = true ∨ c.failed = true → exec i s = .next (raised s 0x16 4)) ∧
        (x.failed = false → c.failed = false → ∀ y, p.tag s = some y → exec i s = .next (deferredAt s y)) ∧
        (x.failed = false → c.failed = false → p.tag s = none →
          (x.enr = true → c.gather = true ∨ x.seq ≠ c.n ∨ emptyPlaces j d.npm c ≠ [] ∨ (∃ y ∈ expectedIn j c x.seq, y.core ≠ k ∨ y.uid ≠ cx.uid) →
            ∃ t, exec i s = .next t ∧ sends t false ∧ t.jobs = s.jobs ∧ chanOf (getCore t k) p.ch = { x with outst := true, seq := (x.seq + 1) % 2 ^ 32 }) ∧
          (x.enr = false → (∀ n, ¬ PlaceFree c cx.member d.npm n) → exec i s = .next (raised s 0x16 2)) ∧
          (∀ n, x.enr = false → PlaceFree c cx.member d.npm n → c.gather = true → s.jobs = [j] →
            ∃ t, exec i s = .next t ∧ sends t true ∧ chanOf (getCore t k) p.ch = { x with enr := true, place := n, outst := true } ∧
              ∃ j', t.jobs = [j'] ∧ channelOf j' p.ch = takePlace cx.member n k cx.uid c) ∧
          (x.enr = true → x.seq = c.n → c.gather = false → cx.member ∉ j.dead → (∀ y ∈ expectedIn j c c.n, y.core = k ∧ y.uid = cx.uid ∧ y.finished = false) →
            emptyPlaces j d.npm c = [] → s.jobs = [j] →
            ∃ t record j', exec i s = .next (aloneNext i s t) ∧ t.flights = s.flights ∧ t.clusters = s.clusters ∧ t.mods = s.mods ∧ t.focus = s.focus ∧
              t.cycle = s.cycle ∧ recordIs record (p.v s % 2 ^ 16).toNat 0 1 c.n 0 ∧
              (∃ y, getCore t k = { focusCore s with chans := Tbl.set (focusCore s).chans p.ch { x with call := record, seq := (c.n + 1) % 2 ^ 32 }, evnew := y }) ∧
              t.jobs = [j'] ∧ (channelOf j' p.ch).n = (c.n + 1) % 2 ^ 32 ∧ (channelOf j' p.ch).history = ((c.n, record) :: c.history).take 64))

/-- R249, R250: `acall` gives the CALL word of a channel for T + 1; `xchk` takes the deferred fault of a tagged register or view, and does nothing
on a clean one. -/
def CheckForms : Prop :=
  (∀ (g d ch : Nat) (j : Job) (s : State), Enabled s g → inRa s = false → getJob s (itsCluster s).ctx.job = some j →
    (declOf j ch ≠ none → exec (.acall g d ch) s =
      .next (withResult s 1 (.sreg d (BitVec.ofNat 64 (chanOf (focusCore s) ch).call) none) (scalarBytes d))) ∧
    (declOf j ch = none → exec (.acall g d ch) s = .next (raised s 0x16 1))) ∧
  (∀ (g n : Nat) (s : State), Enabled s g → inRa s = false →
    (tagOfS s n = none → exec (.xchk g 0 n) s = .next s) ∧
    ∀ p, tagOfS s n = some p → p.cause ≠ 0x30 → p.cause ≠ 0x31 → exec (.xchk g 0 n) s = .next (raised s p.cause p.addr)) ∧
  ∀ (g cls n : Nat) (s : State), 1 ≤ cls → Enabled s g → inRa s = false →
    let v := viewOf (focusCore s) (cls - 1) n
    (v.cfg = false → exec (.xchk g cls n) s = .next (raised s 0x11 1)) ∧
    (v.cfg = true → (focusCore s).regs.tagMem v.base v.extent = none → exec (.xchk g cls n) s = .next s) ∧
    (v.cfg = true → ∀ p, (focusCore s).regs.tagMem v.base v.extent = some p → p.cause ≠ 0x30 → p.cause ≠ 0x31 →
      exec (.xchk g cls n) s = .next (raised s p.cause p.addr))

/-- R268, R269, R278: `tnow` gives module time for T + 1; `waitt` waits for its target, which a reached one has at once; `waittk` waits for a firing of
an enabled generator of the core's partition and job later than the core's copy of module time, which a firing already delivered may be, and faults
with detail 2 otherwise. -/
def TimeForms : Prop :=
  (∀ (g d : Nat) (s : State), Enabled s g →
    exec (.tnow g d) s = .next (withResult s 1 (.sreg d (BitVec.ofNat 64 (timeHere s)) none) (scalarBytes d))) ∧
  (∀ (g a : Nat) (s : State), Enabled s g → inRa s = false → tagOfS s a = none →
    (timeHere s < (srcS s a).toNat → exec (.waitt g a) s = .next (asksWait s (.waitt (srcS s a).toNat none))) ∧
    ((srcS s a).toNat ≤ timeHere s → ∃ d, d ≤ 37 ∧
      exec (.waitt g a) s = .next (waitsFrom s 1 (.waitt (srcS s a).toNat (some (s.cycle + 1 + d)))))) ∧
  ∀ (g tg : Nat) (s : State), Enabled s g → inRa s = false →
    let t := Tbl.get .reset (getMod s (s.focus.core / 768)).ticks tg
    (t.en = true ∧ t.part = (itsCluster s).part ∧ t.job = (itsCluster s).ctx.job →
      ((∀ f, t.last = some f → f ≤ timeHere s) → exec (.waittk g tg) s = .next (asksWait s (.waittk tg (timeHere s) none))) ∧
      ((∃ f, t.last = some f ∧ timeHere s < f) → ∃ d, d ≤ 37 ∧
        exec (.waittk g tg) s = .next (waitsFrom s 1 (.waittk tg (timeHere s) (some (s.cycle + 1 + d)))))) ∧
    (¬ (t.en = true ∧ t.part = (itsCluster s).part ∧ t.job = (itsCluster s).ctx.job) → exec (.waittk g tg) s = .next (raised s 0x17 2))

/-- R288, R289: `tokget` samples a slot of a window within 200 cycles and waits for its result; `tokrel` acts at T + 8; the time faults 1, 3, 4, 5. -/
def TokenForms : Prop :=
  (∀ (g d w a : Nat) (x : Window) (s : State), Enabled s g → inRa s = false → tagOfS s a = none → windowOpen s w x →
    let n := (srcS s a).toInt
    (n < x.h0 → exec (.tokget g d w a) s = .next (raised s 0x17 3)) ∧
    (x.h0 ≤ n → n < x.h - x.depth → exec (.tokget g d w a) s = .next (raised s 0x17 4)) ∧
    (x.h0 ≤ n → x.h - x.depth ≤ n → ∃ q l, q ≤ l ∧ 1 ≤ l ∧ l ≤ 200 ∧
      exec (.tokget g d w a) s = .next (waitsFrom s 2 (.tokget w d n.toNat (x.word n) (s.cycle + q) (s.cycle + l) (s.cycle + 200) s.focus.addr none [] []))) ∧
    (x.h + x.nopen - 1 < n → exec (.tokrel g w a) s = .next (raised s 0x17 5)) ∧
    (n ≤ x.h + x.nopen - 1 → exec (.tokrel g w a) s = .next (withResult s 8 (.rel w n) 0))) ∧
  ∀ (g d w a : Nat) (s : State), Enabled s g → inRa s = false → tagOfS s a = none → (∀ x, ¬ windowOpen s w x) →
    exec (.tokget g d w a) s = .next (raised s 0x17 1) ∧ exec (.tokrel g w a) s = .next (raised s 0x17 1)

/-- R298, R299, R307: `cvget` gives the next block of the rank's share for T + 4 and advances the walker, or END; `cvsample` adds its sample or faults
with detail 1 or 2. -/
def CoverageForms : Prop :=
  (∀ (g d : Nat) (cv : CvDesc) (s : State), Enabled s g → (itsCluster s).cv = some cv →
    let cx := (itsCluster s).ctx
    (∀ c b, shareEntry cv cx.code cx.nranks (s.focus.core % 8) (focusCore s).regs.walker = some (c, b) →
      exec (.cvget g d) s = .next (onCore (withResult s 4
        (.sreg d (BitVec.ofNat 64 (c.code + b % (cv.gx + 1) * 2 ^ 8 + b / (cv.gx + 1) * 2 ^ 24)) none) 16)
        fun y => { y with regs := { y.regs with walker := y.regs.walker + 1 } })) ∧
    (shareEntry cv cx.code cx.nranks (s.focus.core % 8) (focusCore s).regs.walker = none →
      exec (.cvget g d) s = .next (withResult s 4 (.sreg d 3 none) 16))) ∧
  (∀ (g d : Nat) (s : State), Enabled s g → inRa s = false → (itsCluster s).cv = none → exec (.cvget g d) s = .next (raised s 0x18 1)) ∧
  ∀ (g a : Nat) (s : State), Enabled s g → inRa s = false → tagOfS s a = none →
    let v := unpack .f32 ((srcS s a).toNat % 2 ^ 32)
    let cnt := (srcS s a).toNat / 2 ^ 32
    let good := v.finite = true ∧ v.lt (.fin false 0 0) = false ∧ cnt ≠ 0
    ((itsCluster s).ctx.cvctl = none → exec (.cvsample g a) s = .next (raised s 0x18 1)) ∧
    ∀ n, (itsCluster s).ctx.cvctl = some n →
      (¬ good → exec (.cvsample g a) s = .next (raised s 0x18 2)) ∧
      (good → exec (.cvsample g a) s = .next (addSample (s.focus.core / 768) (itsCluster s).ctx.uid n (toQ64 v) cnt s))

/-- R362: `trap` asks for a trap of cause 0x40 with its code, `brkp` of cause 0x41 or for the halt wave where it is armed, and `rte` for the return
from a handler at its depth; outside handler mode `rte` is a control fault with detail 3, and at another depth a fatal trap of cause 0x60. -/
def TrapForms : Prop :=
  ∀ (g : Nat) (s : State), Enabled s g → inRa s = false →
    (∀ code, exec (.trap g code) s = .next (asksE s (.trap 0x40 code))) ∧
    (∀ code, exec (.brkp g code) s = .next (asksE s
      (if (jobSlot s (s.focus.core / 768) (itsCluster s).ctx.job).arm then .wave code else .trap 0x41 code))) ∧
    ((focusCore s).handler = false → exec (.rte g) s = .next (raised s 0x1C 3)) ∧
    ((focusCore s).handler = true → exec (.rte g) s = .next (asksE s
      (if (focusCore s).loops.length = (focusCore s).trapDepth then .rte else .trap 0x60 0)))

/-- R364: `ctopen` pushes its handler and the loop depth from T + 1 on, and `ctclose` pops; control faults 1, 2 and 4. -/
def RegionForms : Prop :=
  ∀ (g : Nat) (s : State), Enabled s g → inRa s = false → let rs := (focusCore s).regions
    (∀ a, tagOfS s a = none → let v := (srcS s a).toNat
      (rs.length = 7 → exec (.ctopen g a) s = .next (raised s 0x1C 1)) ∧
      (rs.length ≠ 7 → v % 4 ≠ 0 ∨ ¬ (scratchOnly v 4 = true ∨ weightOnly v 4 = true) → exec (.ctopen g a) s = .next (raised s 0x1C 4)) ∧
      (rs.length ≠ 7 → v % 4 = 0 → scratchOnly v 4 = true ∨ weightOnly v 4 = true →
        exec (.ctopen g a) s = .next (withResult s 1 (.regions ((v, (focusCore s).loops.length) :: rs)) 0))) ∧
    (rs = [] → exec (.ctclose g) s = .next (raised s 0x1C 2)) ∧
    (∀ r rest, rs = r :: rest → exec (.ctclose g) s = .next (withResult s 1 (.regions rest) 0))

/-- R343, R30: `live` in a loop-bottom bundle of a core that holds a pre-emption request makes it a landing point; in any other bundle it does nothing
beyond its address check. -/
def LiveForm : Prop :=
  ∀ (g a : Nat) (s : State), Enabled s g → inRa s = false → Reaches s a (addrOf s a) 64 64 descFiles →
    let held := match s.focus.land with | some b => b | none => (itsCluster s).preempt
    (s.focus.loopBottom = true ∧ held = true → exec (.live g a) s = .next (asksE s (.landing (addrOf s a).toNat))) ∧
    (¬ (s.focus.loopBottom = true ∧ held = true) → exec (.live g a) s = .next s)

/-- R353: YIELD makes the task take a pre-emption request where a READY launch of its partition at no lower priority waits; SUBMIT appends the packet to a queue of
the partition, or stalls while its 8 device-side entries are full, with sys faults 1 to 3; NOTIFY tells the host. -/
def SysForms : Prop :=
  ∀ (g a : Nat) (s : State), Enabled s g → Calm s →
    let m := s.focus.core / 768
    let cl := itsCluster s
    let md := getMod s m
    (let own := match md.launches.find? fun l => l.uid == cl.ctx.uid with | some l => l.pri | none => 3
     let waits := ∃ l ∈ md.launches, l.state = .ready ∧ (Tbl.get .reset md.queues l.queue).part = cl.part ∧ l.pri ≤ own
     (¬ waits → exec (.sysYield g a) s = .next s) ∧
     (waits → cl.task = .running → cl.preempt = false → cl.holdoff ≤ timeOf s m →
       exec (.sysYield g a) s = .next (onCluster s fun x => { x with preempt := true, task := .landing }))) ∧
    (tagOfS s a = none →
      exec (.sysNotify g a) s = .next { s with hostMsgs := s.hostMsgs ++ [.notify m cl.part ((srcS s a).toNat % 2 ^ 32)] }) ∧
    (tagOfS s a = none → let v := (srcS s a).toNat
      let ea := v % 2 ^ 32
      let q := v / 2 ^ 32 % 64
      let ws := wordsOf 16 (ownRead s s.focus.core ea 64 s.cycle)
      v < 2 ^ 38 → ea % 64 = 0 → scratchOnly ea 64 = true → touchesAlt cl ea 64 = false → (Tbl.get .reset md.queues q).part = cl.part →
      errorIn s s.focus.core ea 64 = none →
      (8 ≤ devicePackets (Tbl.get .reset md.queues q) → ∃ x, exec (.sysSubmit g a) s = .next (onFocus s fun f => { f with stall := some x }) ∧ x.wd = false) ∧
      (devicePackets (Tbl.get .reset md.queues q) < 8 → ws.getD 4 0 % 65536 ≠ cl.ctx.job → exec (.sysSubmit g a) s = .next (raised s 0x1B 3)) ∧
      (devicePackets (Tbl.get .reset md.queues q) < 8 → ws.getD 4 0 % 65536 = cl.ctx.job →
        let q0 := Tbl.get .reset md.queues q
        exec (.sysSubmit g a) s = .next (setMod s m { md with queues := Tbl.set md.queues q { q0 with pkts := q0.pkts ++ [⟨ws, true, false⟩] } })))

/-- R279, R283: WINOPEN of a free window number on a cluster of the job's partition, with a declaration inside R280 and sink pages that translate, opens
it: no slot of h0 .. h0 + N − 1 has closed, h0 is the least such slot, all enter free, and the status block reads its reset values; WINCLOSE shuts one. -/
def WindowEvents : Prop :=
  (∀ (m caller job c : Nat) (ws : List Nat) (s : State), Serving s m → jobOn s m job = true → Allowed caller (partOfJob s m job) →
    (getCluster s (96 * m + c)).part = partOfJob s m job →
    let n := ws.getD 0 0 % 64
    let d := windowOf job c ws
    (windowBad ws = true ∨ (windowAt s m n).isSome = true → ∃ t, exec (.winOpen m caller job c ws) s = .next t ∧ Refused m s t) ∧
    (windowBad ws = false → windowAt s m n = none →
      ∀ maps, sinkMaps s m job (partOfJob s m job) ((d.depth * (d.z + 32) + 65535) / 65536) d.sinkva [] = some maps →
      (∀ g ∈ sinkFrames maps, (frameAt s g.1 g.2).pin < 65535) →
      ∃ t w, exec (.winOpen m caller job c ws) s = .next t ∧ windowAt t m n = some w ∧ w.maps = maps ∧ w.h = w.h0 ∧ 0 ≤ w.h0 ∧
        w.period = ws.getD 4 0 ∧ w.guard = ws.getD 5 0 ∧ w.nopen = ws.getD 0 0 / 2 ^ 16 % 32 + 1 ∧
        (nowOf s m : Int) < closesAt w w.h0 ∧ (0 < w.h0 → closesAt w (w.h0 - 1) ≤ nowOf s m) ∧
        w.slots = (List.range w.nopen).map (fun (i : Nat) => ⟨w.h0 + i, true, .open_, none⟩) ∧
        t.hostMsgs = s.hostMsgs ++ [.answer m 0 []])) ∧
  ∀ (m caller n : Nat) (s : State), Serving s m →
    (windowAt s m n = none → ∃ t, exec (.winClose m caller n) s = .next t ∧ Refused m s t) ∧
    (∀ w, windowAt s m n = some w → Allowed caller (partOfJob s m w.job) →
      ∃ t, exec (.winClose m caller n) s = .next t ∧ windowAt t m n = none ∧ t.hostMsgs = s.hostMsgs ++ [.answer m 0 []] ∧
        t.cores = s.cores ∧ t.clusters = s.clusters ∧
        ∀ m' g, (frameAt t m' g).pin = (frameAt s m' g).pin - if (m', g) ∈ sinkFrames w.maps then 1 else 0)

/-- R282, R284: a token that names an open window of the job on its own module, with the window's payload size, meets the first row of R284 that
applies; R285: at κ(h) the head closes PRESENT, SUBSTITUTED or MISSING and the status block falls due through engine WIN mod 4. -/
def TokenEvents : Prop :=
  (∀ (m port : Nat) (t : Token) (j : Job) (w : Window) (s : State), getJob s t.job = some j → memberOf j m = t.dmember → ¬ Halted s m t.job →
    windowAt s m t.win = some w → w.job = t.job → t.zlen = w.z → t.rsv = 0 → t.payload.length = w.z →
    let bs := t.payload.map BitVec.toNat
    let stamp : Nat := t.sec * 10 ^ 9 + t.nsec
    let bad := 10 ^ 9 ≤ t.nsec ∨ 2 ^ 64 ≤ stamp
    let x : Int := ((stamp : Int) - w.origin) / w.period
    let dropped := fun w' : Window => onMod s m fun d => { d with windows := Tbl.set d.windows t.win (some w'), evcnt := countIn d.evsel d.evcnt 0x0A 1 }
    let c32 := fun n : Nat => (n + 1) % 2 ^ 32
    let runs := fun s' : State => exec (.tokenArrival m port t) s = .next s'
    (bad → runs (dropped { w with badst := c32 w.badst })) ∧
    (¬ bad → w.h + w.nopen - 1 < x → runs (dropped { w with early := c32 w.early })) ∧
    (¬ bad → w.h ≤ x → x ≤ w.h + w.nopen - 1 → ∀ y, w.slot x = some y →
      (y.tok.isSome = true → runs (dropped { w with dup := c32 w.dup })) ∧
      (y.tok = none → ∃ s' w', runs s' ∧ windowAt s' m t.win = some w' ∧ w'.slot x = some { y with tok := some (stamp, nowOf s m, bs) } ∧
        w'.ovr = (if y.cached then w.ovr else c32 w.ovr) ∧ w'.h = w.h ∧ w'.early = w.early ∧ w'.dup = w.dup ∧ w'.late = w.late ∧ w'.stale = w.stale)) ∧
    (¬ bad → x < w.h → x < max w.h0 (w.h - w.depth) → 0 < w.nopen → runs (dropped { w with stale := c32 w.stale })) ∧
    (¬ bad → x < w.h → max w.h0 (w.h - w.depth) ≤ x → 0 < w.nopen → ∀ y, w.slot x = some y →
      (y.status = .substituted ∨ y.status = .missing → ∃ s' w', runs s' ∧ windowAt s' m t.win = some w' ∧ w'.late = c32 w.late ∧
        w'.slot x = some { y with status := .late } ∧ w'.h = w.h ∧ s'.clusters = s.clusters) ∧
      (y.status = .present ∨ y.status = .late → runs (dropped { w with dup := c32 w.dup })))) ∧
  ∀ (m n : Nat) (w : Window) (x : WSlot) (s : State), windowAt s m n = some w → closesAt w w.h ≤ nowOf s m → w.slot w.h = some x → x.status = .open_ →
    0 < w.depth → 0 < w.nopen → w.pol < 3 →
    let c := 96 * m + w.cluster
    let st : SlotStatus := if x.tok.isSome then .present else if w.pol = 2 then .missing else .substituted
    let c32 := fun (n : Nat) (b : Bool) => if b then (n + 1) % 2 ^ 32 else n
    ∃ t w' x', exec (.slotClose m n) s = .next t ∧ windowAt t m n = some w' ∧ w'.h = w.h + 1 ∧ w'.slot w.h = some x' ∧ x'.status = st ∧
      (st = .present → x'.tok = x.tok) ∧ (w.pol = 1 → st = .substituted → x'.tok = some (0, (closesAt w w.h).toNat, List.replicate w.z 0)) ∧
      (st = .missing → x'.tok = none) ∧
      w'.pres = c32 w.pres (st == .present) ∧ w'.subst = c32 w.subst (st == .substituted) ∧ w'.miss = c32 w.miss (st == .missing) ∧
      (getCluster t c).due.getLast? = some ⟨n % 4, 2, n, w.sbase, w'.block, false, .nothing⟩ ∧ t.cores = s.cores ∧ t.jobs = s.jobs

/-- R357, R361, R362: taking a trap and returning from one. Outside handler mode with a vector set it is `TrapTaken`; in handler mode it is a fatal trap of
cause 0x60 whose detail is the cause met, with no vector one of cause 0x61; `rte` goes back to the trapped bundle under its mask once every result of the
handler has landed, and the reissue brings the held results back with their delays. -/
def TrapEntry : Prop :=
  (∀ (s : State) (k A T mask cause detail : Nat), TrapOpen s k →
    TrapTaken s (takeTrap k A T mask cause detail s) k A T mask cause detail ∧ (takeTrap k A T mask cause detail s).clusters = s.clusters) ∧
  (∀ (s : State) (k A T mask cause detail : Nat), (getCore s k).handler = true ∨ (getCore s k).tvec = 0 →
    let t := takeTrap k A T mask cause detail s
    let d := getCore t k
    d.seq = .fatal ∧ d.trapcause = (if (getCore s k).handler then 0x60 else 0x61) ∧ d.trapdetail = cause ∧ d.trapaddr = A % 2 ^ 32 ∧ d.trapmask = mask ∧
      d.regs = (getCore s k).regs) ∧
  (∀ (r old : Regs) (v : Nat) (ps : List Pend), (fixRows r old v ps).map (fun p => (p.vis, p.seq, p.slot, p.ra)) = ps.map (fun p => (p.vis, p.seq, p.slot, p.ra)) ∧
    ((∀ p ∈ ps, (∀ row y yP yW bad tag, p.eff ≠ .mfeed row y yP yW bad tag) ∧ ∀ row, p.eff ≠ .mzero row) → fixRows r old v ps = ps) ∧
    ∀ p row y yP yW bad tag, ps = [p] → p.eff = .mfeed row y yP yW bad tag → p.vis ≠ v →
      let x := r.land r p.eff
      fixRows r old v ps = [{ p with eff := .accRow row (Mem.read x.mem row 512) (Tbl.get .clean x.chk (row / 512 - 4096)) (x.tagMem row 512) }]) ∧
  (∀ (c : Core) (T : Nat), let d := c.returnTrap T
    d.pc = c.trapaddr ∧ d.replay = some c.trapmask ∧ d.handler = c.handler ∧ d.held = c.held ∧ T < d.nextIssue ∧
      ∀ p ∈ c.pend, c.trapT < p.seq → p.vis < d.nextIssue) ∧
  ∀ (c : Core) (u : Nat), let d := c.resumeHeld u
    d.handler = false ∧ d.held = [] ∧ d.regs = c.regs ∧ d.pc = c.pc ∧
      d.pend.map (fun p => p.vis) = c.pend.map (fun p => p.vis) ++ c.held.map fun x => u + x.1

/-- R365: an uncorrectable error consumed outside handler mode with a region open unwinds to the top region's handler: the region is popped, the loop stack
cut to its depth, and the handler issues after every issued result has landed; otherwise it is a fatal trap of the error's cause. The top region is the one
that stands once a `ctopen` or `ctclose` of the same bundle has landed, which with none in hand is the stack as it stands: the model's choice (log 102). -/
def ErrorUnwind : Prop :=
  (∀ c : Core, (∀ p ∈ c.pend, ∀ rs, p.eff ≠ .regions rs) → c.landedRegions = c.regions) ∧
  (∀ (s : State) (k A T mask cause detail h d : Nat) (rest : List (Nat × Nat)), (getCore s k).handler = false → (getCore s k).regions ≠ [] →
    (getCore s k).landedRegions = (h, d) :: rest →
    let t := consumeError k A T mask cause detail s
    let c := getCore s k
    let x := getCore t k
    x.pc = h ∧ x.regions = rest ∧ x.handler = false ∧ x.loops = c.loops.drop (c.loops.length - d) ∧ x.trapcause = cause ∧ x.trapdetail = detail ∧
      x.trapaddr = A % 2 ^ 32 ∧ x.regs = c.regs ∧ x.pend = c.pend.filter (fun p => match p.eff with | .regions _ => false | _ => true) ∧ T + 4 ≤ x.nextIssue ∧ (∀ p ∈ c.pend, p.vis < x.nextIssue) ∧
      (∀ j, j ≠ k → getCore t j = getCore s j) ∧ t.clusters = s.clusters) ∧
  ∀ (s : State) (k A T mask cause detail : Nat), (getCore s k).handler = true ∨ (getCore s k).regions = [] →
    (getCore (consumeError k A T mask cause detail s) k).seq = .fatal ∧ (getCore (consumeError k A T mask cause detail s) k).trapcause = cause

/-- R242, R243, R246, R257: a bid of an expected member whose signature agrees enters the trick, which waits for the others or resolves; a deadline
resolves it with ABSV for the absent, or as a fault of detail 3; and the value of a trick is that of R243. -/
def TrickEvents : Prop :=
  (∀ (job ch core uid : Nat) (joining : Bool) (seq sig : Nat) (v : Int) (t0 : Nat) (j : Job) (d : Decl) (s : State),
    Arrived s (.bid job ch core uid joining seq sig v t0) → getJob s job = some j → declOf j ch = some d → ¬ Halted s (rootModule j) job →
    let c := channelOf j ch
    let member := memberOf j (core / 768)
    c.failed = false → member ∉ j.dead → (∃ p ∈ c.places, p.core = core ∧ p.uid = uid ∧ p.finished = false) → joining = true ∨ seq = c.n →
    (c.gather = true → c.sig = 16 ∨ sig = c.sig) →
    ∃ c' : Channel, c'.n = c.n ∧ c'.gather = true ∧ c'.bids = c.bids ++ [⟨core, uid, member, v, false⟩] ∧ c'.history = c.history ∧ c'.dead = c.dead ∧
      c'.mism = c.mism ∧ c'.sig = (if c.gather = true ∧ c.sig ≠ 16 then c.sig else sig) ∧ c'.t0 = (if c.gather then c.t0 else t0) ∧
      (joining = false → c'.places = c.places) ∧
      (Waits j d c' → ∃ t, exec .bidArrival s = .next t ∧ t = { landed s with jobs := t.jobs } ∧ ∃ j', getJob t job = some j' ∧ channelOf j' ch = c') ∧
      (¬ Waits j d c' → ∃ t record, exec .bidArrival s = .next t ∧ Resolved s t job ch c' record ∧
        recordIs record ((combine c'.sig d.bop (bidValues d c')).1 % 2 ^ 16).toNat
          0 c'.bids.length c.n 0)) ∧
  (∀ (job ch : Nat) (j : Job) (d : Decl) (s : State), getJob s job = some j → declOf j ch = some d → d.late ≠ 0 →
    let c := channelOf j ch
    let slot := jobSlot s (rootModule j) j.id
    c.gather = true → slot.stopped = false → c.t0 + d.deadline + (slot.total - c.frozen0) ≤ nowOf s (rootModule j) →
    ∃ t record value, exec (.agreementDeadlineExpiry job ch) s = .next t ∧ Resolved s t job ch c record ∧
      (d.late = 1 → recordIs record ((combine c.sig d.bop (bidValues d c ++
          List.replicate (missing j d c) (absValue c.sig d.absv))).1 % 2 ^ 16).toNat 0 c.bids.length c.n 0) ∧
      (d.late ≠ 1 → recordIs record value 1 c.bids.length c.n 3)) ∧
  ∀ (sig bop : Nat) (vs : List Int), sig ≤ 5 → TrickValue sig bop vs (combine sig bop vs).1

/-- R241, R247, R248, R254, R255: a call reaches its core: the channel's words take it, and outside a broadcast group a run-ahead that predicted it is kept, its kitty
draining from the next cycle, and one that did not is discarded: the journalled values return and the other arm issues from T + 2. A call is seen before the
issue of its cycle: the model's reading (log 46). -/
def CallEvents : Prop :=
  ∀ (job ch k uid record trick : Nat) (s : State), Arrived s (.call job ch k uid record trick) → callsHeld s (k / 768) job = false → record < 2 ^ 64 →
    (getCluster s (k / 8)).ctx.uid = uid →
    let c := getCore s k
    (c.ra = none → ∃ t, exec .callDelivery s = .next t ∧ t = { landed s with cores := t.cores } ∧
      (getCore t k).regs = c.regs ∧ (getCore t k).pend = c.pend ∧ (getCore t k).pc = c.pc ∧
      (chanOf (getCore t k) ch).outst = false ∧ (chanOf (getCore t k) ch).call = record) ∧
    ∀ ra, c.seq = .running → c.ra = some ra → (getCluster s (k / 8)).ctx.bcast = false →
      (s.cycle < ra.issued + 4 → exec .callDelivery s = .next s) ∧
      (ra.issued + 4 ≤ s.cycle →
        let value := record % 2 ^ 16
        let right := if ra.agree then (if ra.signedCall then value = ra.guess % 2 ^ 16 else value = ra.guess) else (value = 1 ↔ ra.guess = 1)
        ra.guess < 2 ^ 16 → ∃ t, exec .callDelivery s = .next t ∧
          let e := getCore t k
          e.ra = none ∧ (chanOf e ch).outst = false ∧ (chanOf e ch).call = record ∧
          e.kittyFrom = (if 0 < ra.old then c.kittyFrom else s.cycle + 1) ∧
          (right → e.regs = c.regs ∧ e.kitty = c.kitty.map (KEntry.withLater keepLater) ∧
            (ra.fallEnd = false → e.pend = c.pend.map Pend.kept ∧ e.pc = c.pc ∧ e.loops = c.loops)) ∧
          (¬ right → e.regs = ra.shadow ∧ e.kitty = (c.kitty.take ra.old).map (KEntry.withLater dropLater) ∧ e.nextIssue = max ((if c.frozen then c.frozenAt else s.cycle) + 2) ra.idleTo ∧
            (ra.fallEnd = false → e.loops = (if ra.agree = false ∧ value = 1 then ra.takenLoops else ra.loops) ∧
              e.pend = (c.pend.filter (fun p => !p.ra)).map (Pend.withLater dropLater) ++ (if ra.agree then [⟨s.cycle + 1, s.cycle, 8, false, .sreg ra.sx
                (if ra.signedCall then BitVec.ofInt 64 (if value < 2 ^ 15 then (value : Int) else (value : Int) - 2 ^ 16) else BitVec.ofNat 64 value) none⟩] else []) ∧
              e.pc = (if ra.agree = false ∧ value = 1 then ra.takenPc else ra.fallPc))))

end Sys2Proof.Claims

open Sys2Proof Sys2Proof.Machine Sys2Proof.Claims

/-- R107: each SR form writes its result at its latency, and none traps; `clz` and `popc` with a nonzero sb field are outside limits. -/
def Obligations.ScalarRegisterForms : Prop :=
  (∀ (i : Instr) (p : ScalarSpec) (s : State), srForm i = some p → Enabled s p.g → exec i s = .next (p.next s)) ∧
  ∀ (sl : Slot) (w : Nat), sl = .X ∨ sl = .Y → fld w 31 26 = 1 → fld w 7 4 = 12 ∨ fld w 7 4 = 13 → fld w 13 8 ≠ 0 →
    decodeSyl sl w none = .error 11

/-- R108: the immediate and field forms on operands inside the limits of R74. That `bfi` takes the tag of sa before that of its own destination is the model's
choice (log 84). -/
def Obligations.ScalarImmediateForms : Prop :=
  ∀ (i : Instr) (p : ScalarSpec) (s : State), i.wf = true → immForm i = some p → Enabled s p.g → exec i s = .next (p.next s)

/-- The C-slot forms of R114 post their pair at T + 2, poison from a tagged source (R116). -/
def Obligations.CompareForms : Prop :=
  ∀ (i : Instr) (p : PairSpec) (s : State), pairForm i = some p → Enabled s p.g → exec i s = .next (p.next s)

/-- R148, R159 to R161: the vector forms: every form, plain or extended, whose operands are open posts what R147 to R162 say, and nothing else changes. That the
extension's mask comes before the mask of `vsel` in the operand order is the model's choice (log 88), and that an enclosure of 400 bits settles the roundings of
`vexp2`, `vlog2`, `vrcp`, `vrsq` and `vtanh` is taken from outside the spec (log 10). -/
def Obligations.VectorForms : Prop :=
  ∀ (i : Instr) (p : VecSpec) (s : State), i.wf = true → vecForms i = some p → Enabled s p.g → DestOpen s p.dst →
    (∀ x ∈ p.srcs, SourceOpen s x) → exec i s = .next (p.next s)

/-- View faults, vcmp and vsplat: the statements `VectorViewFault`, `VectorCompare`, `VectorSplat` together. -/
def Obligations.VectorOtherForms : Prop := Claims.VectorViewFault ∧ Claims.VectorCompare ∧ Claims.VectorSplat

/-- Guards: the statements `GuardedOff`, `TaggedGuard` together. -/
def Obligations.GuardForms : Prop := Claims.GuardedOff ∧ Claims.TaggedGuard

/-- R252, R177, R195: the syllables that end no run-ahead stall the bundle in it, and the stall watchdog does not count the stall. -/
def Obligations.RunAheadStalls : Prop :=
  ∀ (i : Instr) (g : Nat) (s : State), guardOf i = some g → Enabled s g → waitsForCall i = true → inRa s = true →
    (isControl i = true → s.focus.follow = none) →
    ∃ x, exec i s = .next (onFocus s fun f => { f with stall := some x }) ∧ x.wd = false

/-- Scalar loads and stores: the statements `ScalarLoads`, `ScalarStores` together. -/
def Obligations.ScalarMemoryForms : Prop := Claims.ScalarLoads ∧ Claims.ScalarStores

/-- R20: the detail of an address fault of `sst` is the first that applies of 2 (upper bits), 3 (misaligned), 4 (weight store), 5 (ALT half)
and 1; for `sld` the same without 4. Outside run-ahead the fault is all that happens. -/
def Obligations.AddressFaults : Prop :=
  ∀ (i : Instr) (g r a sz : Nat) (off : Int) (s : State) (store : Bool),
    (store = true ∧ (i = .sst g r a sz off ∨ i = .sstWide g r a sz off) ∧ tagOfS s r = none) ∨
      (store = false ∧ (i = .sld g r a sz off ∨ i = .sldWide g r a sz off)) →
    Enabled s g → inRa s = false → tagOfS s a = none →
    let n := sizeOfCode sz
    let ea := addrOf s a + off * n
    let upper := 2 ^ 32 ≤ (srcS s a).toNat
    let odd := ea % n ≠ 0
    let weight := store = true ∧ 0 ≤ ea ∧ ea < 0x80000000 ∧ 0x40000000 < ea + n
    let alt := 0 ≤ ea ∧ touchesAlt (itsCluster s) ea.toNat n = true
    (upper → exec i s = .next (raised s 0x10 2)) ∧
    (¬ upper → odd → exec i s = .next (raised s 0x10 3)) ∧
    (¬ upper → ¬ odd → weight → exec i s = .next (raised s 0x10 4)) ∧
    (¬ upper → ¬ odd → ¬ weight → alt → exec i s = .next (raised s 0x10 5)) ∧
    (¬ upper → ¬ odd → ¬ weight → ¬ alt → ¬ (0 ≤ ea ∧ ownFiles ea.toNat n = true) → exec i s = .next (raised s 0x10 1))

/-- R38, R112, R113, R197, R366, R399: `rdsys` copies a system register at T + 1 (rank and core number 0 until a launch starts the core), and `wrsys` takes effect
at T + 1 or takes the deferred fault of its source: the registers of the job and the launch, the loop counts, the time, the traps, the coverage level and the
event counters, each with what it reads, and those that are written with what a write leaves; every other number reads 0 and keeps nothing. -/
def Obligations.SystemRegisters : Prop :=
  (∀ (g d n : Nat) (s : State), Enabled s g →
    exec (.rdsys g d n) s = .next (withResult s 1 (.sreg d (BitVec.ofNat 64 (sysRead s s.focus.core n)) none) (scalarBytes d))) ∧
  (∀ (g a n : Nat) (s : State), Enabled s g → inRa s = false →
    exec (.wrsys g a n) s = .next (match tagOfS s a with
      | some p => deferredAt s p
      | none => withResult s 1 (.sysw n (srcS s a).toNat) 0)) ∧
  (∀ (s : State) (k : Nat), let c := getCore s k
    sysRead s k 0x000 = (if c.seq = .off then 0 else k % 8) ∧ sysRead s k 0x003 = (if c.seq = .off then 0 else k % 768) ∧ sysRead s k 0x010 = c.sched % 2 ^ 64 ∧
    sysRead s k 0x011 = c.loops.length ∧ sysRead s k 0x030 = c.trapcause ∧ sysRead s k 0x031 = c.trapaddr ∧
    sysRead s k 0x032 = c.trapdetail % 2 ^ 32 ∧ sysRead s k 0x033 = c.trapmask ∧ sysRead s k 0x034 = c.tvec ∧
    sysRead s k 0x035 = c.regions.length ∧ sysRead s k 0x050 = c.mtol) ∧
  (∀ (s : State) (k : Nat), let c := getCore s k
    let x := (getCluster s (k / 8)).ctx
    let md := getMod s (k / 768)
    sysRead s k 0x001 = x.lcl ∧ sysRead s k 0x002 = x.ncl ∧ sysRead s k 0x004 = x.lid ∧ sysRead s k 0x005 = x.job ∧ sysRead s k 0x006 = x.member ∧
      sysRead s k 0x007 = x.nmembers ∧ sysRead s k 0x009 = x.nranks ∧ sysRead s k 0x00A = (getCluster s (k / 8)).part ∧
      (x.bcast = false → sysRead s k 0x008 = 0) ∧
      (∀ a b d e f g h i, x.bcast = true → x.skew = [a, b, d, e, f, g, h, i] → (∀ y ∈ x.skew, y < 16) → sysRead s k 0x008 =
        1 + a * 2 ^ 4 + b * 2 ^ 8 + d * 2 ^ 12 + e * 2 ^ 16 + f * 2 ^ 20 + g * 2 ^ 24 + h * 2 ^ 28 + i * 2 ^ 32) ∧
      (∀ n l, n ≤ 5 → c.loops.reverse[n]? = some l → sysRead s k (0x012 + n) = l.count) ∧
      (∀ n, n ≤ 5 → c.loops.length ≤ n → sysRead s k (0x012 + n) = 0) ∧
      sysRead s k 0x020 = dieTime s (k / 96) % 2 ^ 64 ∧
      sysRead s k 0x021 = (match md.time.disc with | .free => 0 | .acquiring => 1 | .locked => 2 | .holdover => 3) ∧
      sysRead s k 0x022 = md.cfg.wsPhase % 2 ^ 16 + 4000 * 2 ^ 16 + 800 * 2 ^ 32 + 15 * 2 ^ 44 ∧ sysRead s k 0x040 = x.level ∧ sysRead s k 0x041 = x.code ∧
      (∀ i, i < 8 → sysRead s k (0x060 + i) = Tbl.get 0 c.evsel i ∧ sysRead s k (0x068 + i) = Tbl.get 0 c.evcnt i) ∧
      ∀ n, 0x070 ≤ n ∨ 0x051 ≤ n ∧ n < 0x060 ∨ 0x023 ≤ n ∧ n < 0x030 → sysRead s k n = 0) ∧
  ∀ (c : Core) (v : Nat), (c.sysWrite 0x034 v) = { c with tvec := v % 2 ^ 32 } ∧ (c.sysWrite 0x050 v) = { c with mtol := v % 64 + v / 256 % 4 * 256 } ∧
    (∀ i, i < 8 → (c.sysWrite (0x060 + i) v) = { c with evsel := Tbl.set c.evsel i (v % 2 ^ 9) } ∧
      (c.sysWrite (0x068 + i) v) = { c with evcnt := Tbl.set c.evcnt i (v % 2 ^ 64) }) ∧
    ∀ n, n ≠ 0x034 → n ≠ 0x050 → n < 0x060 ∨ 0x070 ≤ n → c.sysWrite n v = c

/-- Transfers, end and loops: the statements `ControlForms`, `LoopForms` together. -/
def Obligations.TransferForms : Prop := Claims.ControlForms ∧ Claims.LoopForms

/-- R121: loop-bottom processing at a bundle of len bytes at A: entries that end there with a count of 1 (or 0) leave the stack, innermost
first, up to the first with a greater count, which counts down and gives its start; the rest of the stack stays. -/
def Obligations.LoopBottom : Prop :=
  ∀ (A len : Nat) (ls : List Loop),
    ∃ (out rest : List Loop), ls = out ++ rest ∧ (∀ l ∈ out, l.stop = A ∧ l.count ≤ 1) ∧
      ((∃ l ls', rest = l :: ls' ∧ l.stop = A ∧ 1 < l.count ∧
          loopBottom A len ls = (l.start, true, ⟨l.count - 1, l.start, l.stop⟩ :: ls')) ∨
        ((∀ l ls', rest = l :: ls' → l.stop ≠ A) ∧ loopBottom A len ls = (A + len, false, rest)))

/-- The matrix array: the statements `ArrayForms`, `FeedForms`, `DrainForms` together. -/
def Obligations.MatrixForms : Prop := Claims.ArrayForms ∧ Claims.FeedForms ∧ Claims.DrainForms

/-- R168: `kset` sets one latch and `kld` one or 64 from bytes read at issue, effective from T + 4. -/
def Obligations.LatchForms : Prop :=
  (∀ (g : Nat) (eb : Bool) (l col : Nat) (sc : Int) (s : State), Enabled s g → inRa s = false →
    exec (.kset g eb l col sc) s = .next (withResult s 4 (.latch [(eb, l, col, sc)]) 0)) ∧
  (∀ (g : Nat) (eb : Bool) (l a : Nat) (s : State), Enabled s g → inRa s = false →
    let n := if eb then 64 else 1
    let ea := addrOf s a
    Reaches s a ea n n descFiles → descTag s ea n = none →
      errorIn s s.focus.core ea.toNat n = none →
      exec (.kld g eb l a) s = .next (withResult s 4
        (.latch ((ownRead s s.focus.core ea.toNat n s.cycle).zipIdx.map fun x => (eb, l, x.2, signed 8 x.1))) 0)) ∧
  ∀ (c : Core) (eb : Bool) (l n : Nat) (v : Int), n < 64 → let c' := setLatches [(eb, l, n, v)] c
    (eb = true → c'.sa = c.sa ∧ ∀ l' n', n' < 64 → latchB c' l' n' = if l' = l ∧ n' = n then v else latchB c l' n') ∧
    (eb = false → c'.sb = c.sb ∧ ∀ l', latchA c' l' = if l' = l then v else latchA c l')

/-- R129, R130: a descriptor is valid for its class exactly under the conditions of R130, every other field and reserved bit zero, and
gives the view of its fields, configured. -/
def Obligations.Descriptors : Prop :=
  ∀ (cls w0 w1 w2 w3 : Nat), w0 < 2 ^ 32 → w1 < 2 ^ 32 → w2 < 2 ^ 32 → cls < 3 →
    let base := w0 % 2 ^ 22
    let rows := w1 % 2 ^ 9
    let cols := w1 / 2 ^ 16 % 2 ^ 7
    let tf := Fmt.ofCode (w1 / 2 ^ 24 % 8)
    let pitch := w2 % 2 ^ 13
    let wide := if tf = .ln6 then (cols + 1) / 4 * 3 else (cols + 1) * laneBytes tf
    let clean := w0 = base + w0 / 2 ^ 28 % 4 * 2 ^ 28 ∧ w1 = rows + cols * 2 ^ 16 + w1 / 2 ^ 24 % 8 * 2 ^ 24 ∧ w2 = pitch ∧ w3 = 0
    let plain := cols = 0 ∧ w1 / 2 ^ 24 % 8 = 0 ∧ pitch = 0
    let valid := clean ∧ w0 / 2 ^ 28 % 4 = cls ∧
      (cls = 0 → plain ∧ rows = 0 ∧ base % 32 = 0 ∧ base + 512 ≤ 0x380000) ∧
      (cls = 1 → base % 32 = 0 ∧ (tf = .ln6 → (cols + 1) % 4 = 0) ∧ 1 ≤ pitch ∧ wide ≤ 32 * pitch ∧ base + 32 * pitch * rows + wide ≤ 0x380000) ∧
      (cls = 2 → plain ∧ base % 512 = 0 ∧ 0x200000 ≤ base ∧ base + 512 * (rows + 1) ≤ 0x380000)
    (valid → viewOfWords cls w0 w1 w2 w3 = some ⟨base, cls, true, rows, cols, tf, pitch⟩) ∧ (¬ valid → viewOfWords cls w0 w1 w2 w3 = none)

/-- R134, R135: `vwset` and `vwclr` change their view register from T + 8 on, an invalid descriptor being a view fault with detail 2 and a tagged one deferred;
`vwget` reads
one word of a view register for T + 1, zero from an unconfigured one, and never faults. -/
def Obligations.ViewForms : Prop :=
  (∀ (g cls idx a : Nat) (s : State), Enabled s g → inRa s = false →
    let ea := addrOf s a
    Reaches s a ea 16 16 descFiles → errorIn s s.focus.core ea.toNat 16 = none →
      (∀ x, descTag s ea 16 = some x → exec (.vwset g cls idx a) s = .next (deferredAt s x)) ∧ (descTag s ea 16 = none →
      let bs := ownRead s s.focus.core ea.toNat 16 s.cycle
      exec (.vwset g cls idx a) s = .next (match viewOfWords cls (wordAt bs 0) (wordAt bs 1) (wordAt bs 2) (wordAt bs 3) with
        | some v => withResult s 8 (.view cls idx v) 0
        | none => raised s 0x11 2))) ∧
  (∀ (g cls idx : Nat) (s : State), Enabled s g → inRa s = false →
    exec (.vwclr g cls idx) s = .next (withResult s 8 (.view cls idx .none) 0)) ∧
  ∀ (g cls idx d w : Nat) (s : State), Enabled s g →
    let v := viewOf (focusCore s) cls idx
    let dg := ((List.range 7168).filter fun l => decide (v.base < 512 * l + 512) && decide (512 * l < v.base + v.extent) &&
      Tbl.get false (focusCore s).regs.dirty l && !((focusCore s).fresh.1 == s.cycle && (focusCore s).fresh.2.contains l)).length
    (v.cfg = true → v.base + v.extent ≤ 0x380000 → 0 < v.extent →
      exec (.vwget g cls idx d w) s = .next (withResult s 1 (.sreg d (BitVec.ofNat 64
        (if w = 0 then v.base + v.cls * 2 ^ 28 + 2 ^ 31 else if w = 1 then v.rows + v.cols * 2 ^ 16 + v.tfmt.code * 2 ^ 24
          else if w = 2 then v.pitch else dg)) none) (scalarBytes d))) ∧
    (v.cfg = false → exec (.vwget g cls idx d w) s = .next (withResult s 1 (.sreg d 0 none) (scalarBytes d)))

/-- Vector loads and stores: the statements `VectorLoads`, `VectorStores` together. -/
def Obligations.VectorMemoryForms : Prop := Claims.VectorLoads ∧ Claims.VectorStores

/-- Tile slices: the statements `TileForms`, `TileGather` together. -/
def Obligations.TileSlices : Prop := Claims.TileForms ∧ Claims.TileGather

/-- Stream registers: the statements `StreamForms`, `StreamPush` together. -/
def Obligations.StreamSyllables : Prop := Claims.StreamForms ∧ Claims.StreamPush

/-- R183, R182: `amo` is performed at T + 3 with its old value for T + 8; a tagged operand is deferred; and the update is that of the operation. -/
def Obligations.AtomicForms : Prop :=
  (∀ (i : Instr) (g op : Nat) (f : Fmt) (d a b : Nat) (c : Option Nat) (w : Bool) (s : State), amoParts i = some (g, op, f, d, a, b, c, w) →
    Enabled s g → Calm s →
    let n := if w then 8 else 4
    let ea := addrOf s a
    let tags := [tagOfS s a, tagOfS s b] ++ (match c with | some x => [tagOfS s x] | none => [])
    (∀ p, firstTag tags = some p → exec i s = .next (deferredAt s p)) ∧
    (firstTag tags = none → Reaches s a ea n n scratchOnly → errorIn s s.focus.core ea.toNat n = none →
      exec i s = .next (onCore (tracedAt (withResult s 8 (.amoS d none) 0) 13 ea.toNat) fun x => { x with stores := x.stores ++
        [⟨s.cycle + 3, s.cycle, s.focus.slot, .amo op (f == .i32) ea.toNat n (srcS s b).toNat (srcS s (c.getD 0)).toNat d⟩] }))) ∧
  ∀ (op : Nat) (sgn : Bool) (n old x y : Nat), op < 5 → n = 4 ∨ n = 8 → old < 2 ^ (8 * n) → x < 2 ^ (8 * n) → amoValue op sgn n old x y = updated op sgn n old x y

/-- Copy requests and bindings: the statements `Requests`, `BindingForms` together. The first attempt of `acq` at T + 3 on a virtual sync word too is the model's
choice (log 49; R213 gives T + 3 for scratchpad words). -/
def Obligations.CopyAndBindingForms : Prop := Claims.Requests ∧ Claims.BindingForms

/-- R216, R217: a `fence` waits for what its scope covers; `waita` waits on its word, first tested at T + 3. -/
def Obligations.WaitForms : Prop :=
  (∀ (g : Nat) (s : State), Enabled s g → Calm s →
    exec (.fenceCore g) s = .next (tracedAt (asksWait s (.fence 0 s.cycle)) 12 0) ∧
    exec (.fenceCluster g) s = .next (tracedAt (asksWait s (.fence 1 s.cycle)) 12 1) ∧
    exec (.fenceModule g) s = .next (tracedAt (asksWait s (.fence 2 s.cycle)) 12 2)) ∧
  ∀ (g a b : Nat) (cond : WCond) (w : Bool) (s : State), Enabled s g → Calm s →
    let n := if w then 8 else 4
    let ea := addrOf s a
    (Reaches s a ea n n scratchOnly → tagOfS s b = none →
      exec (.waita g a b cond w) s = .next (asksWait s
        (.waita ea.toNat n cond ((srcS s b).toNat % 2 ^ (8 * n)) s.focus.addr (s.cycle + 3) none))) ∧
    (∀ p, firstTag [tagOfS s a, tagOfS s b] = some p → exec (.waita g a b cond w) s = .next (deferredAt s p))

/-- R326, R327: `cgload` and `cgrun` wait for the read of their block at T + 3; `cgrun` of an empty slot is a collective fault with detail 2. -/
def Obligations.GraphForms : Prop :=
  (∀ (g a slot : Nat) (s : State), Enabled s g → Calm s → runs s (s.focus.core / 8) slot = false →
    Reaches s a (addrOf s a) 32 32 descFiles →
    exec (.cgload g a slot) s = .next (asksWait s (.graph true slot (addrOf s a).toNat s.cycle s.focus.addr none [] []))) ∧
  ∀ (g slot a : Nat) (s : State), Enabled s g → Calm s → tagOfS s a = none →
    (Tbl.get none (itsCluster s).graphs slot = none → exec (.cgrun g slot a) s = .next (raised s 0x19 2)) ∧
    (Tbl.get none (itsCluster s).graphs slot ≠ none → runs s (s.focus.core / 8) slot = false → Reaches s a (addrOf s a) 64 64 descFiles →
      exec (.cgrun g slot a) s = .next (asksWait s (.graph false slot (addrOf s a).toNat s.cycle s.focus.addr none [] [])))

/-- Agreement instructions: the statements `AgreementForms`, `CheckForms` together. -/
def Obligations.AgreementSyllables : Prop := Claims.AgreementForms ∧ Claims.CheckForms

/-- Time, tokens and coverage: the statements `TimeForms`, `TokenForms`, `CoverageForms` together. -/
def Obligations.TimeAndCoverageForms : Prop := Claims.TimeForms ∧ Claims.TokenForms ∧ Claims.CoverageForms

/-- Traps, regions, live and sys: the statements `TrapForms`, `RegionForms`, `LiveForm`, `SysForms` together. That a tagged sa of `sys` YIELD is ignored is the
model's choice (log 86). -/
def Obligations.SystemForms : Prop := Claims.TrapForms ∧ Claims.RegionForms ∧ Claims.LiveForm ∧ Claims.SysForms

/-- R266, R270 to R273: the events of the time unit: TMCFG; an Announce counts once two of its sender have come within four Announce intervals, and the best
that counts makes its sender the master, or the module itself where that is capable and better or of a class that takes no master; peer delays and their
answers; a Sync measures an offset and gives a rate, within 2 parts in 10^9 of the grandmaster's while LOCKED, and 16 consecutive good intervals lock; a lost
master, a bound of 20 ns, a HOLDOVER that is over, and the Syncs of a grandmaster. What R270 leaves to the standard and the standard leaves open is the model's
choice, as log 76 says. -/
def Obligations.TimeUnitEvents : Prop :=
  (∀ (m v : Nat) (s : State), v < 2 ^ 64 →
    let stored := v % 8 + min 127 (v / 2 ^ 8 % 256) * 2 ^ 8 + v / 2 ^ 16 % 8 * 2 ^ 16 + v / 2 ^ 24 % 2 ^ 16 * 2 ^ 24 + v / 2 ^ 40 % 2 ^ 16 * 2 ^ 40
    let since := if (unitOf s m).tmcfg % 2 = 1 then (unitOf s m).heardAt else nowOf s m
    (v % 2 = 1 → exec (.tmcfgWrite m v) s = .next (onUnit s m fun t => { t with tmcfg := stored, heardAt := since })) ∧
    (v % 2 = 0 → exec (.tmcfgWrite m v) s = .next (onUnit s m fun t =>
      { t with tmcfg := stored, heardAt := since, disc := .free, master := .none, mfrom := none, parent := none, records := [], heard := [], good := 0 }))) ∧
  (∀ (m port : Nat) (a : Announce) (s : State), PortOn s m port → a.domain = (unitOf s m).tmcfg / 2 ^ 8 % 256 → a.steps < 255 → a.from_ ≠ some m →
    let u := unitOf s m
    let now := nowOf s m
    let known := Tbl.set u.records port a
    let before := match Tbl.get none (u.records.map fun x => (x.1, some x.2)) port with
      | some (b : Announce) => if b.sender = a.sender then some (Tbl.get (now, none) u.heard port).1 else none
      | none => none
    let heard := Tbl.set u.heard port (now, before)
    let counts := fun p : Nat => PortOn s m p ∧ ∃ x, (Tbl.get (0, none) heard p).2 = some x ∧ now ≤ x + 8 * 10 ^ 9
    let own : Announce :=
      ⟨u.tmcfg / 2 ^ 8 % 256, u.tmcfg / 2 ^ 24 % 256, Config.clockQuality m, u.tmcfg / 2 ^ 32 % 256, Config.clockIdentity m, 0, Config.clockIdentity m, some m⟩
    let strong := 1 ≤ Config.clockQuality m / 2 ^ 24 ∧ Config.clockQuality m / 2 ^ 24 ≤ 127
    let leads := u.tmcfg / 2 % 2 = 1 ∧ (strong ∨ Beats own a)
    ∃ t, exec (.announceReceive m ⟨port, a⟩) s = .next (onUnit s m fun _ => t) ∧ t.now = u.now ∧ t.records = known ∧ t.heard = heard ∧
      (counts port → (∀ x ∈ known, counts x.1 → x = (port, a) ∨ (Beats a x.2 ∧ ¬ Beats x.2 a)) →
        (¬ leads → t.master = (if a.sender = a.gm then .grandmaster else if a.from_.isSome then .z9 else .other) ∧ t.mport = port ∧ t.mfrom = a.from_ ∧
          t.parent = some a ∧ t.disc = (if u.disc = .free ∨ u.disc = .holdover then .acquiring else u.disc)) ∧
        (leads → t.master = .self ∧ t.disc = (if u.disc = .free then .acquiring else u.disc))) ∧
      ((∀ x ∈ known, ¬ counts x.1) → u.tmcfg / 2 % 2 = 0 → t.master = u.master ∧ t.parent = u.parent ∧ t.disc = u.disc)) ∧
  (∀ (m port t1 turn : Nat) (s : State),
    (PortOn s m port → exec (.peerDelayMessage m port (.pdelayResp t1 turn)) s =
      .next (onUnit s m fun t => { t with delays := Tbl.set t.delays port ((nowOf s m - t1 - turn) / 2) })) ∧
    (PortOn s m 32 → ∃ turn', exec (.peerDelayMessage m 32 (.pdelayReq t1)) s =
      .next { s with hostMsgs := s.hostMsgs ++ [.ptp m (.peer (.pdelayResp t1 turn'))], free := s.free + 1 }) ∧
    exec (.peerDelayMessage m port .delayReq) s = .next s) ∧
  (∀ (m q port u log : Nat) (s : State), PortOn s m port → (unitOf s m).master ≠ .none → (unitOf s m).master ≠ .self → (unitOf s m).mport = port →
    (∃ x ∈ (unitOf s m).delays, x.1 = port) → (unitOf s m).disc = .acquiring ∨ (unitOf s m).disc = .locked →
    ∃ (d : Nat) (rate : Int), d ≤ 1 ∧ -500000 ≤ rate ∧ rate ≤ 500000 ∧
      let now := nowOf s m
      let meas : Int := (((unitOf s m).now : Int) - (unitOf s q).now) / (19 * 10 ^ 9) + d
      let off := meas.natAbs + if (unitOf s m).master = .grandmaster then 0 else u
      let gap := now - (unitOf s m).lastGood
      let interval := 10 ^ 9 / 2 ^ log
      let run := if 2 * gap < interval then (unitOf s m).good else if 3 * interval ≤ 2 * gap then 1 else (unitOf s m).good + 1
      let locks := 16 ≤ run ∧ ((unitOf s m).master = .grandmaster ∨ (unitOf s m).master = .z9) ∧ ∀ x, (unitOf s m).lockedAt = some x → x + 125000000 ≤ now
      let next := fun t : TimeUnit =>
        { (if t.disc = .locked then (if 14 < off then { t with disc := .acquiring, good := 0 } else t)
           else if 12 < off then { t with good := 0 }
           else if locks then { t with good := run, disc := .locked, lockedAt := some now }
           else { t with good := run }) with
          offset := off, lastSync := now, lastGood := if 2 * gap < interval then t.lastGood else now, adj := rate }
      (¬ ((unitOf s m).disc = .acquiring ∧ meas < -1000000) → exec (.syncReceive m port ⟨some q, u, log⟩) s = .next { onUnit s m next with free := s.free + 2 }) ∧
      ((next (unitOf s m)).disc = .locked → -500000 ≤ grandRate 8 s m - 2 → grandRate 8 s m + 2 ≤ 500000 →
        grandRate 8 s m - 2 ≤ rate ∧ rate ≤ grandRate 8 s m + 2)) ∧
  ∀ (s : State), let m := s.place
    let u := unitOf s m
    let lost := fun t : TimeUnit => { t with master := .none, mfrom := none, parent := none, records := t.records.filter fun x => x.1 != t.mport,
                                             heard := t.heard.filter fun x => x.1 != t.mport }
    (u.master ≠ .none → u.master ≠ .self → u.tmcfg % 2 = 1 → u.heardAt + 6 * 10 ^ 9 ≤ nowOf s m →
      exec .announceReceiptTimeout s = .next (onUnit s m fun t => match u.disc with
        | .acquiring => { lost t with disc := .free, good := 0 }
        | .locked => { lost t with disc := .holdover, heldSince := nowOf s m }
        | _ => lost t)) ∧
    (nowOf s m < u.heardAt + 6 * 10 ^ 9 → exec .announceReceiptTimeout s = .next s) ∧
    (u.disc = .locked → u.master ≠ .self → 20 * 10 ^ 9 ≤ (u.offset + 2) * 10 ^ 9 + 2 * (nowOf s m - u.lastSync) →
      exec .offsetBoundExpiry s = .next (onUnit s m fun t => { t with disc := .holdover, heldSince := nowOf s m })) ∧
    (u.disc = .holdover → u.heldSince + u.tmcfg / 2 ^ 40 % 2 ^ 16 * 10 ^ 9 ≤ nowOf s m →
      exec .holdoverExpiry s = .next (onUnit s m fun t => { t with disc := .free })) ∧
    let log := u.tmcfg / 2 ^ 16 % 8
    let past := u.lastSent + 10 ^ 9 / 2 ^ log ≤ nowOf s m
    (¬ past → exec .syncInterval s = .next s) ∧
    (ptpOn s m → u.master = .self → past → u.disc = .locked →
      ∃ t, exec .syncInterval s = .next t ∧ unitOf t m = { u with
          offset := 0, lastSync := nowOf s m, lastSent := nowOf s m, lastAnn := if u.lastAnn + 2 * 10 ^ 9 ≤ nowOf s m then nowOf s m else u.lastAnn
          lastGood := if 2 * (nowOf s m - u.lastGood) < 10 ^ 9 / 2 ^ log then u.lastGood else nowOf s m } ∧
        t.cores = s.cores ∧ t.clusters = s.clusters ∧ (PortOn s m 32 → (∀ x ∈ u.records, x.1 ≠ 32) → .ptp m (.sync 2 log) ∈ t.hostMsgs))

/-- R275 to R278: TICKSET writes a generator and restarts its schedule, and is refused, EN staying 0, for KIND 11 or a short period; a firing that is due
alone acts on its target and is counted: it writes the wake word, queues a launch, with the firing time as its argument, unless the device-side entries are
full or the image has no target, which MISS counts, or does nothing more; SKIP counts one whose gate slot closed MISSING under SKIP, and nothing acts; and a
firing wakes a `waittk` that began before it within 37 cycles. -/
def Obligations.TickEvents : Prop :=
  (∀ (m caller tg : Nat) (ws : List Nat) (s : State), Serving s m →
    let old := tickAt s m tg
    let w := fun i => ws.getD i 0
    let now := nowOf s m
    let new : Tick := { old with
      en := decide (w 0 % 2 = 1), kind := w 0 / 2 % 4, gate := decide (w 0 / 8 % 2 = 1), gwin := w 0 / 256 % 64, part := w 0 / 2 ^ 16 % 256,
      job := w 0 / 2 ^ 32 % 65536, period := w 1 % 2 ^ 32, phase := w 2, waddr := w 3 % 2 ^ 32, wcl := w 3 / 2 ^ 32 % 128,
      queue := w 3 / 2 ^ 40 % 64, lpkt := w 4 % 2 ^ 52 }
    let k := (now - new.phase + new.period - 1) / new.period
    (¬ Allowed caller new.part → ∃ t, exec (.tickSet m caller tg ws) s = .next t ∧ Refused m s t) ∧
    (Allowed caller new.part → old.part = 0 ∨ Allowed caller old.part →
      (new.en = false → exec (.tickSet m caller tg ws) s = .next (done m (onTick s m tg new))) ∧
      (new.en = true → new.kind = 3 ∨ new.period < 1000 → ∃ t, exec (.tickSet m caller tg ws) s = .next t ∧ Refused m (onTick s m tg { new with en := false }) t) ∧
      (new.en = true → new.kind ≠ 3 → 1000 ≤ new.period → old.en = false →
        exec (.tickSet m caller tg ws) s = .next (done m (onTick s m tg { new with k := k, miss := old.miss % 2 ^ 32 })) ∧
        now ≤ new.phase + k * new.period ∧ ∀ j, j < k → new.phase + j * new.period < now))) ∧
  (∀ (m tg : Nat) (s : State), let t := tickAt s m tg
    t.en = true → ¬ Halted s m t.job → t.phase + t.k * t.period ≤ nowOf s m → nowOf s m < t.phase + (t.k + 1) * t.period → t.gate = false →
    noneWaits s m tg →
    let f := t.phase + t.k * t.period
    let fired := { t with k := t.k + 1, miss := t.miss % 2 ^ 32, last := some f, fcnt := (t.fcnt + 1) % 2 ^ 64 }
    let missed := { t with k := t.k + 1, miss := (t.miss % 2 ^ 32 + 1) % 2 ^ 32, last := some f }
    (t.kind = 2 → exec (.tickFiring m tg) s = .next (onTick s m tg fired)) ∧
    (t.kind = 1 → ∀ ws, imageAt s m t.lpkt = some ws →
      (devicePackets (queueAt s m t.queue) < 8 → exec (.tickFiring m tg) s = .next (onQueue (onTick s m tg fired) m t.queue fun q =>
        { q with pkts := q.pkts ++ [⟨ws.take 2 ++ [f % 2 ^ 32, f / 2 ^ 32 % 2 ^ 32] ++ ws.drop 4, true, false⟩] })) ∧
      (8 ≤ devicePackets (queueAt s m t.queue) → exec (.tickFiring m tg) s = .next (onTick s m tg missed))) ∧
    (t.kind = 1 → hasTarget t.lpkt 64 = false → exec (.tickFiring m tg) s = .next (onTick s m tg missed)) ∧
    (t.kind = 0 → t.waddr % 8 = 0 → scratchOnly t.waddr 8 = true → t.wcl < 96 →
      exec (.tickFiring m tg) s = .next (onTick (dueIn s (96 * m + t.wcl) ⟨0, 1, tg, t.waddr, leBytes 8 t.k, false, .nothing⟩) m tg fired))) ∧
  (∀ (m tg : Nat) (n : Int) (w : Window) (s : State), let t := tickAt s m tg
    let f := t.phase + t.k * t.period
    t.en = true → ¬ Halted s m t.job → f ≤ nowOf s m → nowOf s m < t.phase + (t.k + 1) * t.period → noneWaits s m tg →
    t.gate = true → windowAt s m t.gwin = some w → w.job = t.job → 0 < w.period → closesAt w n ≤ f → (f : Int) < closesAt w (n + 1) →
    (w.pol = 2 → n ∈ w.missing → exec (.tickFiring m tg) s = .next (onTick s m tg
      { t with k := t.k + 1, miss := t.miss % 2 ^ 32, last := some f, skip := (t.skip + 1) % 2 ^ 32 })) ∧
    (w.pol ≠ 2 ∨ n ∉ w.missing → t.kind = 2 → exec (.tickFiring m tg) s = .next (onTick s m tg
      { t with k := t.k + 1, miss := t.miss % 2 ^ 32, last := some f, fcnt := (t.fcnt + 1) % 2 ^ 64 }))) ∧
  ∀ (m tg k t0 : Nat) (s : State), let t := tickAt s m tg
    t.en = true → ¬ Halted s m t.job → t.phase + t.k * t.period ≤ nowOf s m → nowOf s m < t.phase + (t.k + 1) * t.period → t.kind = 2 →
    k ∈ s.cores.map Prod.fst → k / 768 = m → (getCore s k).wait = .waittk tg t0 none → t0 < t.phase + t.k * t.period →
    ∃ s' d, exec (.tickFiring m tg) s = .next s' ∧ d ≤ 37 ∧ (getCore s' k).wait = .waittk tg t0 (some (s.cycle + d))

/-- Token windows: the statements `WindowEvents`, `TokenEvents` together. -/
def Obligations.TokenWindowEvents : Prop := Claims.WindowEvents ∧ Claims.TokenEvents

/-- R60, R61, R62, R183, R189, R254: what becomes visible or is performed for one core: fetch blocks arrive, results land, stores are performed, stream units
move, the kitty releases its head, and a `rel` completes, once its writes have been performed, from a cycle on that the device chooses (log 9). -/
def Obligations.CoreEvents : Prop :=
  (∀ (s : State), let shut := fun b : Nat => weightOnly (512 * b) 512 && inRefresh s (s.place / 96) (512 * b) 512
    let came := ((coreHere s).fills.filter fun x => decide (x.2 ≤ s.cycle) && !shut x.1).map Prod.fst
    let left := (coreHere s).fills.filter fun x => decide (s.cycle < x.2) || shut x.1
    exec .fetchBlockFill s = .next (came.foldl (fun s b => clearMarks s 4 s.place (512 * b) 512) <| onPlace s fun c => { c with
        fcache := (came ++ c.fcache.filter fun b => !came.contains b).take 32, fills := left,
        seq := if c.seq = .entry ∧ left = [] then .running else c.seq })) ∧
  (∀ (s : State), (coreHere s).stepT = none → (∀ load slot ea t a m l tr, (coreHere s).wait ≠ .graph load slot ea t a m l tr) →
    ∃ t, exec .resultLand s = .next t ∧ (∀ p ∈ (coreHere t).pend, s.cycle < p.vis) ∧ t.dies = s.dies ∧ t.jobs = s.jobs ∧ t.flights = s.flights ∧
      ∀ d v tag vis seq sl ra, (coreHere s).pend = [⟨vis, seq, sl, ra, .sreg d v tag⟩] → vis ≤ s.cycle →
        (coreHere t).regs = if d = 0 then (coreHere s).regs else { (coreHere s).regs with
          s := Tbl.set (coreHere s).regs.s d (if tag.isSome then 0 else v), sTag := Tbl.set (coreHere s).regs.sTag d tag }) ∧
  (∀ (s : State) (a seq sl perf : Nat) (bs : List Nat), (coreHere s).stepT = none → (coreHere s).stores = [⟨perf, seq, sl, .bytes a bs⟩] →
    Unswapped s (s.place / 8) → ∃ t, exec .storePerform s = .next t ∧
      (perf ≤ s.cycle → (coreHere t).stores = [] ∧ storedOver s t (s.place / 8) a bs) ∧
      (s.cycle < perf → (coreHere t).stores = (coreHere s).stores ∧ t.clusters = s.clusters)) ∧
  (∀ (s : State) (a n x y d seq sl perf op : Nat) (sgn : Bool), (coreHere s).stepT = none →
    (coreHere s).stores = [⟨perf, seq, sl, .amo op sgn a n x y d⟩] → perf ≤ s.cycle → (coreHere s).pend = [⟨seq + 8, seq, sl, false, .amoS d none⟩] →
    Unswapped s (s.place / 8) →
    let old := leNat (readScratch (getCluster s (s.place / 8)) a n)
    ∃ t, exec .storePerform s = .next t ∧ (coreHere t).stores = [] ∧ (coreHere t).pend = [⟨seq + 8, seq, sl, false, .amoS d (some (BitVec.ofNat 64 old))⟩] ∧
      match amoValue op sgn n old (x % 2 ^ (8 * n)) (y % 2 ^ (8 * n)) with
      | some v => storedOver s t (s.place / 8) a (leBytes n v)
      | none => ∀ z, scratchByte t (s.place / 8) z = scratchByte s (s.place / 8) z) ∧
  (∀ (k u q : Nat) (st : Stream) (s : State), Going s k → chooseReg (unitRegs (getCore s k) u) = some (q, st) → streamOf (getCore s k) q = some st →
    let a := st.pat.addr st.pos
    let weights := inWeight a.toNat 1 = true
    (st.write = false → (st.slots.filter (SEntry.occupied s.cycle)).length < 4 → entryOutside s k st.pat st.pos = false →
      ¬ (weights ∧ inRefresh s (k / 96) a.toNat st.pat.len = true) → errorIn s k a.toNat st.pat.len = none →
      ∃ t, exec (.streamUnitMove k u) s = .next t ∧ streamOf (getCore t k) q = some { st with
        slots := st.slots.filter (SEntry.occupied s.cycle) ++ [⟨st.pos, (let bs := plainRead s k a.toNat st.pat.len; bs ++ List.replicate (512 - bs.length) 0),
          .ready (s.cycle + if inWeight a.toNat 1 then 7 else 3)⟩],
        pos := st.pos + 1, moves := st.moves + 1 }) ∧
    (st.write = false → 4 ≤ (st.slots.filter (SEntry.occupied s.cycle)).length → exec (.streamUnitMove k u) s = .next s) ∧
    (∀ e f, st.write = true → st.slots.find? SEntry.live = some e → e.st = .filled f → f + 3 ≤ s.cycle → Unswapped s (k / 8) →
      ∃ t, exec (.streamUnitMove k u) s = .next t ∧ storedOver s t (k / 8) (st.pat.addr e.pos).toNat (e.bs.take st.pat.len) ∧
        ∃ st', streamOf (getCore t k) q = some st' ∧ st'.moves = st.moves + 1 ∧ st'.pos = st.pos ∧
          (st'.slots.filter SEntry.live).length + 1 = (st.slots.filter SEntry.live).length)) ∧
  (∀ (xs : List (Nat × Stream)) (x : Nat × Stream), chooseReg xs = some x → x ∈ xs ∧ ∀ y ∈ xs, x.2.moves ≤ y.2.moves) ∧
  (∀ (e : KEntry) (es : List KEntry) (s : State), (coreHere s).kitty = e :: es → (coreHere s).kittyFrom ≤ s.cycle → (coreHere s).ra = none → Going s s.place →
    let k := s.place
    (∀ seq sl segs tag later, e = .store seq sl segs tag later → exec .kittyRelease s = .next (onPlace s fun c =>
      if segs.all fun x => decide (x.1 + x.2.length ≤ 0x380000)
      then { c with kitty := es, pend := c.pend ++ [⟨s.cycle + 3, s.cycle, sl, false, .released segs tag seq later⟩] }
      else { c with kitty := es, stores := c.stores ++ segs.map fun x => ⟨s.cycle + 3, seq, sl, .bytes x.1 x.2⟩ })) ∧
    (∀ r j, e = .req r j → queued (getCluster s (k / 8)) (k % 8 / 2) < 16 → exec .kittyRelease s = .next (acceptReq (k / 8) (k % 8 / 2) { r with issued := s.cycle }
      (onPlace s fun c => { c with kitty := es, kittyBytes := c.kittyBytes - j }))) ∧
    (∀ b, e = .rel b → exec .kittyRelease s = .next (onPlace s fun c =>
      { c with kitty := es, heldBind := c.heldBind.filter (· != b), rels := c.rels ++ [⟨b, s.cycle, none⟩] })) ∧
    (∀ b, e = .pub b → (getCluster s (k / 8)).pubs = [] → exec .kittyRelease s = .next (onClusterNo s (k / 8) fun x =>
      { x with pubs := [⟨b, s.cycle + 3, s.nextId, k, none, true⟩] }))) ∧
  ∀ (r : RelOp) (rs : List RelOp) (x : Binding) (s : State), (coreHere s).rels = r :: rs → (getCluster s (s.place / 8)).bindings[r.b]? = some x →
    x.virt = false → (coreHere s).stepT = none → r.issued < s.cycle → (coreHere s).wait = .none → storesBefore (coreHere s) r.issued = false →
    requestsBefore s s.place r.issued x = false → Unswapped s (s.place / 8) →
    (∀ w, r.due = some w → w ≤ s.cycle → ∃ t, exec .relComplete s = .next t ∧ (coreHere t).rels = rs ∧
      storedOver s t (s.place / 8) x.sync (leBytes 8 (
        let w := syncWord s (s.place / 8) x
        let v := w / 2 ^ 32 * 2 ^ 32 + (w % 2 ^ 32 + 1) % 2 ^ 32
        if x.excl then v % 2 ^ 32 + v / 2 ^ 51 * 2 ^ 51 else v))) ∧
    (∀ w, r.due = some w → s.cycle < w → exec .relComplete s = .next s) ∧
    (r.due = none → ∃ t d, exec .relComplete s = .next t ∧ (0 < d → t.clusters = s.clusters ∧ (coreHere t).rels = { r with due := some (s.cycle + d) } :: rs))

/-- R33, R213, R216, R217, R269, R278, R288: the wakes of a waiting sequencer: each within its bound, and never before what it waits for. A write to a byte
of the word of a `waita` that satisfies it after the first test sets a wake within 40 cycles, and one to a shadow tests nothing; a fence waits for what its
scope covers (`FenceCovers`). A `tokget` whose payload is still due takes its sample a cycle later, up to T + 200 (what it gives then is the model's choice,
log 112). -/
def Obligations.WakeEvents : Prop :=
  (∀ (s : State) (k scope t : Nat), scope ≤ 2 → (fenceDone s k scope t = true ↔ FenceCovers s k scope t)) ∧
  (∀ (a wa n x bundle t0 k : Nat) (c : WCond) (bs : List Nat) (s : State), (getCore s k).wait = .waita wa n c x bundle t0 none →
    (let t := scratchWrite (k / 8) false a bs s
     let w := leNat (readScratch (getCluster t (k / 8)) wa n)
     let sat := match c with | .eq => w = x | .ne => w ≠ x | .ge => x ≤ w | .lt => w < x
     (meets a bs.length wa n = true → t0 < s.cycle → sat →
       ∃ d, 1 ≤ d ∧ d ≤ 40 ∧ (getCore t k).wait = .waita wa n c x bundle t0 (some (s.cycle + d))) ∧
     (meets a bs.length wa n = false ∨ s.cycle ≤ t0 ∨ ¬ sat → (getCore t k).wait = (getCore s k).wait)) ∧
    (getCore (scratchWrite (k / 8) true a bs s) k).wait = (getCore s k).wait) ∧
  ∀ (s : State), let k := s.place
    Going s k →
    (∀ a n c x bundle, (coreHere s).wait = .waita a n c x bundle s.cycle none →
      let w := leNat (readScratch (itsScratch s) a n)
      let sat := match c with | .eq => w = x | .ne => w ≠ x | .ge => x ≤ w | .lt => w < x
      (sat → ∃ t, exec .waitaWake s = .next t ∧ Woken s t k (s.cycle + 1) ∧ (coreHere t).regs = (coreHere s).regs) ∧
      (¬ sat → exec .waitaWake s = .next s)) ∧
    (∀ a n c x bundle t0 w, (coreHere s).wait = .waita a n c x bundle t0 (some w) →
      (w ≤ s.cycle → ∃ t, exec .waitaWake s = .next t ∧ Woken s t k s.cycle) ∧ (s.cycle < w → exec .waitaWake s = .next s)) ∧
    (∀ target, (coreHere s).wait = .waitt target none →
      (target ≤ dieTime s (k / 96) → ∃ t d, d ≤ 37 ∧ exec .waittWake s = .next t ∧
        (if d = 0 then Woken s t k s.cycle else (coreHere t).wait = .waitt target (some (s.cycle + d)))) ∧
      (dieTime s (k / 96) < target → exec .waittWake s = .next s)) ∧
    (∀ tg t0 w, (coreHere s).wait = .waittk tg t0 (some w) → w ≤ s.cycle → ∃ t, exec .waittkWake s = .next t ∧ Woken s t k s.cycle) ∧
    (∀ tg t0, (coreHere s).wait = .waittk tg t0 none → exec .waittkWake s = .next s) ∧
    (∀ b t0 x, (coreHere s).wait = .acq b (some t0) → t0 ≤ s.cycle → (getCluster s (k / 8)).bindings[b]? = some x → x.virt = false → Unswapped s (k / 8) →
      let w := syncWord s (k / 8) x
      (w / 2 ^ 32 % 2 ^ 19 = 0 → ∃ t, exec .acqAttempt s = .next t ∧ Woken s t k (s.cycle + 1) ∧ (coreHere t).heldBind = b :: (coreHere s).heldBind ∧
        storedOver s t (k / 8) x.sync (leBytes 8 (w % 2 ^ 32 + (768 * (getCluster s (k / 8)).ctx.member + k % 768 + 1) * 2 ^ 32 + w / 2 ^ 51 * 2 ^ 51)) ∧
        (∀ y ∈ (getCluster t (k / 8)).cache, y.b ≠ b)) ∧
      (w / 2 ^ 32 % 2 ^ 19 ≠ 0 → exec .acqAttempt s = .next (onPlace s fun c => { c with wait := .acq b none }))) ∧
    (∀ scope t0, (coreHere s).wait = .fence scope t0 →
      (t0 < s.cycle ∧ fenceDone s k scope t0 = true → exec .fenceComplete s = .next (onPlace s fun c => { c with wait := .none })) ∧
      (¬ (t0 < s.cycle ∧ fenceDone s k scope t0 = true) → exec .fenceComplete s = .next s)) ∧
    (∀ w d slot word q l last addr mask loops trace x, (coreHere s).wait = .tokget w d slot word q l last addr mask loops trace → q = s.cycle → s.cycle < l →
      windowFor s k w = some x →
      (payloadDue s k x slot = false → x.h - x.depth ≤ slot →
        ∃ t, exec .tokgetResult s = .next t ∧ (coreHere t).wait = .tokget w d slot (x.word slot) q l last addr mask loops trace ∧
          (coreHere t).regs = (coreHere s).regs) ∧
      (payloadDue s k x slot = true → q < last → exec .tokgetResult s = .next (onPlace s fun c =>
        { c with wait := .tokget w d slot word (q + 1) (max l (q + 1)) last addr mask loops trace }))) ∧
    (∀ w d slot word q l last addr mask loops trace, (coreHere s).wait = .tokget w d slot word q l last addr mask loops trace → q < s.cycle →
      (l ≤ s.cycle → exec .tokgetResult s = .next (onPlace s fun c =>
        { c with
          wait := .none, nextIssue := max c.nextIssue s.cycle
          regs := if d = 0 then c.regs else { c.regs with s := Tbl.set c.regs.s d (BitVec.ofNat 64 word), sTag := Tbl.set c.regs.sTag d none } })) ∧
      (s.cycle < l → ∃ t, exec .tokgetResult s = .next t ∧ (coreHere t).wait = (coreHere s).wait ∧ (coreHere t).regs = (coreHere s).regs))

/-- Traps and unwinds: the statements `TrapEntry`, `ErrorUnwind` together. The model's choices in them: latches, system registers, the region stack, stream fills
and window releases take their own course and are not held by a trap (log 59), `sys.trapaddr` keeps the bundle's address modulo 2^32 (log 17), and the region
stack of an unwind is the one that stands once a `ctopen` or `ctclose` of the same bundle has landed (log 102). -/
def Obligations.TrapAndUnwind : Prop := Claims.TrapEntry ∧ Claims.ErrorUnwind

/-- R35, R360, R118, R42: the events that stop or end a sequencer: the stall watchdog and an asynchronous trap take their traps at the blocked and at the
next bundle, a core whose `end` has issued retires once nothing of it is under way, and a stopped broadcast group sends again once every core may return, its
delay lines moved together. -/
def Obligations.SequencerEvents : Prop :=
  ∀ (s : State), let k := s.place
    let c := coreHere s
    (2 ^ (getCluster s (k / 8)).ctx.wdog ≤ c.wd → c.ra = none → TrapOpen s k → ∃ t, exec .stallWatchdogExpiry s = .next t ∧
      TrapTaken s t k c.pc s.cycle (c.replay.getD 0) 0x20 0) ∧
    (∀ cause detail rest, c.async = (cause, detail) :: rest → c.seq = .running → c.wait = .none → c.nextIssue ≤ s.cycle → c.ra = none → c.replay = none →
      Going s k → TrapOpen s k → ∃ t, exec .asyncTrap s = .next t ∧ TrapTaken s t k c.pc s.cycle 0 cause detail ∧ (coreHere t).async = rest) ∧
    (c.seq = .ending → c.frozen = false → c.frozenHeld = [] → c.pend = [] → c.stores = [] → c.kitty = [] → c.rels = [] → c.wait.awaits = false →
      (∀ x ∈ c.streams, ∀ st, x.2 = some st → st.write = false ∨ ∀ e ∈ st.slots, e.live = false) → ∃ t, exec .sequencerRetire s = .next t ∧
        coreHere t = { c with seq := .retired, streams := c.streams.map fun x => (x.1, x.2.map fun st => { st with slots := [] }) } ∧ (c.async ≠ [] → (getCluster t (k / 8)).failedCopy = true)) ∧
    (c.seq = .ending → c.frozen = true ∨ c.frozenHeld ≠ [] ∨ c.pend ≠ [] ∨ c.stores ≠ [] ∨ c.kitty ≠ [] ∨ c.rels ≠ [] → exec .sequencerRetire s = .next s) ∧
    ((getCluster s k).stopped = true → (∀ r, r < 8 → mayReturn s (8 * k + r) = true) → ∃ t, exec .broadcastGroupReturn s = .next t ∧
      getCluster t k = { getCluster s k with stopped := false } ∧ ∃ d, ∀ r, r < 8 → (getCore t (8 * k + r)).regs = (getCore s (8 * k + r)).regs ∧
        (getCore t (8 * k + r)).pc = (getCore s (8 * k + r)).pc ∧ (getCore s (8 * k + r)).nextIssue ≤ (getCore t (8 * k + r)).nextIssue ∧
        (getCore t (8 * k + r)).line = (getCore s (8 * k + r)).line.map fun x => { x with due := x.due + d }) ∧
    (∀ r, r < 8 → mayReturn s (8 * k + r) = false → exec .broadcastGroupReturn s = .next s) ∧
    ((getCluster s k).stopped = false → exec .broadcastGroupReturn s = .next s)

/-- Tricks and calls: the statements `TrickEvents`, `CallEvents` together. -/
def Obligations.AgreementEvents : Prop := Claims.TrickEvents ∧ Claims.CallEvents

/-- R315 to R329: the events of graphs: a signal of the slot's run increments its counter, which saturates, and fires what it reaches; an early one is held, one that
finds the table full is sent again after 1,000 ns, a stale one is answered and counted, and one at a counter beyond NCNT fails; contributions are held until
their FRECV takes them, and one that names no FRECV fails its sender; an operation completes; and a run that is over writes its record. The halt wave holds what
arrives. The model's choices here: how a packet finds its slot and its run (log 12), the kept slot of a fold buffer (log 80), a fired operation that waits behind
a full queue (log 81), the open status of a failed sender (log 82), and signals held while the frame of a landing save is written (log 106). -/
def Obligations.GraphEvents : Prop :=
  (∀ (m : Nat) (g : Signal) (s : State), ArrivedFree s (.signal m g) →
    (receiversHeld s m g.job = true → exec .graphSignalArrival s = .next s) ∧
    (receiversHeld s m g.job = false →
    (∀ c x, runVs (landed s) m g.job g.lcl g.slot g.run = (some c, .eq) → slotAt s c g.slot = some x → guestSave s c = false → x.ncnt ≤ g.cnt →
      ∃ t n, exec .graphSignalArrival s = .next t ∧ 1 ≤ n ∧ n ≤ 6 ∧ AnswerSent (landed s) t g.from_ n ∧ t.clusters = s.clusters) ∧
    (∀ c x, runVs (landed s) m g.job g.lcl g.slot g.run = (some c, .eq) → slotAt s c g.slot = some x → guestSave s c = false → g.cnt < x.ncnt →
      let v := min 65535 (x.counters.getD g.cnt 0 + g.inc)
      let bare := { x with counters := x.counters.set g.cnt v }
      (bare.failed ≠ none ∨ bare.active = false ∨ (∀ i o, x.op i = some o → x.stateOf i = .armed → o.cnt = g.cnt → v < o.thr) →
        ∃ t, exec .graphSignalArrival s = .next t ∧ slotAt t c g.slot = some bare ∧ AnswerSent (landed s) t g.from_ 0) ∧
      (∀ i o, bare.failed = none → bare.active = true → bare.reached g.cnt v = [i] → x.op i = some o → o.kind = 3 → memberLives s (getCluster s c).ctx.job o.mem = true →
        signalBad (landed s) c g.slot o = false → i < x.states.length → ∃ t x' q, exec .graphSignalArrival s = .next t ∧ slotAt t c g.slot = some x' ∧ x'.stateOf i = .fired ∧ q.r.kind = .graph g.slot i ∧
          (if (queueOf (getCluster s c) (i % 4)).length < 16 then (queueOf (getCluster t c) (i % 4)) = queueOf (getCluster s c) (i % 4) ++ [q]
            else (getCluster t c).backlog = (getCluster s c).backlog ++ [(i % 4, q)]) ∧ AnswerSent (landed s) t g.from_ 0)) ∧
    (∀ c, runVs (landed s) m g.job g.lcl g.slot g.run = (c, .lt) → ∃ t, exec .graphSignalArrival s = .next t ∧ sharedCount s t m 20 ∧
      t.clusters = s.clusters ∧ AnswerSent (landed s) t g.from_ 0) ∧
    (∀ c o, runVs (landed s) m g.job g.lcl g.slot g.run = (c, o) → o = .gt ∨ (∃ d, c = some d ∧ o = .eq ∧ guestSave s d = true) →
      ((getMod s m).signals.length < 64 → exec .graphSignalArrival s = .next (onMod (landed s) m fun x => { x with signals := x.signals ++ [g] })) ∧
      (64 ≤ (getMod s m).signals.length → ∃ t id due, exec .graphSignalArrival s = .next t ∧ s.cycle + (unitOf s (g.from_.1 / 96)).cyclesFor 1000 < due ∧
        t.flights = (landed s).flights ++ [⟨id, due, true, .signal m g⟩] ∧ t.clusters = s.clusters ∧ t.mods = s.mods)))) ∧
  (∀ (m : Nat) (g : Signal) (due : Nat) (s : State), s.flights.find? (fun f => f.id == s.place) = some ⟨s.place, due, true, .signal m g⟩ → due ≤ s.cycle →
    ∃ t id due, exec .signalRetry s = .next t ∧ s.cycle < due ∧ t.flights = (landed s).flights ++ [⟨id, due, false, .signal m g⟩] ∧ t.clusters = s.clusters ∧
      t.mods = (countFlits (g.from_.1 / 96) m true 1 s).mods) ∧
  (∀ (m : Nat) (k : Contribution) (s : State), ArrivedFree s (.contribution m k) →
    (receiversHeld s m k.job = true ∨ foldHeld s m k 0 = true → exec .foldContributionArrival s = .next s) ∧
    (receiversHeld s m k.job = false →
    (∀ c x, runVs (landed s) m k.job k.lcl k.slot k.run = (some c, .eq) → slotAt s c k.slot = some x → foldHeld s m k 0 = false →
      (∀ o, x.op k.op = some o → o.kind = 2 →
        (x.stateOf k.op ≠ .completed → recvReq s c k.slot k.op = none →
          exec .foldContributionArrival s = .next (onMod (landed s) m fun y => { y with contribs := y.contribs ++ [k] })) ∧
        (x.stateOf k.op = .completed → ∃ t, exec .foldContributionArrival s = .next t ∧ AnswerSent (landed s) t k.from_ 0 ∧ SameMods s t)) ∧
      ((∀ o, x.op k.op = some o → o.kind ≠ 2) → ∃ t n, exec .foldContributionArrival s = .next t ∧ 1 ≤ n ∧ n ≤ 6 ∧ AnswerSent (landed s) t k.from_ n ∧
        SameMods s t)) ∧
    (∀ c, runVs (landed s) m k.job k.lcl k.slot k.run = (c, .lt) →
      ∃ t, exec .foldContributionArrival s = .next t ∧ sharedCount s t m 20 ∧ AnswerSent (landed s) t k.from_ 0) ∧
    (∀ c, runVs (landed s) m k.job k.lcl k.slot k.run = (c, .gt) → (getMod s m).contribs.length + (getMod s m).partials.length < 192 →
      exec .foldContributionArrival s = .next (onMod (landed s) m fun y => { y with contribs := y.contribs ++ [k] })))) ∧
  (∀ (m : Nat) (k : Contribution) (len off : Nat) (bs : List Nat) (c e : Nat) (s : State), ArrivedFree s (.fold m k len off bs c e) →
    (receiversHeld s m k.job = true ∨ (deadHere s k.job m = false ∧ foldHeld s m k len = true) → exec .foldContributionArrival s = .next s) ∧
    (receiversHeld s m k.job = false → deadHere s k.job m = false → foldHeld s m k len = false → (∀ p ∈ (getMod s m).partials, p.k ≠ k) → bs.length < len →
      ∃ t, exec .foldContributionArrival s = .next t ∧ (⟨k, len, [(off, bs)]⟩ : Partial) ∈ (getMod t m).partials)) ∧
  (∀ (c g i status : Nat) (x : GSlot) (s : State), Arrived s (.graphDone c g i status) →
    (receiversHeld s (c / 96) (getCluster s c).ctx.job = true → exec .graphOperationComplete s = .next s) ∧
    (receiversHeld s (c / 96) (getCluster s c).ctx.job = false → slotAt s c g = some x → x.active = false ∨ x.stateOf i ≠ .fired → exec .graphOperationComplete s = .next (landed s)) ∧
    (receiversHeld s (c / 96) (getCluster s c).ctx.job = false → slotAt s c g = some x → x.active = true → x.stateOf i = .fired →
      (getMod s (c / 96)).contribs = [] → status ≠ 0 ∨ (∀ o, x.op i = some o → o.ien = false) →
      ∃ t, exec .graphOperationComplete s = .next t ∧ t.flights = (landed s).flights ∧ slotAt t c g =
        some { x with states := x.states.set i .completed, failed := if status ≠ 0 ∧ x.failed = none then some (i, status) else x.failed })) ∧
  ∀ (c g : Nat) (x : GSlot) (s : State), slotAt s c g = some x →
    (runOver s c g x = false → exec (.graphRunFinish c g) s = .next s) ∧
    (x.active = true → x.finishing = false → (∀ st ∈ x.states, st = .completed ∨ (x.failed ≠ none ∧ st = .armed)) →
      let f := x.failed.getD (0, 0)
      let status := if x.failed ≠ none then 3 else if x.dead then 2 else if x.moved then 0 else 1
      let bit := fun b : Bool => if b then 1 else 0
      ∃ t, exec (.graphRunFinish c g) s = .next t ∧ slotAt t c g = some { x with finishing := true } ∧ t.mods = s.mods ∧ t.cores = s.cores ∧
        (getCluster t c).due = (getCluster s c).due ++ [⟨0, 3, g, x.recAddr,
          leBytes 4 (status + f.2 * 2 ^ 8 + f.1 * 2 ^ 16 + bit x.dead * 2 ^ 22 + bit x.irqen * 2 ^ 23) ++ leBytes 4 x.run ++ leBytes 4 x.sig ++
            leBytes 4 ((x.states.filter fun st => decide (st = .completed)).length) ++ leBytes 8 (nowOf s (c / 96)) ++ leBytes 8 0, false, .graph g 0⟩])

/-- R384, R385, R387, R389: the fetcher of a queue, at a doorbell, at its poll and at a repeated read: a packet is taken once, only with the expected sequence
number and agreeing CHK and FOLD; torn words are read again after 1,000 ns; after 16 such reads (the count is DEDUCED, log 23) the queue pauses. The record of
an absent ring page is told the host or waits for room in the fault ring (when the ring has room is open, log 105). A module that is not up does none of it. -/
def Obligations.QueueEvents : Prop :=
  (∀ (i : Instr) (m n : Nat) (s : State), let q := queueAt s m n
    let now := nowOf s m
    i = .queueDoorbell m n ∧ (getMod s m).fwHeld = [] ∨ (i = .queuePollTimer m n ∧ q.retries = 0 ∧ q.poll ≤ now) ∨
      (i = .packetRead m n ∧ 0 < q.retries ∧ q.poll ≤ now) →
    let size := 2 ^ q.qlog
    let ahead := (q.qpos + 2 ^ 32 - q.qcack % 2 ^ 32) % 2 ^ 32
    let va := q.qbase + 64 * (q.qpos % size)
    let mayRead := (getMod s m).up = true ∧ q.go = true ∧ q.pause = false ∧ (ahead < size ∨ 2 ^ 31 ≤ ahead) ∧ (getMod s m).fwPause ≤ now
    let told := fun t : State => t.hostMsgs = s.hostMsgs ++ if q.irqen then [.interrupt m q.irqv q.part 0] else []
    (¬ mayRead → exec i s = .next s) ∧
    (mayRead → ∀ pa, ringPlace (getMod s m) q va 64 = .inr pa →
      let ws := wordsOf 16 (physRead (getMod s m) pa 64)
      let there := ws.getD 0 0 % 65536 = q.qpos / size % 65535 + 1
      let whole := sealed ws ∧ (isHost pa = true ∨ hbmMarked (getMod s m) pa 64 = false)
      (¬ there → exec i s = .next (onQueue s m n fun q => { q with retries := 0, poll := now + 10000 })) ∧
      (there → whole → exec i s =
        .next (onQueue s m n fun q => { q with retries := 0, poll := now + 10000, qpos := q.qpos + 1, pkts := q.pkts ++ [⟨ws, false, false⟩] })) ∧
      (there → ¬ whole → q.retries < 16 → exec i s = .next (onQueue s m n fun q => { q with retries := q.retries + 1, poll := now + 1000 })) ∧
      (there → ¬ whole → 16 ≤ q.retries → ∃ t, exec i s = .next t ∧ (queueAt t m n).pause = true ∧ (queueAt t m n).err = true ∧
        (queueAt t m n).pkts = q.pkts ∧ (queueAt t m n).qpos = q.qpos ∧ told t)) ∧
    (mayRead → ringPlace (getMod s m) q va 64 = .inl false → ∃ t, exec i s = .next t ∧
      (queueAt t m n).pause = true ∧ (queueAt t m n).err = true ∧ (queueAt t m n).flt = q.flt ∧ (queueAt t m n).pkts = q.pkts ∧ told t) ∧
    (mayRead → ringPlace (getMod s m) q va 64 = .inl true → ∃ t, exec i s = .next t ∧
      (queueAt t m n).pause = true ∧ (queueAt t m n).flt = true ∧ (queueAt t m n).err = q.err ∧ (queueAt t m n).pkts = q.pkts ∧
      let ws := [0, 0, 0, va / 65536 * 65536, n, 1023, now]
      (HostMsg.pageFault m q.part ws ∈ t.hostMsgs ∨ (getMod t m).faultWait = (getMod s m).faultWait ++ [(q.part, ws)]))) ∧
  ∀ (m caller n : Nat) (s : State), Allowed caller (queueAt s m n).part → (getMod s m).up = true → (getMod s m).fwHeld = [] →
    (∃ t, exec (.queueGo m caller n) s = .next t ∧ (queueAt t m n).go = true ∧
      exec (.queueDoorbell m n) (onQueue s m n fun q => { q with
        go := true, pause := false, retries := 0, qpos := if q.qpos % 2 ^ 32 = 0 ∧ q.qcpos = 0 ∧ q.qcack = 0 then 0 else q.qpos }) = .next t) ∧
    (∀ err flt, exec (.queueErrClear m caller n err flt) s =
      .next (onQueue s m n fun q => { q with err := if err then false else q.err, flt := if flt then false else q.flt })) ∧
    (∀ v, exec (.queueCompletionAck m caller n v) s = .next (onQueue s m n fun q => { q with qcack := v }))

/-- R330, R332, R334, R336 to R338, R351: the launch unit: a head packet is refused, dropped, made READY or tested again within 1,000 ns, a dependence met once
staying met; the best candidate takes free clusters of its partition on its dies, but for dies that reservations of better ones keep, older ones at an equal
effective priority (that older ones go first, and that a decision places one launch, are the model's choices, logs 89 and 54); LOADING sets the context of
every cluster and starts its cores at the entry with the argument in s1; and a write into weight stores is performed on idle dies that are still its
partition's when it begins. -/
def Obligations.LaunchEvents : Prop :=
  (∀ (m n : Nat) (s : State), (queueAt s m n).en = true →
    (∀ p ps, headLaunch (getMod s m) n = none → (queueAt s m n).pkts = p :: ps →
      (p.gone = true → ∃ t, exec (.dependenceTest m n) s = .next t ∧ DroppedHead s t m n 7 p.words) ∧
      (p.gone = false → packetBad s m (queueAt s m n).part p.words = true →
        ∃ t, exec (.dependenceTest m n) s = .next t ∧ DroppedHead s t m n 8 p.words)) ∧
    (headLaunch (getMod s m) n = none → (queueAt s m n).pkts = [] → exec (.dependenceTest m n) s = .next s) ∧
    (∀ p ps, headLaunch (getMod s m) n = none → (queueAt s m n).pkts = p :: ps → p.gone = false → packetBad s m (queueAt s m n).part p.words = false →
      depOf (getMod s m) n p.words = .unknown → ∃ t, exec (.dependenceTest m n) s = .next t ∧ DroppedHead s t m n 5 p.words) ∧
    ∀ l, headLaunch (getMod s m) n = some l → l.state = .waiting → l.depTest ≤ nowOf s m → (getMod s m).launches.filter (fun x => x.uid == l.uid) = [l] →
      let dep := if l.depMet then .met else depOf (getMod s m) n l.words
      let word := l.wordMet || depwMet (getMod s m) l.words
      (dep = .failed → ∃ t, exec (.dependenceTest m n) s = .next t ∧ DroppedHead s t m n 6 l.words) ∧
      (dep = .met → word = true → pktKind l.words = 0 →
        (∀ tm, templateAt (getMod s m) (pktTmpl l.words) = some tm →
          (templateBad tm = false → ∃ t, exec (.dependenceTest m n) s = .next t ∧
            launchNow t m l.uid = some { l with state := .ready, tmpl := tm, eligible := nowOf s m } ∧ (queueAt t m n).pkts = (queueAt s m n).pkts) ∧
          (templateBad tm = true → ∃ t, exec (.dependenceTest m n) s = .next t ∧ DroppedHead s t m n 1 l.words)) ∧
        (templateAt (getMod s m) (pktTmpl l.words) = none → ∃ t, exec (.dependenceTest m n) s = .next t ∧ DroppedHead s t m n 1 l.words)) ∧
      (dep ≠ .failed → ¬ (dep = .met ∧ word = true) → ∃ t w, exec (.dependenceTest m n) s = .next t ∧ 1 ≤ w ∧ w ≤ 1000 ∧
        launchNow t m l.uid = some { l with depTest := nowOf s m + w, depMet := decide (dep = .met), wordMet := word })) ∧
  (∀ (s : State), let m := s.place
    (candidates s m = [] → exec .launchDecision s = .next (onMod s m fun x => { x with reserved := [] })) ∧
    ∀ x xs, sortBy (candBefore (getMod s m)) (candidates s m) = x :: xs → x.saved = none →
      let kept := keptDies (onMod s m fun y => { y with reserved := y.reserved.filter fun r => (x :: xs).any fun z => z.key == r }) m (x :: xs) x
      let n := x.l.tmpl.getD 1 0 % 128
      let dies := x.l.tmpl.getD 1 0 / 2 ^ 16 % 256
      let part := (queueAt s m x.l.queue).part
      ((partClusters s m part dies).length < n → ∃ t, exec .launchDecision s = .next t ∧ DroppedHead s t m x.l.queue 2 x.l.words) ∧
      (n ≤ (freeClusters s m part dies kept).length → ∃ (t : State) (cs : List Nat), exec .launchDecision s = .next t ∧ cs.length = n ∧ cs.Nodup ∧
        (queueAt t m x.l.queue).pkts = (queueAt s m x.l.queue).pkts.drop 1 ∧ t.cores = s.cores ∧
        ∀ c ∈ cs, c ∈ freeClusters s m part dies kept ∧ (getCluster t c).task = .loading ∧ (getCluster t c).ctx.uid = x.l.uid ∧ (getDie t (c / 12)).power = .active)) ∧
  (∀ (l : Launch) (s : State), let m := s.place / 96
    ((getMod s m).launches.find? fun l => l.uid == (getCluster s s.place).ctx.uid && l.state == .loading) = some l →
    (loadingBad s m l = true → ∃ t, exec .launchLoading s = .next t ∧ recordWaits s t m l.queue l.uid 1 l.level 0 l.nsave (l.tstart.getD 0) l.words ∧ t.cores = s.cores) ∧
    (loadingBad s m l = false → l.clusters.Nodup → ∃ t, exec .launchLoading s = .next t ∧
      ∀ c lcl, l.clusters[lcl]? = some c → (getCluster t c).task = .running ∧ (getCluster t c).ctx.uid = l.uid ∧ (getCluster t c).ctx.lcl = lcl ∧
        (getCluster t c).ctx.ncl = l.clusters.length ∧ (getCluster t c).ctx.level = l.level ∧ (getCluster t c).scratch = (getCluster s c).scratch ∧
        ∀ r, r < 8 → r < l.tmpl.getD 1 0 / 2 ^ 8 % 16 → (getCore t (8 * c + r)).pc = l.tmpl.getD 0 0 ∧ (getCore t (8 * c + r)).loops = [] ∧
          (getCore t (8 * c + r)).handler = false ∧ (getCore t (8 * c + r)).regs.getS 1 = BitVec.ofNat 64 (l.words.getD 2 0 + l.words.getD 3 0 * 2 ^ 32) ∧
          (∀ n, n ≠ 1 → (getCore t (8 * c + r)).regs.getS n = 0) ∧ (getCore t (8 * c + r)).regs.mem = [] ∧
          ((getCore t (8 * c + r)).seq = .entry ∨ (getCore t (8 * c + r)).seq = .running))) ∧
  ∀ (l : Launch) (s : State), let m := s.place
    (getMod s m).launches = [l] → pktKind l.words = 1 →
    let bad := writeBad s m (queueAt s m l.queue).part l.words
    (l.state = .ready → (queueAt s m l.queue).en = true → bad = true → ∃ t, exec .weightStoreWriteLaunch s = .next t ∧ DroppedHead s t m l.queue 8 l.words) ∧
    (l.state = .ready → (queueAt s m l.queue).en = true → bad = false → (∀ d ∈ writeDies m l, dieOpen s d = true ∧ dieIdle s d = true) →
      ∃ t, exec .weightStoreWriteLaunch s = .next t ∧ (∀ d ∈ writeDies m l, (getDie t d).writing = true) ∧ (queueAt t m l.queue).pkts = (queueAt s m l.queue).pkts.drop 1) ∧
    (l.state = .running → l.depTest ≤ s.cycle →
      let n := pktArg l.words % 2 ^ 32
      let src := pktTmpl l.words
      hasTarget src n = true → isHost src = true ∨ hbmMarked (getMod s m) src n = false →
      ∃ t, exec .weightStoreWriteLaunch s = .next t ∧ recordWaits s t m l.queue l.uid 0 l.level 0 l.nsave (l.tstart.getD 0) l.words ∧
        ∀ d ∈ writeDies m l, (getDie t d).writing = false ∧ (getDie t d).weights = Mem.write (getDie s d).weights (l.words.getD 12 0) (physRead (getMod s m) src n))

/-- R300, R305, R332, R335, R339, R340, R345 to R348, R352, R356: the end of a launch and its saves: tasks that are over end their launch with STATUS 0; a
record is written where its ring has room; the launch watchdog fails it with STATUS 4 and stops its cores with cause 0x62 and detail 0; a landed task takes the
lowest free frame or its save is abandoned, the engine writes the frame in chunks of 4,096 bytes, and the task is saved with the last (one save engine per
partition, and the save taken at its last chunk, are the model's choice, log 100); a saved task comes back with its context after the last chunk of its
restore; a whole-context save begins, for a guest or for the hypervisor (whose save waits for a phase under way, log 107, a choice); only the hypervisor
pre-empts a partition; and a controller is written or refused. A block of a reconstruction is done in a cycle that the device chooses (log 9). -/
def Obligations.TaskEvents : Prop :=
  (∀ (l : Launch) (s : State), let m := s.place
    (getMod s m).launches = [l] → l.state = .running → pktKind l.words = 0 → ¬ Halted s m l.job → l.clusters ≠ [] → (∀ c ∈ l.clusters, taskOver s c l.uid = true) →
    (∀ c ∈ l.clusters, (getCluster s c).failedCopy = false) → (∀ n, n = l.queue ∨ n ∈ (getMod s m).queues.map Prod.fst → (queueAt s m n).pause = true) →
    ∃ t, exec .launchComplete s = .next t ∧ recordWaits s t m l.queue l.uid 0 l.level 0 l.nsave (l.tstart.getD 0) l.words ∧ t.clusters = s.clusters) ∧
  (∀ (n pa uid : Nat) (r : List Nat) (rest : List (Nat × List Nat)) (s : State), let m := s.place
    let q := queueAt s m n
    (getMod s m).launches = [] → (getMod s m).faultWait = [] → (getMod s m).queues = [(n, q)] → q.comps = (uid, r) :: rest → q.pause = false →
    (q.qcpos + 2 ^ 32 - q.qcack % 2 ^ 32) % 2 ^ 32 < 2 ^ q.qlog → ringPlace (getMod s m) q (q.qcbase + 32 * (q.qcpos % 2 ^ q.qlog)) 32 = .inr pa →
    ∃ t, exec .launchComplete s = .next t ∧ (queueAt t m n).comps = rest ∧ (queueAt t m n).qcpos = (q.qcpos + 1) % 2 ^ 32 ∧
      t.hostMsgs = (s.hostMsgs ++ if q.irqen then [.interrupt m q.irqv q.part 0] else []) ∧
      ∀ i, i < 32 → physByte t m (pa + i) = (recordBytes n r (nowOf s m)).getD i 0 % 256) ∧
  (∀ (l : Launch) (s : State), let m := s.place
    (getMod s m).launches = [l] → watchdogOver s m l = true → l.state = .running → pktKind l.words = 0 → l.status = 0 →
    (∀ c ∈ l.clusters, (getCluster s c).task = .running ∧ (getCluster s c).ctx.uid = l.uid) →
    (∀ x ∈ (getMod s m).parts, x.2.act = true → x.2.dir = false → x.2.uid ≠ l.uid) →
    ∃ t, exec .launchWatchdogExpiry s = .next t ∧ launchNow t m l.uid = some { l with state := .failing, status := 4, cause := 0 } ∧
      ∀ c ∈ l.clusters, ∀ r, r < 8 → (getCore s (8 * c + r)).seq = .running →
        (getCore t (8 * c + r)).seq = .fatal ∧ (getCore t (8 * c + r)).trapcause = 0x62 ∧ (getCore t (8 * c + r)).trapdetail = 0) ∧
  (∀ (d : CvDesc) (s : State), let c := s.place
    let cl := getCluster s c
    let b := cl.recon
    let cls := classOf d cl.ctx.code b (skipIndex d cl.ctx.code b)
    let moved := { cl with task := .recon, recon := b + 1, reconAt := none }
    cl.cv = some d → cl.task = .running ∨ cl.task = .landing ∨ cl.task = .recon → d.rmode = false → b < (d.gx + 1) * (d.gy + 1) →
    cl.task = .recon ∨ copyFailed s (c / 96) cl.ctx.uid = false → coresOver s c = true → enginesHeld s c = false → (∀ x ∈ cl.due, x.cls ≠ 4) →
    (∃ l ∈ (getMod s (c / 96)).launches, l.uid = cl.ctx.uid ∧ (l.state = .running ∨ l.state = .recon ∨ l.state = .failing ∧ cl.task = .recon)) →
    (∀ w, cl.reconAt = some w → w ≤ s.cycle →
      let marked := cls ≠ .kept ∧ ∃ n ∈ reconSources d cl.ctx.code b ++ (if cls = .sampled then [b] else []), blockMarked s c d n = true
      (cls = .kept → exec .reconstructionPhase s = .next (onClusterNo s c fun _ => moved)) ∧
      (¬ marked → cls = .skipped → ∃ t, exec .reconstructionPhase s = .next t ∧ t.cores = s.cores ∧ getCluster t c =
        { moved with due := cl.due ++ (reconWrites d b (reconBlock cl d cl.ctx.code b).1).map fun p => ⟨3, 4, b, p.1, p.2, false, .nothing⟩ }) ∧
      (¬ marked → cls = .sampled → ∃ t, exec .reconstructionPhase s = .next t ∧ t.cores = s.cores ∧ getCluster t c = moved) ∧
      (marked → ∃ t, exec .reconstructionPhase s = .next t ∧ (getCluster t c).recon = d.blocks ∧ (getCluster t c).scratch = cl.scratch)) ∧
    (∀ w, cl.reconAt = some w → s.cycle < w → exec .reconstructionPhase s = .next s) ∧
    (cl.reconAt = none → ∃ t n, exec .reconstructionPhase s = .next t ∧ (0 < n → t.cores = s.cores ∧ getCluster t c = { cl with reconAt := some (s.cycle + n) }))) ∧
  (∀ (s : State), let c := s.place
    let m := c / 96
    let cl := getCluster s c
    let p := Tbl.get Part.reset (getMod s m).parts cl.part
    let now := fun (t : State) => Tbl.get Part.reset (getMod t m).parts cl.part
    p.preempted = false → cl.task = .landing → enginesHeld s c = false → allLanded s c = true → requestsOver s c = true → firedOver s c = true → dueOver s c = true →
    (∀ k ∈ usedCores s c, (getCore s k).seq = .landed → liveError s k = none) →
    (p.act = false → freeFrame p (saveSize s c) = none → ∃ t, exec .taskSave s = .next t ∧ (getCluster t c).task = .running ∧ (getCluster t c).holdoff = nowOf s m + 1000000 ∧
      (getCluster t c).preempt = false ∧ (now t).abandon = (p.abandon + 1) % 2 ^ 32 ∧
      t.hostMsgs = s.hostMsgs ++ [.abandoned m cl.part cl.ctx.uid c]) ∧
    (∀ f, p.act = false → freeFrame p (saveSize s c) = some f → ∃ t n, exec .taskSave s = .next t ∧ t.clusters = s.clusters ∧ t.cores = s.cores ∧
      now t = { p with act := true, dir := false, frame := f, lcl := c % 96, offset := 0, used := f :: p.used, uid := cl.ctx.uid, whole := false, size := saveSize s c, due := s.cycle + 1 + n }) ∧
    (p.act = true → p.dir = false → p.lcl = c % 96 → p.uid = cl.ctx.uid → p.due ≤ s.cycle →
      (p.offset + 4096 < p.size → ∃ t n, exec .taskSave s = .next t ∧ t.clusters = s.clusters ∧ t.cores = s.cores ∧
        now t = { p with offset := p.offset + 4096, due := s.cycle + 1 + n }) ∧
      (p.size ≤ p.offset + 4096 → ∃ t v, exec .taskSave s = .next t ∧ (getCluster t c).task = .none ∧ (getMod t m).saves = (getMod s m).saves ++ [v] ∧
        v.uid = cl.ctx.uid ∧ v.cluster = c ∧ v.frame = p.frame ∧ v.size = p.size ∧ v.whole = false ∧ v.cl.ctx = cl.ctx ∧ (now t).act = false ∧ (now t).used = p.used))) ∧
  (∀ (p : Part) (n : Nat), (∀ f, freeFrame p n = some f → f < p.nframes ∧ f ∉ p.used ∧ n ≤ 2 ^ p.frsize ∧ ∀ g, g < f → g ∈ p.used) ∧
    (freeFrame p n = none → p.frsize = 0 ∨ 2 ^ p.frsize < n ∨ ∀ g, g < p.nframes → g ∈ p.used)) ∧
  (∀ (s : State), let c := s.place
    let m := c / 96
    let cl := getCluster s c
    enginesHeld s c = false →
    (cl.task = .running ∨ cl.task = .landing ∨ cl.task = .recon →
      (cl.task ≠ .recon ∧ cl.wholeSave = true ∧ guestSave s c = false ∧ taskLives s c = true) ∨
        (hyperWanted s c = true ∧ ¬ (reconDue s c = true ∧ coresOver s c = true)) →
      callsOver s c = true → landingOver s c = true →
      ∃ t, exec .wholeContextSave s = .next t ∧ (getCluster t c).task = .saving ∧ t.mods = s.mods ∧ t.dies = s.dies) ∧
    (cl.task = .saving → hyperWanted s c = true → coresQuiet s c = true → requestsOver s c = true → firedOver s c = true → dueOver s c = true →
      ∃ t v, exec .wholeContextSave s = .next t ∧ (getCluster t c).task = .none ∧ (getMod t m).saves = (getMod s m).saves ++ [v] ∧ v.uid = cl.ctx.uid ∧
        v.cluster = c ∧ v.whole = true ∧ v.hyper = true ∧ v.cl.scratch = cl.scratch ∧ v.cl.ctx = cl.ctx)) ∧
  (∀ (v : Saved) (s : State), let c := s.place
    let m := c / 96
    let p := Tbl.get Part.reset (getMod s m).parts v.part
    (getCluster s c).task = .restoring → savedOn s c (getCluster s c).ctx.uid = some v →
    (p.preempted = true → exec .taskRestore s = .next (comesBack s 1 c .taskRestore)) ∧
    (p.preempted = false → p.act = true → p.dir = true → p.lcl = c % 96 → p.uid = v.uid → p.due ≤ s.cycle → p.size ≤ p.offset + 4096 →
      v.cl.graphs = [] → v.cl.recon = 0 → (∀ l ∈ (getMod s m).launches, l.uid = v.uid → l.state ≠ .failing) →
    ∃ t, exec .taskRestore s = .next t ∧ (getCluster t c).task = .running ∧ (getCluster t c).ctx = v.cl.ctx ∧ (getCluster t c).bindings = v.cl.bindings ∧
      (v.ranges = [] → (getCluster t c).scratch = if v.whole then v.cl.scratch else (getCluster s c).scratch) ∧
      ((v.cores.map Prod.fst).Nodup → ∀ x ∈ v.cores, (getCore t x.1).regs = x.2.regs) ∧
      ∀ x ∈ (getMod t m).saves, ¬ (x.uid = v.uid ∧ x.cluster = c))) ∧
  (∀ (s : State), let c := s.place
    ((getCluster s c).holdoff ≠ 0 → (getCluster s c).holdoff ≤ nowOf s (c / 96) → exec .abandonHoldoffExpiry s = .next (onClusterNo s c fun x => { x with holdoff := 0 })) ∧
    (nowOf s (c / 96) < (getCluster s c).holdoff → exec .abandonHoldoffExpiry s = .next s)) ∧
  (∀ (m part : Nat) (s : State), Serving s m →
    let parts := fun (b : Bool) (x : Module) => { x with parts := Tbl.set x.parts part { Tbl.get Part.reset x.parts part with preempted := b } }
    (s.place ≠ 0 → (∃ t, exec (.partPreempt m part) s = .next t ∧ Refused m s t) ∧ ∃ t, exec (.partResume m part) s = .next t ∧ Refused m s t) ∧
    (s.place = 0 → exec (.partPreempt m part) s = .next (done m (onMod s m (parts true)))) ∧
    (s.place = 0 → (getMod s m).saves = [] → (∀ i, i < 96 → (getCluster s (96 * m + i)).task ≠ .saving) → exec (.partResume m part) s = .next (done m (onMod s m (parts false))))) ∧
  ∀ (m caller n : Nat) (ws : List Nat) (s : State), Serving s m →
    let old := Tbl.get CvCtl.reset (getMod s m).ctls n
    let new := old.write ws
    let put := fun c => onMod s m fun x => { x with ctls := Tbl.set x.ctls n c }
    (¬ Allowed caller new.part → ∃ t, exec (.cvAllot m caller n ws) s = .next t ∧ Refused m s t) ∧
    (Allowed caller new.part → old.part = 0 ∨ Allowed caller old.part →
      (new.en = true → new.valid = false → ∃ t, exec (.cvAllot m caller n ws) s = .next t ∧ Refused m (put { new with en := false }) t) ∧
      (new.en = false ∨ new.valid = true → exec (.cvAllot m caller n ws) s = .next (done m (put new))))

/-- R179, R181, R200, R204 to R207, R211, R215: the copy engines: one access each in a cycle, a due write before the chunk in hand, and that before a new chunk;
a chunk reads and writes up to 512 bytes at a time and counts in its request; an access is performed at the memory it arrives at; a window chunk enters through
the engine b mod 4 of the window's cluster, or through the engine that performs it where that cluster has issued it; a request that has performed its chunks
writes its completion word and leaves; and a publish takes effect between two cycles. That a startable request passes older ones that wait, and that a piece is
read whole before it is written, are the model's choices (log 47), as is that a write that is due goes before the chunk in hand of another request (log 115). -/
def Obligations.EngineEvents : Prop :=
  (∀ (c e : Nat) (d : DueWrite) (s : State), enginesHeld s c = false → d ∈ (getCluster s c).due → d.engine = e →
    (∀ x ∈ (getCluster s c).due, x.engine = e → x = d ∨ d.cls < x.cls ∨ (d.cls = x.cls ∧ d.ord < x.ord)) → d.after = .nothing → d.shadow = false → Unswapped s c →
    ∃ t, exec (.chunkPerform c e) s = .next t ∧ (getCluster t c).due = (getCluster s c).due.erase d ∧ storedOver s t c d.addr d.bs ∧
      (getCluster t c).chunks = (getCluster s c).chunks ∧ (getCluster t c).queues = (getCluster s c).queues ∧ Apart s t) ∧
  (∀ (c e : Nat) (q : QReq) (src dst : Nat) (s : State), EngineFree s c e → handNow s c e = none → (queueOf (getCluster s c) e).find? (startable s c) = some q →
    q.r.kind = .copy → q.r.src = .local_ src → q.r.dst = .local_ dst → q.r.cnt = [] → onlyReq s c e q →
    ∃ t h, exec (.chunkPerform c e) s = .next t ∧ handNow t c e = some h ∧ h.home = e ∧ h.req = q.id ∧ h.src = src + 4096 * (q.next % q.r.perRun) ∧
      h.dst = dst + 4096 * (q.next % q.r.perRun) ∧ h.len = min 4096 (q.r.len - 4096 * (q.next % q.r.perRun)) ∧ h.off = 0 ∧ h.buf = none ∧ h.flight = false ∧
      reqNow t c e q.id = some { q with next := q.next + 1, active := q.active + 1 } ∧ (getCluster t c).scratch = (getCluster s c).scratch ∧ t.flights = s.flights ∧ Apart s t) ∧
  (∀ (c e : Nat) (h : Chunk) (q : QReq) (src dst : Nat) (s : State), EngineFree s c e → handNow s c e = some h → h.flight = false → reqNow s c h.home h.req = some q →
    q.status = 0 → q.r.kind = .copy → q.r.src = .local_ src → q.r.dst = .local_ dst →
    let n := min (min 512 (h.len - h.off)) (min (65536 - (h.src + h.off) % 65536) (65536 - (h.dst + h.off) % 65536))
    (h.buf = none → inScratch (h.src + h.off) n = true → isMarked s 2 c (h.src + h.off) n = false → Unswapped s c → Mem.wf (getCluster s c).scratch = true →
      ∃ t, exec (.chunkPerform c e) s = .next t ∧ handNow t c e = some { h with buf := some ((List.range n).map fun i => scratchByte s c (h.src + h.off + i)) } ∧
        (getCluster t c).scratch = (getCluster s c).scratch ∧ (getCluster t c).queues = (getCluster s c).queues ∧ Apart s t) ∧
    (∀ bs, h.buf = some bs → q.r.shd = false → Unswapped s c →
      (h.off + bs.length < h.len → ∃ t, exec (.chunkPerform c e) s = .next t ∧ storedOver s t c (h.dst + h.off) bs ∧
        handNow t c e = some { h with off := h.off + bs.length, buf := none } ∧ (getCluster t c).queues = (getCluster s c).queues ∧ Apart s t) ∧
      (h.len ≤ h.off + bs.length → onlyReq s c h.home q → h.req = q.id → ∃ t, exec (.chunkPerform c e) s = .next t ∧ storedOver s t c (h.dst + h.off) bs ∧
        handNow t c e = none ∧ reqNow t c h.home q.id = some { q with active := q.active - 1, done := q.done + 1 } ∧ Apart s t))) ∧
  (∀ (c e m a : Nat) (h : Chunk) (q : QReq) (k va : Nat) (s : State), EngineFree s c e → handNow s c e = some h → h.flight = false → reqNow s c h.home h.req = some q →
    q.status = 0 → q.r.kind = .copy →
    let got := h.off + (h.buf.getD []).length
    (q.r.src = .virt k va → h.buf = none ∨ wholeChunk s c q = true ∧ got < h.len → mapOf h.maps false ((h.src + got) % 2 ^ 57) = some (m, a) →
      ∃ t n id due, exec (.chunkPerform c e) s = .next t ∧ n ≤ 512 ∧
        s.cycle < due ∧ t.flights = s.flights ++ [⟨id, due, false, .access m a (.read n) c e⟩] ∧ handNow t c e = some { h with flight := true } ∧ SameMods s t) ∧
    (∀ bs, q.r.dst = .virt k va → h.buf = some bs → wholeChunk s c q = false ∨ h.len ≤ got → mapOf h.maps true ((h.dst + h.off) % 2 ^ 57) = some (m, a) →
      ∃ t id due, exec (.chunkPerform c e) s = .next t ∧ s.cycle < due ∧
        t.flights = s.flights ++ [⟨id, due, false, .access m a (.write (bs.take (min (min bs.length 512) (65536 - a % 65536)))) c e⟩] ∧
        handNow t c e = some { h with flight := true } ∧ SameMods s t)) ∧
  (∀ (m a c e : Nat) (h : Chunk) (s : State), handNow s c e = some h → accessHeld s m c e = false → swapOver (getMod s m) a = none →
    (∀ n, ArrivedFree s (.access m a (.read n) c e) → isHost a = true ∨ hbmMarked (getMod s m) a n = false → (getCluster s c).bindings = [] →
      ∃ t, exec .accessArrival s = .next t ∧ t.flights = (landed s).flights ∧
        handNow t c e = some { h with flight := false, buf := some (h.buf.getD [] ++ physRead (getMod s m) a n) } ∧ (∀ x, physByte t m x = physByte s m x)) ∧
    (∀ n q, ArrivedFree s (.access m a (.read n) c e) → isHost a = false → hbmMarked (getMod s m) a n = true → onlyReq s c h.home q → h.req = q.id → q.status = 0 →
      ∃ t, exec .accessArrival s = .next t ∧ handNow t c e = none ∧ reqNow t c h.home q.id = some { q with active := q.active - 1, status := 1 }) ∧
    (∀ bs more, ArrivedFree s (.access m a (.write bs) c e) → h.buf = some (bs ++ more) → h.off + bs.length < h.len → ∃ t, exec .accessArrival s = .next t ∧
      physOver s t m a bs ∧ t.flights = (landed s).flights ∧
      handNow t c e = some { h with flight := false, off := h.off + bs.length, buf := if more = [] then none else some more })) ∧
  (∀ (m a c e id op n x y : Nat) (sgn : Bool) (h : Chunk) (q : QReq) (s : State), ArrivedFree s (.atomic m a c e id) → accessHeld s m c e = false →
    swapOver (getMod s m) a = none → handNow s c e = some h → reqNow s c h.home id = some q → q.r.kind = .atomic op sgn n x y →
    isHost a = true ∨ hbmMarked (getMod s m) a n = false →
    let old := leNat (physRead (getMod s m) a n)
    ∃ t, exec .remoteAtomicPerform s = .next t ∧ handNow t c e = some { h with flight := false, buf := some (leBytes n old) } ∧
      (op = 0 → physOver s t m a (leBytes n ((old + x % 2 ^ (8 * n)) % 2 ^ (8 * n)))) ∧ (op = 3 → physOver s t m a (leBytes n (x % 2 ^ (8 * n)))) ∧
      (op = 4 → old = x % 2 ^ (8 * n) → physOver s t m a (leBytes n (y % 2 ^ (8 * n)))) ∧ (op = 4 → old ≠ x % 2 ^ (8 * n) → ∀ b, physByte t m b = physByte s m b)) ∧
  (∀ (member job key off c e : Nat) (bs : List Nat) (shd : Bool) (s : State), ArrivedFree s (.window member job key off bs shd c e) →
    let m := memberModule s job member
    receiversHeld s m job = false →
    (∀ h q, windowCluster s m job key = none → windowSaved s m job key = false → handNow s c e = some h → onlyReq s c h.home q → h.req = q.id → q.status = 0 →
      ∃ t, exec .windowChunkArrival s = .next t ∧ handNow t c e = none ∧ reqNow t c h.home q.id = some { q with active := q.active - 1, status := 3 } ∧
        (∀ j, (getCluster t j).scratch = (getCluster s j).scratch)) ∧
    (∀ r b x, windowCluster s m job key = some (r, b) → (getCluster s r).bindings[b]? = some x → off + bs.length ≤ x.size → (shd = true → x.pair = true) →
      ∃ t ds, exec .windowChunkArrival s = .next t ∧ (getCluster t r).due = (getCluster s r).due ++ ds ∧
        (∀ d ∈ ds, d.engine = (if r = c then e else b % 4) ∧ d.cls = (if r = c then 7 else 5) ∧ d.shadow = shd ∧ d.bs.length ≤ 512) ∧ (ds.head?.map fun d => d.addr) = bs.head?.map fun _ => x.base + off)) ∧
  (∀ (c e : Nat) (q : QReq) (s : State), enginesHeld s c = false → queueOf (getCluster s c) e = [q] → (getCluster s c).backlog = [] → q.r.kind = .copy →
    (q.status = 0 → q.done < q.total → exec (.requestFinish c e) s = .next s) ∧
    (q.status = 0 → q.total ≤ q.done → q.r.pub = false ∨ q.published = true →
      (q.r.cw = none → q.pins = [] → exec (.requestFinish c e) s = .next (onClusterNo s c fun x => { x with queues := Tbl.set x.queues e [] })) ∧
      (∀ a v, q.r.cw = some (a, v) → q.cwSent = false → ∃ t, exec (.requestFinish c e) s = .next t ∧
        (getCluster t c).due = (getCluster s c).due ++ [⟨e, 6, q.id, a, leBytes 8 v, false, .finish e q.id⟩] ∧ reqNow t c e q.id = some { q with cwSent := true })) ∧
    (q.status = 0 → q.total ≤ q.done → q.r.pub = true → q.published = false → ∀ r b, publishTarget s c q = some (r, b) →
      (∀ p ∈ (getCluster s r).pubs, p.req ≠ some q.id) → exec (.requestFinish c e) s = .next { onClusterNo s r fun x =>
        { x with pubs := x.pubs ++ [⟨b, s.cycle, s.nextId, q.r.core, some q.id, false⟩] } with agenda := s.agenda ++ [⟨r, .publishSwap r b⟩] }) ∧
    (q.status ≠ 0 → q.active = 0 →
      (∀ a v, q.r.cw = some (a, v) → q.cwSent = false → ∃ t, exec (.requestFinish c e) s = .next t ∧
        (getCluster t c).due = (getCluster s c).due ++ [⟨e, 6, q.id, a, leBytes 8 (v + q.status * 2 ^ 32), false, .finish e q.id⟩]) ∧
      (q.r.cw = none → q.pins = [] → (getCore s q.r.core).seq = .running → ∃ t, exec (.requestFinish c e) s = .next t ∧ queueOf (getCluster t c) e = [] ∧
        (getCore t q.r.core).async = (getCore s q.r.core).async ++ [(0x21, q.r.tag)]))) ∧
  ∀ (c b : Nat) (p : PubOp) (s : State), (getCluster s c).pubs = [p] → p.b = b → p.req = none → p.kitty = false → p.core / 8 = c →
    (∀ k, k / 8 = c → (getCore s k).wait = .pub b → k = p.core) →
    (filled s c p = true → (getCore s p.core).wait = .pub b → ∃ t, exec (.publishSwap c b) s = .next t ∧ Woken s t p.core (s.cycle + 1) ∧
      (getCluster t c).scratch = (getCluster s c).scratch ∧
      (p.from_ ≤ s.cycle → (getCluster t c).pubs = [] ∧ Tbl.get false (getCluster t c).swapped b = !Tbl.get false (getCluster s c).swapped b) ∧
      (s.cycle < p.from_ → getCluster t c = getCluster s c)) ∧
    (filled s c p = false → exec (.publishSwap c b) s = .next s)

/-- R221, R225 to R234, R355: pages and frames: a shoot-down drops the entries of a range at once; a page that has come lets the requests that wait for it go on
(to STATUS 2 where no path leads to it), and one that is absent still gives a new record, told the host or waiting for room in the fault ring (when the ring has
room is open, log 105); a swap command is refused with its code or begins with the swap bits of its granules set. Which commands are invalid, and that the bits
are set with the command, are the model's reading (log 50); that a command waits, cycle by cycle, for a free engine and for base dies under update, and is
checked for pins and swaps only then, is its choice (log 110). -/
def Obligations.PageEvents : Prop :=
  (∀ (m caller job member va bytes : Nat) (s : State), Serving s m →
    (¬ Manages s m caller job → ∃ t, exec (.shootdown m caller job member va bytes) s = .next t ∧ Refused m s t) ∧
    (Manages s m caller job → (∀ x ∈ (getMod s m).shoots, x.1 ≠ [job, member, va, bytes]) →
      (translatedBy s job member va bytes = [] → exec (.shootdown m caller job member va bytes) s = .next (done m (dropTlbs job member va bytes s))) ∧
      ∃ t, exec (.shootdown m caller job member va bytes) s = .next t ∧
        ∀ c e, ∀ x ∈ Tbl.get [] (getCluster t c).tlbs e, ¬ (x.job = job ∧ x.member = member ∧ meets x.va x.size va bytes = true))) ∧
  (∀ (m caller job member va bytes : Nat) (s : State), Serving s m →
    (¬ Manages s m caller job → ∃ t, exec (.pageReady m caller job member va bytes) s = .next t ∧ Refused m s t) ∧
    ∀ c q f, Manages s m caller job → s.clusters = [(c, getCluster s c)] → (getCluster s c).queues = [(0, [q])] → q.paused = some f → f.ready = false →
      q.uid = (getCluster s c).ctx.uid → (getCluster s c).ctx.job = job → (getCluster s c).task = .running → f.member = member → (getCluster s c).wholeSave = false →
      meets (f.va / 65536 * 65536) 65536 va bytes = true → (getMod s (c / 96)).saves = [] → ∀ mm root, spaceOf s job member = some (mm, root) →
      guestSave s c = false →
      let record := [job, member, if f.write then 1 else 0, f.va / 65536 * 65536, q.r.tag, coreNo q.r.core, nowOf s (c / 96)]
      let part := (getCluster s c).part
      (noPath s (c / 96) mm = false → walkFrom (getMod s mm) 4 root f.va = .absent → ∃ t, exec (.pageReady m caller job member va bytes) s = .next t ∧
        queueOf (getCluster t c) 0 = [q] ∧
        (t.hostMsgs = s.hostMsgs ++ [.pageFault (c / 96) part record, .answer m 0 []] ∨
          t.hostMsgs = s.hostMsgs ++ [.answer m 0 []] ∧ (getMod t (c / 96)).faultWait = (getMod s (c / 96)).faultWait ++ [(part, record)])) ∧
      (noPath s (c / 96) mm = true ∨ walkFrom (getMod s mm) 4 root f.va ≠ .absent → ∃ t, exec (.pageReady m caller job member va bytes) s = .next t ∧
        queueOf (getCluster t c) 0 = [{ q with paused := none }] ∧ t.hostMsgs = s.hostMsgs ++ [.answer m 0 []])) ∧
  ∀ (m caller : Nat) (ws : List Nat) (s : State), Serving s m → s.place < 2 ^ 32 →
    let k := swapCmdOf ws
    let told := fun code => { s with hostMsgs := s.hostMsgs ++ [.swapDone m code] }
    (jobOn s m k.job = true → ¬ Allowed caller (partOfJob s m k.job) → ∃ t, exec (.swapCommand m caller ws) s = .next t ∧ Refused m s t) ∧
    ((jobOn s m k.job = true → Allowed caller (partOfJob s m k.job)) →
      (swapInvalid s m ws = true → exec (.swapCommand m caller ws) s = .next (told 3)) ∧
      (swapInvalid s m ws = false →
        (freeSwap (getMod s m) = none → exec (.swapCommand m caller ws) s = .next (comesBack s 1 s.place (.swapCommand m caller ws))) ∧
        ∀ e, freeSwap (getMod s m) = some e →
          ((∃ g ∈ k.granules, baseOpen s m (g / 2 ^ 20) = false) →
            exec (.swapCommand m caller ws) s = .next (comesBack s 1 s.place (.swapCommand m caller ws))) ∧
          ((∀ g ∈ k.granules, baseOpen s m (g / 2 ^ 20) = true) →
          ((∃ g ∈ k.granules, (frameAt s m g).pin ≠ 0) → exec (.swapCommand m caller ws) s = .next (told 1)) ∧
          ((∀ g ∈ k.granules, (frameAt s m g).pin = 0) → (∃ g ∈ k.granules, (frameAt s m g).swap = true) → exec (.swapCommand m caller ws) s = .next (told 2)) ∧
          ((∀ g ∈ k.granules, (frameAt s m g).pin = 0 ∧ (frameAt s m g).swap = false) → ∃ t, exec (.swapCommand m caller ws) s = .next t ∧
            (∀ g ∈ k.granules, (frameAt t m g).swap = true) ∧ (∀ g, g ∉ k.granules → frameAt t m g = frameAt s m g) ∧
            Tbl.get none (getMod t m).swaps e = some ⟨ws, 0, []⟩ ∧ t.hostMsgs = s.hostMsgs ∧
            (∀ x, physByte t m x = physByte s m x)))))

/-- R48, R221, R238, R239, R259, R313, R350, R351, R354, R378: jobs, paths, partitions and owners: an operation of a caller that may not make it is refused and
changes nothing; a job takes its members, declarations, space and slot; it is removed with its space, and its packets that wait are to end with STATUS 7; a
dead member is noted and its channels go on without it, or fail; the job's own paths are reserved within 400 Gb/s a port; and a cluster or a store that changes
hands is scrubbed. The model's readings and choices here: one JOBCREATE to each member module (log 19), what a removal ends (log 20), a rate of 0 and a second
reservation of a path (log 24), PARTASSIGN answered when its scrub begins (log 25), and the place that names its caller (log 13). -/
def Obligations.JobEvents : Prop :=
  (∀ (m caller job : Nat) (ms : List Nat) (root : Nat) (ds : List (List Nat)) (s : State), Serving s m →
    let i : Instr := .jobCreate m caller job ms root ds
    (root % 4096 ≠ 0 ∨ m ∉ ms ∨ ms.eraseDups.length < ms.length → ∃ t, exec i s = .next t ∧ Refused m s t) ∧
    (root % 4096 = 0 → m ∈ ms → ms.eraseDups.length = ms.length →
      (getJob s job = none → (∀ n, n < 16 → (Tbl.get JobSlot.reset (getMod s m).slots n).used = true) → ∃ t, exec i s = .next t ∧ Refused m s t) ∧
      (∀ n, getJob s job = none → declsBad ds = false → slotFor (getMod s m) job = some n → ∃ t j, exec i s = .next t ∧ getJob t job = some j ∧ j.members = ms ∧
        j.decls = ds.map declOfWords ∧ j.chans = [] ∧ j.dead = [] ∧ spaceOf t job (memberOf j m) = some (m, root) ∧ partOfJob t m job = caller ∧
        (let x := Tbl.get JobSlot.reset (getMod t m).slots n
         x.used = true ∧ x.job = job ∧ x.state = .running ∧ x.causeRec = .zero) ∧ t.hostMsgs = s.hostMsgs ++ [.answer m 0 []] ∧ t.cores = s.cores ∧ t.clusters = s.clusters) ∧
      (∀ j, getJob s job = some j → j.members ≠ ms → ∃ t, exec i s = .next t ∧ Refused m s t) ∧
      (∀ j, getJob s job = some j → j.members = ms → j.decls = ds.map declOfWords → declsBad ds = false → jobOn s m job = true →
        (¬ Allowed caller (partOfJob s m job) ∨ anyRequest s m job = true → ∃ t, exec i s = .next t ∧ Refused m s t) ∧
        (Allowed caller (partOfJob s m job) → anyRequest s m job = false → ∃ t j', exec i s = .next t ∧ getJob t job = some j' ∧
          j' = { j with roots := Tbl.set j.roots (memberOf j m) (some root) } ∧ t.hostMsgs = s.hostMsgs ++ [.answer m 0 []] ∧ t.mods = s.mods)))) ∧
  (∀ (md : Module) (job n : Nat), slotFor md job = some n → n < 16 ∧ (Tbl.get JobSlot.reset md.slots n).used = false) ∧
  (∀ (m caller job : Nat) (s : State), Serving s m →
    (¬ Manages s m caller job → ∃ t, exec (.jobRemove m caller job) s = .next t ∧ Refused m s t) ∧
    (Manages s m caller job → (∃ t, exec (.jobRemove m caller job) s = .next t ∧ jobOn t m job = false ∧
        (∀ n, ∀ p ∈ (queueAt t m n).pkts, pktJob p.words = job → p.gone = true) ∧ ∀ f ∈ (getMod t m).fab, f.1 ≠ job) ∧
      ∀ l, (getMod s m).launches = [l] → l.job = job → l.state = .waiting → ∃ t, exec (.jobRemove m caller job) s = .next t ∧
        recordWaits s t m l.queue 0 7 0 0 0 0 l.words ∧ (getMod t m).launches = [])) ∧
  (∀ (m caller job member : Nat) (j : Job) (s : State), Serving s m → getJob s job = some j → s.clusters = [] →
    (¬ Manages s m caller job ∨ j.members.length ≤ member → ∃ t, exec (.jobShrink m caller job member) s = .next t ∧ Refused m s t) ∧
    ∀ d, Manages s m caller job → member < j.members.length → member ∉ j.dead → j.decls = [d] → (channelOf j d.ch).gather = false →
      ∃ t j', exec (.jobShrink m caller job member) s = .next t ∧ getJob t job = some j' ∧ j'.dead = j.dead ++ [member] ∧ spaceOf t job member = none ∧
        (if d.shrink then (channelOf j' d.ch).dead = true ∧ (channelOf j' d.ch).failed = (channelOf j d.ch).failed else (channelOf j' d.ch).failed = true) ∧
        t.hostMsgs = s.hostMsgs ++ [.answer m 0 []]) ∧
  (∀ (j : Job) (s : State), s.jobs = [j] → s.clusters = [] → j.decls = [] → s.place ∈ j.members → memberOf j s.place ∉ j.dead →
    exec .memberDeath s = .next { s with jobs := [{ j with dead := j.dead ++ [memberOf j s.place] }] }) ∧
  (∀ (m caller job src dst hops rate : Nat) (ports : List Nat) (j : Job) (s : State), Serving s m → getJob s job = some j →
    let i : Instr := .fabSched m caller job src dst hops rate ports
    let fab := ((getMod s m).fab.filter fun f => !(f.1 == job && f.2.1 == src && f.2.2.1 == dst)) ++ [(job, src, dst, hops, rate, ports)]
    let within := ∀ p ∈ ports, ((fab.filter fun f => f.1 == job && f.2.2.2.2.2.contains p).map fun f => f.2.2.2.2.1).sum ≤ 400
    (Manages s m caller job → src < j.members.length → dst < j.members.length → rate ≠ 0 → within →
      exec i s = .next (done m (onMod s m fun x => { x with fab := fab }))) ∧
    (¬ Manages s m caller job ∨ j.members.length ≤ src ∨ j.members.length ≤ dst ∨ rate = 0 ∨ ¬ within → ∃ t, exec i s = .next t ∧ Refused m s t)) ∧
  (∀ (c part : Nat) (s : State), Serving s (c / 96) →
    (s.place < 2 ^ 32 → s.place ≠ 0 ∨ (getCluster s c).scrub.isSome = true ∨ (getDie s (c / 12)).power = .off ∨ (getMod s (c / 96)).updating = some (c / 12) →
      ∃ t, exec (.partAssign c part) s = .next t ∧ Refused (c / 96) s t) ∧
    (s.place = 0 → (getCluster s c).scrub = none → (getDie s (c / 12)).power ≠ .off → (getMod s (c / 96)).updating ≠ some (c / 12) → (getCluster s c).task = .none → launchesOn s c = [] →
      ∃ t n, exec (.partAssign c part) s = .next t ∧ 1 ≤ n ∧ n ≤ 149999 ∧ (getCluster t c).scrub = some (nowOf s (c / 96) + n) ∧ (getCluster t c).newPart = part ∧
        (getCluster t c).part = (getCluster s c).part ∧ (getCluster t c).scratch = [] ∧ (getCluster t c).bindings = [] ∧ (∀ r, r < 8 → getCore t (8 * c + r) = .reset) ∧
        t.hostMsgs = s.hostMsgs ++ [.answer (c / 96) 0 []] ∧ t.dies = s.dies)) ∧
  (∀ (n : Nat) (s : State), let c := s.place
    (getCluster s c).scrub = some n →
    (nowOf s (c / 96) < n → exec .clusterScrubDone s = .next s) ∧
    (n ≤ nowOf s (c / 96) → ∃ t, exec .clusterScrubDone s = .next t ∧ (getCluster t c).part = (getCluster s c).newPart ∧ (getCluster t c).scrub = none ∧
      (getCluster t c).scratch = [] ∧ (∀ r, r < 8 → getCore t (8 * c + r) = .reset) ∧ (∀ k, k / 8 ≠ c → getCore t k = getCore s k))) ∧
  (∀ (d part : Nat) (s : State), (getMod s (d / 8)).up = false → exec (.wsownWrite d part) s = .next s) ∧
  (∀ (d part : Nat) (s : State), (getMod s (d / 8)).up = true → (getMod s (d / 8)).fwHeld = [] →
    (dieIdle s d = false ∨ (getDie s d).writing = true ∨ (getMod s (d / 8)).updating = some d → exec (.wsownWrite d part) s = .next s) ∧
    (dieIdle s d = true → (getDie s d).writing = false → (getMod s (d / 8)).updating ≠ some d → ∃ t n, exec (.wsownWrite d part) s = .next t ∧ 1 ≤ n ∧ n ≤ 1999999 ∧
      getDie t d = { getDie s d with owner := part, scrub := some (nowOf s (d / 8) + n), weights := [] } ∧ (∀ x ∈ t.marks, ¬ (x.1 = 3 ∧ x.2.1 = d)) ∧ t.cores = s.cores ∧
      t.clusters = s.clusters ∧ t.mods = s.mods)) ∧
  ∀ (n : Nat) (s : State), let d := s.place
    (getDie s d).scrub = some n →
    (nowOf s (d / 8) < n → exec .weightStoreScrubDone s = .next s) ∧
    (n ≤ nowOf s (d / 8) → ∃ t, exec .weightStoreScrubDone s = .next t ∧ getDie t d = { getDie s d with scrub := none, weights := [] } ∧ t.cores = s.cores ∧ t.mods = s.mods)

/-- R7, R228, R348, R366, R382 to R384, R398, R399, R401, R404, R390 to R392: a register write message changes the register that begins at its offset, and nothing for
a caller that may not write it; a register read message is answered with the register's value, with 0 where it is write-only or refused; the host writes bytes
of its memory; a hypervisor's write clears a partition's error counters; firmware is loaded and taken over at a quiescent boundary, and dies are updated one at
a time after the I/O die, with the highest common version. The model's choices here: the offsets that no rule gives, the answer to a refused read and the
offsets that name host memory (logs 13, 26 and 94), who may write a register that names no caller (log 27), and the open times and versions of firmware and
the neighbour of a die (logs 29 and 109). -/
def Obligations.RegisterEvents : Prop :=
  (∀ (m caller off : Nat) (v : Option Nat) (s : State), (getMod s m).up = false → off < 2 ^ 32 → exec (.registerWrite m caller off v) s = .next s) ∧
  (∀ (m caller a v : Nat) (s : State), exec (.registerWrite m caller (2 ^ 32 + a) (some v)) s =
    .next (onMod s m fun x => { x with host := Mem.write x.host a [v % 256] })) ∧
  (∀ (m caller v : Nat) (s : State), (getMod s m).up = true → (getMod s m).fwHeld = [] →
    let put := fun (off : Nat) => exec (.registerWrite m caller off (some v)) s
    let field := fun (hi lo : Nat) => v / 2 ^ lo % 2 ^ (hi + 1 - lo)
    (∀ n, n < 64 →
      let q := queueAt s m n
      (put (0x40 * n + 0x38) = .next (if caller = 0 then
        onQueue s m n fun q => { q with en := decide (v % 2 = 1), part := field 15 8, lwdog := field 21 16, age := field 27 24 } else s)) ∧
      (¬ Allowed caller q.part → ∀ r, r < 0x38 → put (0x40 * n + r) = .next s) ∧
      (Allowed caller q.part → q.go = true → put (0x40 * n) = .next (onQueue s m n id) ∧ put (0x40 * n + 8) = .next (onQueue s m n id)) ∧
      (Allowed caller q.part → q.go = false →
        put (0x40 * n) = .next (onQueue s m n fun q => { q with qbase := v % 2 ^ 57 }) ∧
        put (0x40 * n + 8) = .next (onQueue s m n fun q => { q with qlog := v % 16 }) ∧
        put (0x40 * n + 0xC) = .next (onQueue s m n fun q => { q with qcbase := v % 2 ^ 57 }) ∧
        put (0x40 * n + 0x14) = .next (onQueue s m n fun q => { q with qroot := v % 2 ^ 52 })) ∧
      (Allowed caller q.part → put (0x40 * n + 0x2C) = .next (onQueue s m n fun q => { q with qcack := v % 2 ^ 32 })) ∧
      (Allowed caller q.part → put (0x40 * n + 0x28) = exec (.queueDoorbell m n) s)) ∧
    put 0x10008 = .next (onUnit s m fun t => { t with tmport := v % 2 ^ 32 }) ∧
    (∀ i, i < 16 → put (0x13000 + 0x40 * i) = .next (
      let old := Tbl.get JobSlot.reset (getMod s m).slots i
      if (old.used = true ∧ ¬ Allowed caller (partOfJob s m old.job)) ∨ ¬ Allowed caller (partOfJob s m (field 47 32)) then s
      else onMod s m fun x => { x with slots := Tbl.set x.slots i { old with
        arm := decide (v % 2 = 1), cmask := field 13 8, job := field 47 32, causeRec := if field 47 32 = old.job then old.causeRec else .zero } })) ∧
    (∀ p, 0 < p → p < 256 →
      let part := fun (f : Part → Part) => if caller = 0 then onMod s m fun x => { x with parts := Tbl.set x.parts p (f (Tbl.get Part.reset x.parts p)) } else s
      put (0x18000 + 0x40 * p) = .next (part fun x => { x with frbase := v % 2 ^ 52, frsize := field 56 52 }) ∧
      put (0x18000 + 0x40 * p + 8) = .next (part fun x => { x with nframes := v % 2 ^ 16 }) ∧
      put (0x18000 + 0x40 * p + 16) = .next (part fun x => { x with dbase := v % 2 ^ 52 }) ∧
      put (0x18000 + 0x40 * p + 24) = .next (part fun x => { x with dsize := v % 2 ^ 16 })) ∧
    (∀ d, d < 8 → put (0x1C000 + 0x40 * d) = if caller = 0 then exec (.wsownWrite (8 * m + d) (v % 256)) s else .next s) ∧
    (∀ c i, c < 96 → i < 16 →
      let may := Allowed caller (getCluster s (96 * m + c)).part
      (¬ may → put (0x30000 + 0x200 * c + 0x10 * i) = .next s) ∧
      (may → put (0x30000 + 0x200 * c + 0x10 * i) = .next (onClusterNo s (96 * m + c) fun x => { x with evsel := Tbl.set x.evsel i (v % 512) }) ∧
        put (0x30000 + 0x200 * c + 0x10 * i + 8) = .next (onClusterNo s (96 * m + c) fun x => { x with evcnt := Tbl.set x.evcnt i (v % 2 ^ 64) }))) ∧
    (∀ i, i < 32 → put (0x3C000 + 0x10 * i) = .next (if caller = 0 then onMod s m fun x => { x with evsel := Tbl.set x.evsel i (v % 512) } else s)) ∧
    put 0x51000 = .next (if caller = 0 then onMod s m fun x => { x with limit := min 2700 (field 11 0), wlog := field 15 12 } else s) ∧
    (∀ g, g < 0xC00000 → let f := frameAt s m g
      (Allowed caller f.owner → put (2 ^ 31 + 4 * g) = .next (onMod s m fun x => { x with frames := Tbl.set x.frames g { f with owner := v % 256 } })) ∧
      (¬ Allowed caller f.owner → put (2 ^ 31 + 4 * g) = .next s))) ∧
  (∀ (m caller : Nat) (s : State), (getMod s m).up = true → (getMod s m).fwHeld = [] →
    let reads := fun (off x : Nat) => exec (.registerWrite m caller off none) s = .next { s with hostMsgs := s.hostMsgs ++ [.register m off x] }
    let bit := fun b : Bool => if b then 1 else 0
    (∀ n, n < 64 → let q := queueAt s m n
      (Allowed caller q.part → reads (0x40 * n) q.qbase ∧ reads (0x40 * n + 8) q.qlog ∧ reads (0x40 * n + 0xC) q.qcbase ∧ reads (0x40 * n + 0x14) q.qroot ∧
        reads (0x40 * n + 0x1C) (bit q.go + 2 * bit q.err + 4 * bit q.flt + 8 * bit q.irqen + 16 * q.irqv) ∧ reads (0x40 * n + 0x20) (q.qpos % 2 ^ 32) ∧
        reads (0x40 * n + 0x24) q.qcpos ∧ reads (0x40 * n + 0x28) 0 ∧ reads (0x40 * n + 0x2C) q.qcack) ∧
      (¬ Allowed caller q.part → ∀ r, r < 0x40 → reads (0x40 * n + r) 0)) ∧
    reads 0x10000 (unitOf s m).tmcfg ∧ reads 0x10008 (unitOf s m).tmport ∧
    (∀ p w, 0 < p → p < 256 → w < 16 → reads (0x40000 + 0x40 * p + 4 * w) (if Allowed caller p then Tbl.get 0 (getMod s m).errs (16 * p + w) else 0)) ∧
    (∀ g, g < 0xC00000 → let f := frameAt s m g
      reads (2 ^ 31 + 4 * g) (if Allowed caller f.owner then f.owner + 2 ^ 8 * f.pin + 2 ^ 24 * bit f.swap else 0))) ∧
  (∀ (m part : Nat) (s : State), (getMod s m).up = true → (getMod s m).fwHeld = [] → ∃ t, exec (.errorCounterClear m part) s = .next t ∧
    (∀ w, w < 16 → Tbl.get 0 (getMod t m).errs (16 * part + w) = 0) ∧
    (∀ p w, p ≠ part → w < 16 → Tbl.get 0 (getMod t m).errs (16 * p + w) = Tbl.get 0 (getMod s m).errs (16 * p + w)) ∧ (getMod t m).shared = (getMod s m).shared) ∧
  (∀ (m version : Nat) (signed accepts : Bool) (s : State), let x := getMod s m
    let i : Instr := .fwload m signed accepts version
    (Serving s m → s.place < 2 ^ 32 →
      (1 ≤ x.sbst → x.sbst ≤ 3 → ∃ t, exec i s = .next t ∧ Refused m s t) ∧
      (x.sbst = 0 ∨ 3 < x.sbst → signed = false → ∃ t, exec i s = .next t ∧ Refused m (onMod s m fun x => { x with sbst := 4 }) t) ∧
      (x.sbst = 0 ∨ 3 < x.sbst → signed = true → ∃ t n, exec i s = .next t ∧ 1 ≤ n ∧
        t = { done m (comesBack (onMod s m fun x => { x with sbst := 1 }) n (2 ^ 32 + 1) i) with free := s.free + 1 })) ∧
    (s.place = 2 ^ 32 + 1 → ∃ t n, exec i s = .next t ∧ 1 ≤ n ∧ t = { comesBack (onMod s m fun x => { x with sbst := 2 }) n (2 ^ 32 + 2) i with free := s.free + 1 }) ∧
    (s.place = 2 ^ 32 + 2 →
      (accepts = false → exec i s = .next (onMod s m fun x => { x with sbst := 4 })) ∧
      (accepts = true → ∃ t n, exec i s = .next t ∧ 1 ≤ n ∧
        t = { comesBack (onMod s m fun x => { x with sbst := 3, vsby := version }) n m .firmwareTakeover with free := s.free + 1 }))) ∧
  (∀ (s : State), let m := s.place
    let x := getMod s m
    (x.sbst ≠ 3 → exec .firmwareTakeover s = .next s) ∧
    (x.sbst = 3 → quiescent s m = false → exec .firmwareTakeover s = .next (comesBack s 1 m .firmwareTakeover)) ∧
    (x.sbst = 3 → quiescent s m = true → ∃ t d v lo hi, exec .firmwareTakeover s = .next t ∧ d ≤ 50000 ∧ lo ≤ hi ∧
      t = { onMod s m fun x => { x with
              act := !x.act, vact := x.vsby, vsby := x.vact, sbst := 0, tver := v, fwPause := nowOf s m + d, ioLo := lo, ioHi := hi, updHalted := false }
            with free := s.free + 4 }) ∧
    (quiescent s m = true ↔ (∀ q ∈ x.queues, q.2.retries = 0) ∧ x.shoots = [] ∧ (∀ w ∈ x.swaps, w.2 = none) ∧
      ∀ y, y ∈ s.inputs.map Prod.snd ∨ y ∈ s.agenda → 2 ^ 32 ≤ y.at_ →
        (∀ c p, y.i = .partAssign c p → c / 96 ≠ m) ∧ ∀ k b, y.i = .stepBundle k b → k / 768 ≠ m)) ∧
  ∀ (d lo hi : Nat) (ns : List (Nat × Nat)) (s : State), d < 2 ^ 16 → let m := d / 8
    let x := getMod s m
    let i : Instr := .dieFirmwareRejoin d lo hi ns
    x.up = true → x.standby = false →
    (s.place < 2 ^ 32 →
      (x.updHalted = true → exec i s = .next s) ∧
      (x.updHalted = false → x.updating ≠ none ∨ 1 ≤ x.sbst ∧ x.sbst ≤ 3 → exec i s = .next (comesBack s 1 s.place i)) ∧
      (x.updHalted = false → x.updating = none → x.sbst = 0 ∨ 3 < x.sbst →
        exec i s = .next (comesBack (onMod s m fun x => { x with updating := some d }) 1 (2 ^ 32) i))) ∧
    (s.place = 2 ^ 32 →
      let quiet := dieIdle s d = true ∧ (getDie s d).writing = false ∧ ∀ v ∈ x.saves, v.cluster / 12 ≠ d
      let common := max lo x.ioLo ≤ min hi x.ioHi
      let ok := common ∧ ∀ n ∈ ns, max lo n.1 ≤ min hi n.2
      (¬ quiet → exec i s = .next (comesBack s 1 (2 ^ 32) i)) ∧
      (quiet → ok → ∃ t, exec i s = .next t ∧ getDie t d = { getDie s d with fwLo := lo, fwHi := hi, inService := true } ∧
        (getMod t m).updating = none ∧ (getMod t m).updHalted = x.updHalted ∧ Tbl.get 0 (getMod t m).pairs d = min hi x.ioHi) ∧
      (quiet → ¬ ok → ∃ t, exec i s = .next t ∧ getDie t d = { getDie s d with inService := false } ∧
        (getMod t m).updating = none ∧ (getMod t m).updHalted = true ∧ (getMod t m).pairs = x.pairs))

/-- R167, R198, R259, R393 to R398: stored errors, links and refresh: a first wrong bit of a SEC-DED word is corrected and counted, a second marks its word; of
an HBM line t errors outside the e erasures are corrected as long as 2t + e ≤ 8; a B code of the array takes the flipped bit; the patrol writes back what is
corrected and counts what is marked; firmware adds a symbol corrected 64 times in 10^12 ns to the erasures, and a rank with more than six entries is repaired,
at run time where its frame is moved away; the eighth retry takes a link down, and a module all of whose links have been down for 10 µs is dead for its jobs;
a device fault fails what the part held; and a listed bank group refreshes for 800 ns unless a window lasts. The model's choices here: soft errors as events
(logs 31 and 113), the eighth retry (log 32), how many entries a repair takes (log 33), the units that a device fault strikes (log 34), and that no path is left
when all ports are down (log 79). -/
def Obligations.ErrorEvents : Prop :=
  (∀ (loc : BitLoc) (b : Nat) (s : State), (∀ k r c, loc ≠ .array k r c) → (∀ m a, loc ≠ .hbm m a) →
    (∀ k a, loc = .fcache k a → a / 512 ∈ (getCore s k).fcache) →
    let o := errorOwner s loc
    (∃ t, exec (.softError loc b false) s = .next t ∧ t.marks = s.marks ∧ t.cores = s.cores ∧ t.clusters = s.clusters ∧ t.dies = s.dies ∧
      (o.2.1 = 0 → sharedCount s t o.1 o.2.2) ∧
      (o.2.1 ≠ 0 → Tbl.get 0 (getMod t o.1).errs (16 * o.2.1 + o.2.2) = (Tbl.get 0 (getMod s o.1).errs (16 * o.2.1 + o.2.2) + 1) % 2 ^ 32) ∧
      ∀ m x, physByte t m x = physByte s m x) ∧
    (∀ w, wordOf loc = some w → ∃ t, exec (.softError loc b true) s = .next t ∧ w ∈ t.marks ∧ (∀ x, x ∈ t.marks → x = w ∨ x ∈ s.marks) ∧ t.cores = s.cores ∧
      t.clusters = s.clusters ∧ t.dies = s.dies ∧ t.mods = s.mods) ∧
    (∀ c e va, loc = .tlb c e va → ∃ t, exec (.softError loc b true) s = .next t ∧ sharedCount s t (c / 96) 1 ∧
      ∀ y ∈ Tbl.get [] (getCluster t c).tlbs e, ¬ (y.va ≤ va ∧ va < y.va + y.size)) ∧
    (∀ m n k, loc = .fold m n → (getMod s m).contribs = [k] → (getMod s m).partials = [] → ∃ t, exec (.softError loc b true) s = .next t ∧
      { k with bs := [] } ∈ (getMod t m).badFolds ∧ (getMod t m).contribs = [k]) ∧
    ∀ m, loc = .ioSram m → ∃ t, exec (.softError loc b true) s = .next t ∧ sharedCount s t m 1) ∧
  (∀ (m a b : Nat) (second : Bool) (s : State), let x := getMod s m
    let l := a / 64
    let rank := Config.rankOf l
    let sym := if b < 8 then a % 64 else 64 + b % 8
    let e := (Tbl.get [] x.erasures rank).take 6
    let syms := (sym :: Tbl.get [] x.symErrs l).eraseDups
    let lost := 8 < 2 * (syms.filter fun y => !e.contains y).length + e.length
    let i : Instr := .softError (.hbm m a) b second
    let o := (frameOf s m a).owner
    (l ∈ x.marks → exec i s = .next s) ∧
    (l ∉ x.marks → ∃ t, exec i s = .next t ∧ t.cores = s.cores ∧ (∀ y, physByte t m y = physByte s m y) ∧
      (lost → (getMod t m).marks = x.marks ++ [l] ∧ (getMod t m).errs = x.errs ∧ (getMod t m).shared = x.shared) ∧
      (¬ lost → (o = 0 → sharedCount s t m 2) ∧
        (o ≠ 0 → Tbl.get 0 (getMod t m).errs (16 * o + 2) = (Tbl.get 0 (getMod s m).errs (16 * o + 2) + 1) % 2 ^ 32) ∧
        (x.corrected = [] → (getMod t m).marks = x.marks ∧ Tbl.get [] (getMod t m).symErrs l = syms ∧ (getMod t m).corrected = [(rank, sym, nowOf s m)] ∧
          (getMod t m).erasures = x.erasures) ∧
        ((x.corrected.filter fun y => decide (nowOf s m ≤ y.2.2 + 10 ^ 12) && y.1 == rank && y.2.1 == sym).length = 63 →
          (Tbl.get [] x.erasures rank).length < 16 → sym ∈ Tbl.get [] (getMod t m).erasures rank)))) ∧
  (∀ (k r c b : Nat) (second : Bool) (s : State),
    (b < 6 → exec (.softError (.array k r c) b second) s =
      .next { s with cores := Tbl.set s.cores k (let x := getCore s k; { x with arrB := Tbl.set x.arrB (64 * r + c) (Nat.xor (arrAt x r c) (2 ^ b)) }) }) ∧
    (6 ≤ b → exec (.softError (.array k r c) b second) s = .next s)) ∧
  (∀ (m a : Nat) (s : State), let x := getMod s m
    let o := (frameOf s m a).owner
    (s.place < 2 ^ 32 → ∃ t, exec (.patrolScrub (.hbm m a)) s = .next t ∧ (getMod t m).marks = x.marks ∧ (∀ y ∈ (getMod t m).symErrs, y.1 ≠ a / 64) ∧
      BitLoc.hbm m a ∈ (getMod t m).patrolled ∧ (∀ y, physByte t m y = physByte s m y) ∧
      (a / 64 ∉ x.marks → (getMod t m).errs = x.errs ∧ (getMod t m).shared = x.shared) ∧
      (a / 64 ∈ x.marks → (o = 0 → sharedCount s t m 3) ∧
        (o ≠ 0 → Tbl.get 0 (getMod t m).errs (16 * o + 3) = (Tbl.get 0 x.errs (16 * o + 3) + 1) % 2 ^ 32))) ∧
    (2 ^ 32 ≤ s.place → nowOf s m / 2 ^ 46 ≠ (nowOf s m + 1) / 2 ^ 46 →
      ∃ t, exec (.patrolScrub (.hbm m a)) s = .next t ∧ BitLoc.hbm m a ∈ (getMod t m).patrolled)) ∧
  (∀ (d a : Nat) (s : State), s.place < 2 ^ 32 → isMarked s 3 d (0x40000000 + a / 8 * 8) 8 = true →
    ∃ t, exec (.patrolScrub (.weight d a)) s = .next t ∧ sharedCount s t (d / 8) 1 ∧ t.marks = s.marks) ∧
  (∀ (m rank sym : Nat) (s : State), let old := Tbl.get [] (getMod s m).erasures rank
    ∃ t, exec (.erasureAdd m rank sym) s = .next t ∧
      Tbl.get [] (getMod t m).erasures rank = (if 16 ≤ old.length ∨ sym ∈ old then old else old ++ [sym]) ∧
      ∀ r, r ≠ rank → Tbl.get [] (getMod t m).erasures r = Tbl.get [] (getMod s m).erasures r) ∧
  (∀ (m rank frame : Nat) (up : Bool) (s : State), let x := getMod s m
    let old := Tbl.get [] x.erasures rank
    let f := frameOf s m frame
    let may := 6 < old.length ∧ if up then x.up = false else f.pin = 0 ∧ f.swap = false ∧ frame / 65536 ∈ x.vacated
    (¬ may → exec (.hbmRepair m rank frame up) s = .next s) ∧
    (may → ∃ t n, exec (.hbmRepair m rank frame up) s = .next t ∧ 1 ≤ n ∧
      n ≤ old.length ∧ Tbl.get [] (getMod t m).erasures rank = old.drop n ∧ rank ∈ (getMod t m).repaired ∧ frame / 65536 ∉ (getMod t m).vacated)) ∧
  (∀ (m port : Nat) (s : State),
    (∃ t n, exec (.flitRetry m port) s = .next t ∧ 1 ≤ n ∧ n ≤ 8 ∧ Tbl.get 0 (getMod t m).shared 21 = (Tbl.get 0 (getMod s m).shared 21 + n) % 2 ^ 32 ∧
      (n < 8 → (getMod t m).down = (getMod s m).down) ∧
      (n = 8 → (∀ x ∈ (getMod s m).down, x.1 ≠ port) → (getMod t m).down.find? (fun x => x.1 == port) = some (port, nowOf s m))) ∧
    (∃ t, exec (.dolselLinkUp m port) s = .next t ∧ (getMod t m).down = (getMod s m).down.filter fun x => x.1 != port) ∧
    let cut := (∀ p, p < 32 → ∃ x ∈ (getMod s m).down, x.1 = p) ∧ ∀ x ∈ (getMod s m).down, x.2 + 10000 ≤ nowOf s m
    (¬ cut → exec (.linkDownTimeout m port) s = .next s) ∧
    ∀ j, cut → s.jobs = [j] → s.clusters = [] → j.decls = [] → m ∈ j.members → memberOf j m ∉ j.dead →
      exec (.linkDownTimeout m port) s = .next { s with jobs := [{ j with dead := j.dead ++ [memberOf j m] }] }) ∧
  (∀ (c e : Nat) (s : State), handNow s c e = none →
    ∃ t, exec (.deviceFault (.engine c e)) s = .next t ∧ (∀ q ∈ queueOf (getCluster t c) e, q.status ≠ 0 ∧ q.paused = none) ∧
      (queueOf (getCluster t c) e).map (fun q => q.id) = (queueOf (getCluster s c) e).map (fun q => q.id) ∧ (getCluster t c).scratch = (getCluster s c).scratch) ∧
  (∀ (d : Nat) (s : State), ∃ t, exec (.deviceFault (.die d)) s = .next t ∧ (getDie t d).inService = false ∧
    ∀ l c, (getMod s (d / 8)).launches = [l] → l.status = 0 → c / 12 = d → (getCluster s c).ctx.uid = l.uid → (getCluster s c).task ≠ .none →
      ∃ cause, launchNow t (d / 8) l.uid = some { l with state := .failing, status := 3, cause := cause })∧
  (∀ (d c e : Nat) (s : State), c / 12 = d → e < 4 → ∃ t, exec (.deviceFault (.die d)) s = .next t ∧ ∀ q ∈ queueOf (getCluster t c) e, q.status ≠ 0) ∧
  ∀ (d g : Nat) (s : State), let now := dieTime s d
    let age := (now + 64000 - ((getMod s (d / 8)).cfg.wsPhase + 4000 * g) % 64000) % 64000
    let lasting := (getDie s d).refresh.filter fun x => decide (now < x.2)
    ∃ t, exec (.wsRefreshWindow d g) s = .next t ∧ (∀ e, e ≠ d → getDie t e = getDie s e) ∧
      getDie t d = { getDie s d with refresh := if age = 0 ∧ lasting = [] then [(g, now + 800)] else lasting }

/-- R8, R198, R266, R395, R402 to R404: bring-up and power: a cold reset keeps the records and the host's memory and repairs the ranks whose erasure table is past
six entries, and drops all else, or stops where a record fails; a power hold takes one cycle of a cluster, not two in a row and not within 64 cycles of a wake;
a die without an assigned cluster or a weight-store write is turned off and loses its stores, and comes back after 5 ms with its clusters in a scrub; and a
module without work is parked, and comes back after 20 ms. What a cold reset keeps, how many entries a repair takes, when a hold falls, and what a die that is
off or parked loses, are the model's choices (logs 37, 33, 35 and 36). -/
def Obligations.PowerEvents : Prop :=
  (∀ (m now : Nat) (ok : Bool) (s : State), let old := getMod s m
    ∃ t, exec (.coldReset m ok now) s = .next t ∧
      (let x := getMod t m
       x.up = ok ∧ x.host = old.host ∧ x.hbm = [] ∧ x.cfg = old.cfg ∧ x.launches = [] ∧ x.queues = [] ∧
         x.time.now = now * (19 * 10 ^ 9) ∧ x.time.tmcfg = old.cfg.tmcfg ∧ x.limit = old.cfg.limit ∧ x.wlog = old.cfg.wlog ∧
         (ok = false → x.erasures = old.erasures ∧ x.repaired = old.repaired) ∧
         (ok = true → (∀ r ∈ old.repaired, r ∈ x.repaired) ∧ ∀ r, let es := Tbl.get [] old.erasures r
           (es.length ≤ 6 → Tbl.get [] x.erasures r = es) ∧
           (6 < es.length → r ∈ x.repaired ∧ ∃ n, 1 ≤ n ∧ n ≤ es.length ∧ Tbl.get [] x.erasures r = es.drop n))) ∧
      (∀ k, modOf k = m → getCore t k = .reset) ∧ (∀ c, c / 96 = m → getCluster t c = .reset) ∧ (∀ k, modOf k ≠ m → getCore t k = getCore s k) ∧
      (∀ n, n ≠ m → getMod t n = getMod s n) ∧ (∀ j, jobOn t m j = false) ∧
      (ok = true → (∀ i, i < 8 → (getDie t (8 * m + i)).copyOff = -1 ∨ (getDie t (8 * m + i)).copyOff = 0 ∨ (getDie t (8 * m + i)).copyOff = 1) ∧ t.hostMsgs = s.hostMsgs) ∧
      (ok = false → (∀ i, i < 8 → getDie t (8 * m + i) = .reset) ∧ t.hostMsgs = s.hostMsgs ++ [.bootFailed m])) ∧
  (∀ (s : State), let c := s.place
    let x := getCluster s c
    let free := x.hold ≠ s.cycle ∧ x.hold ≠ s.cycle + 1 ∧ (x.lastWake = 0 ∨ x.lastWake + 64 ≤ s.cycle)
    (¬ free → exec .powerHold s = .next s) ∧
    (free → ∃ t, exec .powerHold s = .next t ∧ getCluster t c = { x with hold := s.cycle + 1 } ∧ t.cores = s.cores ∧ t.dies = s.dies ∧
      ∀ d, d ≠ c → getCluster t d = getCluster s d)) ∧
  (∀ (s : State), let d := s.place
    let idle := (∀ i, i < 12 → let x := getCluster s (12 * d + i)
      x.part = 0 ∧ x.scrub = none ∧ x.task = .none) ∧ (getDie s d).writing = false ∧ (getMod s (d / 8)).updating ≠ some d
    (¬ idle → exec .dieOff s = .next s) ∧
    (idle → ∃ t, exec .dieOff s = .next t ∧ getDie t d = { getDie s d with power := .off, powerAt := 0, weights := [] } ∧
      ∀ i, i < 12 → (getCluster t (12 * d + i)).scratch = [] ∧ ∀ r, r < 8 → getCore t (8 * (12 * d + i) + r) = .reset)) ∧
  (∀ (s : State), let d := s.place
    let now := nowOf s (d / 8)
    let x := getDie s d
    let put := fun p => { s with dies := Tbl.set s.dies d p }
    (x.power ≠ .off ∨ (getMod s (d / 8)).updating = some d → exec .diePowerUp s = .next s) ∧
    (x.power = .off → (getMod s (d / 8)).updating ≠ some d →
      (x.powerAt = 0 → exec .diePowerUp s = .next (comesBack (put { x with powerAt := now + 5000000 }) 1 d .diePowerUp)) ∧
      (now < x.powerAt → exec .diePowerUp s = .next (comesBack s 1 d .diePowerUp)) ∧
      (x.powerAt ≠ 0 → x.powerAt ≤ now → ∃ t, exec .diePowerUp s = .next t ∧ getDie t d = { x with power := .idle, powerAt := 0 } ∧
        ∀ i, i < 12 → let c := 12 * d + i
          ∃ n, 1 ≤ n ∧ n ≤ 149999 ∧ getCluster t c = { getCluster s c with scrub := some (now + n), newPart := (getCluster s c).part }))) ∧
  ∀ (s : State), let m := s.place
    let now := nowOf s m
    let x := getMod s m
    let works := x.launches ≠ [] ∨ ∃ i, i < 96 ∧ (getCluster s (96 * m + i)).task ≠ .none
    (works → exec .moduleStandby s = .next s) ∧
    (¬ works → ∃ t, exec .moduleStandby s = .next t ∧ getMod t m = { x with standby := true, exitAt := 0 } ∧ (∀ i, i < 8 → (getDie t (8 * m + i)).weights = []) ∧
      ∀ i, i < 96 → (getCluster t (96 * m + i)).scratch = []) ∧
    (x.standby = false → exec .moduleStandbyExit s = .next s) ∧
    (x.standby = true →
      (x.exitAt = 0 → exec .moduleStandbyExit s = .next (comesBack (onMod s m fun x => { x with exitAt := now + 20000000 }) 1 m .moduleStandbyExit)) ∧
      (now < x.exitAt → exec .moduleStandbyExit s = .next (comesBack s 1 m .moduleStandbyExit)) ∧
      (x.exitAt ≠ 0 → x.exitAt ≤ now → ∃ t, exec .moduleStandbyExit s = .next t ∧ t.mods = (onMod s m fun x => { x with standby := false, exitAt := 0 }).mods ∧
        t.cores = s.cores ∧ t.clusters = s.clusters ∧ ∀ d, ∃ r, getDie t d = { getDie s d with refresh := r }))

/-- R262, R367 to R373, R378, R383: the halt wave and the debugger: a halt of a job of one member is accepted and the freeze follows in the next cycle, as it does
where a freeze signal arrives; it reaches the member, whose registers and positions stay, and the member is FROZEN once its engines have stopped too; a
debugger reads and writes while it is FROZEN; a step of a core reports what its cycle, or its cycles up to 64, have issued, and every pending write, those that
a trap holds among them, and is answered with status 0; and a resume of such a job releases stage by stage from Q on. The layout of what a debugger reads and
the edges of the wave are the model's choices (log 38), as are the cycles for which a broadcast group drains its delay lines (log 95). -/
def Obligations.HaltEvents : Prop :=
  (∀ (m caller job : Nat) (s : State), Serving s m →
    (¬ Manages s m caller job → ∃ t, exec (.halt m caller job) s = .next t ∧ Refused m s t) ∧
    ∀ j, Manages s m caller job → getJob s job = some j → j.members = [m] → slotOf (getMod s m) job < 16 → (jobSlot s m job).state = .running → (jobSlot s m job).incoming = none →
      exec (.halt m caller job) s = .next (done m (comesBack (onMod s m fun x => { x with slots := Tbl.set x.slots (slotOf (getMod s m) job) ({ jobSlot s m job with
        state := .freezing, accepted := s.cycle, causeRec := ⟨0x51, 0, 0, 0, 1023, 0, nowOf s m, 0⟩ } : JobSlot) }) 1 m (.haltWaveTrigger m job)))) ∧
  (∀ (m job : Nat) (s : State), slotOf (getMod s m) job < 16 →
    (∀ rec, (jobSlot s m job).incoming = some rec → exec (.haltWaveTrigger m job) s = exec (.haltWaveTrigger m job) (onMod s m fun x =>
      { x with slots := Tbl.set x.slots (slotOf (getMod s m) job) ({ jobSlot s m job with state := .freezing, causeRec := rec, incoming := none } : JobSlot) })) ∧
    ((jobSlot s m job).incoming = none → (jobSlot s m job).state ≠ .freezing → exec (.haltWaveTrigger m job) s = .next s) ∧
    ((jobSlot s m job).incoming = none → (jobSlot s m job).state = .freezing → (jobSlot s m job).stopped = true →
      let left := fun k => (getCore s k).frozen = false ∧ drainsLine s (jobSlot s m job) k = false
      (allStopped s m job = true → exec (.haltWaveTrigger m job) s = .next (onMod s m fun x =>
        { x with slots := Tbl.set x.slots (slotOf (getMod s m) job) { jobSlot s m job with state := .frozen } })) ∧
      (allStopped s m job = false → (∀ k ∈ jobCores s m job, ¬ left k) →
        exec (.haltWaveTrigger m job) s = .next (comesBack s 1 s.place (.haltWaveTrigger m job))) ∧
      ∃ t, exec (.haltWaveTrigger m job) s = .next t ∧ ∀ k ∈ jobCores s m job, left k → (getCore t k).frozen = true ∧ (getCore t k).regs = (getCore s k).regs ∧
        (getCore t k).pc = (getCore s k).pc ∧ (getCore t k).loops = (getCore s k).loops ∧ (getCore t k).wait = (getCore s k).wait) ∧
    ((jobSlot s m job).incoming = none → (jobSlot s m job).state = .freezing → (jobSlot s m job).stopped = false → ∃ t, exec (.haltWaveTrigger m job) s = .next t ∧ (jobSlot t m job).stopped = true ∧
      (∀ k ∈ jobCores s m job, (getCore t k).regs = (getCore s k).regs ∧ (getCore t k).pc = (getCore s k).pc ∧
        (getCore t k).loops = (getCore s k).loops ∧ (getCore t k).wait = (getCore s k).wait ∧
        ((getCluster s (k / 8)).ctx.bcast = false → (getCore t k).frozen = true)) ∧
      (∀ k, k ∉ jobCores s m job → getCore t k = getCore s k) ∧ t.flights = s.flights ∧
      ∀ c, getCluster t c = getCluster s c ∨ (getCluster s c).ctx.bcast = true ∧ getCluster t c = { getCluster s c with stopped := true })) ∧
  (∀ (m caller job : Nat) (src : DbgSource) (s : State), Serving s m →
    (Manages s m caller job → (jobSlot s m job).state = .frozen → ofJob s m job src = true →
      exec (.dbgRead m caller job src) s = .next { s with hostMsgs := s.hostMsgs ++ [.answer m 0 (debugData s src)] }) ∧
    (¬ Manages s m caller job ∨ (jobSlot s m job).state ≠ .frozen ∨ ofJob s m job src = false → ∃ t, exec (.dbgRead m caller job src) s = .next t ∧ Refused m s t)) ∧
  (∀ (k n : Nat) (s : State), let c := getCore s k
    (debugData s (.scalar k n) = (c.regs.getS n).toNat :: tagWords (c.regs.tagS n)) ∧ debugData s (.pc k) = [c.pc] ∧
    debugData s (.handler k) = [if c.handler then 1 else 0] ∧ debugData s (.pred k n) = (if c.regs.getP n then 1 else 0) :: tagWords (c.regs.tagP n)) ∧
  (∀ (k caller : Nat) (w : DbgTarget) (s : State), Serving s (modOf k) →
    let cl := getCluster s (k / 8)
    let may := cl.task ≠ .none ∧ Manages s (modOf k) caller cl.ctx.job ∧ (jobSlot s (modOf k) cl.ctx.job).state = .frozen
    (¬ may → ∃ t, exec (.dbgWrite k caller w) s = .next t ∧ Refused (modOf k) s t) ∧
    (may → ∃ t, exec (.dbgWrite k caller w) s = .next t ∧ t.hostMsgs = s.hostMsgs ++ [.answer (modOf k) 0 []] ∧ (∀ j, j ≠ k → getCore t j = getCore s j) ∧
      t.clusters = s.clusters ∧ (getCore t k).pc = (getCore s k).pc ∧
      (∀ n v, w = .scalar n v → 0 < n → (getCore t k).regs.getS n = v ∧ (getCore t k).regs.tagS n = none) ∧
      (∀ n v, w = .pred n v → 1 < n → (getCore t k).regs.getP n = v ∧ (getCore t k).regs.tagP n = none) ∧
      (∀ n v, w = .mask n v → (getCore t k).regs.getK n = v) ∧
      (∀ v, w = .scalar 0 v → (getCore t k).regs.getS 0 = 0))) ∧
  (∀ (k caller : Nat) (s : State), Serving s (modOf k) →
    let may := mayStep s k caller
    (may = false → (∃ t, exec (.stepCycle k caller) s = .next t ∧ Refused (modOf k) s t) ∧
      (s.place ≤ 2 ^ 32 → ∃ t, exec (.stepBundle k caller) s = .next t ∧ Refused (modOf k) s t)) ∧
    (may = true →
      let r := stepOnce k (putWave k .stepping s)
      let told := fun (t : State) => reportStep k r.2 (putWave k .frozen t)
      exec (.stepCycle k caller) s = .next (told r.1) ∧
      (s.place ≤ 2 ^ 32 → exec (.stepBundle k caller) s = .next (if r.2 then told r.1 else comesBack r.1 1 (2 ^ 32 + 1) (.stepBundle k caller))) ∧
      (∀ i, 0 < i → s.place = 2 ^ 32 + i → exec (.stepBundle k caller) s = .next (if r.2 = true ∨ 63 ≤ i then told r.1 else comesBack r.1 1 (2 ^ 32 + i + 1) (.stepBundle k caller))))) ∧
  (∀ (k : Nat) (issued : Bool) (s : State), let c := getCore s k
    ∃ ws, reportStep k issued s = { s with
      hostMsgs := s.hostMsgs ++ [.step (modOf k) (coreNo k) issued c.pc c.sched ws] ++ [.answer (modOf k) 0 []] } ∧
      (∀ x, x ∈ c.held ∨ x ∈ c.frozenHeld → pendWords x ∈ ws) ∧ ∀ p ∈ c.pend, pendWords (p.vis - c.frozenAt, p) ∈ ws) ∧
  (∀ (m caller job : Nat) (j : Job) (s : State), Serving s m → getJob s job = some j → j.members = [m] → j.dead = [] → slotOf (getMod s m) job < 16 →
    (¬ Manages s m caller job ∨ (jobSlot s m job).state ≠ .frozen → ∃ t, exec (.resume m caller job) s = .next t ∧ Refused m s t) ∧
    (Manages s m caller job → (jobSlot s m job).state = .frozen → ∃ t q, exec (.resume m caller job) s = .next t ∧ nowOf s m + 10000 ≤ q ∧
      jobSlot t m job = { jobSlot s m job with state := .resuming, q := q, stage := 0 } ∧ t.cores = s.cores ∧ t.hostMsgs = s.hostMsgs ++ [.answer m 0 []])) ∧
  ∀ (m job stage : Nat) (s : State), slotOf (getMod s m) job < 16 →
    let x := jobSlot s m job
    let noFiring := ∀ g, g < 16 → (tickAt s m g).en = true → (tickAt s m g).job = job → (tickAt s m g).dueFirings (nowOf s m) = 0
    (x.state ≠ .resuming ∨ x.stage ≠ stage ∨ (stage ≠ 2 ∧ nowOf s m < x.q + (if stage = 0 then 0 else if stage = 1 then 500 else 1000)) →
      exec (.resumeReleaseStage m job stage) s = .next s) ∧
    (x.state = .resuming → x.stage = 2 → stage = 2 → x.q + 1000 ≤ nowOf s m → exec (.resumeReleaseStage m job 2) s = .next (onMod s m fun y =>
      { y with slots := Tbl.set y.slots (slotOf y job) { x with stage := 3 } })) ∧
    (x.state = .resuming → x.stage = stage → stage < 2 → x.q + 500 * stage ≤ nowOf s m →
      (stage = 1 → ∀ c ∈ jobClusters s m job, (getCluster s c).graphs = []) → exec (.resumeReleaseStage m job stage) s = .next (onMod s m fun y =>
      { y with slots := Tbl.set y.slots (slotOf y job) { x with stage := stage + 1 } })) ∧
    (x.state = .resuming → x.stage = 3 → stage = 3 → x.q + 1000 ≤ nowOf s m → x.pending = none → noFiring → jobCores s m job = [] →
      exec (.resumeReleaseStage m job 3) s = .next (onMod s m fun y =>
        { y with slots := Tbl.set y.slots (slotOf y job) { x with state := .running, stopped := false, stage := 0, total := x.total + (nowOf s m - x.since), pending := none } })) ∧
    ∀ k, x.state = .resuming → x.stage = 3 → stage = 3 → x.q + 1000 ≤ nowOf s m → x.pending = none → noFiring → jobCores s m job = [k] →
      let c := getCore s k
      c.frozen = true → c.wait = .none → c.fatalCause = none → c.stepT = none → ∃ t, exec (.resumeReleaseStage m job 3) s = .next t ∧ (jobSlot t m job).state = .running ∧
        (getCore t k).frozenHeld = [] ∧ (getCore t k).pend.map (fun p => p.vis) = c.pend.map (fun p => p.vis) ++ c.frozenHeld.map (fun p => s.cycle - 1 + p.1) ∧
        (getCore t k).regs = c.regs ∧ (getCore t k).pc = c.pc ∧ ∀ j, j ≠ k → getCore t j = getCore s j

/-- A step is the next move of the cycle at its place; one with operands or a place that the part does not have is passed over; and with none left the next cycle
begins. The order of what is independent within a cycle, and that a move of no event of the part is passed over, are the model's choices (logs 1 and 73). -/
def Obligations.StepRunsMove : Prop :=
  (∀ (s : State) (x : Move) (rest : List Move), s.agenda = x :: rest → x.i.wf = true → x.i.placeOk x.at_ = true →
    step s = exec x.i { s with agenda := rest, place := x.at_ }) ∧
  (∀ (s : State) (x : Move) (rest : List Move), s.agenda = x :: rest → (x.i.wf && x.i.placeOk x.at_) = false → step s = .next { s with agenda := rest }) ∧
  ∀ (s : State), s.agenda = [] → step s = .next (beginCycle s)

/-- R27, R52, R58, R59, R61, R71, R111, R117 to R121, R357, R358, R362, R375, R406: issue: where the words at a core's position decode to a bundle, a step runs
each of its syllables on that core; where none of them stalls or faults the bundle completes: `sys.sched` rises by one, the position goes where the X slot and
loop-bottom processing put it, the next bundle issues no earlier than the cycle after, later by IDLE, and the results that the slots have made are pending; a
taken `abr` of a group of one goes to its target with the loop stack that the model chooses (log 70) and records no transfer of its X slot, an `rte` goes back to
the trapped bundle once the results of handler mode have landed, and a `live` that lands stops the core; where a slot stalls, none of them has acted; where one
faults, the trap of the first in slot order is taken on the bundle, with `sys.trapaddr` modulo 2^32 (log 17); a tagged source in a slot without a destination
for the tag traps with its cause, no slot completed; and a position that is no multiple of 4 is no bundle start. -/
def Obligations.IssueBundle : Prop :=
  (∀ (s : State) (k : Nat) (rest : List Move), s.agenda = ⟨k, .issueBundle⟩ :: rest → Instr.placeOk .issueBundle k = true →
    step s = exec .issueBundle { s with agenda := rest, place := k }) ∧
  (∀ (s : State) (h : Nat) (is : List (Slot × Instr)), let k := s.place
    IssuesNow s k → BundleAt s k h is →
    let u := ran (actOrder is) (startOf s k h)
    let c := getCore s k
    let d := getCore u k
    let f := u.focus
    let n := nextPos f.addr (4 * bundleWords h) f.loopBottom d.loops f.ctl
    let acts := f.stall = none ∧ roomFor d f = true
    let counted := fun (t : State) => let x := getCore t k
      x.sched = (d.sched + 1) % 2 ^ 64 ∧ x.wd = 0 ∧ x.regs = d.regs ∧ (∀ j, j ≠ k → getCore t j = getCore u j) ∧
        (∀ j, (getCluster t j).scratch = (getCluster u j).scratch) ∧ t.dies = u.dies
    (acts → f.deferred = [] → f.events = [] → d.replay = none →
      (f.ectl = .none → ∃ t, exec .issueBundle s = .next t ∧ counted t ∧ t.agenda = u.agenda ∧
        (let x := getCore t k
         x.pc = n.pc ∧ x.xfer = n.xfer ∧ x.nextIssue = u.cycle + 1 + f.idle ∧ (f.wait.awaits = false → x.wait = f.wait) ∧
           (n.ends = false → x.loops = n.loops ∧ x.pend = d.pend ∧ x.seq = d.seq ∧ x.held = d.held) ∧ (n.ends = true → x.seq = .ending ∧ x.loops = []))) ∧
      (∀ a, f.ectl = .arm a → ∃ t, exec .issueBundle s = .next t ∧ counted t ∧
        (getCore t k).pc = a ∧ (getCore t k).nextIssue = u.cycle + 1 + f.idle ∧ (getCore t k).pend = d.pend ∧ (getCore t k).seq = d.seq ∧
        (getCore t k).loops = (if f.ctl = .seq then n.loops else d.loops) ∧ (getCore t k).trace = (f.trace.reverse ++ d.trace).take 1024) ∧
      (f.ectl = .rte → n.ends = false → ∃ t, exec .issueBundle s = .next t ∧ counted t ∧
        (getCore t k).pc = d.trapaddr ∧ (getCore t k).replay = some d.trapmask ∧
        ∀ p ∈ d.pend, d.trapT < p.seq → p.vis < (getCore t k).nextIssue) ∧
      (∀ ra taken, f.ectl = .call ra taken → ∃ t r, exec .issueBundle s = .next t ∧ counted t ∧ (getCore t k).pc = (if taken then ra.takenPc else n.pc) ∧
        (getCore t k).ra = some r ∧ r.guess = ra.guess ∧ r.takenPc = ra.takenPc ∧ r.fallPc = n.pc ∧ r.loops = n.loops ∧
        r.takenLoops = (if f.ctl = .seq then n.loops else d.loops) ∧ r.shadow = d.regs ∧ r.issued = u.cycle) ∧
      (∀ a, f.ectl = .landing a → ∃ t, exec .issueBundle s = .next t ∧ counted t ∧ (getCore t k).seq = .landed ∧ (getCore t k).liveAddr = some a ∧
        (getCore t k).pc = d.pc ∧ (getCore t k).loops = d.loops ∧ (getCore t k).resumeAt = some n)) ∧
    (∀ st, f.stall = some st ∨ f.stall = none ∧ roomFor d f = false ∧ st = ⟨false, 5⟩ → ∃ t, exec .issueBundle s = .next t ∧
      (let x := getCore t k
       x.regs = c.regs ∧ x.pc = c.pc ∧ x.pend = c.pend ∧ x.sched = c.sched ∧ x.loops = c.loops ∧ x.nextIssue = c.nextIssue ∧ x.wd = c.wd + if st.wd then 1 else 0) ∧
      (∀ j, j ≠ k → getCore t j = getCore s j) ∧ t.clusters = s.clusters ∧ t.dies = s.dies ∧ t.mods = s.mods) ∧
    (∀ sl cause detail es, acts → f.deferred = [] → f.events = (sl, cause, detail, false) :: es → f.ectl = .none → f.wait.awaits = false → f.wait ≠ .call →
      d.handler = false → d.tvec ≠ 0 → cause ≠ 0x60 → ∃ t, exec .issueBundle s = .next t ∧ counted t ∧
        (let x := getCore t k
         x.handler = true ∧ x.trapcause = cause ∧ x.trapdetail = detail ∧ x.trapaddr = c.pc % 2 ^ 32 ∧ x.pc = d.tvec ∧ x.nextIssue = u.cycle + 4 ∧
           ∀ j, j ≤ 8 → (bit x.trapmask (8 - j) = true ↔
             (∃ y ∈ is, y.1.num = j ∧ (isControl y.2 = false ∨ c.regs.getP ((guardOf y.2).getD 0) = false)) ∧ ∀ e ∈ f.events, e.1 ≠ j))) ∧
    ∀ p ps, acts → f.deferred = p :: ps → p.cause ≠ 0x30 → p.cause ≠ 0x31 → p.cause ≠ 0x60 → c.handler = false → c.tvec ≠ 0 → ∃ t, exec .issueBundle s = .next t ∧
      (let x := getCore t k
       x.handler = true ∧ x.trapcause = p.cause ∧ x.trapdetail = p.addr ∧ x.trapaddr = c.pc % 2 ^ 32 ∧ x.trapmask = 0 ∧ x.pc = c.tvec ∧ x.regs = c.regs ∧
         x.nextIssue = s.cycle + 4) ∧ ∀ j, j ≠ k → getCore t j = getCore s j) ∧
  ∀ (s : State), let k := s.place
    IssuesNow s k → TrapOpen s k → (getCore s k).ra = none → inScratch (getCore s k).pc 4 = true → (getCore s k).pc % 4 ≠ 0 →
      ∃ t, exec .issueBundle s = .next t ∧ TrapTaken s t k (getCore s k).pc s.cycle 0 3 1

/-- R61, R102 to R104, R116, R162: what a result leaves in the register files when it lands: a scalar, a pair with its complement, a mask, bytes; a write to s0, p0 or
p1 leaves them as they are; poison writes zero and sets the tag, and a clean result clears it. -/
def Obligations.Landing : Prop :=
  (∀ (r old : Regs) (d : Nat) (v : DWord) (tag : Option Poison), let t := r.land old (.sreg d v tag)
    (d ≠ 0 → t.getS d = (if tag.isSome then 0 else v) ∧ t.tagS d = tag) ∧ t.getS 0 = 0 ∧ t.tagS 0 = none ∧
      (∀ n, n ≠ d → t.getS n = r.getS n ∧ t.tagS n = r.tagS n) ∧ t.p = r.p ∧ t.k = r.k ∧ t.mem = r.mem ∧ t.mTag = r.mTag) ∧
  (∀ (r old : Regs) (d : Nat) (b : Bool) (tag : Option Poison), d < 8 → let t := r.land old (.pair d b tag)
    (d ≠ 0 → t.getP (2 * d) = (!tag.isSome && b) ∧ t.getP (2 * d + 1) = (!tag.isSome && !b) ∧ t.tagP (2 * d) = tag ∧ t.tagP (2 * d + 1) = tag) ∧
      t.getP 0 = true ∧ t.getP 1 = false ∧ (∀ n, n ≠ 2 * d → n ≠ 2 * d + 1 → t.getP n = r.getP n ∧ t.tagP n = r.tagP n) ∧ t.s = r.s ∧ t.k = r.k ∧ t.mem = r.mem) ∧
  (∀ (r old : Regs) (d : Nat) (v sel : Mask), let t := r.land old (.kmask d v sel none)
    (∀ i, i < 128 → (t.getK d).getLsbD i = if sel.getLsbD i then v.getLsbD i else (r.getK d).getLsbD i) ∧ (∀ n, n ≠ d → t.getK n = r.getK n) ∧
      (sel = BitVec.allOnes 128 → t.tagK d = none) ∧ t.s = r.s ∧ t.p = r.p ∧ t.mem = r.mem) ∧
  (∀ (r old : Regs) (a : Nat) (bs : List Nat), let t := r.land old (.bytes [(a, bs)] none none)
    (∀ x, Mem.byte t.mem x = if a ≤ x ∧ x < a + bs.length then bs.getD (x - a) 0 % 256 else Mem.byte r.mem x) ∧ t.s = r.s ∧ t.p = r.p ∧ t.k = r.k ∧
      ∀ g, a ≤ 32 * g → 32 * g + 32 ≤ a + bs.length → Tbl.get none t.mTag g = none) ∧
  ∀ (r old : Regs) (a : Nat) (bs : List Nat) (p : Poison), let t := r.land old (.bytes [(a, bs)] (some p) none)
    (∀ x, a ≤ x → x < a + bs.length → Mem.byte t.mem x = 0) ∧ (∀ x, x < a ∨ a + bs.length ≤ x → Mem.byte t.mem x = Mem.byte r.mem x) ∧
      ∀ g, bs ≠ [] → a / 32 ≤ g → g ≤ (a + bs.length - 1) / 32 → Tbl.get none t.mTag g = some p

/-- R54, R73 to R84: decoding reads back what the encoder writes: for every well-formed instruction and every slot that takes it, with every operand at every value
that the encoding admits. -/
def Obligations.DecodeOfEncode : Prop :=
  ∀ (i : Instr) (sl : Slot), i.wf = true → sl ∈ i.slots → decodeSyl sl (encode i).1 (encode i).2 = .ok i

/-- R54, R57, R70, R73 to R84: no bit of a syllable is dropped: a word and an extension that decode in a slot are those that the encoder writes for the
instruction, which is well formed and one that the slot takes. -/
def Obligations.EncodeOfDecode : Prop :=
  ∀ (sl : Slot) (w : Nat) (ext : Option Nat) (i : Instr), w < 2 ^ 32 → (∀ e, ext = some e → e < 2 ^ 31) → decodeSyl sl w ext = .ok i →
    i.wf = true ∧ sl ∈ i.slots ∧ encode i = (w, ext)

/-- R52, R53: a bundle that holds one syllable decodes to it in its slot, however the bundle was reached. -/
def Obligations.BundleOfOne : Prop :=
  ∀ (i : Instr) (sl : Slot) (reached : Bool), i.wf = true → sl ∈ i.slots →
    ∃ h ws, bundleOf sl i = h :: ws ∧ ws.length + 1 = bundleWords h ∧ decodeBundle h reached ws = .ok [(sl, i)]

/-- R70: the checks of a bundle and their order: the header's tag, its KIND and reserved bits, an extension without its syllable, bit 31 of an extension, a
clash of names, control in a loop bottom, and then those of the syllables, of which the lowest reason is reported, with the earliest slot that has it: the
X-only opcodes are unassigned in Y (8), the forms of M, K and V refuse a format that they do not take (9), a form that takes no extension refuses one, and one
that needs it refuses its absence (10), and a reserved operand bit is refused (11). Which names a syllable that fails 8 to 11 itself takes part in a clash with
is the model's choice (log 77), as is reason 11 for a function code without a form (log 61) and reason 2 after a `loop` that pushes (log 62). -/
def Obligations.DecodeChecks : Prop :=
  (∀ (h : Nat) (t : Bool) (ws : List Nat), let ss := takeSyls h Slot.all ws
    let tag := h / 2 ^ 28 % 16 = 11
    let plain := h / 2 ^ 8 % 4 < 2 ∧ h % 16 = 0
    let known := ∀ sl : Slot, hasExt h sl = true → hasSlot h sl = true
    (¬ tag → decodeBundle h t ws = .bad (if t then 1 else 2) 0) ∧
    (tag → ¬ plain → decodeBundle h t ws = .bad 3 0) ∧
    (tag → plain → ¬ known → decodeBundle h t ws = .bad 4 0) ∧
    (tag → plain → known → (∃ r ∈ ss, ∃ e, r.2.2 = some e ∧ bit e 31 = true) → decodeBundle h t ws = .bad 5 0) ∧
    (tag → plain → known → (∀ r ∈ ss, ∀ e, r.2.2 = some e → bit e 31 = false) →
      (namesClash ss = true → decodeBundle h t ws = .bad 6 0) ∧
      (namesClash ss = false → h / 2 ^ 8 % 4 = 1 → (∃ r ∈ ss, rawControl r = true) → decodeBundle h t ws = .bad 7 0) ∧
      (namesClash ss = false → (h / 2 ^ 8 % 4 = 1 → ∀ r ∈ ss, rawControl r = false) →
        (∀ r ∈ ss, ∃ i, decodeRaw r = .ok i) → ∃ is, decodeBundle h t ws = .ok is ∧ is.map (fun x => x.1) = ss.map (fun r => r.1) ∧
          ∀ x ∈ is, ∃ r ∈ ss, r.1 = x.1 ∧ decodeRaw r = .ok x.2) ∧
      (namesClash ss = false → (h / 2 ^ 8 % 4 = 1 → ∀ r ∈ ss, rawControl r = false) →
        ∀ r ∈ ss, ∀ e, decodeRaw r = .error e →
          (∀ r' ∈ ss, ∀ e', decodeRaw r' = .error e' → e < e' ∨ (e = e' ∧ r.1.num ≤ r'.1.num)) → decodeBundle h t ws = .bad e r.1.num))) ∧
  (∀ (sl : Slot) (w : Nat) (ext : Option Nat) (e : Nat), decodeSyl sl w ext = .error e → 8 ≤ e ∧ e ≤ 11) ∧
  (∀ (w : Nat) (ext : Option Nat), let op := w / 2 ^ 26 % 64
    let fmt := w / 2 ^ 23 % 8
    ((op = 1 ∨ op = 2) ∧ fmt ≠ 7 ∨ (op = 3 ∨ op = 5) ∧ fmt ≠ 0 ∨ op = 4 ∧ 3 ≤ fmt → decodeSyl .M w ext = .error 9) ∧
    ((op = 1 ∨ op = 2) ∧ fmt ≠ 0 → decodeSyl .K w ext = .error 9) ∧
    (op = 5 ∧ fmt = 7 ∨ op = 1 ∧ fmt = 7 ∧ w / 2 ^ 4 % 16 ≤ 4 → decodeSyl .V w ext = .error 9 ∧ decodeSyl .W w ext = .error 9)) ∧
  (∀ (w : Nat), let op := w / 2 ^ 26 % 64
    let fmt := w / 2 ^ 23 % 8
    (op = 5 ∧ fmt = 0 ∧ w / 2 ^ 4 % 64 ≠ 0 ∨ op = 3 ∧ fmt = 0 ∧ w / 2 ^ 4 % 4096 ≠ 0 → decodeSyl .M w none = .error 11) ∧
    (op = 1 ∧ fmt = 0 ∧ w / 2 ^ 4 % 4 ≠ 0 ∨ op = 2 ∧ fmt = 0 ∧ w / 2 ^ 4 % 1024 ≠ 0 → decodeSyl .K w none = .error 11)) ∧
  (∀ (w : Nat) (ext : Option Nat), 48 ≤ w / 2 ^ 26 % 64 → decodeSyl .Y w ext = .error 8) ∧
  ∀ (w e : Nat), let op := w / 2 ^ 26 % 64
    (op = 1 ∨ op = 10 ∨ op = 18 ∨ op = 50 → decodeSyl .X w (some e) = .error 10) ∧ (op = 13 ∨ op = 14 ∨ op = 15 → decodeSyl .X w none = .error 10) ∧
      (op = 1 ∨ op = 6 ∨ op = 24 ∨ op = 42 → decodeSyl .E w (some e) = .error 10)

/-- R54, R64, R73 to R82: words written out from the encodings of the spec decode to the instructions that they stand for, one for each slot; those of X and Y are
the example of R64. -/
def Obligations.DecodedWords : Prop :=
  decodeSyl .X 0x24100050 none = .ok (.movi 0 1 5) ∧ decodeSyl .Y 0x04304200 none = .ok (.add 0 3 1 2) ∧ decodeSyl .X 0x0440C320 none = .ok (.mul 0 4 3 3) ∧
    decodeSyl .X 0xC0000000 none = .ok (.endOp 0) ∧
    decodeSyl .C 0b00000101000001100010000100000001 none = .ok (.cmp 1 2 .lt 3 4) ∧
    decodeSyl .V 0b00000100000011000010001000000000 none = .ok (.vadd 0 .f32 3 1 2) ∧
    decodeSyl .W 0b00001100100001000100000010000000 none = .ok (.vcvt 0 .bf16 1 2 .f32 .rz) ∧
    decodeSyl .M 0b00001011100001000010000001110000 none = .ok (.mfeed 0 false 2 1 7) ∧
    decodeSyl .K 0b00000100011000010111111101000000 none = .ok (.kset 0 true 2 5 (-3)) ∧
    decodeSyl .L 0b00010000000100000110000000100000 none = .ok (.vld 0 .f32 4 6 2) ∧
    decodeSyl .E 0b01110000001100100100000000000000 none = .ok (.tokrel 0 3 9) ∧
    decodeBundle 0xBC000000 false [0x24100050, 0x24200070] = .ok [(.X, .movi 0 1 5), (.Y, .movi 0 2 7)]

/-- R56: the primary opcodes 44 to 47 are unassigned in every slot, and bit 31 of an extension is 0 in a bundle that decodes: no syllable inside it passes the tag
check of a header. -/
def Obligations.NoSyllableIsAHeader : Prop :=
  (∀ (sl : Slot) (w : Nat) (ext : Option Nat), 44 ≤ w / 2 ^ 26 % 64 → w / 2 ^ 26 % 64 ≤ 47 → decodeSyl sl w ext = .error 8) ∧
  ∀ (h : Nat) (t : Bool) (ws : List Nat) (is : List (Slot × Instr)), (∀ w ∈ ws, w < 2 ^ 32) → decodeBundle h t ws = .ok is →
    ∀ r ∈ takeSyls h Slot.all ws, r.2.1 / 2 ^ 28 ≠ 11 ∧ ∀ e, r.2.2 = some e → e / 2 ^ 31 = 0 ∧ e / 2 ^ 28 ≠ 11

/-- No constructor of the instruction set stops: on every state each of them answers a next state (a trap, a stall or a refused operation is one). -/
def Obligations.EveryInstructionRuns : Prop := ∀ (i : Instr) (s : State), ∃ t, exec i s = .next t

/-- R113, R125, R126, R128, R164, R165, R228, R275, R279, R333, R357, R366, R384, R390, R399: the machine right after reset, where the spec gives the values; that
the state of cores and clusters has after a cold reset the values that the spec gives it at the first bundle of a launch is the model's choice (log 6). -/
def Obligations.ResetValues : Prop :=
  let s := State.reset
  (∀ k, let c := getCore s k
    c.trapcause = 0 ∧ c.trapaddr = 0 ∧ c.trapdetail = 0 ∧ c.trapmask = 0 ∧ c.tvec = 0 ∧ c.sched = 0 ∧ c.handler = false ∧ c.loops = [] ∧ c.regions = [] ∧
      c.pend = [] ∧ c.stores = [] ∧ c.kitty = [] ∧ c.ra = none ∧ c.trace = [] ∧ c.regs.dirty = [] ∧ c.regs.mem = [] ∧ (∀ n, c.regs.tagS n = none) ∧
      (∀ cls n, viewOf c cls n = .none) ∧ (∀ r n, arrAt c r n = 0x10) ∧ (∀ l, Tbl.get 0 c.sa l = 0) ∧ (∀ q, streamOf c q = none) ∧ ∀ n, Tbl.get 0 c.evcnt n = 0) ∧
  (∀ c, (getCluster s c).bindings = [] ∧ (getCluster s c).queues = [] ∧ (getCluster s c).graphs = [] ∧ (getCluster s c).task = .none) ∧
  (∀ d, (getDie s d).owner = 0 ∧ (getDie s d).scrub = none) ∧
  (∀ m n, let x := getMod s m
    let q := queueAt s m n
    q.go = false ∧ q.err = false ∧ q.flt = false ∧ q.irqen = false ∧ q.qpos = 0 ∧ q.qcpos = 0 ∧ q.qcack = 0 ∧ q.en = false ∧ q.part = 0 ∧ q.lwdog = 34 ∧ q.age = 10 ∧
      (Tbl.get JobSlot.reset x.slots n).arm = false ∧ (Tbl.get JobSlot.reset x.slots n).cmask = 0 ∧ (Tbl.get JobSlot.reset x.slots n).state = .running ∧
      (tickAt s m n).en = false ∧ windowAt s m n = none ∧ frameAt s m n = ⟨0, 0, false⟩ ∧ x.time.disc = .free ∧ x.act = false ∧ x.sbst = 0 ∧ x.vsby = 0 ∧
      Tbl.get 0 x.errs n = 0 ∧ Tbl.get 0 x.shared n = 0 ∧ Tbl.get 0 x.evcnt n = 0) ∧
  s.jobs = [] ∧ s.hostMsgs = [] ∧ s.flights = []

/-- The values right after reset that the spec leaves open and the model chooses (logs 4, 6 and 7): registers, bytes that nothing has written, and module time
are 0. -/
def Obligations.ChosenResetValues : Prop :=
  let s := State.reset
  (∀ k n, (getCore s k).regs.getS n = 0 ∧ (getCore s k).regs.getK n = 0 ∧ ((getCore s k).regs.getP n = true ↔ n = 0) ∧ (getCore s k).pc = 0) ∧
    (∀ c a, scratchByte s c a = 0) ∧ (∀ m a, physByte s m a = 0) ∧ ∀ m, (getMod s m).time.now = 0

/-- The canonical form of every memory, and an agenda of moves that the part has, hold right after reset. -/
def Obligations.ResetInv : Prop := State.reset.memOk ∧ State.reset.agendaOk

/-- Every step keeps the canonical form of every memory: addresses rise and no listed byte is the one that an unlisted address reads as, in the register spaces, the
scratchpads, the weight stores, HBM and host memory, and in what a run-ahead, a saved task and a dump keep of them. -/
def Obligations.StepKeepsMemory : Prop := ∀ (s t : State), s.memOk → step s = .next t → t.memOk
end

