-- ==== Sys2Proof/Laws/Memory.lean ====
section
/-! SUPPORT. Sys2Proof/Laws/Memory.lean: reads after writes, and the canonical form (log 4) that every memory operation keeps. -/

namespace Sys2Proof.Machine

set_option Elab.async false

/-! ### One byte -/

theorem Mem.byte_append (m n : Mem) (x : Nat) (h : ∀ c ∈ m, c.1 ≠ x) : Mem.byte (m ++ n) x = Mem.byte n x := by
  induction m with
  | nil => rfl
  | cons c m ih =>
    simp only [List.cons_append, Mem.byte, h c (by simp), if_false]
    exact ih fun d hd => h d (by simp [hd])

theorem Mem.byte_append_none (m n : Mem) (x : Nat) (h : ∀ c ∈ n, c.1 ≠ x) : Mem.byte (m ++ n) x = Mem.byte m x := by
  induction m with
  | nil => simpa [Mem.byte] using Mem.byte_append n [] x h
  | cons c m ih => simp only [List.cons_append, Mem.byte, ih]

theorem Mem.byte_filter (m : Mem) (p : Host.Cell → Bool) (x : Nat) (h : ∀ c : Host.Cell, c.1 = x → p c = true) :
    Mem.byte (m.filter p) x = Mem.byte m x := by
  induction m with
  | nil => rfl
  | cons c m ih =>
    by_cases hx : c.1 = x
    · simp [List.filter, h c hx, Mem.byte, hx]
    · cases hp : p c <;> simp [List.filter, hp, Mem.byte, hx, ih]

theorem Mem.cells_range {bs : List Nat} {a : Nat} {c : Host.Cell} (h : c ∈ Mem.cells a bs) : a ≤ c.1 ∧ c.1 < a + bs.length := by
  induction bs generalizing a with
  | nil => simp [Mem.cells] at h
  | cons b bs ih =>
    simp only [Mem.cells] at h
    split at h
    · have := ih h; simp only [List.length_cons]; omega
    · rcases List.mem_cons.mp h with h | h
      · subst h; simp
      · have := ih h; simp only [List.length_cons]; omega

theorem Mem.byte_cells (bs : List Nat) (a i : Nat) (h : i < bs.length) : Mem.byte (Mem.cells a bs) (a + i) = bs.getD i 0 % 256 := by
  induction bs generalizing a i with
  | nil => simp at h
  | cons b bs ih =>
    have tail : ∀ j, j < bs.length → Mem.byte (Mem.cells (a + 1) bs) (a + (j + 1)) = bs.getD j 0 % 256 := fun j hj => by
      rw [show a + (j + 1) = a + 1 + j by omega]; exact ih (a + 1) j hj
    have none_ : Mem.byte (Mem.cells (a + 1) bs) a = 0 := by
      have := Mem.byte_append (Mem.cells (a + 1) bs) [] a fun c hc => by have := Mem.cells_range hc; omega
      simpa [Mem.byte] using this
    simp only [Mem.cells]
    cases i with
    | zero =>
      split
      · next hb => simp [hb, none_]
      · simp [Mem.byte]
    | succ j =>
      have hj : j < bs.length := by simpa using h
      split
      · simpa using tail j hj
      · rw [Mem.byte, if_neg (by show a ≠ a + (j + 1); omega)]; simpa using tail j hj

/-- A byte just written reads as written. -/
theorem Mem.byte_write_in (m : Mem) (a : Nat) (bs : List Nat) (i : Nat) (h : i < bs.length) :
    Mem.byte (Mem.write m a bs) (a + i) = bs.getD i 0 % 256 := by
  unfold Mem.write
  rw [Mem.byte_append _ _ _ fun c hc => by have := (List.mem_filter.mp hc).2; simp at this; omega]
  rw [Mem.byte_append_none _ _ _ fun c hc => by have := (List.mem_filter.mp hc).2; simp at this; omega]
  exact Mem.byte_cells bs a i h

/-- A byte outside what is written reads as before. -/
theorem Mem.byte_write_out (m : Mem) (a : Nat) (bs : List Nat) (x : Nat) (h : x < a ∨ a + bs.length ≤ x) :
    Mem.byte (Mem.write m a bs) x = Mem.byte m x := by
  unfold Mem.write
  have hc : ∀ c ∈ Mem.cells a bs, c.1 ≠ x := fun c hc => by have := Mem.cells_range hc; omega
  rcases h with h | h
  · rw [Mem.byte_append_none _ _ _ fun c hd => ?_]
    · exact Mem.byte_filter _ _ _ fun c hx => by simp [hx, h]
    · rcases List.mem_append.mp hd with hd | hd
      · exact hc c hd
      · have := (List.mem_filter.mp hd).2; simp at this; omega
  · rw [Mem.byte_append _ _ _ fun c hd => by have := (List.mem_filter.mp hd).2; simp at this; omega]
    rw [Mem.byte_append _ _ _ hc]
    exact Mem.byte_filter _ _ _ fun c hx => by simp [hx, h]

/-- Every byte after a write: the read-after-write law. -/
theorem Mem.byte_write (m : Mem) (a : Nat) (bs : List Nat) (x : Nat) :
    Mem.byte (Mem.write m a bs) x = if a ≤ x ∧ x < a + bs.length then bs.getD (x - a) 0 % 256 else Mem.byte m x := by
  split
  · next h =>
    have := Mem.byte_write_in m a bs (x - a) (by omega)
    rwa [show a + (x - a) = x by omega] at this
  · exact Mem.byte_write_out _ _ _ _ (by omega)

/-! ### The canonical form -/

/-- The canonical form in words: every listed byte is nonzero, and addresses rise. -/
theorem Mem.wf_iff (m : Mem) : Mem.wf m = true ↔ (∀ c ∈ m, c.2 ≠ 0) ∧ m.Pairwise (fun a b => a.1 < b.1) := by
  induction m with
  | nil => simp [Mem.wf]
  | cons c m ih =>
    obtain ⟨a, v⟩ := c
    cases m with
    | nil => simp [Mem.wf]
    | cons d t =>
      obtain ⟨b, w⟩ := d
      simp only [Mem.wf, Bool.and_eq_true, decide_eq_true_eq, bne_iff_ne, ih]
      constructor
      · rintro ⟨⟨hv, hab⟩, hz, hp⟩
        refine ⟨?_, List.pairwise_cons.mpr ⟨?_, hp⟩⟩
        · intro c hc; rcases List.mem_cons.mp hc with h | h
          · subst h; exact hv
          · exact hz c h
        · intro c hc; rcases List.mem_cons.mp hc with h | h
          · subst h; exact hab
          · exact Nat.lt_trans hab ((List.pairwise_cons.mp hp).1 c h)
      · rintro ⟨hz, hp⟩
        have hp' := List.pairwise_cons.mp hp
        exact ⟨⟨hz (a, v) (by simp), hp'.1 (b, w) (by simp)⟩, fun c hc => hz c (by simp [hc]), hp'.2⟩

theorem Mem.cells_wf (bs : List Nat) (a : Nat) : Mem.wf (Mem.cells a bs) = true := by
  rw [Mem.wf_iff]
  induction bs generalizing a with
  | nil => simp [Mem.cells]
  | cons b bs ih =>
    have h := ih (a + 1)
    simp only [Mem.cells]
    split
    · exact h
    · next hb =>
      refine ⟨fun c hc => ?_, List.pairwise_cons.mpr ⟨fun c hc => by have := Mem.cells_range hc; omega, h.2⟩⟩
      rcases List.mem_cons.mp hc with hc | hc
      · subst hc
        intro h0
        apply hb
        have := congrArg BitVec.toNat h0
        simpa using this
      · exact h.1 c hc

theorem Mem.filter_wf (m : Mem) (p : Host.Cell → Bool) (h : Mem.wf m = true) : Mem.wf (m.filter p) = true := by
  rw [Mem.wf_iff] at h ⊢
  exact ⟨fun c hc => h.1 c (List.mem_filter.mp hc).1, h.2.filter p⟩

theorem Mem.append_wf (m n : Mem) (hm : Mem.wf m = true) (hn : Mem.wf n = true) (h : ∀ c ∈ m, ∀ d ∈ n, c.1 < d.1) :
    Mem.wf (m ++ n) = true := by
  rw [Mem.wf_iff] at hm hn ⊢
  exact ⟨fun c hc => (List.mem_append.mp hc).elim (hm.1 c) (hn.1 c), List.pairwise_append.mpr ⟨hm.2, hn.2, h⟩⟩

/-- A write keeps the canonical form. -/
theorem Mem.write_wf (m : Mem) (a : Nat) (bs : List Nat) (h : Mem.wf m = true) : Mem.wf (Mem.write m a bs) = true := by
  unfold Mem.write
  refine Mem.append_wf _ _ (Mem.filter_wf _ _ h) (Mem.append_wf _ _ (Mem.cells_wf bs a) (Mem.filter_wf _ _ h) ?_) ?_
  · intro c hc d hd
    have h1 := Mem.cells_range hc
    have h2 := (List.mem_filter.mp hd).2
    simp at h2; omega
  · intro c hc d hd
    have h1 := (List.mem_filter.mp hc).2
    simp at h1
    rcases List.mem_append.mp hd with hd | hd
    · have := Mem.cells_range hd; omega
    · have h2 := (List.mem_filter.mp hd).2
      simp at h2; omega

/-- Writes at mapped addresses keep the canonical form. -/
theorem writeMapped_wf (f : Nat → Nat) (bs : List Nat) (m : Mem) (a : Nat) (h : Mem.wf m = true) : Mem.wf (writeMapped f m a bs) = true := by
  induction bs generalizing m a with
  | nil => exact h
  | cons b bs ih => exact ih _ _ (Mem.write_wf _ _ _ h)

/-- Every write into a scratchpad keeps the canonical form. -/
theorem writeHalf_wf (cl : Cluster) (shadow : Bool) (a : Nat) (bs : List Nat) (h : Mem.wf cl.scratch = true) :
    Mem.wf (writeHalf cl shadow a bs) = true := by
  unfold writeHalf; split
  · exact writeMapped_wf _ _ _ _ h
  · exact Mem.write_wf _ _ _ h

/-- A copy of one store into a range of another keeps the canonical form. -/
theorem Mem.blit_wf (m : Mem) (a n base : Nat) (src : Mem) (h : Mem.wf m = true) (hs : Mem.wf src = true) :
    Mem.wf (Mem.blit m a n base src) = true := by
  have hk : Mem.wf ((src.filter fun c => decide (base ≤ c.1)).map fun c => (c.1 - base + a, c.2)) = true := by
    have hs := Mem.filter_wf src (fun c => decide (base ≤ c.1)) hs
    rw [Mem.wf_iff] at hs ⊢
    refine ⟨fun c hc => ?_, List.pairwise_map.mpr (hs.2.imp_of_mem ?_)⟩
    · obtain ⟨d, hd, rfl⟩ := List.mem_map.mp hc; exact hs.1 d hd
    · intro c d hc hd hlt
      have := of_decide_eq_true (List.mem_filter.mp hc).2
      show c.1 - base + a < d.1 - base + a
      omega
  unfold Mem.blit
  have mid : ∀ c ∈ List.filter (fun c : Host.Cell => decide (a ≤ c.1) && decide (c.1 < a + n)) ((src.filter fun c => decide (base ≤ c.1)).map fun c => (c.1 - base + a, c.2)),
      a ≤ c.1 ∧ c.1 < a + n := fun c hc => by have := (List.mem_filter.mp hc).2; simp at this; exact this
  refine Mem.append_wf _ _ (Mem.append_wf _ _ (Mem.filter_wf _ _ h) (Mem.filter_wf _ _ hk) ?_) (Mem.filter_wf _ _ h) ?_
  · intro c hc d hd
    have h1 := (List.mem_filter.mp hc).2
    have h2 := mid d hd
    simp at h1; omega
  · intro c hc d hd
    have h2 := (List.mem_filter.mp hd).2
    simp at h2
    rcases List.mem_append.mp hc with hc | hc
    · have h1 := (List.mem_filter.mp hc).2
      simp at h1; omega
    · have := mid c hc; omega

/-- Canonical memories with the same bytes are equal. -/
theorem Mem.ext_of_wf (m n : Mem) (hm : Mem.wf m = true) (hn : Mem.wf n = true) (h : ∀ x, Mem.byte m x = Mem.byte n x) : m = n := by
  induction m generalizing n with
  | nil =>
    cases n with
    | nil => rfl
    | cons d t =>
      have hd := ((Mem.wf_iff _).mp hn).1 d (by simp)
      have := h d.1
      simp only [Mem.byte, if_true] at this
      exact absurd (BitVec.eq_of_toNat_eq (by simpa using this.symm)) hd
  | cons c m ih =>
    have wm := (Mem.wf_iff _).mp hm
    have above : ∀ (t : Mem) (x : Nat), (∀ d ∈ t, x < d.1) → Mem.byte t x = 0 := fun t x ht => by
      simpa [Mem.byte] using Mem.byte_append t [] x fun d hd => by have := ht d hd; omega
    have nz : ∀ d : Host.Cell, d.2 ≠ 0 → d.2.toNat ≠ 0 := fun d hd h0 => hd (BitVec.eq_of_toNat_eq (by simpa using h0))
    cases n with
    | nil =>
      have := h c.1
      simp only [Mem.byte, if_true] at this
      exact absurd this (nz c (wm.1 c (by simp)))
    | cons d t =>
      have wn := (Mem.wf_iff _).mp hn
      have pm := List.pairwise_cons.mp wm.2
      have pn := List.pairwise_cons.mp wn.2
      have hcd : c.1 = d.1 := by
        rcases Nat.lt_trichotomy c.1 d.1 with hlt | heq | hlt
        · have h1 := h c.1
          rw [above (d :: t) c.1 (fun e he => by rcases List.mem_cons.mp he with he | he; · subst he; exact hlt
                                                 · exact Nat.lt_trans hlt (pn.1 e he))] at h1
          simp only [Mem.byte, if_true] at h1
          exact absurd h1 (nz c (wm.1 c (by simp)))
        · exact heq
        · have h1 := h d.1
          rw [above (c :: m) d.1 (fun e he => by rcases List.mem_cons.mp he with he | he; · subst he; exact hlt
                                                 · exact Nat.lt_trans hlt (pm.1 e he))] at h1
          simp only [Mem.byte, if_true] at h1
          exact absurd h1.symm (nz d (wn.1 d (by simp)))
      have hv : c.2 = d.2 := by
        have h1 := h c.1
        simp only [Mem.byte, if_true, hcd] at h1
        exact BitVec.eq_of_toNat_eq h1
      have htail : ∀ x, Mem.byte m x = Mem.byte t x := fun x => by
        by_cases hx : c.1 = x
        · rw [above m x (fun e he => by rw [← hx]; exact pm.1 e he), above t x (fun e he => by rw [← hx, hcd]; exact pn.1 e he)]
        · have h1 := h x
          simp only [Mem.byte, hx, if_false, ← hcd] at h1
          exact h1
      have wfm : Mem.wf m = true := (Mem.wf_iff _).mpr ⟨fun e he => wm.1 e (by simp [he]), pm.2⟩
      have wft : Mem.wf t = true := (Mem.wf_iff _).mpr ⟨fun e he => wn.1 e (by simp [he]), pn.2⟩
      rw [ih t wfm wft htail, Prod.ext hcd hv]

/-! ### Reads -/

/-- A cell that a store lists in its canonical form is the byte at its address. -/
theorem Mem.readFrom_eq (n : Nat) (m : Mem) (a : Nat) (hw : Mem.wf m = true) (ha : ∀ c ∈ m, a ≤ c.1) :
    Mem.readFrom m a n = (List.range n).map fun i => Mem.byte m (a + i) := by
  induction n generalizing m a with
  | zero => cases m <;> rfl
  | succ n ih =>
    rw [List.range_succ_eq_map, List.map_cons, List.map_map]
    cases m with
    | nil =>
      rw [Mem.readFrom, ih [] (a + 1) hw (by simp)]
      exact congrArg (List.cons _) (List.map_congr_left fun i _ => rfl)
    | cons c t =>
      have w := (Mem.wf_iff _).mp hw
      have p := List.pairwise_cons.mp w.2
      have wt : Mem.wf t = true := (Mem.wf_iff _).mpr ⟨fun e he => w.1 e (by simp [he]), p.2⟩
      have hc := ha c (by simp)
      obtain ⟨b, v⟩ := c
      rw [Mem.readFrom]
      split
      · next hb =>
        subst hb
        rw [ih t (b + 1) wt fun d hd => p.1 d hd]
        simp only [Nat.add_zero, Mem.byte, if_true, List.cons.injEq, true_and]
        apply List.map_congr_left
        intro i _
        simp only [Function.comp, Nat.succ_eq_add_one]
        rw [if_neg (by omega), show b + (i + 1) = b + 1 + i by omega]
      · next hb =>
        have hlt : a < b := by simp only at hc; omega
        rw [ih ((b, v) :: t) (a + 1) hw (fun d hd => by
          rcases List.mem_cons.mp hd with hd | hd
          · subst hd; exact hlt
          · exact Nat.lt_trans hlt (p.1 d hd))]
        have h0 : Mem.byte ((b, v) :: t) a = 0 := by
          simpa [Mem.byte] using Mem.byte_append ((b, v) :: t) [] a fun d hd => by
            rcases List.mem_cons.mp hd with hd | hd
            · subst hd; show b ≠ a; omega
            · have := p.1 d hd; show d.1 ≠ a; simp only at this; omega
        simp only [Nat.add_zero, h0, List.cons.injEq, true_and]
        apply List.map_congr_left
        intro i _
        simp only [Function.comp, Nat.succ_eq_add_one]
        rw [show a + (i + 1) = a + 1 + i by omega]

/-- Reading a range of a canonical memory gives its bytes one by one. -/
theorem Mem.read_eq (m : Mem) (a n : Nat) (hw : Mem.wf m = true) : Mem.read m a n = (List.range n).map fun i => Mem.byte m (a + i) := by
  have w := (Mem.wf_iff _).mp hw
  have hd : ∀ (m : Mem), m.Pairwise (fun a b => a.1 < b.1) → ∀ c ∈ m.dropWhile (fun c => decide (c.1 < a)), a ≤ c.1 := by
    intro m hp
    induction m with
    | nil => simp
    | cons d t ih =>
      intro c hc
      simp only [List.dropWhile] at hc
      split at hc
      · exact ih (List.pairwise_cons.mp hp).2 c hc
      · next h =>
        simp only [decide_eq_false_iff_not, Nat.not_lt] at h
        rcases List.mem_cons.mp hc with hc | hc
        · subst hc; exact h
        · exact Nat.le_trans h (Nat.le_of_lt ((List.pairwise_cons.mp hp).1 c hc))
  have hb : ∀ (m : Mem) (i : Nat), Mem.byte (m.dropWhile fun c => decide (c.1 < a)) (a + i) = Mem.byte m (a + i) := by
    intro m i
    induction m with
    | nil => rfl
    | cons d t ih =>
      simp only [List.dropWhile]
      split
      · next h => simp only [decide_eq_true_eq] at h; rw [ih, Mem.byte, if_neg (by omega)]
      · rfl
  unfold Mem.read
  rw [Mem.readFrom_eq n _ a _ (hd m w.2)]
  · exact List.map_congr_left fun i _ => hb m i
  · exact (Mem.wf_iff _).mpr ⟨fun c hc => w.1 c ((List.dropWhile_suffix _).subset hc), w.2.sublist (List.dropWhile_suffix _).sublist⟩

/-- The memory after reset is in canonical form: nothing is listed. -/
theorem Mem.nil_wf : Mem.wf [] = true := rfl

end Sys2Proof.Machine
end

