-- ==== Sys2Proof/Laws/State.lean ====
section
/-! SUPPORT. Sys2Proof/Laws/State.lean: tables, and what each named update of State leaves as it was: one lemma per field per update. -/

namespace Sys2Proof.Machine

set_option Elab.async false

/-! ### Tables -/

@[simp] theorem Tbl.get_nil {α : Type} (d : α) (k : Nat) : Tbl.get d [] k = d := rfl

/-- A key that a table has just taken reads as written. -/
@[simp] theorem Tbl.get_set_same {α : Type} (d : α) (t : Tbl α) (k : Nat) (v : α) : Tbl.get d (Tbl.set t k v) k = v := by
  induction t with
  | nil => simp [Tbl.set, Tbl.get]
  | cons x t ih =>
    obtain ⟨j, w⟩ := x
    simp only [Tbl.set]
    split
    · simp [Tbl.get]
    · split
      · simp [Tbl.get]
      · next h => simp [Tbl.get, h, ih]

/-- Every other key reads as before. -/
theorem Tbl.get_set_ne {α : Type} (d : α) (t : Tbl α) {j k : Nat} (v : α) (h : j ≠ k) : Tbl.get d (Tbl.set t k v) j = Tbl.get d t j := by
  induction t with
  | nil => simp [Tbl.set, Tbl.get, Ne.symm h]
  | cons x t ih =>
    obtain ⟨i, w⟩ := x
    simp only [Tbl.set]
    split
    · simp [Tbl.get, Ne.symm h]
    · split
      · next h1 => subst h1; simp [Tbl.get, Ne.symm h]
      · simp only [Tbl.get]; split
        · rfl
        · exact ih

/-- A read after a write to any key. -/
theorem Tbl.get_set {α : Type} (d : α) (t : Tbl α) (j k : Nat) (v : α) : Tbl.get d (Tbl.set t k v) j = if j = k then v else Tbl.get d t j := by
  split
  · next h => subst h; exact Tbl.get_set_same ..
  · next h => exact Tbl.get_set_ne _ _ _ h

/-- An entry of a table that has taken a key is the new one or an old one. -/
theorem Tbl.mem_set {α : Type} {t : Tbl α} {k : Nat} {v : α} {x : Nat × α} (h : x ∈ Tbl.set t k v) : x = (k, v) ∨ x ∈ t := by
  induction t with
  | nil => simp [Tbl.set] at h; exact .inl h
  | cons y t ih =>
    obtain ⟨i, w⟩ := y
    simp only [Tbl.set] at h
    split at h
    · simpa using h
    · split at h
      · simp only [List.mem_cons] at h ⊢; rcases h with h | h
        · exact .inl h
        · exact .inr (.inr h)
      · simp only [List.mem_cons] at h ⊢; rcases h with h | h
        · exact .inr (.inl h)
        · exact (ih h).imp id .inr

/-- What a key reads as is listed, or the default. -/
theorem Tbl.get_mem {α : Type} (d : α) (t : Tbl α) (k : Nat) : (∃ j, (j, Tbl.get d t k) ∈ t) ∨ Tbl.get d t k = d := by
  induction t with
  | nil => exact .inr rfl
  | cons y t ih =>
    obtain ⟨i, w⟩ := y
    simp only [Tbl.get]
    split
    · exact .inl ⟨i, by simp⟩
    · exact ih.imp (fun ⟨j, h⟩ => ⟨j, List.mem_cons_of_mem _ h⟩) id

/-! ### Reads after updates -/

@[simp] theorem getCore_setCore (s : State) (k : Nat) (c : Core) : getCore (setCore s k c) k = c := Tbl.get_set_same ..
theorem getCore_setCore_ne (s : State) {j k : Nat} (c : Core) (h : j ≠ k) : getCore (setCore s k c) j = getCore s j := Tbl.get_set_ne _ _ _ h
@[simp] theorem getCore_updCore (s : State) (k : Nat) (f : Core → Core) : getCore (updCore s k f) k = f (getCore s k) := Tbl.get_set_same ..
theorem getCore_updCore_ne (s : State) {j k : Nat} (f : Core → Core) (h : j ≠ k) : getCore (updCore s k f) j = getCore s j :=
  Tbl.get_set_ne _ _ _ h

@[simp] theorem getCore_setCluster (s : State) (j k : Nat) (c : Cluster) : getCore (setCluster s k c) j = getCore s j := rfl
@[simp] theorem getCore_updCluster (s : State) (j k : Nat) (f : Cluster → Cluster) : getCore (updCluster s k f) j = getCore s j := rfl
@[simp] theorem getCore_setDie (s : State) (j k : Nat) (c : Die) : getCore (setDie s k c) j = getCore s j := rfl
@[simp] theorem getCore_updDie (s : State) (j k : Nat) (f : Die → Die) : getCore (updDie s k f) j = getCore s j := rfl
@[simp] theorem getCore_setMod (s : State) (j k : Nat) (c : Module) : getCore (setMod s k c) j = getCore s j := rfl
@[simp] theorem getCore_updMod (s : State) (j k : Nat) (f : Module → Module) : getCore (updMod s k f) j = getCore s j := rfl
@[simp] theorem getCluster_setCluster (s : State) (k : Nat) (c : Cluster) : getCluster (setCluster s k c) k = c := Tbl.get_set_same ..
theorem getCluster_setCluster_ne (s : State) {j k : Nat} (c : Cluster) (h : j ≠ k) : getCluster (setCluster s k c) j = getCluster s j := Tbl.get_set_ne _ _ _ h
@[simp] theorem getCluster_updCluster (s : State) (k : Nat) (f : Cluster → Cluster) : getCluster (updCluster s k f) k = f (getCluster s k) := Tbl.get_set_same ..
theorem getCluster_updCluster_ne (s : State) {j k : Nat} (f : Cluster → Cluster) (h : j ≠ k) : getCluster (updCluster s k f) j = getCluster s j :=
  Tbl.get_set_ne _ _ _ h

@[simp] theorem getCluster_setCore (s : State) (j k : Nat) (c : Core) : getCluster (setCore s k c) j = getCluster s j := rfl
@[simp] theorem getCluster_updCore (s : State) (j k : Nat) (f : Core → Core) : getCluster (updCore s k f) j = getCluster s j := rfl
@[simp] theorem getCluster_setDie (s : State) (j k : Nat) (c : Die) : getCluster (setDie s k c) j = getCluster s j := rfl
@[simp] theorem getCluster_updDie (s : State) (j k : Nat) (f : Die → Die) : getCluster (updDie s k f) j = getCluster s j := rfl
@[simp] theorem getCluster_setMod (s : State) (j k : Nat) (c : Module) : getCluster (setMod s k c) j = getCluster s j := rfl
@[simp] theorem getCluster_updMod (s : State) (j k : Nat) (f : Module → Module) : getCluster (updMod s k f) j = getCluster s j := rfl
@[simp] theorem getDie_setDie (s : State) (k : Nat) (c : Die) : getDie (setDie s k c) k = c := Tbl.get_set_same ..
theorem getDie_setDie_ne (s : State) {j k : Nat} (c : Die) (h : j ≠ k) : getDie (setDie s k c) j = getDie s j := Tbl.get_set_ne _ _ _ h
@[simp] theorem getDie_updDie (s : State) (k : Nat) (f : Die → Die) : getDie (updDie s k f) k = f (getDie s k) := Tbl.get_set_same ..
theorem getDie_updDie_ne (s : State) {j k : Nat} (f : Die → Die) (h : j ≠ k) : getDie (updDie s k f) j = getDie s j :=
  Tbl.get_set_ne _ _ _ h

@[simp] theorem getDie_setCore (s : State) (j k : Nat) (c : Core) : getDie (setCore s k c) j = getDie s j := rfl
@[simp] theorem getDie_updCore (s : State) (j k : Nat) (f : Core → Core) : getDie (updCore s k f) j = getDie s j := rfl
@[simp] theorem getDie_setCluster (s : State) (j k : Nat) (c : Cluster) : getDie (setCluster s k c) j = getDie s j := rfl
@[simp] theorem getDie_updCluster (s : State) (j k : Nat) (f : Cluster → Cluster) : getDie (updCluster s k f) j = getDie s j := rfl
@[simp] theorem getDie_setMod (s : State) (j k : Nat) (c : Module) : getDie (setMod s k c) j = getDie s j := rfl
@[simp] theorem getDie_updMod (s : State) (j k : Nat) (f : Module → Module) : getDie (updMod s k f) j = getDie s j := rfl
@[simp] theorem getMod_setMod (s : State) (k : Nat) (c : Module) : getMod (setMod s k c) k = c := Tbl.get_set_same ..
theorem getMod_setMod_ne (s : State) {j k : Nat} (c : Module) (h : j ≠ k) : getMod (setMod s k c) j = getMod s j := Tbl.get_set_ne _ _ _ h
@[simp] theorem getMod_updMod (s : State) (k : Nat) (f : Module → Module) : getMod (updMod s k f) k = f (getMod s k) := Tbl.get_set_same ..
theorem getMod_updMod_ne (s : State) {j k : Nat} (f : Module → Module) (h : j ≠ k) : getMod (updMod s k f) j = getMod s j :=
  Tbl.get_set_ne _ _ _ h

@[simp] theorem getMod_setCore (s : State) (j k : Nat) (c : Core) : getMod (setCore s k c) j = getMod s j := rfl
@[simp] theorem getMod_updCore (s : State) (j k : Nat) (f : Core → Core) : getMod (updCore s k f) j = getMod s j := rfl
@[simp] theorem getMod_setCluster (s : State) (j k : Nat) (c : Cluster) : getMod (setCluster s k c) j = getMod s j := rfl
@[simp] theorem getMod_updCluster (s : State) (j k : Nat) (f : Cluster → Cluster) : getMod (updCluster s k f) j = getMod s j := rfl
@[simp] theorem getMod_setDie (s : State) (j k : Nat) (c : Die) : getMod (setDie s k c) j = getMod s j := rfl
@[simp] theorem getMod_updDie (s : State) (j k : Nat) (f : Die → Die) : getMod (updDie s k f) j = getMod s j := rfl
/-! ### The fields that an update leaves -/

@[simp] theorem setCore_clusters (s : State) (k : Nat) (c : Core) : (setCore s k c).clusters = s.clusters := rfl
@[simp] theorem setCore_dies (s : State) (k : Nat) (c : Core) : (setCore s k c).dies = s.dies := rfl
@[simp] theorem setCore_mods (s : State) (k : Nat) (c : Core) : (setCore s k c).mods = s.mods := rfl
@[simp] theorem setCore_jobs (s : State) (k : Nat) (c : Core) : (setCore s k c).jobs = s.jobs := rfl
@[simp] theorem setCore_flights (s : State) (k : Nat) (c : Core) : (setCore s k c).flights = s.flights := rfl
@[simp] theorem setCore_marks (s : State) (k : Nat) (c : Core) : (setCore s k c).marks = s.marks := rfl
@[simp] theorem setCore_hostMsgs (s : State) (k : Nat) (c : Core) : (setCore s k c).hostMsgs = s.hostMsgs := rfl
@[simp] theorem setCore_cycle (s : State) (k : Nat) (c : Core) : (setCore s k c).cycle = s.cycle := rfl
@[simp] theorem setCore_agenda (s : State) (k : Nat) (c : Core) : (setCore s k c).agenda = s.agenda := rfl
@[simp] theorem setCore_inputs (s : State) (k : Nat) (c : Core) : (setCore s k c).inputs = s.inputs := rfl
@[simp] theorem setCore_place (s : State) (k : Nat) (c : Core) : (setCore s k c).place = s.place := rfl
@[simp] theorem setCore_focus (s : State) (k : Nat) (c : Core) : (setCore s k c).focus = s.focus := rfl
@[simp] theorem setCore_free (s : State) (k : Nat) (c : Core) : (setCore s k c).free = s.free := rfl
@[simp] theorem setCore_nextId (s : State) (k : Nat) (c : Core) : (setCore s k c).nextId = s.nextId := rfl

@[simp] theorem setCluster_cores (s : State) (k : Nat) (c : Cluster) : (setCluster s k c).cores = s.cores := rfl
@[simp] theorem setCluster_dies (s : State) (k : Nat) (c : Cluster) : (setCluster s k c).dies = s.dies := rfl
@[simp] theorem setCluster_mods (s : State) (k : Nat) (c : Cluster) : (setCluster s k c).mods = s.mods := rfl
@[simp] theorem setCluster_jobs (s : State) (k : Nat) (c : Cluster) : (setCluster s k c).jobs = s.jobs := rfl
@[simp] theorem setCluster_flights (s : State) (k : Nat) (c : Cluster) : (setCluster s k c).flights = s.flights := rfl
@[simp] theorem setCluster_marks (s : State) (k : Nat) (c : Cluster) : (setCluster s k c).marks = s.marks := rfl
@[simp] theorem setCluster_hostMsgs (s : State) (k : Nat) (c : Cluster) : (setCluster s k c).hostMsgs = s.hostMsgs := rfl
@[simp] theorem setCluster_cycle (s : State) (k : Nat) (c : Cluster) : (setCluster s k c).cycle = s.cycle := rfl
@[simp] theorem setCluster_agenda (s : State) (k : Nat) (c : Cluster) : (setCluster s k c).agenda = s.agenda := rfl
@[simp] theorem setCluster_inputs (s : State) (k : Nat) (c : Cluster) : (setCluster s k c).inputs = s.inputs := rfl
@[simp] theorem setCluster_place (s : State) (k : Nat) (c : Cluster) : (setCluster s k c).place = s.place := rfl
@[simp] theorem setCluster_focus (s : State) (k : Nat) (c : Cluster) : (setCluster s k c).focus = s.focus := rfl
@[simp] theorem setCluster_free (s : State) (k : Nat) (c : Cluster) : (setCluster s k c).free = s.free := rfl
@[simp] theorem setCluster_nextId (s : State) (k : Nat) (c : Cluster) : (setCluster s k c).nextId = s.nextId := rfl

@[simp] theorem setDie_cores (s : State) (k : Nat) (c : Die) : (setDie s k c).cores = s.cores := rfl
@[simp] theorem setDie_clusters (s : State) (k : Nat) (c : Die) : (setDie s k c).clusters = s.clusters := rfl
@[simp] theorem setDie_mods (s : State) (k : Nat) (c : Die) : (setDie s k c).mods = s.mods := rfl
@[simp] theorem setDie_jobs (s : State) (k : Nat) (c : Die) : (setDie s k c).jobs = s.jobs := rfl
@[simp] theorem setDie_flights (s : State) (k : Nat) (c : Die) : (setDie s k c).flights = s.flights := rfl
@[simp] theorem setDie_marks (s : State) (k : Nat) (c : Die) : (setDie s k c).marks = s.marks := rfl
@[simp] theorem setDie_hostMsgs (s : State) (k : Nat) (c : Die) : (setDie s k c).hostMsgs = s.hostMsgs := rfl
@[simp] theorem setDie_cycle (s : State) (k : Nat) (c : Die) : (setDie s k c).cycle = s.cycle := rfl
@[simp] theorem setDie_agenda (s : State) (k : Nat) (c : Die) : (setDie s k c).agenda = s.agenda := rfl
@[simp] theorem setDie_inputs (s : State) (k : Nat) (c : Die) : (setDie s k c).inputs = s.inputs := rfl
@[simp] theorem setDie_place (s : State) (k : Nat) (c : Die) : (setDie s k c).place = s.place := rfl
@[simp] theorem setDie_focus (s : State) (k : Nat) (c : Die) : (setDie s k c).focus = s.focus := rfl
@[simp] theorem setDie_free (s : State) (k : Nat) (c : Die) : (setDie s k c).free = s.free := rfl
@[simp] theorem setDie_nextId (s : State) (k : Nat) (c : Die) : (setDie s k c).nextId = s.nextId := rfl

@[simp] theorem setMod_cores (s : State) (k : Nat) (c : Module) : (setMod s k c).cores = s.cores := rfl
@[simp] theorem setMod_clusters (s : State) (k : Nat) (c : Module) : (setMod s k c).clusters = s.clusters := rfl
@[simp] theorem setMod_dies (s : State) (k : Nat) (c : Module) : (setMod s k c).dies = s.dies := rfl
@[simp] theorem setMod_jobs (s : State) (k : Nat) (c : Module) : (setMod s k c).jobs = s.jobs := rfl
@[simp] theorem setMod_flights (s : State) (k : Nat) (c : Module) : (setMod s k c).flights = s.flights := rfl
@[simp] theorem setMod_marks (s : State) (k : Nat) (c : Module) : (setMod s k c).marks = s.marks := rfl
@[simp] theorem setMod_hostMsgs (s : State) (k : Nat) (c : Module) : (setMod s k c).hostMsgs = s.hostMsgs := rfl
@[simp] theorem setMod_cycle (s : State) (k : Nat) (c : Module) : (setMod s k c).cycle = s.cycle := rfl
@[simp] theorem setMod_agenda (s : State) (k : Nat) (c : Module) : (setMod s k c).agenda = s.agenda := rfl
@[simp] theorem setMod_inputs (s : State) (k : Nat) (c : Module) : (setMod s k c).inputs = s.inputs := rfl
@[simp] theorem setMod_place (s : State) (k : Nat) (c : Module) : (setMod s k c).place = s.place := rfl
@[simp] theorem setMod_focus (s : State) (k : Nat) (c : Module) : (setMod s k c).focus = s.focus := rfl
@[simp] theorem setMod_free (s : State) (k : Nat) (c : Module) : (setMod s k c).free = s.free := rfl
@[simp] theorem setMod_nextId (s : State) (k : Nat) (c : Module) : (setMod s k c).nextId = s.nextId := rfl

@[simp] theorem updCore_clusters (s : State) (k : Nat) (f : Core → Core) : (updCore s k f).clusters = s.clusters := rfl
@[simp] theorem updCore_dies (s : State) (k : Nat) (f : Core → Core) : (updCore s k f).dies = s.dies := rfl
@[simp] theorem updCore_mods (s : State) (k : Nat) (f : Core → Core) : (updCore s k f).mods = s.mods := rfl
@[simp] theorem updCore_jobs (s : State) (k : Nat) (f : Core → Core) : (updCore s k f).jobs = s.jobs := rfl
@[simp] theorem updCore_flights (s : State) (k : Nat) (f : Core → Core) : (updCore s k f).flights = s.flights := rfl
@[simp] theorem updCore_marks (s : State) (k : Nat) (f : Core → Core) : (updCore s k f).marks = s.marks := rfl
@[simp] theorem updCore_hostMsgs (s : State) (k : Nat) (f : Core → Core) : (updCore s k f).hostMsgs = s.hostMsgs := rfl
@[simp] theorem updCore_cycle (s : State) (k : Nat) (f : Core → Core) : (updCore s k f).cycle = s.cycle := rfl
@[simp] theorem updCore_agenda (s : State) (k : Nat) (f : Core → Core) : (updCore s k f).agenda = s.agenda := rfl
@[simp] theorem updCore_inputs (s : State) (k : Nat) (f : Core → Core) : (updCore s k f).inputs = s.inputs := rfl
@[simp] theorem updCore_place (s : State) (k : Nat) (f : Core → Core) : (updCore s k f).place = s.place := rfl
@[simp] theorem updCore_focus (s : State) (k : Nat) (f : Core → Core) : (updCore s k f).focus = s.focus := rfl
@[simp] theorem updCore_free (s : State) (k : Nat) (f : Core → Core) : (updCore s k f).free = s.free := rfl
@[simp] theorem updCore_nextId (s : State) (k : Nat) (f : Core → Core) : (updCore s k f).nextId = s.nextId := rfl

@[simp] theorem updCluster_cores (s : State) (k : Nat) (f : Cluster → Cluster) : (updCluster s k f).cores = s.cores := rfl
@[simp] theorem updCluster_dies (s : State) (k : Nat) (f : Cluster → Cluster) : (updCluster s k f).dies = s.dies := rfl
@[simp] theorem updCluster_mods (s : State) (k : Nat) (f : Cluster → Cluster) : (updCluster s k f).mods = s.mods := rfl
@[simp] theorem updCluster_jobs (s : State) (k : Nat) (f : Cluster → Cluster) : (updCluster s k f).jobs = s.jobs := rfl
@[simp] theorem updCluster_flights (s : State) (k : Nat) (f : Cluster → Cluster) : (updCluster s k f).flights = s.flights := rfl
@[simp] theorem updCluster_marks (s : State) (k : Nat) (f : Cluster → Cluster) : (updCluster s k f).marks = s.marks := rfl
@[simp] theorem updCluster_hostMsgs (s : State) (k : Nat) (f : Cluster → Cluster) : (updCluster s k f).hostMsgs = s.hostMsgs := rfl
@[simp] theorem updCluster_cycle (s : State) (k : Nat) (f : Cluster → Cluster) : (updCluster s k f).cycle = s.cycle := rfl
@[simp] theorem updCluster_agenda (s : State) (k : Nat) (f : Cluster → Cluster) : (updCluster s k f).agenda = s.agenda := rfl
@[simp] theorem updCluster_inputs (s : State) (k : Nat) (f : Cluster → Cluster) : (updCluster s k f).inputs = s.inputs := rfl
@[simp] theorem updCluster_place (s : State) (k : Nat) (f : Cluster → Cluster) : (updCluster s k f).place = s.place := rfl
@[simp] theorem updCluster_focus (s : State) (k : Nat) (f : Cluster → Cluster) : (updCluster s k f).focus = s.focus := rfl
@[simp] theorem updCluster_free (s : State) (k : Nat) (f : Cluster → Cluster) : (updCluster s k f).free = s.free := rfl
@[simp] theorem updCluster_nextId (s : State) (k : Nat) (f : Cluster → Cluster) : (updCluster s k f).nextId = s.nextId := rfl

@[simp] theorem updDie_cores (s : State) (k : Nat) (f : Die → Die) : (updDie s k f).cores = s.cores := rfl
@[simp] theorem updDie_clusters (s : State) (k : Nat) (f : Die → Die) : (updDie s k f).clusters = s.clusters := rfl
@[simp] theorem updDie_mods (s : State) (k : Nat) (f : Die → Die) : (updDie s k f).mods = s.mods := rfl
@[simp] theorem updDie_jobs (s : State) (k : Nat) (f : Die → Die) : (updDie s k f).jobs = s.jobs := rfl
@[simp] theorem updDie_flights (s : State) (k : Nat) (f : Die → Die) : (updDie s k f).flights = s.flights := rfl
@[simp] theorem updDie_marks (s : State) (k : Nat) (f : Die → Die) : (updDie s k f).marks = s.marks := rfl
@[simp] theorem updDie_hostMsgs (s : State) (k : Nat) (f : Die → Die) : (updDie s k f).hostMsgs = s.hostMsgs := rfl
@[simp] theorem updDie_cycle (s : State) (k : Nat) (f : Die → Die) : (updDie s k f).cycle = s.cycle := rfl
@[simp] theorem updDie_agenda (s : State) (k : Nat) (f : Die → Die) : (updDie s k f).agenda = s.agenda := rfl
@[simp] theorem updDie_inputs (s : State) (k : Nat) (f : Die → Die) : (updDie s k f).inputs = s.inputs := rfl
@[simp] theorem updDie_place (s : State) (k : Nat) (f : Die → Die) : (updDie s k f).place = s.place := rfl
@[simp] theorem updDie_focus (s : State) (k : Nat) (f : Die → Die) : (updDie s k f).focus = s.focus := rfl
@[simp] theorem updDie_free (s : State) (k : Nat) (f : Die → Die) : (updDie s k f).free = s.free := rfl
@[simp] theorem updDie_nextId (s : State) (k : Nat) (f : Die → Die) : (updDie s k f).nextId = s.nextId := rfl

@[simp] theorem updMod_cores (s : State) (k : Nat) (f : Module → Module) : (updMod s k f).cores = s.cores := rfl
@[simp] theorem updMod_clusters (s : State) (k : Nat) (f : Module → Module) : (updMod s k f).clusters = s.clusters := rfl
@[simp] theorem updMod_dies (s : State) (k : Nat) (f : Module → Module) : (updMod s k f).dies = s.dies := rfl
@[simp] theorem updMod_jobs (s : State) (k : Nat) (f : Module → Module) : (updMod s k f).jobs = s.jobs := rfl
@[simp] theorem updMod_flights (s : State) (k : Nat) (f : Module → Module) : (updMod s k f).flights = s.flights := rfl
@[simp] theorem updMod_marks (s : State) (k : Nat) (f : Module → Module) : (updMod s k f).marks = s.marks := rfl
@[simp] theorem updMod_hostMsgs (s : State) (k : Nat) (f : Module → Module) : (updMod s k f).hostMsgs = s.hostMsgs := rfl
@[simp] theorem updMod_cycle (s : State) (k : Nat) (f : Module → Module) : (updMod s k f).cycle = s.cycle := rfl
@[simp] theorem updMod_agenda (s : State) (k : Nat) (f : Module → Module) : (updMod s k f).agenda = s.agenda := rfl
@[simp] theorem updMod_inputs (s : State) (k : Nat) (f : Module → Module) : (updMod s k f).inputs = s.inputs := rfl
@[simp] theorem updMod_place (s : State) (k : Nat) (f : Module → Module) : (updMod s k f).place = s.place := rfl
@[simp] theorem updMod_focus (s : State) (k : Nat) (f : Module → Module) : (updMod s k f).focus = s.focus := rfl
@[simp] theorem updMod_free (s : State) (k : Nat) (f : Module → Module) : (updMod s k f).free = s.free := rfl
@[simp] theorem updMod_nextId (s : State) (k : Nat) (f : Module → Module) : (updMod s k f).nextId = s.nextId := rfl

@[simp] theorem updFocus_cores (s : State) (f : Focus → Focus) : (updFocus s f).cores = s.cores := rfl
@[simp] theorem updFocus_clusters (s : State) (f : Focus → Focus) : (updFocus s f).clusters = s.clusters := rfl
@[simp] theorem updFocus_dies (s : State) (f : Focus → Focus) : (updFocus s f).dies = s.dies := rfl
@[simp] theorem updFocus_mods (s : State) (f : Focus → Focus) : (updFocus s f).mods = s.mods := rfl
@[simp] theorem updFocus_jobs (s : State) (f : Focus → Focus) : (updFocus s f).jobs = s.jobs := rfl
@[simp] theorem updFocus_flights (s : State) (f : Focus → Focus) : (updFocus s f).flights = s.flights := rfl
@[simp] theorem updFocus_marks (s : State) (f : Focus → Focus) : (updFocus s f).marks = s.marks := rfl
@[simp] theorem updFocus_hostMsgs (s : State) (f : Focus → Focus) : (updFocus s f).hostMsgs = s.hostMsgs := rfl
@[simp] theorem updFocus_cycle (s : State) (f : Focus → Focus) : (updFocus s f).cycle = s.cycle := rfl
@[simp] theorem updFocus_agenda (s : State) (f : Focus → Focus) : (updFocus s f).agenda = s.agenda := rfl
@[simp] theorem updFocus_inputs (s : State) (f : Focus → Focus) : (updFocus s f).inputs = s.inputs := rfl
@[simp] theorem updFocus_place (s : State) (f : Focus → Focus) : (updFocus s f).place = s.place := rfl
@[simp] theorem updFocus_free (s : State) (f : Focus → Focus) : (updFocus s f).free = s.free := rfl
@[simp] theorem updFocus_nextId (s : State) (f : Focus → Focus) : (updFocus s f).nextId = s.nextId := rfl

@[simp] theorem updJob_cores (s : State) (j : Nat) (f : Job → Job) : (updJob s j f).cores = s.cores := rfl
@[simp] theorem updJob_clusters (s : State) (j : Nat) (f : Job → Job) : (updJob s j f).clusters = s.clusters := rfl
@[simp] theorem updJob_dies (s : State) (j : Nat) (f : Job → Job) : (updJob s j f).dies = s.dies := rfl
@[simp] theorem updJob_mods (s : State) (j : Nat) (f : Job → Job) : (updJob s j f).mods = s.mods := rfl
@[simp] theorem updJob_flights (s : State) (j : Nat) (f : Job → Job) : (updJob s j f).flights = s.flights := rfl
@[simp] theorem updJob_marks (s : State) (j : Nat) (f : Job → Job) : (updJob s j f).marks = s.marks := rfl
@[simp] theorem updJob_hostMsgs (s : State) (j : Nat) (f : Job → Job) : (updJob s j f).hostMsgs = s.hostMsgs := rfl
@[simp] theorem updJob_cycle (s : State) (j : Nat) (f : Job → Job) : (updJob s j f).cycle = s.cycle := rfl
@[simp] theorem updJob_agenda (s : State) (j : Nat) (f : Job → Job) : (updJob s j f).agenda = s.agenda := rfl
@[simp] theorem updJob_inputs (s : State) (j : Nat) (f : Job → Job) : (updJob s j f).inputs = s.inputs := rfl
@[simp] theorem updJob_place (s : State) (j : Nat) (f : Job → Job) : (updJob s j f).place = s.place := rfl
@[simp] theorem updJob_focus (s : State) (j : Nat) (f : Job → Job) : (updJob s j f).focus = s.focus := rfl
@[simp] theorem updJob_free (s : State) (j : Nat) (f : Job → Job) : (updJob s j f).free = s.free := rfl
@[simp] theorem updJob_nextId (s : State) (j : Nat) (f : Job → Job) : (updJob s j f).nextId = s.nextId := rfl

@[simp] theorem openValue_cores (s : State) (lo hi : Nat) : ((openValue lo hi s).2).cores = s.cores := rfl
@[simp] theorem openValue_clusters (s : State) (lo hi : Nat) : ((openValue lo hi s).2).clusters = s.clusters := rfl
@[simp] theorem openValue_dies (s : State) (lo hi : Nat) : ((openValue lo hi s).2).dies = s.dies := rfl
@[simp] theorem openValue_mods (s : State) (lo hi : Nat) : ((openValue lo hi s).2).mods = s.mods := rfl
@[simp] theorem openValue_jobs (s : State) (lo hi : Nat) : ((openValue lo hi s).2).jobs = s.jobs := rfl
@[simp] theorem openValue_flights (s : State) (lo hi : Nat) : ((openValue lo hi s).2).flights = s.flights := rfl
@[simp] theorem openValue_marks (s : State) (lo hi : Nat) : ((openValue lo hi s).2).marks = s.marks := rfl
@[simp] theorem openValue_hostMsgs (s : State) (lo hi : Nat) : ((openValue lo hi s).2).hostMsgs = s.hostMsgs := rfl
@[simp] theorem openValue_cycle (s : State) (lo hi : Nat) : ((openValue lo hi s).2).cycle = s.cycle := rfl
@[simp] theorem openValue_agenda (s : State) (lo hi : Nat) : ((openValue lo hi s).2).agenda = s.agenda := rfl
@[simp] theorem openValue_inputs (s : State) (lo hi : Nat) : ((openValue lo hi s).2).inputs = s.inputs := rfl
@[simp] theorem openValue_place (s : State) (lo hi : Nat) : ((openValue lo hi s).2).place = s.place := rfl
@[simp] theorem openValue_focus (s : State) (lo hi : Nat) : ((openValue lo hi s).2).focus = s.focus := rfl
@[simp] theorem openValue_nextId (s : State) (lo hi : Nat) : ((openValue lo hi s).2).nextId = s.nextId := rfl

@[simp] theorem openAny_cores (s : State) : ((openAny s).2).cores = s.cores := rfl
@[simp] theorem openAny_clusters (s : State) : ((openAny s).2).clusters = s.clusters := rfl
@[simp] theorem openAny_dies (s : State) : ((openAny s).2).dies = s.dies := rfl
@[simp] theorem openAny_mods (s : State) : ((openAny s).2).mods = s.mods := rfl
@[simp] theorem openAny_jobs (s : State) : ((openAny s).2).jobs = s.jobs := rfl
@[simp] theorem openAny_flights (s : State) : ((openAny s).2).flights = s.flights := rfl
@[simp] theorem openAny_marks (s : State) : ((openAny s).2).marks = s.marks := rfl
@[simp] theorem openAny_hostMsgs (s : State) : ((openAny s).2).hostMsgs = s.hostMsgs := rfl
@[simp] theorem openAny_cycle (s : State) : ((openAny s).2).cycle = s.cycle := rfl
@[simp] theorem openAny_agenda (s : State) : ((openAny s).2).agenda = s.agenda := rfl
@[simp] theorem openAny_inputs (s : State) : ((openAny s).2).inputs = s.inputs := rfl
@[simp] theorem openAny_place (s : State) : ((openAny s).2).place = s.place := rfl
@[simp] theorem openAny_focus (s : State) : ((openAny s).2).focus = s.focus := rfl
@[simp] theorem openAny_nextId (s : State) : ((openAny s).2).nextId = s.nextId := rfl

@[simp] theorem newId_cores (s : State) : ((newId s).2).cores = s.cores := rfl
@[simp] theorem newId_clusters (s : State) : ((newId s).2).clusters = s.clusters := rfl
@[simp] theorem newId_dies (s : State) : ((newId s).2).dies = s.dies := rfl
@[simp] theorem newId_mods (s : State) : ((newId s).2).mods = s.mods := rfl
@[simp] theorem newId_jobs (s : State) : ((newId s).2).jobs = s.jobs := rfl
@[simp] theorem newId_flights (s : State) : ((newId s).2).flights = s.flights := rfl
@[simp] theorem newId_marks (s : State) : ((newId s).2).marks = s.marks := rfl
@[simp] theorem newId_hostMsgs (s : State) : ((newId s).2).hostMsgs = s.hostMsgs := rfl
@[simp] theorem newId_cycle (s : State) : ((newId s).2).cycle = s.cycle := rfl
@[simp] theorem newId_agenda (s : State) : ((newId s).2).agenda = s.agenda := rfl
@[simp] theorem newId_inputs (s : State) : ((newId s).2).inputs = s.inputs := rfl
@[simp] theorem newId_place (s : State) : ((newId s).2).place = s.place := rfl
@[simp] theorem newId_focus (s : State) : ((newId s).2).focus = s.focus := rfl
@[simp] theorem newId_free (s : State) : ((newId s).2).free = s.free := rfl

@[simp] theorem post_clusters (s : State) (L : Nat) (e : Eff) : (post L e s).clusters = s.clusters := rfl
@[simp] theorem post_dies (s : State) (L : Nat) (e : Eff) : (post L e s).dies = s.dies := rfl
@[simp] theorem post_mods (s : State) (L : Nat) (e : Eff) : (post L e s).mods = s.mods := rfl
@[simp] theorem post_jobs (s : State) (L : Nat) (e : Eff) : (post L e s).jobs = s.jobs := rfl
@[simp] theorem post_flights (s : State) (L : Nat) (e : Eff) : (post L e s).flights = s.flights := rfl
@[simp] theorem post_marks (s : State) (L : Nat) (e : Eff) : (post L e s).marks = s.marks := rfl
@[simp] theorem post_hostMsgs (s : State) (L : Nat) (e : Eff) : (post L e s).hostMsgs = s.hostMsgs := rfl
@[simp] theorem post_cycle (s : State) (L : Nat) (e : Eff) : (post L e s).cycle = s.cycle := rfl
@[simp] theorem post_agenda (s : State) (L : Nat) (e : Eff) : (post L e s).agenda = s.agenda := rfl
@[simp] theorem post_inputs (s : State) (L : Nat) (e : Eff) : (post L e s).inputs = s.inputs := rfl
@[simp] theorem post_place (s : State) (L : Nat) (e : Eff) : (post L e s).place = s.place := rfl
@[simp] theorem post_focus (s : State) (L : Nat) (e : Eff) : (post L e s).focus = s.focus := rfl
@[simp] theorem post_free (s : State) (L : Nat) (e : Eff) : (post L e s).free = s.free := rfl
@[simp] theorem post_nextId (s : State) (L : Nat) (e : Eff) : (post L e s).nextId = s.nextId := rfl

@[simp] theorem raise_cores (s : State) (cause detail : Nat) : (raise cause detail s).cores = s.cores := rfl
@[simp] theorem raise_clusters (s : State) (cause detail : Nat) : (raise cause detail s).clusters = s.clusters := rfl
@[simp] theorem raise_dies (s : State) (cause detail : Nat) : (raise cause detail s).dies = s.dies := rfl
@[simp] theorem raise_mods (s : State) (cause detail : Nat) : (raise cause detail s).mods = s.mods := rfl
@[simp] theorem raise_jobs (s : State) (cause detail : Nat) : (raise cause detail s).jobs = s.jobs := rfl
@[simp] theorem raise_flights (s : State) (cause detail : Nat) : (raise cause detail s).flights = s.flights := rfl
@[simp] theorem raise_marks (s : State) (cause detail : Nat) : (raise cause detail s).marks = s.marks := rfl
@[simp] theorem raise_hostMsgs (s : State) (cause detail : Nat) : (raise cause detail s).hostMsgs = s.hostMsgs := rfl
@[simp] theorem raise_cycle (s : State) (cause detail : Nat) : (raise cause detail s).cycle = s.cycle := rfl
@[simp] theorem raise_agenda (s : State) (cause detail : Nat) : (raise cause detail s).agenda = s.agenda := rfl
@[simp] theorem raise_inputs (s : State) (cause detail : Nat) : (raise cause detail s).inputs = s.inputs := rfl
@[simp] theorem raise_place (s : State) (cause detail : Nat) : (raise cause detail s).place = s.place := rfl
@[simp] theorem raise_free (s : State) (cause detail : Nat) : (raise cause detail s).free = s.free := rfl
@[simp] theorem raise_nextId (s : State) (cause detail : Nat) : (raise cause detail s).nextId = s.nextId := rfl

@[simp] theorem stallOn_cores (s : State) (wd : Bool) (src : Nat) : (stallOn wd src s).cores = s.cores := rfl
@[simp] theorem stallOn_clusters (s : State) (wd : Bool) (src : Nat) : (stallOn wd src s).clusters = s.clusters := rfl
@[simp] theorem stallOn_dies (s : State) (wd : Bool) (src : Nat) : (stallOn wd src s).dies = s.dies := rfl
@[simp] theorem stallOn_mods (s : State) (wd : Bool) (src : Nat) : (stallOn wd src s).mods = s.mods := rfl
@[simp] theorem stallOn_jobs (s : State) (wd : Bool) (src : Nat) : (stallOn wd src s).jobs = s.jobs := rfl
@[simp] theorem stallOn_flights (s : State) (wd : Bool) (src : Nat) : (stallOn wd src s).flights = s.flights := rfl
@[simp] theorem stallOn_marks (s : State) (wd : Bool) (src : Nat) : (stallOn wd src s).marks = s.marks := rfl
@[simp] theorem stallOn_hostMsgs (s : State) (wd : Bool) (src : Nat) : (stallOn wd src s).hostMsgs = s.hostMsgs := rfl
@[simp] theorem stallOn_cycle (s : State) (wd : Bool) (src : Nat) : (stallOn wd src s).cycle = s.cycle := rfl
@[simp] theorem stallOn_agenda (s : State) (wd : Bool) (src : Nat) : (stallOn wd src s).agenda = s.agenda := rfl
@[simp] theorem stallOn_inputs (s : State) (wd : Bool) (src : Nat) : (stallOn wd src s).inputs = s.inputs := rfl
@[simp] theorem stallOn_place (s : State) (wd : Bool) (src : Nat) : (stallOn wd src s).place = s.place := rfl
@[simp] theorem stallOn_free (s : State) (wd : Bool) (src : Nat) : (stallOn wd src s).free = s.free := rfl
@[simp] theorem stallOn_nextId (s : State) (wd : Bool) (src : Nat) : (stallOn wd src s).nextId = s.nextId := rfl

@[simp] theorem consume_cores (s : State) (cause detail : Nat) : (consume cause detail s).cores = s.cores := rfl
@[simp] theorem consume_clusters (s : State) (cause detail : Nat) : (consume cause detail s).clusters = s.clusters := rfl
@[simp] theorem consume_dies (s : State) (cause detail : Nat) : (consume cause detail s).dies = s.dies := rfl
@[simp] theorem consume_mods (s : State) (cause detail : Nat) : (consume cause detail s).mods = s.mods := rfl
@[simp] theorem consume_jobs (s : State) (cause detail : Nat) : (consume cause detail s).jobs = s.jobs := rfl
@[simp] theorem consume_flights (s : State) (cause detail : Nat) : (consume cause detail s).flights = s.flights := rfl
@[simp] theorem consume_marks (s : State) (cause detail : Nat) : (consume cause detail s).marks = s.marks := rfl
@[simp] theorem consume_hostMsgs (s : State) (cause detail : Nat) : (consume cause detail s).hostMsgs = s.hostMsgs := rfl
@[simp] theorem consume_cycle (s : State) (cause detail : Nat) : (consume cause detail s).cycle = s.cycle := rfl
@[simp] theorem consume_agenda (s : State) (cause detail : Nat) : (consume cause detail s).agenda = s.agenda := rfl
@[simp] theorem consume_inputs (s : State) (cause detail : Nat) : (consume cause detail s).inputs = s.inputs := rfl
@[simp] theorem consume_place (s : State) (cause detail : Nat) : (consume cause detail s).place = s.place := rfl
@[simp] theorem consume_free (s : State) (cause detail : Nat) : (consume cause detail s).free = s.free := rfl
@[simp] theorem consume_nextId (s : State) (cause detail : Nat) : (consume cause detail s).nextId = s.nextId := rfl

@[simp] theorem traceFocus_cores (s : State) (kind data : Nat) : (traceFocus kind data s).cores = s.cores := rfl
@[simp] theorem traceFocus_clusters (s : State) (kind data : Nat) : (traceFocus kind data s).clusters = s.clusters := rfl
@[simp] theorem traceFocus_dies (s : State) (kind data : Nat) : (traceFocus kind data s).dies = s.dies := rfl
@[simp] theorem traceFocus_mods (s : State) (kind data : Nat) : (traceFocus kind data s).mods = s.mods := rfl
@[simp] theorem traceFocus_jobs (s : State) (kind data : Nat) : (traceFocus kind data s).jobs = s.jobs := rfl
@[simp] theorem traceFocus_flights (s : State) (kind data : Nat) : (traceFocus kind data s).flights = s.flights := rfl
@[simp] theorem traceFocus_marks (s : State) (kind data : Nat) : (traceFocus kind data s).marks = s.marks := rfl
@[simp] theorem traceFocus_hostMsgs (s : State) (kind data : Nat) : (traceFocus kind data s).hostMsgs = s.hostMsgs := rfl
@[simp] theorem traceFocus_cycle (s : State) (kind data : Nat) : (traceFocus kind data s).cycle = s.cycle := rfl
@[simp] theorem traceFocus_agenda (s : State) (kind data : Nat) : (traceFocus kind data s).agenda = s.agenda := rfl
@[simp] theorem traceFocus_inputs (s : State) (kind data : Nat) : (traceFocus kind data s).inputs = s.inputs := rfl
@[simp] theorem traceFocus_place (s : State) (kind data : Nat) : (traceFocus kind data s).place = s.place := rfl
@[simp] theorem traceFocus_free (s : State) (kind data : Nat) : (traceFocus kind data s).free = s.free := rfl
@[simp] theorem traceFocus_nextId (s : State) (kind data : Nat) : (traceFocus kind data s).nextId = s.nextId := rfl

@[simp] theorem countCore_clusters (s : State) (k src n : Nat) : (countCore s k src n).clusters = s.clusters := rfl
@[simp] theorem countCore_dies (s : State) (k src n : Nat) : (countCore s k src n).dies = s.dies := rfl
@[simp] theorem countCore_mods (s : State) (k src n : Nat) : (countCore s k src n).mods = s.mods := rfl
@[simp] theorem countCore_jobs (s : State) (k src n : Nat) : (countCore s k src n).jobs = s.jobs := rfl
@[simp] theorem countCore_flights (s : State) (k src n : Nat) : (countCore s k src n).flights = s.flights := rfl
@[simp] theorem countCore_marks (s : State) (k src n : Nat) : (countCore s k src n).marks = s.marks := rfl
@[simp] theorem countCore_hostMsgs (s : State) (k src n : Nat) : (countCore s k src n).hostMsgs = s.hostMsgs := rfl
@[simp] theorem countCore_cycle (s : State) (k src n : Nat) : (countCore s k src n).cycle = s.cycle := rfl
@[simp] theorem countCore_agenda (s : State) (k src n : Nat) : (countCore s k src n).agenda = s.agenda := rfl
@[simp] theorem countCore_inputs (s : State) (k src n : Nat) : (countCore s k src n).inputs = s.inputs := rfl
@[simp] theorem countCore_place (s : State) (k src n : Nat) : (countCore s k src n).place = s.place := rfl
@[simp] theorem countCore_focus (s : State) (k src n : Nat) : (countCore s k src n).focus = s.focus := rfl
@[simp] theorem countCore_free (s : State) (k src n : Nat) : (countCore s k src n).free = s.free := rfl
@[simp] theorem countCore_nextId (s : State) (k src n : Nat) : (countCore s k src n).nextId = s.nextId := rfl

@[simp] theorem countCluster_cores (s : State) (c src n : Nat) : (countCluster s c src n).cores = s.cores := rfl
@[simp] theorem countCluster_dies (s : State) (c src n : Nat) : (countCluster s c src n).dies = s.dies := rfl
@[simp] theorem countCluster_mods (s : State) (c src n : Nat) : (countCluster s c src n).mods = s.mods := rfl
@[simp] theorem countCluster_jobs (s : State) (c src n : Nat) : (countCluster s c src n).jobs = s.jobs := rfl
@[simp] theorem countCluster_flights (s : State) (c src n : Nat) : (countCluster s c src n).flights = s.flights := rfl
@[simp] theorem countCluster_marks (s : State) (c src n : Nat) : (countCluster s c src n).marks = s.marks := rfl
@[simp] theorem countCluster_hostMsgs (s : State) (c src n : Nat) : (countCluster s c src n).hostMsgs = s.hostMsgs := rfl
@[simp] theorem countCluster_cycle (s : State) (c src n : Nat) : (countCluster s c src n).cycle = s.cycle := rfl
@[simp] theorem countCluster_agenda (s : State) (c src n : Nat) : (countCluster s c src n).agenda = s.agenda := rfl
@[simp] theorem countCluster_inputs (s : State) (c src n : Nat) : (countCluster s c src n).inputs = s.inputs := rfl
@[simp] theorem countCluster_place (s : State) (c src n : Nat) : (countCluster s c src n).place = s.place := rfl
@[simp] theorem countCluster_focus (s : State) (c src n : Nat) : (countCluster s c src n).focus = s.focus := rfl
@[simp] theorem countCluster_free (s : State) (c src n : Nat) : (countCluster s c src n).free = s.free := rfl
@[simp] theorem countCluster_nextId (s : State) (c src n : Nat) : (countCluster s c src n).nextId = s.nextId := rfl

@[simp] theorem countMod_cores (s : State) (m src n : Nat) : (countMod s m src n).cores = s.cores := rfl
@[simp] theorem countMod_clusters (s : State) (m src n : Nat) : (countMod s m src n).clusters = s.clusters := rfl
@[simp] theorem countMod_dies (s : State) (m src n : Nat) : (countMod s m src n).dies = s.dies := rfl
@[simp] theorem countMod_jobs (s : State) (m src n : Nat) : (countMod s m src n).jobs = s.jobs := rfl
@[simp] theorem countMod_flights (s : State) (m src n : Nat) : (countMod s m src n).flights = s.flights := rfl
@[simp] theorem countMod_marks (s : State) (m src n : Nat) : (countMod s m src n).marks = s.marks := rfl
@[simp] theorem countMod_hostMsgs (s : State) (m src n : Nat) : (countMod s m src n).hostMsgs = s.hostMsgs := rfl
@[simp] theorem countMod_cycle (s : State) (m src n : Nat) : (countMod s m src n).cycle = s.cycle := rfl
@[simp] theorem countMod_agenda (s : State) (m src n : Nat) : (countMod s m src n).agenda = s.agenda := rfl
@[simp] theorem countMod_inputs (s : State) (m src n : Nat) : (countMod s m src n).inputs = s.inputs := rfl
@[simp] theorem countMod_place (s : State) (m src n : Nat) : (countMod s m src n).place = s.place := rfl
@[simp] theorem countMod_focus (s : State) (m src n : Nat) : (countMod s m src n).focus = s.focus := rfl
@[simp] theorem countMod_free (s : State) (m src n : Nat) : (countMod s m src n).free = s.free := rfl
@[simp] theorem countMod_nextId (s : State) (m src n : Nat) : (countMod s m src n).nextId = s.nextId := rfl

@[simp] theorem countErr_cores (s : State) (m part word n : Nat) : (countErr s m part word n).cores = s.cores := rfl
@[simp] theorem countErr_clusters (s : State) (m part word n : Nat) : (countErr s m part word n).clusters = s.clusters := rfl
@[simp] theorem countErr_dies (s : State) (m part word n : Nat) : (countErr s m part word n).dies = s.dies := rfl
@[simp] theorem countErr_jobs (s : State) (m part word n : Nat) : (countErr s m part word n).jobs = s.jobs := rfl
@[simp] theorem countErr_flights (s : State) (m part word n : Nat) : (countErr s m part word n).flights = s.flights := rfl
@[simp] theorem countErr_marks (s : State) (m part word n : Nat) : (countErr s m part word n).marks = s.marks := rfl
@[simp] theorem countErr_hostMsgs (s : State) (m part word n : Nat) : (countErr s m part word n).hostMsgs = s.hostMsgs := rfl
@[simp] theorem countErr_cycle (s : State) (m part word n : Nat) : (countErr s m part word n).cycle = s.cycle := rfl
@[simp] theorem countErr_agenda (s : State) (m part word n : Nat) : (countErr s m part word n).agenda = s.agenda := rfl
@[simp] theorem countErr_inputs (s : State) (m part word n : Nat) : (countErr s m part word n).inputs = s.inputs := rfl
@[simp] theorem countErr_place (s : State) (m part word n : Nat) : (countErr s m part word n).place = s.place := rfl
@[simp] theorem countErr_focus (s : State) (m part word n : Nat) : (countErr s m part word n).focus = s.focus := rfl
@[simp] theorem countErr_free (s : State) (m part word n : Nat) : (countErr s m part word n).free = s.free := rfl
@[simp] theorem countErr_nextId (s : State) (m part word n : Nat) : (countErr s m part word n).nextId = s.nextId := rfl

@[simp] theorem noteWake_cores (s : State) (k t : Nat) : (noteWake k t s).cores = s.cores := rfl
@[simp] theorem noteWake_dies (s : State) (k t : Nat) : (noteWake k t s).dies = s.dies := rfl
@[simp] theorem noteWake_mods (s : State) (k t : Nat) : (noteWake k t s).mods = s.mods := rfl
@[simp] theorem noteWake_jobs (s : State) (k t : Nat) : (noteWake k t s).jobs = s.jobs := rfl
@[simp] theorem noteWake_flights (s : State) (k t : Nat) : (noteWake k t s).flights = s.flights := rfl
@[simp] theorem noteWake_marks (s : State) (k t : Nat) : (noteWake k t s).marks = s.marks := rfl
@[simp] theorem noteWake_hostMsgs (s : State) (k t : Nat) : (noteWake k t s).hostMsgs = s.hostMsgs := rfl
@[simp] theorem noteWake_cycle (s : State) (k t : Nat) : (noteWake k t s).cycle = s.cycle := rfl
@[simp] theorem noteWake_agenda (s : State) (k t : Nat) : (noteWake k t s).agenda = s.agenda := rfl
@[simp] theorem noteWake_inputs (s : State) (k t : Nat) : (noteWake k t s).inputs = s.inputs := rfl
@[simp] theorem noteWake_place (s : State) (k t : Nat) : (noteWake k t s).place = s.place := rfl
@[simp] theorem noteWake_focus (s : State) (k t : Nat) : (noteWake k t s).focus = s.focus := rfl
@[simp] theorem noteWake_free (s : State) (k t : Nat) : (noteWake k t s).free = s.free := rfl
@[simp] theorem noteWake_nextId (s : State) (k t : Nat) : (noteWake k t s).nextId = s.nextId := rfl

@[simp] theorem clearMarks_cores (s : State) (kind owner a n : Nat) : (clearMarks s kind owner a n).cores = s.cores := rfl
@[simp] theorem clearMarks_clusters (s : State) (kind owner a n : Nat) : (clearMarks s kind owner a n).clusters = s.clusters := rfl
@[simp] theorem clearMarks_dies (s : State) (kind owner a n : Nat) : (clearMarks s kind owner a n).dies = s.dies := rfl
@[simp] theorem clearMarks_mods (s : State) (kind owner a n : Nat) : (clearMarks s kind owner a n).mods = s.mods := rfl
@[simp] theorem clearMarks_jobs (s : State) (kind owner a n : Nat) : (clearMarks s kind owner a n).jobs = s.jobs := rfl
@[simp] theorem clearMarks_flights (s : State) (kind owner a n : Nat) : (clearMarks s kind owner a n).flights = s.flights := rfl
@[simp] theorem clearMarks_hostMsgs (s : State) (kind owner a n : Nat) : (clearMarks s kind owner a n).hostMsgs = s.hostMsgs := rfl
@[simp] theorem clearMarks_cycle (s : State) (kind owner a n : Nat) : (clearMarks s kind owner a n).cycle = s.cycle := rfl
@[simp] theorem clearMarks_agenda (s : State) (kind owner a n : Nat) : (clearMarks s kind owner a n).agenda = s.agenda := rfl
@[simp] theorem clearMarks_inputs (s : State) (kind owner a n : Nat) : (clearMarks s kind owner a n).inputs = s.inputs := rfl
@[simp] theorem clearMarks_place (s : State) (kind owner a n : Nat) : (clearMarks s kind owner a n).place = s.place := rfl
@[simp] theorem clearMarks_focus (s : State) (kind owner a n : Nat) : (clearMarks s kind owner a n).focus = s.focus := rfl
@[simp] theorem clearMarks_free (s : State) (kind owner a n : Nat) : (clearMarks s kind owner a n).free = s.free := rfl
@[simp] theorem clearMarks_nextId (s : State) (kind owner a n : Nat) : (clearMarks s kind owner a n).nextId = s.nextId := rfl

/-! ### The issuing core -/

@[simp] theorem focusCore_updFocus (s : State) (f : Focus → Focus) (h : (f s.focus).core = s.focus.core) : focusCore (updFocus s f) = focusCore s := by
  simp [focusCore, updFocus, getCore, h]

@[simp] theorem journal_cores (s : State) (n : Nat) : (journal n s).cores = s.cores := by unfold journal; split <;> rfl
@[simp] theorem journal_core (s : State) (n : Nat) : (journal n s).focus.core = s.focus.core := by unfold journal; split <;> rfl
@[simp] theorem focusCore_journal (s : State) (n : Nat) : focusCore (journal n s) = focusCore s := by
  unfold journal; split <;> rfl

end Sys2Proof.Machine
end

