-- ==== Sys2Proof/Laws/Keeps.lean ====
section
/-! SUPPORT. Sys2Proof/Laws/Keeps.lean: what keeps every memory in the canonical form (`State.memOk`): a change to a table, to a register file, to a
record that leaves its memories alone; and the memories after reset. Laws/KeepsSlots.lean, KeepsMoves.lean and KeepsPorts.lean hold one such lemma for each
operation, each meaning and each move of the machine. -/

namespace Sys2Proof.Machine

set_option Elab.async false
set_option linter.unusedVariables false
set_option linter.unusedSimpArgs false

/-! ### Tables -/

/-- The memories of what an unlisted entry of a table reads as are in the canonical form. -/
theorem memOk_coreReset : Core.reset.memOk := ⟨rfl, fun _ h => nomatch h⟩
theorem memOk_clusterReset : Cluster.reset.memOk := ⟨rfl, rfl⟩
theorem memOk_partReset : Part.memOk .reset := fun _ h => nomatch h
theorem memOk_modReset : Module.reset.memOk := ⟨rfl, rfl, fun _ h => (nomatch h), fun _ h => nomatch h⟩

theorem memOk_modUnlisted (n : Nat) : (Module.unlisted n).memOk := memOk_modReset

/-- A property of every value of a table holds of the value read, and still holds once one value with it is set. -/
theorem Tbl.get_all {α : Type} {P : α → Prop} {d : α} {t : Tbl α} (hd : P d) (h : ∀ x ∈ t, P x.2) (k : Nat) : P (Tbl.get d t k) := by
  rcases Tbl.get_mem d t k with ⟨j, hj⟩ | hj
  · exact h _ hj
  · rw [hj]; exact hd
theorem Tbl.set_all {α : Type} {P : α → Prop} {t : Tbl α} {k : Nat} {v : α} (hv : P v) (h : ∀ x ∈ t, P x.2) : ∀ x ∈ Tbl.set t k v, P x.2 := by
  intro x hx
  rcases Tbl.mem_set hx with rfl | hx
  · exact hv
  · exact h x hx

theorem memOk_getCore {s : State} (h : s.memOk) (k : Nat) : (getCore s k).memOk := Tbl.get_all memOk_coreReset h.1 k
theorem memOk_focusCore {s : State} (h : s.memOk) : (focusCore s).memOk := memOk_getCore h _
theorem memOk_getCluster {s : State} (h : s.memOk) (k : Nat) : (getCluster s k).memOk := Tbl.get_all memOk_clusterReset h.2.1 k
theorem memOk_getDie {s : State} (h : s.memOk) (k : Nat) : Mem.wf (getDie s k).weights = true :=
  Tbl.get_all (P := fun d : Die => Mem.wf d.weights = true) rfl h.2.2.1 k
theorem memOk_getMod {s : State} (h : s.memOk) (k : Nat) : (getMod s k).memOk := Tbl.get_all (memOk_modUnlisted _) h.2.2.2 k

theorem keeps_setCore {s : State} {k : Nat} {c : Core} (hc : c.memOk) (h : s.memOk) : (setCore s k c).memOk :=
  ⟨Tbl.set_all hc h.1, h.2⟩
theorem keeps_setCluster {s : State} {k : Nat} {c : Cluster} (hc : c.memOk) (h : s.memOk) : (setCluster s k c).memOk :=
  ⟨h.1, Tbl.set_all hc h.2.1, h.2.2⟩
theorem keeps_setDie {s : State} {k : Nat} {c : Die} (hc : Mem.wf c.weights = true) (h : s.memOk) : (setDie s k c).memOk :=
  ⟨h.1, h.2.1, Tbl.set_all (P := fun d : Die => Mem.wf d.weights = true) hc h.2.2.1, h.2.2.2⟩
theorem keeps_setMod {s : State} {k : Nat} {c : Module} (hc : c.memOk) (h : s.memOk) : (setMod s k c).memOk :=
  ⟨h.1, h.2.1, h.2.2.1, Tbl.set_all hc h.2.2.2⟩
theorem keeps_updCore {s : State} {k : Nat} {f : Core → Core} (hf : ∀ c, c.memOk → (f c).memOk) (h : s.memOk) : (updCore s k f).memOk :=
  keeps_setCore (hf _ (memOk_getCore h k)) h
theorem keeps_updCluster {s : State} {k : Nat} {f : Cluster → Cluster} (hf : ∀ c, c.memOk → (f c).memOk) (h : s.memOk) : (updCluster s k f).memOk :=
  keeps_setCluster (hf _ (memOk_getCluster h k)) h
theorem keeps_updDie {s : State} {k : Nat} {f : Die → Die} (hf : ∀ c, Mem.wf c.weights = true → Mem.wf (f c).weights = true) (h : s.memOk) :
    (updDie s k f).memOk := keeps_setDie (hf _ (memOk_getDie h k)) h
theorem keeps_updMod {s : State} {k : Nat} {f : Module → Module} (hf : ∀ c, c.memOk → (f c).memOk) (h : s.memOk) : (updMod s k f).memOk :=
  keeps_setMod (hf _ (memOk_getMod h k)) h

/-- What leaves the four tables as they are keeps their memories. -/
theorem memOk_same {s t : State} (h : s.memOk) (hc : t.cores = s.cores) (hl : t.clusters = s.clusters) (hd : t.dies = s.dies) (hm : t.mods = s.mods) :
    t.memOk := by unfold State.memOk; rw [hc, hl, hd, hm]; exact h

/-- A property that every step of a fold keeps holds at its end. -/
theorem foldl_keeps {α β : Type} {P : β → Prop} {f : β → α → β} {xs : List α} {b : β} (hf : ∀ b a, P b → P (f b a)) (h : P b) : P (xs.foldl f b) := by
  induction xs generalizing b with
  | nil => exact h
  | cons x xs ih => exact ih (hf b x h)
theorem foldl_memOk {α : Type} {f : State → α → State} {xs : List α} {s : State} (hf : ∀ s a, s.memOk → (f s a).memOk) (h : s.memOk) :
    (xs.foldl f s).memOk := foldl_keeps hf h

/-! ### Register files -/

theorem wf_putS (r : Regs) (n : Nat) (v : DWord) (tag : Option Poison) : (r.putS n v tag).mem = r.mem := by unfold Regs.putS; split <;> rfl
theorem wf_putPair (r : Regs) (n : Nat) (c : Bool) (tag : Option Poison) : (r.putPair n c tag).mem = r.mem := by unfold Regs.putPair; split <;> rfl
theorem wf_putBytes {r : Regs} (a : Nat) (bs : List Nat) (tag : Option Poison) (h : Mem.wf r.mem = true) : Mem.wf (r.putBytes a bs tag).mem = true :=
  Mem.write_wf _ _ _ h
theorem wf_putSegs {r : Regs} (segs : List (Nat × List Nat)) (tag : Option Poison) (h : Mem.wf r.mem = true) : Mem.wf (r.putSegs segs tag).mem = true :=
  foldl_keeps (P := fun r : Regs => Mem.wf r.mem = true) (fun r x hr => wf_putBytes x.1 x.2 tag hr) h
theorem wf_landFeed {r : Regs} (old : Regs) (row : Nat) (y : List Nat) (yP yW : Nat) (bad : Bool) (tag : Option Poison) (h : Mem.wf r.mem = true) :
    Mem.wf (r.landFeed old row y yP yW bad tag).mem = true := by
  unfold Regs.landFeed
  cases tag with
  | some t => exact wf_putBytes _ _ _ h
  | none => dsimp only; split; · exact wf_putBytes _ _ _ h
            · exact Mem.write_wf _ _ _ h
theorem wf_landZero {r : Regs} (row : Nat) (h : Mem.wf r.mem = true) : Mem.wf (r.landZero row).mem = true := Mem.write_wf _ _ _ h
theorem wf_land {r : Regs} (old : Regs) (e : Eff) (h : Mem.wf r.mem = true) : Mem.wf (r.land old e).mem = true := by
  unfold Regs.land
  split
  · rw [wf_putS]; exact h
  · rw [wf_putPair]; exact h
  · exact h
  · exact wf_putSegs _ _ h
  · exact wf_putSegs _ _ h
  · exact wf_landFeed _ _ _ _ _ _ _ h
  · exact wf_landZero _ h
  · exact wf_putBytes _ _ _ h
  · exact wf_putSegs _ _ h
  · exact h

/-! ### Records that a change leaves their memories -/

theorem same_state {t : State} {z4 : List Job} {z5 : List Flight} {z6 : List (Nat × Nat × Nat)} {z7 : List HostMsg} {z8 : Nat} {z9 : List Move} {z10 : List (Nat × Move)} {z11 : Nat} {z12 : Focus} {z13 : Nat} {z14 : Nat} :
    (State.memOk (State.mk t.cores t.clusters t.dies t.mods z4 z5 z6 z7 z8 z9 z10 z11 z12 z13 z14)) = (State.memOk t) := rfl
theorem same_core {t : Core} {z1 : Tbl View} {z2 : Nat} {z3 : Bool} {z4 : List Loop} {z5 : List Pend} {z6 : List PStore} {z7 : Tbl Nat} {z8 : Tbl Nat} {z9 : Tbl Int} {z10 : Tbl Int} {z11 : Tbl (Option Stream)} {z12 : Nat} {z13 : Bool} {z14 : Nat} {z15 : Nat} {z16 : List (Nat × Pend)} {z17 : List (Nat × Pend)} {z18 : Bool} {z19 : Nat} {z20 : Option Nat} {z21 : Option Next} {z22 : Option Next} {z23 : Option Nat} {z24 : List (Nat × Nat)} {z25 : Nat} {z26 : Nat} {z27 : Nat} {z28 : Nat} {z29 : Nat} {z30 : Nat} {z31 : Nat} {z32 : Tbl Nat} {z33 : Tbl Nat} {z34 : Tbl Chan} {z36 : List KEntry} {z37 : Nat} {z38 : Nat} {z39 : Nat} {z40 : Nat} {z41 : List Nat} {z42 : List RelOp} {z43 : Wait} {z44 : Nat} {z45 : List Nat} {z46 : List (Nat × Nat)} {z47 : Seq} {z48 : Nat} {z49 : List Trace} {z50 : List (Nat × Nat)} {z51 : Option (Nat × Nat)} {z52 : Option Nat} {z53 : Nat} {z54 : List Sent} {z55 : List (Nat × Nat)} {z56 : Nat × List Nat} :
    (Core.memOk (Core.mk t.regs z1 z2 z3 z4 z5 z6 z7 z8 z9 z10 z11 z12 z13 z14 z15 z16 z17 z18 z19 z20 z21 z22 z23 z24 z25 z26 z27 z28 z29 z30 z31 z32 z33 z34 t.ra z36 z37 z38 z39 z40 z41 z42 z43 z44 z45 z46 z47 z48 z49 z50 z51 z52 z53 z54 z55 z56)) = (Core.memOk t) := rfl
theorem same_cluster {t : Cluster} {z2 : List Binding} {z3 : Tbl Bool} {z4 : List PubOp} {z5 : Tbl (List QReq)} {z6 : List (Nat × QReq)} {z7 : Tbl (Option Chunk)} {z8 : Tbl (List Tlb)} {z9 : List DueWrite} {z10 : List Cached} {z11 : Tbl (Option GSlot)} {z12 : Ctx} {z13 : TaskState} {z14 : Bool} {z15 : Nat} {z16 : Bool} {z17 : Option CvDesc} {z18 : Nat} {z19 : Option Nat} {z20 : List Sent} {z21 : Bool} {z22 : Nat} {z23 : Option Nat} {z24 : Nat} {z25 : Tbl Nat} {z26 : Tbl Nat} {z27 : Tbl Nat} {z28 : Nat} {z29 : Nat} {z30 : Bool} {z31 : Nat × List (Nat × Nat)} :
    (Cluster.memOk (Cluster.mk t.scratch t.codeOld z2 z3 z4 z5 z6 z7 z8 z9 z10 z11 z12 z13 z14 z15 z16 z17 z18 z19 z20 z21 z22 z23 z24 z25 z26 z27 z28 z29 z30 z31)) = (Cluster.memOk t) := rfl
theorem same_die {t : Die} {z1 : Nat} {z2 : Option Nat} {z3 : Tbl Nat} {z4 : Int} {z5 : DiePower} {z6 : Nat} {z7 : Bool} {z8 : Nat} {z9 : Nat} {z10 : Bool} :
    (Mem.wf (Die.weights (Die.mk t.weights z1 z2 z3 z4 z5 z6 z7 z8 z9 z10)) = true) = (Mem.wf (Die.weights t) = true) := rfl
theorem same_mod {t : Module} {z0 : Bool} {z1 : Bool} {z2 : TimeUnit} {z5 : List Nat} {z6 : Tbl Frame} {z7 : Tbl (Option Swap)} {z8 : List (List Nat × List Nat)} {z9 : Tbl Queue} {z10 : List Launch} {z11 : Nat} {z12 : List (Nat × Nat × Nat)} {z13 : List (Nat × Nat)} {z14 : Tbl Nat} {z16 : Tbl JobSlot} {z17 : Tbl Tick} {z18 : Tbl (Option Window)} {z19 : Tbl CvCtl} {z21 : List Contribution} {z22 : List Partial} {z23 : List Signal} {z24 : List (Nat × Nat × Nat × Nat × Nat × List Nat)} {z25 : Tbl Nat} {z26 : Bool} {z27 : Nat} {z28 : Nat} {z29 : Nat} {z30 : Nat} {z31 : Nat} {z32 : List Move} {z33 : Option Nat} {z34 : Bool} {z35 : Nat} {z36 : Nat} {z37 : Tbl Nat} {z38 : List Nat} {z39 : List (Nat × List Nat)} {z40 : Tbl Nat} {z41 : Tbl Nat} {z42 : Tbl Nat} {z43 : Tbl Nat} {z44 : Tbl Nat} {z45 : Nat} {z46 : Nat} {z47 : Tbl (List Nat)} {z48 : List Nat} {z49 : Tbl (List Nat)} {z50 : List (Nat × Nat × Nat)} {z51 : List Nat} {z52 : List Contribution} {z53 : Nat} {z54 : List BitLoc} {z55 : Nat} {z56 : CfgRecords} :
    (Module.memOk (Module.mk z0 z1 z2 t.hbm t.host z5 z6 z7 z8 z9 z10 z11 z12 z13 z14 t.saves z16 z17 z18 z19 t.parts z21 z22 z23 z24 z25 z26 z27 z28 z29 z30 z31 z32 z33 z34 z35 z36 z37 z38 z39 z40 z41 z42 z43 z44 z45 z46 z47 z48 z49 z50 z51 z52 z53 z54 z55 z56)) = (Module.memOk t) := rfl
theorem mk_state {z0 : Tbl Core} {z1 : Tbl Cluster} {z2 : Tbl Die} {z3 : Tbl Module} {z4 : List Job} {z5 : List Flight} {z6 : List (Nat × Nat × Nat)} {z7 : List HostMsg} {z8 : Nat} {z9 : List Move} {z10 : List (Nat × Move)} {z11 : Nat} {z12 : Focus} {z13 : Nat} {z14 : Nat} :
    (State.memOk (State.mk z0 z1 z2 z3 z4 z5 z6 z7 z8 z9 z10 z11 z12 z13 z14)) = ((∀ x ∈ z0, Core.memOk x.2) ∧ (∀ x ∈ z1, Cluster.memOk x.2) ∧ (∀ x ∈ z2, Mem.wf x.2.weights = true) ∧ ∀ x ∈ z3, Module.memOk x.2) := rfl
theorem mk_core {z0 : Regs} {z1 : Tbl View} {z2 : Nat} {z3 : Bool} {z4 : List Loop} {z5 : List Pend} {z6 : List PStore} {z7 : Tbl Nat} {z8 : Tbl Nat} {z9 : Tbl Int} {z10 : Tbl Int} {z11 : Tbl (Option Stream)} {z12 : Nat} {z13 : Bool} {z14 : Nat} {z15 : Nat} {z16 : List (Nat × Pend)} {z17 : List (Nat × Pend)} {z18 : Bool} {z19 : Nat} {z20 : Option Nat} {z21 : Option Next} {z22 : Option Next} {z23 : Option Nat} {z24 : List (Nat × Nat)} {z25 : Nat} {z26 : Nat} {z27 : Nat} {z28 : Nat} {z29 : Nat} {z30 : Nat} {z31 : Nat} {z32 : Tbl Nat} {z33 : Tbl Nat} {z34 : Tbl Chan} {z35 : Option RunAhead} {z36 : List KEntry} {z37 : Nat} {z38 : Nat} {z39 : Nat} {z40 : Nat} {z41 : List Nat} {z42 : List RelOp} {z43 : Wait} {z44 : Nat} {z45 : List Nat} {z46 : List (Nat × Nat)} {z47 : Seq} {z48 : Nat} {z49 : List Trace} {z50 : List (Nat × Nat)} {z51 : Option (Nat × Nat)} {z52 : Option Nat} {z53 : Nat} {z54 : List Sent} {z55 : List (Nat × Nat)} {z56 : Nat × List Nat} :
    (Core.memOk (Core.mk z0 z1 z2 z3 z4 z5 z6 z7 z8 z9 z10 z11 z12 z13 z14 z15 z16 z17 z18 z19 z20 z21 z22 z23 z24 z25 z26 z27 z28 z29 z30 z31 z32 z33 z34 z35 z36 z37 z38 z39 z40 z41 z42 z43 z44 z45 z46 z47 z48 z49 z50 z51 z52 z53 z54 z55 z56)) = (Mem.wf z0.mem = true ∧ ∀ r, z35 = some r → Mem.wf r.shadow.mem = true) := rfl
theorem mk_cluster {z0 : Mem} {z1 : Mem} {z2 : List Binding} {z3 : Tbl Bool} {z4 : List PubOp} {z5 : Tbl (List QReq)} {z6 : List (Nat × QReq)} {z7 : Tbl (Option Chunk)} {z8 : Tbl (List Tlb)} {z9 : List DueWrite} {z10 : List Cached} {z11 : Tbl (Option GSlot)} {z12 : Ctx} {z13 : TaskState} {z14 : Bool} {z15 : Nat} {z16 : Bool} {z17 : Option CvDesc} {z18 : Nat} {z19 : Option Nat} {z20 : List Sent} {z21 : Bool} {z22 : Nat} {z23 : Option Nat} {z24 : Nat} {z25 : Tbl Nat} {z26 : Tbl Nat} {z27 : Tbl Nat} {z28 : Nat} {z29 : Nat} {z30 : Bool} {z31 : Nat × List (Nat × Nat)} :
    (Cluster.memOk (Cluster.mk z0 z1 z2 z3 z4 z5 z6 z7 z8 z9 z10 z11 z12 z13 z14 z15 z16 z17 z18 z19 z20 z21 z22 z23 z24 z25 z26 z27 z28 z29 z30 z31)) = (Mem.wf z0 = true ∧ Mem.wf z1 = true) := rfl
theorem mk_mod {z0 : Bool} {z1 : Bool} {z2 : TimeUnit} {z3 : Mem} {z4 : Mem} {z5 : List Nat} {z6 : Tbl Frame} {z7 : Tbl (Option Swap)} {z8 : List (List Nat × List Nat)} {z9 : Tbl Queue} {z10 : List Launch} {z11 : Nat} {z12 : List (Nat × Nat × Nat)} {z13 : List (Nat × Nat)} {z14 : Tbl Nat} {z15 : List Saved} {z16 : Tbl JobSlot} {z17 : Tbl Tick} {z18 : Tbl (Option Window)} {z19 : Tbl CvCtl} {z20 : Tbl Part} {z21 : List Contribution} {z22 : List Partial} {z23 : List Signal} {z24 : List (Nat × Nat × Nat × Nat × Nat × List Nat)} {z25 : Tbl Nat} {z26 : Bool} {z27 : Nat} {z28 : Nat} {z29 : Nat} {z30 : Nat} {z31 : Nat} {z32 : List Move} {z33 : Option Nat} {z34 : Bool} {z35 : Nat} {z36 : Nat} {z37 : Tbl Nat} {z38 : List Nat} {z39 : List (Nat × List Nat)} {z40 : Tbl Nat} {z41 : Tbl Nat} {z42 : Tbl Nat} {z43 : Tbl Nat} {z44 : Tbl Nat} {z45 : Nat} {z46 : Nat} {z47 : Tbl (List Nat)} {z48 : List Nat} {z49 : Tbl (List Nat)} {z50 : List (Nat × Nat × Nat)} {z51 : List Nat} {z52 : List Contribution} {z53 : Nat} {z54 : List BitLoc} {z55 : Nat} {z56 : CfgRecords} :
    (Module.memOk (Module.mk z0 z1 z2 z3 z4 z5 z6 z7 z8 z9 z10 z11 z12 z13 z14 z15 z16 z17 z18 z19 z20 z21 z22 z23 z24 z25 z26 z27 z28 z29 z30 z31 z32 z33 z34 z35 z36 z37 z38 z39 z40 z41 z42 z43 z44 z45 z46 z47 z48 z49 z50 z51 z52 z53 z54 z55 z56)) = (Mem.wf z3 = true ∧ Mem.wf z4 = true ∧ (∀ v ∈ z15, Saved.memOk v) ∧ ∀ x ∈ z20, Part.memOk x.2) := rfl

theorem wf_regs {c : Core} (h : c.memOk) : Mem.wf c.regs.mem = true := h.1
theorem wf_ra {c : Core} (h : c.memOk) : ∀ r, c.ra = some r → Mem.wf r.shadow.mem = true := h.2
theorem wf_raNone : ∀ r, (none : Option RunAhead) = some r → Mem.wf r.shadow.mem = true := fun _ h => nomatch h
theorem wf_scratch {c : Cluster} (h : c.memOk) : Mem.wf c.scratch = true := h.1
theorem wf_codeOld {c : Cluster} (h : c.memOk) : Mem.wf c.codeOld = true := h.2
theorem wf_hbm {c : Module} (h : c.memOk) : Mem.wf c.hbm = true := h.1
theorem wf_host {c : Module} (h : c.memOk) : Mem.wf c.host = true := h.2.1
theorem wf_saves {c : Module} (h : c.memOk) : ∀ v ∈ c.saves, Saved.memOk v := h.2.2.1
theorem wf_parts {c : Module} (h : c.memOk) : ∀ x ∈ c.parts, Part.memOk x.2 := h.2.2.2

/-! ### Tables, options, choices -/

theorem mk_part {a b c : Nat} {d : List Nat} {e f g h : Nat} {i : Bool} {j : List Dump} {k l : Bool} {m n o : Nat} {p : Bool} {q : Nat} {r : Bool} {s t : Nat} :
    (Part.memOk (Part.mk a b c d e f g h i j k l m n o p q r s t)) = (∀ d ∈ j, ∀ x ∈ d.cores, Core.memOk x.2) := rfl
theorem parts_set {t : Tbl Part} {k : Nat} {v : Part} (hv : Part.memOk v) (h : ∀ x ∈ t, Part.memOk x.2) : ∀ x ∈ Tbl.set t k v, Part.memOk x.2 :=
  Tbl.set_all hv h
theorem memOk_getPart {t : Tbl Part} (h : ∀ x ∈ t, Part.memOk x.2) (k : Nat) : Part.memOk (Tbl.get .reset t k) := Tbl.get_all memOk_partReset h k
theorem memOk_dumps {p : Part} (h : p.memOk) : ∀ d ∈ p.dumps, ∀ x ∈ d.cores, Core.memOk x.2 := h
theorem wf_raMap {x : Option RunAhead} {f : RunAhead → RunAhead} (h : ∀ r, x = some r → Mem.wf r.shadow.mem = true)
    (hf : ∀ r, Mem.wf r.shadow.mem = true → Mem.wf (f r).shadow.mem = true) : ∀ r, x.map f = some r → Mem.wf r.shadow.mem = true := by
  intro r hr
  obtain ⟨a, ha, rfl⟩ := Option.map_eq_some_iff.mp hr
  exact hf a (h a ha)
theorem wf_raSome {x : RunAhead} (h : Mem.wf x.shadow.mem = true) : ∀ r, some x = some r → Mem.wf r.shadow.mem = true := by
  intro r hr; injection hr with hr; rw [← hr]; exact h
theorem ite_state {c : Prop} [Decidable c] {a b : State} (ha : a.memOk) (hb : b.memOk) : (if c then a else b).memOk := by split <;> assumption
theorem ite_core {c : Prop} [Decidable c] {a b : Core} (ha : a.memOk) (hb : b.memOk) : (if c then a else b).memOk := by split <;> assumption
theorem ite_mod {c : Prop} [Decidable c] {a b : Module} (ha : a.memOk) (hb : b.memOk) : (if c then a else b).memOk := by split <;> assumption
theorem map_all {α : Type} {P : α → Prop} {g : Nat × α → α} {t : Tbl α} (hg : ∀ k c, P c → P (g (k, c))) (h : ∀ x ∈ t, P x.2) :
    ∀ x ∈ t.map (fun x => (x.1, g x)), P x.2 := by
  intro x hx
  obtain ⟨y, hy, rfl⟩ := List.mem_map.mp hx
  exact hg y.1 y.2 (h y hy)
theorem filter_all {α : Type} {P : α → Prop} {p : α → Bool} {t : List α} (h : ∀ x ∈ t, P x) : ∀ x ∈ t.filter p, P x :=
  fun x hx => h x ((List.mem_filter.mp hx).1)
theorem wf_putS_ok {r : Regs} {n : Nat} {v : DWord} {tag : Option Poison} (h : Mem.wf r.mem = true) : Mem.wf (r.putS n v tag).mem = true := by rw [wf_putS]; exact h
theorem ite_saved {c : Prop} [Decidable c] {a b : Saved} (ha : a.memOk) (hb : b.memOk) : (if c then a else b).memOk := by split <;> assumption
theorem fst_keeps {α : Type} {x : State × α} {t : State} {u : α} (e : x = (t, u)) (h : x.1.memOk) : t.memOk := by subst e; exact h
theorem snd_keeps {α : Type} {x : α × State} {t : State} {u : α} (e : x = (u, t)) (h : x.2.memOk) : t.memOk := by subst e; exact h
theorem next_keeps {s : State} (h : s.memOk) : ∀ t, (Host.Outcome.next s : Host.Outcome State Fault Refusal) = .next t → State.memOk t := by
  intro t ht; injection ht with ht; exact ht ▸ h
/-- Every memory of the machine right after reset is in the canonical form. -/
theorem memOk_reset : State.reset.memOk := ⟨fun _ h => (nomatch h), fun _ h => (nomatch h), fun _ h => (nomatch h), fun _ h => nomatch h⟩

end Sys2Proof.Machine
end

