-- ==== Sys2Proof/Laws/KeepsSlots.lean ====
section
/-! SUPPORT. Sys2Proof/Laws/KeepsSlots.lean: every shared operation and every meaning of a syllable keeps every memory in the canonical form. -/

namespace Sys2Proof.Machine

set_option Elab.async false
set_option linter.unusedVariables false
set_option linter.unusedSimpArgs false

/-! ### The shared operations (Machine/Ops.lean) -/


theorem keeps_openValue {x0 x1 : Nat} {x2 : State} (h2 : State.memOk x2) :
    State.memOk (openValue x0 x1 x2).2 := h2
theorem keeps_openValue_eq {x0 x1 : Nat} {x2 t : State} {u : Nat} (e : (openValue x0 x1 x2) = (u, t)) (h2 : State.memOk x2) :
    State.memOk t := snd_keeps e (keeps_openValue h2)
theorem keeps_openAny {x0 : State} (h0 : State.memOk x0) :
    State.memOk (openAny x0).2 := h0
theorem keeps_openAny_eq {x0 t : State} {u : Nat} (e : (openAny x0) = (u, t)) (h0 : State.memOk x0) : State.memOk t := snd_keeps e (keeps_openAny h0)
theorem keeps_newId {x0 : State} (h0 : State.memOk x0) :
    State.memOk (newId x0).2 := h0
theorem keeps_newId_eq {x0 t : State} {u : Nat} (e : (newId x0) = (u, t)) (h0 : State.memOk x0) : State.memOk t := snd_keeps e (keeps_newId h0)
theorem keeps_clearMarks {x0 : State} {x1 x2 : Nat} {x3 x4 : Nat} (h0 : State.memOk x0) :
    State.memOk (clearMarks x0 x1 x2 x3 x4) := h0
theorem keeps_clearCovered {x0 : State} {x1 : Nat} {x2 : Nat} {x3 : List (Nat × Nat)} (h0 : State.memOk x0) :
    State.memOk (clearCovered x0 x1 x2 x3) := by
  unfold clearCovered
  try dsimp only
  with_reducible repeat' (first | assumption | refine ite_state ?_ ?_ | apply foldl_memOk | apply memOk_getCore | apply memOk_getCluster | apply memOk_getMod | apply memOk_getPart | apply memOk_focusCore | simp only [same_state, same_core, same_cluster, same_die, same_mod] | intro _ | split )
theorem keeps_clearScratchMarks {x0 : State} {x1 : Nat} {x2 : Bool} {x3 x4 : Nat} (h0 : State.memOk x0) :
    State.memOk (clearScratchMarks x0 x1 x2 x3 x4) := by
  unfold clearScratchMarks
  try dsimp only
  with_reducible repeat' (first | assumption | apply foldl_memOk | apply keeps_clearMarks | intro _ | split)
theorem keeps_Core_countNew {x0 : Core} (h0 : Core.memOk x0) :
    Core.memOk (Core.countNew x0) := h0
theorem keeps_countCore {x0 : State} {x1 x2 x3 : Nat} (h0 : State.memOk x0) :
    State.memOk (countCore x0 x1 x2 x3) := by
  unfold countCore
  with_reducible repeat' (first | assumption | apply keeps_updCore | simp only [same_state, same_core, same_cluster, same_die, same_mod] | intro _)
theorem keeps_countCluster {x0 : State} {x1 x2 x3 : Nat} (h0 : State.memOk x0) :
    State.memOk (countCluster x0 x1 x2 x3) := by
  unfold countCluster
  with_reducible repeat' (first
    | assumption | apply keeps_updCluster | apply wf_scratch | apply wf_codeOld | simp only [mk_cluster] | apply And.intro | intro _)
theorem keeps_countMod {x0 : State} {x1 x2 x3 : Nat} (h0 : State.memOk x0) :
    State.memOk (countMod x0 x1 x2 x3) := by
  unfold countMod
  with_reducible repeat' (first | assumption | apply keeps_updMod | simp only [same_state, same_core, same_cluster, same_die, same_mod] | intro _)
theorem keeps_Module_countBytes {x0 : Nat} {x1 : Nat} {x2 : Module} (h2 : Module.memOk x2) :
    Module.memOk (Module.countBytes x0 x1 x2) := by
  unfold Module.countBytes
  try dsimp only
  with_reducible repeat' (first | assumption | refine ite_state ?_ ?_ | apply foldl_memOk | apply memOk_getCore | apply memOk_getCluster | apply memOk_getMod | apply memOk_getPart | apply memOk_focusCore | simp only [same_state, same_core, same_cluster, same_die, same_mod] | intro _ | split )
theorem keeps_Cluster_countBytes {x0 : Nat} {x1 : Nat} {x2 : Cluster} (h2 : Cluster.memOk x2) :
    Cluster.memOk (Cluster.countBytes x0 x1 x2) := by
  unfold Cluster.countBytes
  try dsimp only
  with_reducible repeat' (first | assumption | refine ite_state ?_ ?_ | apply foldl_memOk | apply memOk_getCore | apply memOk_getCluster | apply memOk_getMod | apply memOk_getPart | apply memOk_focusCore | simp only [same_state, same_core, same_cluster, same_die, same_mod] | intro _ | split )
theorem keeps_countBytes {x0 : State} {x1 : Nat} {x2 : Nat} {x3 : Nat} (h0 : State.memOk x0) :
    State.memOk (countBytes x0 x1 x2 x3) := by
  unfold countBytes
  try dsimp only
  with_reducible repeat' (first | assumption | refine ite_state ?_ ?_ | apply keeps_updMod | apply keeps_Module_countBytes | apply foldl_memOk | apply memOk_getCore | apply memOk_getCluster | apply memOk_getMod | apply memOk_getPart | apply memOk_focusCore | simp only [same_state, same_core, same_cluster, same_die, same_mod] | intro _ | split )
theorem keeps_countFlits {x0 : Nat} {x1 : Nat} {x2 : Bool} {x3 : Nat} {x4 : State} (h4 : State.memOk x4) :
    State.memOk (countFlits x0 x1 x2 x3 x4) := by
  unfold countFlits
  try dsimp only
  with_reducible repeat' (first | assumption | refine ite_state ?_ ?_ | apply keeps_countMod | apply foldl_memOk | apply memOk_getCore | apply memOk_getCluster | apply memOk_getMod | apply memOk_getPart | apply memOk_focusCore | simp only [same_state, same_core, same_cluster, same_die, same_mod] | intro _ | split )
theorem keeps_countErr {x0 : State} {x1 x2 : Nat} {x3 x4 : Nat} (h0 : State.memOk x0) :
    State.memOk (countErr x0 x1 x2 x3 x4) := by
  unfold countErr
  with_reducible repeat' (first
    | assumption | apply keeps_updMod | simp only [same_state, same_core, same_cluster, same_die, same_mod] | intro _ | split)
theorem keeps_noteWake {x0 x1 : Nat} {x2 : State} (h2 : State.memOk x2) :
    State.memOk (noteWake x0 x1 x2) := by
  unfold noteWake
  with_reducible repeat' (first
    | assumption | apply keeps_updCluster | apply wf_scratch | apply wf_codeOld | simp only [mk_cluster] | apply And.intro | intro _)
theorem keeps_updFocus {x0 : State} {x1 : Focus → Focus} (h0 : State.memOk x0) :
    State.memOk (updFocus x0 x1) := h0
theorem keeps_post {x0 : Nat} {x1 : Eff} {x2 : State} (h2 : State.memOk x2) :
    State.memOk (post x0 x1 x2) := by
  unfold post
  with_reducible repeat' (first | assumption | apply keeps_updCore | simp only [same_state, same_core, same_cluster, same_die, same_mod] | intro _)
theorem keeps_raise {x0 x1 : Nat} {x2 : State} (h2 : State.memOk x2) :
    State.memOk (raise x0 x1 x2) := by
  unfold raise
  with_reducible repeat' (first | assumption | apply keeps_updFocus)
theorem keeps_stallOn {x0 : Bool} {x1 : Nat} {x2 : State} (h2 : State.memOk x2) :
    State.memOk (stallOn x0 x1 x2) := by
  unfold stallOn
  with_reducible repeat' (first | assumption | apply keeps_updFocus)
theorem keeps_hardFault {x0 x1 : Nat} {x2 : State} (h2 : State.memOk x2) :
    State.memOk (hardFault x0 x1 x2) := by
  unfold hardFault
  with_reducible repeat' (first | assumption | refine ite_state ?_ ?_ | apply keeps_raise | apply keeps_stallOn)
theorem keeps_softFault {x0 x1 : Nat} {x2 : Poison → State} {x3 : State} (h2 : ∀ (y0 : Poison), State.memOk (x2 y0)) (h3 : State.memOk x3) :
    State.memOk (softFault x0 x1 x2 x3) := by
  unfold softFault
  with_reducible repeat' (first | assumption | refine ite_state ?_ ?_ | apply keeps_raise | apply h2)
theorem keeps_oneFault {x0 : List (Nat × Nat)} {x1 : State} (h1 : State.memOk x1) :
    State.memOk (oneFault x0 x1).2 := by
  unfold oneFault
  try dsimp only
  with_reducible repeat' (first | assumption | refine ite_state ?_ ?_ | refine keeps_openValue_eq (by assumption) ?_ | apply keeps_openValue | apply foldl_memOk | apply memOk_getCore | apply memOk_getCluster | apply memOk_getMod | apply memOk_getPart | apply memOk_focusCore | simp only [same_state, same_core, same_cluster, same_die, same_mod] | intro _ | split )
theorem keeps_oneFault_eq {x0 : List (Nat × Nat)} {x1 : State} {t : State} {u : (Nat × Nat)} (e : (oneFault x0 x1) = (u, t)) (h1 : State.memOk x1) : State.memOk t := snd_keeps e (keeps_oneFault h1)
theorem keeps_hardFaults {x0 : List (Nat × Nat)} {x1 : State} (h1 : State.memOk x1) :
    State.memOk (hardFaults x0 x1) := by
  unfold hardFaults
  try dsimp only
  with_reducible repeat' (first | assumption | refine ite_state ?_ ?_ | refine keeps_oneFault_eq (by assumption) ?_ | apply keeps_oneFault | apply keeps_hardFault | apply foldl_memOk | apply memOk_getCore | apply memOk_getCluster | apply memOk_getMod | apply memOk_getPart | apply memOk_focusCore | simp only [same_state, same_core, same_cluster, same_die, same_mod] | intro _ | split )
theorem keeps_softFaults {x0 : List (Nat × Nat)} {x1 : Poison → State → State} {x2 : State} (h1 : ∀ (y0 : Poison) (y1 : State), State.memOk y1 → State.memOk (x1 y0 y1)) (h2 : State.memOk x2) :
    State.memOk (softFaults x0 x1 x2) := by
  unfold softFaults
  try dsimp only
  with_reducible repeat' (first | assumption | refine ite_state ?_ ?_ | refine keeps_oneFault_eq (by assumption) ?_ | apply keeps_oneFault | apply keeps_softFault | apply foldl_memOk | apply h1 | apply memOk_getCore | apply memOk_getCluster | apply memOk_getMod | apply memOk_getPart | apply memOk_focusCore | simp only [same_state, same_core, same_cluster, same_die, same_mod] | intro _ | split )
theorem keeps_hardFirst {x0 : List (Nat × Nat)} {x1 : State} (h1 : State.memOk x1) :
    State.memOk (hardFirst x0 x1) := by
  unfold hardFirst
  try dsimp only
  with_reducible repeat' (first | assumption | refine ite_state ?_ ?_ | apply keeps_hardFault | apply foldl_memOk | apply memOk_getCore | apply memOk_getCluster | apply memOk_getMod | apply memOk_getPart | apply memOk_focusCore | simp only [same_state, same_core, same_cluster, same_die, same_mod] | intro _ | split )
theorem keeps_softFirst {x0 : List (Nat × Nat)} {x1 : Poison → State → State} {x2 : State} (h1 : ∀ (y0 : Poison) (y1 : State), State.memOk y1 → State.memOk (x1 y0 y1)) (h2 : State.memOk x2) :
    State.memOk (softFirst x0 x1 x2) := by
  unfold softFirst
  try dsimp only
  with_reducible repeat' (first | assumption | refine ite_state ?_ ?_ | apply keeps_softFault | apply foldl_memOk | apply h1 | apply memOk_getCore | apply memOk_getCluster | apply memOk_getMod | apply memOk_getPart | apply memOk_focusCore | simp only [same_state, same_core, same_cluster, same_die, same_mod] | intro _ | split )
theorem keeps_takeDeferred {x0 : Poison} {x1 : State} (h1 : State.memOk x1) :
    State.memOk (takeDeferred x0 x1) := by
  unfold takeDeferred
  with_reducible repeat' (first | assumption | refine ite_state ?_ ?_ | apply keeps_updFocus | apply keeps_stallOn)
theorem keeps_unlessTagged {x0 : List (Option Poison)} {x1 : State} {x2 : State → State} (h1 : State.memOk x1) (h2 : ∀ (y0 : State), State.memOk y0 → State.memOk (x2 y0)) :
    State.memOk (unlessTagged x0 x1 x2) := by
  unfold unlessTagged
  with_reducible repeat' (first | assumption | apply keeps_takeDeferred | apply h2 | split)
theorem keeps_guarded {x0 : Nat} {x1 : State} {x2 : State → State} (h1 : State.memOk x1) (h2 : ∀ (y0 : State), State.memOk y0 → State.memOk (x2 y0)) :
    State.memOk (guarded x0 x1 x2) := by
  unfold guarded
  with_reducible repeat' (first | assumption | apply keeps_takeDeferred | apply h2 | split)
theorem keeps_journal {x0 : Nat} {x1 : State} (h1 : State.memOk x1) :
    State.memOk (journal x0 x1) := by
  unfold journal
  with_reducible repeat' (first | assumption | refine ite_state ?_ ?_ | apply keeps_updFocus)
theorem keeps_journalMem {x0 : Nat} {x1 : State} (h1 : State.memOk x1) :
    State.memOk (journalMem x0 x1) := by
  unfold journalMem
  with_reducible repeat' (first | assumption | apply keeps_journal)
theorem keeps_storeReg {x0 : List (Nat × List Nat)} {x1 : Option Poison} {x2 : Nat} {x3 : State} (h3 : State.memOk x3) :
    State.memOk (storeReg x0 x1 x2 x3) := by
  unfold storeReg
  try dsimp only
  with_reducible repeat' (first | assumption | refine ite_state ?_ ?_ | apply keeps_updCore | apply keeps_updFocus | apply keeps_post | apply keeps_journalMem | apply foldl_memOk | apply memOk_getCore | apply memOk_getCluster | apply memOk_getMod | apply memOk_getPart | apply memOk_focusCore | simp only [same_state, same_core, same_cluster, same_die, same_mod] | intro _ | split )
theorem keeps_notInRa {x0 : State} {x1 : State → State} (h0 : State.memOk x0) (h1 : ∀ (y0 : State), State.memOk y0 → State.memOk (x1 y0)) :
    State.memOk (notInRa x0 x1) := by
  unfold notInRa
  with_reducible repeat' (first | assumption | refine ite_state ?_ ?_ | apply keeps_stallOn | apply h1)
theorem keeps_notDraining {x0 : State} {x1 : State → State} (h0 : State.memOk x0) (h1 : ∀ (y0 : State), State.memOk y0 → State.memOk (x1 y0)) :
    State.memOk (notDraining x0 x1) := by
  unfold notDraining
  with_reducible repeat' (first | assumption | refine ite_state ?_ ?_ | apply keeps_stallOn | apply h1)
theorem keeps_journalS {x0 : Nat} {x1 : State} (h1 : State.memOk x1) :
    State.memOk (journalS x0 x1) := by
  unfold journalS
  with_reducible repeat' (first | assumption | refine ite_state ?_ ?_ | apply keeps_journal)
theorem keeps_postS {x0 x1 : Nat} {x2 : DWord} {x3 : Option Poison} {x4 : State} (h4 : State.memOk x4) :
    State.memOk (postS x0 x1 x2 x3 x4) := by
  unfold postS
  with_reducible repeat' (first | assumption | apply keeps_post | apply keeps_journalS)
theorem keeps_consume {x0 x1 : Nat} {x2 : State} (h2 : State.memOk x2) :
    State.memOk (consume x0 x1 x2) := by
  unfold consume
  with_reducible repeat' (first | assumption | apply keeps_updFocus)
theorem keeps_traceFocus {x0 x1 : Nat} {x2 : State} (h2 : State.memOk x2) :
    State.memOk (traceFocus x0 x1 x2) := by
  unfold traceFocus
  with_reducible repeat' (first | assumption | apply keeps_updFocus)
theorem keeps_traceCore {x0 : State} {x1 x2 : Nat} {x3 x4 : Nat} (h0 : State.memOk x0) :
    State.memOk (traceCore x0 x1 x2 x3 x4) := by
  unfold traceCore
  with_reducible repeat' (first | assumption | apply keeps_updCore | simp only [same_state, same_core, same_cluster, same_die, same_mod] | intro _)
theorem keeps_testWait {x0 x1 x2 : Nat} {x3 : State} (h3 : State.memOk x3) :
    State.memOk (testWait x0 x1 x2 x3) := by
  unfold testWait
  try simp only [openValue]
  with_reducible repeat' (first
    | assumption | apply keeps_updCore | simp only [same_state, same_core, same_cluster, same_die, same_mod] | intro _ | split)
theorem keeps_Cluster_noteWrite {x0 : Cluster} {x1 x2 x3 : Nat} (h0 : Cluster.memOk x0) :
    Cluster.memOk (Cluster.noteWrite x0 x1 x2 x3) := by
  unfold Cluster.noteWrite
  with_reducible repeat' (first | assumption | simp only [same_state, same_core, same_cluster, same_die, same_mod] | split)
theorem keeps_scratchWrite {x0 : Nat} {x1 : Bool} {x2 : Nat} {x3 : List Nat} {x4 : State} (h4 : State.memOk x4) :
    State.memOk (scratchWrite x0 x1 x2 x3 x4) := by
  unfold scratchWrite
  try dsimp only
  with_reducible repeat' (first
    | assumption | refine ite_state ?_ ?_ | apply keeps_updCluster | apply foldl_memOk | apply wf_scratch | apply wf_codeOld | apply writeHalf_wf
    | apply keeps_clearScratchMarks | apply keeps_testWait | apply keeps_Cluster_noteWrite | simp only [mk_cluster] | apply And.intro | intro _)
theorem keeps_updJob {x0 : State} {x1 : Nat} {x2 : Job → Job} (h0 : State.memOk x0) :
    State.memOk (updJob x0 x1 x2) := h0
theorem keeps_updSlot {x0 : State} {x1 x2 : Nat} {x3 : JobSlot → JobSlot} (h0 : State.memOk x0) :
    State.memOk (updSlot x0 x1 x2 x3) := by
  unfold updSlot
  with_reducible repeat' (first
    | assumption | apply keeps_updMod | simp only [same_state, same_core, same_cluster, same_die, same_mod] | intro _ | split)
theorem keeps_fireWave {x0 x1 : Nat} {x2 : CauseRec} {x3 : State} (h3 : State.memOk x3) :
    State.memOk (fireWave x0 x1 x2 x3) := by
  unfold fireWave
  try simp only [openValue]
  with_reducible repeat' (first
    | assumption | apply foldl_memOk | apply keeps_updSlot | simp only [same_state, same_core, same_cluster, same_die, same_mod] | intro _ | split)
theorem keeps_triggerIf {x0 x1 : Nat} {x2 x3 x4 : Nat} {x5 : State} (h5 : State.memOk x5) :
    State.memOk (triggerIf x0 x1 x2 x3 x4 x5) := by
  unfold triggerIf
  with_reducible repeat' (first | assumption | refine ite_state ?_ ?_ | apply keeps_fireWave)
theorem keeps_Core_hold {x0 : Nat} {x1 : Core} (h1 : Core.memOk x1) :
    Core.memOk (Core.hold x0 x1) := by
  unfold Core.hold
  try dsimp only
  with_reducible repeat' (first | assumption | refine ite_state ?_ ?_ | apply foldl_memOk | apply memOk_getCore | apply memOk_getCluster | apply memOk_getMod | apply memOk_getPart | apply memOk_focusCore | simp only [same_state, same_core, same_cluster, same_die, same_mod] | intro _ | split )
theorem keeps_Core_stopAt {x0 : Core} {x1 : Nat} {x2 : Nat} {x3 : Nat} {x4 : Nat} {x5 : Nat} (h0 : Core.memOk x0) :
    Core.memOk (Core.stopAt x0 x1 x2 x3 x4 x5) := by
  unfold Core.stopAt
  try dsimp only
  with_reducible repeat' (first | assumption | refine ite_state ?_ ?_ | apply keeps_Core_hold | apply foldl_memOk | apply memOk_getCore | apply memOk_getCluster | apply memOk_getMod | apply memOk_getPart | apply memOk_focusCore | simp only [same_state, same_core, same_cluster, same_die, same_mod] | intro _ | split )
theorem keeps_stopLaunch {x0 : Nat} {x1 : Nat} {x2 : Nat} {x3 : Nat} {x4 : State} (h4 : State.memOk x4) :
    State.memOk (stopLaunch x0 x1 x2 x3 x4) := by
  unfold stopLaunch
  try dsimp only
  with_reducible repeat' (first | assumption | refine ite_state ?_ ?_ | apply keeps_updCore | apply keeps_Core_stopAt | apply foldl_memOk | apply memOk_getCore | apply memOk_getCluster | apply memOk_getMod | apply memOk_getPart | apply memOk_focusCore | simp only [same_state, same_core, same_cluster, same_die, same_mod] | intro _ | split )
theorem keeps_failLaunch {x0 x1 : Nat} {x2 x3 : Nat} {x4 : State} (h4 : State.memOk x4) :
    State.memOk (failLaunch x0 x1 x2 x3 x4) := by
  unfold failLaunch
  with_reducible repeat' (first | assumption | apply keeps_updMod | simp only [same_state, same_core, same_cluster, same_die, same_mod] | intro _)
theorem keeps_dumpRecords {m stop a : Nat} {xs : List (Nat × Option (List Nat))} {s : State} (h : s.memOk) : (dumpRecords m stop a xs s).memOk := by
  induction xs generalizing a s with
  | nil => exact h
  | cons x xs ih => exact ih (keeps_updMod (fun md hm => ⟨Mem.write_wf _ _ _ hm.1, hm.2⟩) h)
theorem keeps_dumpScratch {m stop a : Nat} {ms : List Mem} {s : State} (hw : ∀ x ∈ ms, Mem.wf x = true) (h : s.memOk) :
    (dumpScratch m stop a ms s).memOk := by
  induction ms generalizing a s with
  | nil => exact h
  | cons c cs ih =>
    refine ih (fun x hx => hw x (List.mem_cons_of_mem _ hx)) (keeps_updMod (fun md hm => ⟨?_, hm.2⟩) h)
    exact Mem.blit_wf _ _ _ _ _ hm.1 (hw c (List.mem_cons_self ..))
theorem keeps_dumpWith {x0 : Cluster} {x1 : Tbl Core} {x2 : List Mem} {x3 x4 : Nat} {x5 : State} (hw : ∀ x ∈ x2, Mem.wf x = true)
    (h1 : ∀ x ∈ x1, x.2.memOk) (h5 : State.memOk x5) : State.memOk (dumpWith x0 x1 x2 x3 x4 x5) := by
  unfold dumpWith
  split
  · exact h5
  · dsimp only
    split
    · exact keeps_countErr h5
    · refine keeps_updMod (fun md h => ⟨h.1, h.2.1, h.2.2.1, ?_⟩) (keeps_dumpScratch hw (keeps_dumpRecords h5))
      refine parts_set ?_ h.2.2.2
      intro d hd
      rcases List.mem_cons.mp hd with rfl | hd
      · exact h1
      · exact memOk_getPart (memOk_getMod h5 _).2.2.2 _ d hd
theorem keeps_dumpCores {ks : List Nat} {cause detail : Nat} {s : State} (h : s.memOk) : (dumpCores ks cause detail s).memOk := by
  refine keeps_dumpWith (fun x hx => ?_) (fun x hx => ?_) h
  · obtain ⟨c, _, rfl⟩ := List.mem_map.mp hx
    exact (memOk_getCluster h c).1
  · obtain ⟨k, _, rfl⟩ := List.mem_map.mp hx
    exact memOk_getCore h k
theorem keeps_fatalTrap {x0 : Nat} {x1 : Nat} {x2 : Nat} {x3 : Nat} {x4 : Nat} {x5 : Nat} {x6 : State} (h6 : State.memOk x6) :
    State.memOk (fatalTrap x0 x1 x2 x3 x4 x5 x6) := by
  unfold fatalTrap
  try dsimp only
  with_reducible repeat' (first | assumption | refine ite_state ?_ ?_ | apply keeps_updCore | apply keeps_Core_stopAt | apply keeps_traceCore | apply keeps_countCore | apply keeps_dumpCores | apply keeps_fireWave | apply keeps_failLaunch | apply keeps_stopLaunch | apply foldl_memOk | apply memOk_getCore | apply memOk_getCluster | apply memOk_getMod | apply memOk_getPart | apply memOk_focusCore | simp only [same_state, same_core, same_cluster, same_die, same_mod] | intro _ | split )
theorem keeps_Core_trapEntry {x0 : Core} {x1 x2 : Nat} {x3 x4 x5 : Nat} (h0 : Core.memOk x0) :
    Core.memOk (Core.trapEntry x0 x1 x2 x3 x4 x5) := h0
theorem keeps_takeTrap {x0 x1 : Nat} {x2 x3 : Nat} {x4 x5 : Nat} {x6 : State} (h6 : State.memOk x6) :
    State.memOk (takeTrap x0 x1 x2 x3 x4 x5 x6) := by
  unfold takeTrap
  with_reducible repeat' (first
    | assumption | apply keeps_updCore | apply keeps_countCore | apply keeps_traceCore | apply keeps_triggerIf | apply keeps_fatalTrap
    | apply keeps_Core_trapEntry | intro _ | split)
theorem keeps_Core_unwindTo {x0 : Core} {x1 : Nat} {x2 : Nat} {x3 : List (Nat × Nat)} {x4 : Nat} {x5 : Nat} {x6 : Nat} {x7 : Nat} {x8 : Nat} (h0 : Core.memOk x0) :
    Core.memOk (Core.unwindTo x0 x1 x2 x3 x4 x5 x6 x7 x8) := by
  unfold Core.unwindTo
  try dsimp only
  with_reducible repeat' (first | assumption | refine ite_state ?_ ?_ | apply foldl_memOk | apply memOk_getCore | apply memOk_getCluster | apply memOk_getMod | apply memOk_getPart | apply memOk_focusCore | simp only [same_state, same_core, same_cluster, same_die, same_mod] | intro _ | split )
theorem keeps_countCoreErr {x0 : State} {x1 : Nat} {x2 : Nat} (h0 : State.memOk x0) :
    State.memOk (countCoreErr x0 x1 x2) := by
  unfold countCoreErr
  try dsimp only
  with_reducible repeat' (first | assumption | refine ite_state ?_ ?_ | apply keeps_countErr | apply foldl_memOk | apply memOk_getCore | apply memOk_getCluster | apply memOk_getMod | apply memOk_getPart | apply memOk_focusCore | simp only [same_state, same_core, same_cluster, same_die, same_mod] | intro _ | split )
theorem keeps_consumeError {x0 : Nat} {x1 : Nat} {x2 : Nat} {x3 : Nat} {x4 : Nat} {x5 : Nat} {x6 : State} (h6 : State.memOk x6) :
    State.memOk (consumeError x0 x1 x2 x3 x4 x5 x6) := by
  unfold consumeError
  try dsimp only
  with_reducible repeat' (first | assumption | refine ite_state ?_ ?_ | apply keeps_updCore | apply keeps_countCoreErr | apply keeps_Core_unwindTo | apply keeps_traceCore | apply keeps_triggerIf | apply keeps_fatalTrap | apply foldl_memOk | apply memOk_getCore | apply memOk_getCluster | apply memOk_getMod | apply memOk_getPart | apply memOk_focusCore | simp only [same_state, same_core, same_cluster, same_die, same_mod] | intro _ | split )
theorem keeps_Core_returnTrap {x0 : Core} {x1 : Nat} (h0 : Core.memOk x0) :
    Core.memOk (Core.returnTrap x0 x1) := h0
theorem keeps_Core_resumeHeld {x0 : Core} {x1 : Nat} (h0 : Core.memOk x0) :
    Core.memOk (Core.resumeHeld x0 x1) := h0

/-! ### Reading and writing operands (Machine/Operands.lean) -/

theorem keeps_poisonView {x0 : Nat} {x1 : View} {x2 : Nat} {x3 : State} {x4 : Poison} (h3 : State.memOk x3) :
    State.memOk (poisonView x0 x1 x2 x3 x4) := by
  unfold poisonView
  with_reducible repeat' (first | assumption | apply keeps_post | apply keeps_journalMem)
theorem keeps_updStream {x0 : Nat} {x1 : Stream → Stream} {x2 : State} (h2 : State.memOk x2) :
    State.memOk (updStream x0 x1 x2) := by
  unfold updStream
  with_reducible repeat' (first
    | assumption | apply keeps_updCore | simp only [same_state, same_core, same_cluster, same_die, same_mod] | intro _ | split)
theorem keeps_doPop {x0 : Nat} {x1 : State} (h1 : State.memOk x1) :
    State.memOk (doPop x0 x1) := by
  unfold doPop
  with_reducible repeat' (first | assumption | refine ite_state ?_ ?_ | apply keeps_journal | apply keeps_updStream)
theorem keeps_doReserve {x0 : Nat} {x1 : State} (h1 : State.memOk x1) :
    State.memOk (doReserve x0 x1) := by
  unfold doReserve
  with_reducible repeat' (first
    | assumption | apply keeps_updCore | apply keeps_updStream | simp only [same_state, same_core, same_cluster, same_die, same_mod] | intro _)
theorem keeps_postVec {x0 : Nat} {x1 : Fmt} {x2 : VOp} {x3 : Bool} {x4 : Mask} {x5 : List Nat} {x6 : State} (h6 : State.memOk x6) :
    State.memOk (postVec x0 x1 x2 x3 x4 x5 x6) := by
  unfold postVec
  with_reducible repeat' (first | assumption | refine ite_state ?_ ?_ | apply keeps_post | apply keeps_journalMem | apply keeps_doReserve)
theorem keeps_poisonVec {x0 : Nat} {x1 : Fmt} {x2 : VOp} {x3 : Poison} {x4 : State} (h4 : State.memOk x4) :
    State.memOk (poisonVec x0 x1 x2 x3 x4) := by
  unfold poisonVec
  with_reducible repeat' (first | assumption | refine ite_state ?_ ?_ | apply keeps_takeDeferred | apply keeps_poisonView)
theorem keeps_destReady {x0 : VOp} {x1 : State} {x2 : State → State} (h1 : State.memOk x1) (h2 : ∀ (y0 : State), State.memOk y0 → State.memOk (x2 y0)) :
    State.memOk (destReady x0 x1 x2) := by
  unfold destReady
  with_reducible repeat' (first | assumption | refine ite_state ?_ ?_ | apply keeps_stallOn | apply h2)
theorem keeps_withSources {x0 : List (Nat × Nat)} {x1 : List (VOp × Nat)} {x2 : Poison → State → State} {x3 : State} {x4 : List OpVal → State → State} (h2 : ∀ (y0 : Poison) (y1 : State), State.memOk y1 → State.memOk (x2 y0 y1)) (h3 : State.memOk x3) (h4 : ∀ (y0 : List OpVal) (y1 : State), State.memOk y1 → State.memOk (x4 y0 y1)) :
    State.memOk (withSources x0 x1 x2 x3 x4) := by
  unfold withSources
  try dsimp only
  with_reducible repeat' (first | assumption | refine ite_state ?_ ?_ | apply keeps_stallOn | apply keeps_hardFirst | apply keeps_softFirst | apply keeps_doPop | apply keeps_consume | apply foldl_memOk | apply h2 | apply h4 | apply memOk_getCore | apply memOk_getCluster | apply memOk_getMod | apply memOk_getPart | apply memOk_focusCore | simp only [same_state, same_core, same_cluster, same_die, same_mod] | intro _ | split )
theorem keeps_vecForm {x0 x1 : Nat} {x2 : Fmt} {x3 : VOp} {x4 : List VSrc} {x5 : VExt} {x6 : Option Nat} {x7 : List (List Nat) → Mask → List Nat} {x8 : State} (h8 : State.memOk x8) :
    State.memOk (vecForm x0 x1 x2 x3 x4 x5 x6 x7 x8) := by
  unfold vecForm
  try dsimp only
  with_reducible repeat' (first
    | assumption | apply keeps_guarded | apply keeps_postVec | apply keeps_poisonVec | apply keeps_destReady | apply keeps_withSources | intro _
    | split)

/-! ### The exceptions of the formats (Machine/Flags.lean) -/

theorem keeps_postPair {x0 : Nat} {x1 : Bool} {x2 : Option Poison} {x3 : State} (h3 : State.memOk x3) :
    State.memOk (postPair x0 x1 x2 x3) := by
  unfold postPair
  with_reducible repeat' (first | assumption | apply keeps_post | apply keeps_journal)

/-! ### The scalar family (Machine/Scalar.lean) -/

theorem keeps_scalarForm {x0 x1 x2 : Nat} {x3 : List Nat} {x4 : List DWord → DWord} {x5 : State} (h5 : State.memOk x5) :
    State.memOk (scalarForm x0 x1 x2 x3 x4 x5) := by
  unfold scalarForm
  with_reducible repeat' (first | assumption | apply keeps_guarded | apply keeps_postS | intro _)
theorem keeps_execAdd {x0 x1 : Nat} {x2 x3 : Nat} {x4 : State} (h4 : State.memOk x4) :
    ∀ t, (execAdd x0 x1 x2 x3 x4) = .next t → State.memOk t :=
  next_keeps (keeps_scalarForm h4)
theorem keeps_execSub {x0 x1 : Nat} {x2 x3 : Nat} {x4 : State} (h4 : State.memOk x4) :
    ∀ t, (execSub x0 x1 x2 x3 x4) = .next t → State.memOk t :=
  next_keeps (keeps_scalarForm h4)
theorem keeps_execMul {x0 x1 : Nat} {x2 x3 : Nat} {x4 : State} (h4 : State.memOk x4) :
    ∀ t, (execMul x0 x1 x2 x3 x4) = .next t → State.memOk t :=
  next_keeps (keeps_scalarForm h4)
theorem keeps_execMulh {x0 x1 : Nat} {x2 x3 : Nat} {x4 : State} (h4 : State.memOk x4) :
    ∀ t, (execMulh x0 x1 x2 x3 x4) = .next t → State.memOk t :=
  next_keeps (keeps_scalarForm h4)
theorem keeps_execAnd {x0 x1 : Nat} {x2 x3 : Nat} {x4 : State} (h4 : State.memOk x4) :
    ∀ t, (execAnd x0 x1 x2 x3 x4) = .next t → State.memOk t :=
  next_keeps (keeps_scalarForm h4)
theorem keeps_execOr {x0 x1 : Nat} {x2 x3 : Nat} {x4 : State} (h4 : State.memOk x4) :
    ∀ t, (execOr x0 x1 x2 x3 x4) = .next t → State.memOk t :=
  next_keeps (keeps_scalarForm h4)
theorem keeps_execXor {x0 x1 : Nat} {x2 x3 : Nat} {x4 : State} (h4 : State.memOk x4) :
    ∀ t, (execXor x0 x1 x2 x3 x4) = .next t → State.memOk t :=
  next_keeps (keeps_scalarForm h4)
theorem keeps_execShl {x0 x1 : Nat} {x2 x3 : Nat} {x4 : State} (h4 : State.memOk x4) :
    ∀ t, (execShl x0 x1 x2 x3 x4) = .next t → State.memOk t :=
  next_keeps (keeps_scalarForm h4)
theorem keeps_execShr {x0 x1 : Nat} {x2 x3 : Nat} {x4 : State} (h4 : State.memOk x4) :
    ∀ t, (execShr x0 x1 x2 x3 x4) = .next t → State.memOk t :=
  next_keeps (keeps_scalarForm h4)
theorem keeps_execSra {x0 x1 : Nat} {x2 x3 : Nat} {x4 : State} (h4 : State.memOk x4) :
    ∀ t, (execSra x0 x1 x2 x3 x4) = .next t → State.memOk t :=
  next_keeps (keeps_scalarForm h4)
theorem keeps_execMin {x0 x1 : Nat} {x2 x3 : Nat} {x4 : State} (h4 : State.memOk x4) :
    ∀ t, (execMin x0 x1 x2 x3 x4) = .next t → State.memOk t :=
  next_keeps (keeps_scalarForm h4)
theorem keeps_execMax {x0 x1 : Nat} {x2 x3 : Nat} {x4 : State} (h4 : State.memOk x4) :
    ∀ t, (execMax x0 x1 x2 x3 x4) = .next t → State.memOk t :=
  next_keeps (keeps_scalarForm h4)
theorem keeps_execClz {x0 x1 x2 : Nat} {x3 : State} (h3 : State.memOk x3) :
    ∀ t, (execClz x0 x1 x2 x3) = .next t → State.memOk t :=
  next_keeps (keeps_scalarForm h3)
theorem keeps_execPopc {x0 x1 x2 : Nat} {x3 : State} (h3 : State.memOk x3) :
    ∀ t, (execPopc x0 x1 x2 x3) = .next t → State.memOk t :=
  next_keeps (keeps_scalarForm h3)
theorem keeps_execAddi {x0 x1 x2 : Nat} {x3 : Int} {x4 : State} (h4 : State.memOk x4) :
    ∀ t, (execAddi x0 x1 x2 x3 x4) = .next t → State.memOk t :=
  next_keeps (keeps_scalarForm h4)
theorem keeps_execAddiWide {x0 x1 x2 : Nat} {x3 : Int} {x4 : State} (h4 : State.memOk x4) :
    ∀ t, (execAddiWide x0 x1 x2 x3 x4) = .next t → State.memOk t :=
  next_keeps (keeps_scalarForm h4)
theorem keeps_execMovi {x0 x1 : Nat} {x2 : Int} {x3 : State} (h3 : State.memOk x3) :
    ∀ t, (execMovi x0 x1 x2 x3) = .next t → State.memOk t :=
  next_keeps (keeps_scalarForm h3)
theorem keeps_execMoviWide {x0 x1 : Nat} {x2 : Int} {x3 : State} (h3 : State.memOk x3) :
    ∀ t, (execMoviWide x0 x1 x2 x3) = .next t → State.memOk t :=
  next_keeps (keeps_scalarForm h3)
theorem keeps_execMovhi {x0 x1 x2 : Nat} {x3 : State} (h3 : State.memOk x3) :
    ∀ t, (execMovhi x0 x1 x2 x3) = .next t → State.memOk t :=
  next_keeps (keeps_scalarForm h3)
theorem keeps_execSext {x0 x1 : Nat} {x2 x3 : Nat} {x4 : State} (h4 : State.memOk x4) :
    ∀ t, (execSext x0 x1 x2 x3 x4) = .next t → State.memOk t :=
  next_keeps (keeps_scalarForm h4)
theorem keeps_execZext {x0 x1 : Nat} {x2 x3 : Nat} {x4 : State} (h4 : State.memOk x4) :
    ∀ t, (execZext x0 x1 x2 x3 x4) = .next t → State.memOk t :=
  next_keeps (keeps_scalarForm h4)
theorem keeps_execBfx {x0 x1 : Nat} {x2 x3 x4 : Nat} {x5 : State} (h5 : State.memOk x5) :
    ∀ t, (execBfx x0 x1 x2 x3 x4 x5) = .next t → State.memOk t :=
  next_keeps (keeps_scalarForm h5)
theorem keeps_execBfi {x0 x1 : Nat} {x2 x3 x4 : Nat} {x5 : State} (h5 : State.memOk x5) :
    ∀ t, (execBfi x0 x1 x2 x3 x4 x5) = .next t → State.memOk t :=
  next_keeps (keeps_scalarForm h5)
theorem keeps_execMadd {x0 x1 : Nat} {x2 x3 x4 : Nat} {x5 : State} (h5 : State.memOk x5) :
    ∀ t, (execMadd x0 x1 x2 x3 x4 x5) = .next t → State.memOk t :=
  next_keeps (keeps_scalarForm h5)
theorem keeps_scalarLoad {x0 x1 : Nat} {x2 x3 : Nat} {x4 : Int} {x5 : State} (h5 : State.memOk x5) :
    State.memOk (scalarLoad x0 x1 x2 x3 x4 x5) := by
  unfold scalarLoad
  try dsimp only
  with_reducible repeat' (first
    | assumption | apply keeps_post | apply keeps_softFault | apply keeps_guarded | apply keeps_journalS | apply keeps_postS | apply keeps_consume
    | intro _ | split)
theorem keeps_storeBytes {x0 : Bool} {x1 : Nat} {x2 : List Nat} {x3 : State} (h3 : State.memOk x3) :
    State.memOk (storeBytes x0 x1 x2 x3) := by
  unfold storeBytes
  with_reducible repeat' (first
    | assumption | apply keeps_updCore | apply keeps_updFocus | apply keeps_post
    | simp only [same_state, same_core, same_cluster, same_die, same_mod] | intro _ | split)
theorem keeps_scalarStore {x0 x1 : Nat} {x2 x3 : Nat} {x4 : Int} {x5 : State} (h5 : State.memOk x5) :
    State.memOk (scalarStore x0 x1 x2 x3 x4 x5) := by
  unfold scalarStore
  try dsimp only
  with_reducible repeat' (first
    | assumption | apply keeps_hardFault | apply keeps_unlessTagged | apply keeps_guarded | apply keeps_storeBytes | intro _ | split)
theorem keeps_execSld {x0 x1 : Nat} {x2 x3 : Nat} {x4 : Int} {x5 : State} (h5 : State.memOk x5) :
    ∀ t, (execSld x0 x1 x2 x3 x4 x5) = .next t → State.memOk t :=
  next_keeps (keeps_scalarLoad h5)
theorem keeps_execSldWide {x0 x1 : Nat} {x2 x3 : Nat} {x4 : Int} {x5 : State} (h5 : State.memOk x5) :
    ∀ t, (execSldWide x0 x1 x2 x3 x4 x5) = .next t → State.memOk t :=
  next_keeps (keeps_scalarLoad h5)
theorem keeps_execSst {x0 x1 : Nat} {x2 x3 : Nat} {x4 : Int} {x5 : State} (h5 : State.memOk x5) :
    ∀ t, (execSst x0 x1 x2 x3 x4 x5) = .next t → State.memOk t :=
  next_keeps (keeps_scalarStore h5)
theorem keeps_execSstWide {x0 x1 : Nat} {x2 x3 : Nat} {x4 : Int} {x5 : State} (h5 : State.memOk x5) :
    ∀ t, (execSstWide x0 x1 x2 x3 x4 x5) = .next t → State.memOk t :=
  next_keeps (keeps_scalarStore h5)
theorem keeps_Core_sysWrite {x0 : Core} {x1 x2 : Nat} (h0 : Core.memOk x0) :
    Core.memOk (Core.sysWrite x0 x1 x2) := by
  unfold Core.sysWrite
  with_reducible repeat' (first | assumption | refine ite_core ?_ ?_ | simp only [same_state, same_core, same_cluster, same_die, same_mod])
theorem keeps_execRdsys {x0 x1 x2 : Nat} {x3 : State} (h3 : State.memOk x3) :
    ∀ t, (execRdsys x0 x1 x2 x3) = .next t → State.memOk t := by
  intro t ht
  unfold execRdsys at ht
  injection ht with ht
  rw [← ht]
  with_reducible repeat' (first | assumption | apply keeps_guarded | apply keeps_postS | intro _)
theorem keeps_execWrsys {x0 x1 x2 : Nat} {x3 : State} (h3 : State.memOk x3) :
    ∀ t, (execWrsys x0 x1 x2 x3) = .next t → State.memOk t := by
  intro t ht
  unfold execWrsys at ht
  injection ht with ht
  rw [← ht]
  with_reducible repeat' (first | assumption | apply keeps_post | apply keeps_unlessTagged | apply keeps_guarded | apply keeps_notInRa | intro _)

/-! ### Agreements and abr (Machine/Agree.lean) -/

theorem keeps_Core_updChan {x0 : Core} {x1 : Nat} {x2 : Chan → Chan} (h0 : Core.memOk x0) :
    Core.memOk (Core.updChan x0 x1 x2) := h0
theorem keeps_landFlight {x0 : State} (h0 : State.memOk x0) :
    State.memOk (landFlight x0) := by
  unfold landFlight
  try dsimp only
  with_reducible repeat' (first | assumption | refine ite_state ?_ ?_ | apply foldl_memOk | apply memOk_getCore | apply memOk_getCluster | apply memOk_getMod | apply memOk_getPart | apply memOk_focusCore | simp only [same_state, same_core, same_cluster, same_die, same_mod] | intro _ | split )
theorem keeps_launchFlight {x0 : Nat} {x1 : FKind} {x2 : State} (h2 : State.memOk x2) :
    State.memOk (launchFlight x0 x1 x2) := by
  unfold launchFlight
  try dsimp only
  with_reducible repeat' (first | assumption | refine ite_state ?_ ?_ | refine keeps_newId_eq (by assumption) ?_ | apply keeps_newId | apply keeps_countFlits | apply foldl_memOk | apply memOk_getCore | apply memOk_getCluster | apply memOk_getMod | apply memOk_getPart | apply memOk_focusCore | simp only [same_state, same_core, same_cluster, same_die, same_mod] | intro _ | split )
theorem keeps_resolveAlone {x0 : Nat} {x1 : Nat} {x2 : Nat} {x3 : Nat} {x4 : Nat} {x5 : Nat} {x6 : State} (h6 : State.memOk x6) :
    State.memOk (resolveAlone x0 x1 x2 x3 x4 x5 x6) := by
  unfold resolveAlone
  try dsimp only
  with_reducible repeat' (first | assumption | refine ite_state ?_ ?_ | apply keeps_updCore | apply keeps_updJob | apply keeps_Core_updChan | apply keeps_countCore | apply foldl_memOk | apply memOk_getCore | apply memOk_getCluster | apply memOk_getMod | apply memOk_getPart | apply memOk_focusCore | simp only [same_state, same_core, same_cluster, same_die, same_mod] | intro _ | split )
theorem keeps_bidForm {x0 : Nat} {x1 : Nat} {x2 : Int} {x3 : Option Poison} {x4 : State → State} {x5 : State → State} {x6 : State} (h4 : ∀ (y0 : State), State.memOk y0 → State.memOk (x4 y0)) (h5 : ∀ (y0 : State), State.memOk y0 → State.memOk (x5 y0)) (h6 : State.memOk x6) :
    State.memOk (bidForm x0 x1 x2 x3 x4 x5 x6) := by
  unfold bidForm
  try dsimp only
  with_reducible repeat' (first | assumption | refine ite_state ?_ ?_ | apply keeps_updCore | apply keeps_getCluster | apply keeps_raise | apply keeps_focusCore | apply keeps_unlessTagged | apply keeps_updJob | apply keeps_Core_updChan | apply keeps_resolveAlone | refine keeps_openValue_eq (by assumption) ?_ | apply keeps_openValue | apply keeps_countCore | apply keeps_launchFlight | apply foldl_memOk | apply h4 | apply h5 | apply memOk_getCore | apply memOk_getCluster | apply memOk_getMod | apply memOk_getPart | apply memOk_focusCore | simp only [same_state, same_core, same_cluster, same_die, same_mod] | intro _ | split )
theorem keeps_setECtl {x0 : ECtl} {x1 : State} (h1 : State.memOk x1) :
    State.memOk (setECtl x0 x1) := by
  unfold setECtl
  with_reducible repeat' (first | assumption | apply keeps_updFocus)
theorem keeps_abrForm {x0 : Nat} {x1 : Nat} {x2 : Nat} {x3 : Bool} {x4 : Int} {x5 : State} (h5 : State.memOk x5) :
    State.memOk (abrForm x0 x1 x2 x3 x4 x5) := by
  unfold abrForm
  try dsimp only
  with_reducible repeat' (first | assumption | refine ite_state ?_ ?_ | apply keeps_guarded | apply keeps_notInRa | apply keeps_focusCore | apply keeps_bidForm | apply keeps_setECtl | apply foldl_memOk | apply memOk_getCore | apply memOk_getCluster | apply memOk_getMod | apply memOk_getPart | apply memOk_focusCore | simp only [same_state, same_core, same_cluster, same_die, same_mod] | intro _ | split )
theorem keeps_postRa {x0 : Nat} {x1 : DWord} {x2 : State} (h2 : State.memOk x2) :
    State.memOk (postRa x0 x1 x2) := by
  unfold postRa
  with_reducible repeat' (first | assumption | apply keeps_updCore | simp only [same_state, same_core, same_cluster, same_die, same_mod] | intro _)
theorem keeps_agreeForm {x0 : Nat} {x1 : Nat} {x2 : Nat} {x3 : Nat} {x4 : State} (h4 : State.memOk x4) :
    State.memOk (agreeForm x0 x1 x2 x3 x4) := by
  unfold agreeForm
  try dsimp only
  with_reducible repeat' (first | assumption | refine ite_state ?_ ?_ | apply keeps_guarded | apply keeps_notInRa | apply keeps_bidForm | apply keeps_postS | apply keeps_setECtl | apply keeps_postRa | apply foldl_memOk | apply memOk_getCore | apply memOk_getCluster | apply memOk_getMod | apply memOk_getPart | apply memOk_focusCore | simp only [same_state, same_core, same_cluster, same_die, same_mod] | intro _ | split )
theorem keeps_acallForm {x0 x1 x2 : Nat} {x3 : State} (h3 : State.memOk x3) :
    State.memOk (acallForm x0 x1 x2 x3) := by
  unfold acallForm
  with_reducible repeat' (first | assumption | apply keeps_raise | apply keeps_guarded | apply keeps_notInRa | apply keeps_postS | intro _ | split)
theorem keeps_takeTag {x0 : Poison} {x1 : State} (h1 : State.memOk x1) :
    State.memOk (takeTag x0 x1) := by
  unfold takeTag
  with_reducible repeat' (first | assumption | refine ite_state ?_ ?_ | apply keeps_raise | apply keeps_consume)
theorem keeps_xchkForm {x0 x1 x2 : Nat} {x3 : State} (h3 : State.memOk x3) :
    State.memOk (xchkForm x0 x1 x2 x3) := by
  unfold xchkForm
  try dsimp only
  with_reducible repeat' (first | assumption | apply keeps_raise | apply keeps_guarded | apply keeps_notInRa | apply keeps_takeTag | intro _ | split)
theorem keeps_execAbr {x0 x1 x2 : Nat} {x3 : Bool} {x4 : Int} {x5 : State} (h5 : State.memOk x5) :
    ∀ t, (execAbr x0 x1 x2 x3 x4 x5) = .next t → State.memOk t :=
  next_keeps (keeps_abrForm h5)
theorem keeps_execAbrWide {x0 x1 x2 : Nat} {x3 : Bool} {x4 : Int} {x5 : State} (h5 : State.memOk x5) :
    ∀ t, (execAbrWide x0 x1 x2 x3 x4 x5) = .next t → State.memOk t :=
  next_keeps (keeps_abrForm h5)
theorem keeps_execAgreeAnd {x0 x1 x2 : Nat} {x3 : State} (h3 : State.memOk x3) :
    ∀ t, (execAgreeAnd x0 x1 x2 x3) = .next t → State.memOk t :=
  next_keeps (keeps_agreeForm h3)
theorem keeps_execAgreeOr {x0 x1 x2 : Nat} {x3 : State} (h3 : State.memOk x3) :
    ∀ t, (execAgreeOr x0 x1 x2 x3) = .next t → State.memOk t :=
  next_keeps (keeps_agreeForm h3)
theorem keeps_execAgreeMin {x0 x1 x2 : Nat} {x3 : State} (h3 : State.memOk x3) :
    ∀ t, (execAgreeMin x0 x1 x2 x3) = .next t → State.memOk t :=
  next_keeps (keeps_agreeForm h3)
theorem keeps_execAgreeMax {x0 x1 x2 : Nat} {x3 : State} (h3 : State.memOk x3) :
    ∀ t, (execAgreeMax x0 x1 x2 x3) = .next t → State.memOk t :=
  next_keeps (keeps_agreeForm h3)
theorem keeps_execAgreeSum {x0 x1 x2 : Nat} {x3 : State} (h3 : State.memOk x3) :
    ∀ t, (execAgreeSum x0 x1 x2 x3) = .next t → State.memOk t :=
  next_keeps (keeps_agreeForm h3)
theorem keeps_execAcall {x0 x1 x2 : Nat} {x3 : State} (h3 : State.memOk x3) :
    ∀ t, (execAcall x0 x1 x2 x3) = .next t → State.memOk t :=
  next_keeps (keeps_acallForm h3)
theorem keeps_execXchk {x0 x1 x2 : Nat} {x3 : State} (h3 : State.memOk x3) :
    ∀ t, (execXchk x0 x1 x2 x3) = .next t → State.memOk t :=
  next_keeps (keeps_xchkForm h3)

/-! ### Compares (Machine/Compare.lean) -/

theorem keeps_compareForm {x0 x1 : Nat} {x2 : List Nat} {x3 : List DWord → Bool} {x4 : State} (h4 : State.memOk x4) :
    State.memOk (compareForm x0 x1 x2 x3 x4) := by
  unfold compareForm
  with_reducible repeat' (first | assumption | apply keeps_guarded | apply keeps_postPair | intro _)
theorem keeps_predForm {x0 x1 : Nat} {x2 x3 : Nat} {x4 x5 : Bool} {x6 : Bool → Bool → Bool} {x7 : State} (h7 : State.memOk x7) :
    State.memOk (predForm x0 x1 x2 x3 x4 x5 x6 x7) := by
  unfold predForm
  with_reducible repeat' (first | assumption | apply keeps_guarded | apply keeps_postPair | intro _)
theorem keeps_maskForm {x0 x1 x2 : Nat} {x3 : Mask → Bool} {x4 : State} (h4 : State.memOk x4) :
    State.memOk (maskForm x0 x1 x2 x3 x4) := by
  unfold maskForm
  with_reducible repeat' (first | assumption | apply keeps_guarded | apply keeps_postPair | intro _)
theorem keeps_execCmp {x0 x1 : Nat} {x2 : Cond} {x3 x4 : Nat} {x5 : State} (h5 : State.memOk x5) :
    ∀ t, (execCmp x0 x1 x2 x3 x4 x5) = .next t → State.memOk t :=
  next_keeps (keeps_compareForm h5)
theorem keeps_execCmpi {x0 x1 : Nat} {x2 : Cond} {x3 : Nat} {x4 : Int} {x5 : State} (h5 : State.memOk x5) :
    ∀ t, (execCmpi x0 x1 x2 x3 x4 x5) = .next t → State.memOk t :=
  next_keeps (keeps_compareForm h5)
theorem keeps_execCmpiWide {x0 x1 : Nat} {x2 : Cond} {x3 : Nat} {x4 : Int} {x5 : State} (h5 : State.memOk x5) :
    ∀ t, (execCmpiWide x0 x1 x2 x3 x4 x5) = .next t → State.memOk t :=
  next_keeps (keeps_compareForm h5)
theorem keeps_execFcmp {x0 x1 : Nat} {x2 : Cond} {x3 : Fmt} {x4 x5 : Nat} {x6 : State} (h6 : State.memOk x6) :
    ∀ t, (execFcmp x0 x1 x2 x3 x4 x5 x6) = .next t → State.memOk t :=
  next_keeps (keeps_compareForm h6)
theorem keeps_execPand {x0 x1 : Nat} {x2 x3 : Nat} {x4 x5 : Bool} {x6 : State} (h6 : State.memOk x6) :
    ∀ t, (execPand x0 x1 x2 x3 x4 x5 x6) = .next t → State.memOk t :=
  next_keeps (keeps_predForm h6)
theorem keeps_execPor {x0 x1 : Nat} {x2 x3 : Nat} {x4 x5 : Bool} {x6 : State} (h6 : State.memOk x6) :
    ∀ t, (execPor x0 x1 x2 x3 x4 x5 x6) = .next t → State.memOk t :=
  next_keeps (keeps_predForm h6)
theorem keeps_execPxor {x0 x1 : Nat} {x2 x3 : Nat} {x4 x5 : Bool} {x6 : State} (h6 : State.memOk x6) :
    ∀ t, (execPxor x0 x1 x2 x3 x4 x5 x6) = .next t → State.memOk t :=
  next_keeps (keeps_predForm h6)
theorem keeps_execVany {x0 x1 x2 : Nat} {x3 : State} (h3 : State.memOk x3) :
    ∀ t, (execVany x0 x1 x2 x3) = .next t → State.memOk t :=
  next_keeps (keeps_maskForm h3)
theorem keeps_execVall {x0 x1 x2 : Nat} {x3 : State} (h3 : State.memOk x3) :
    ∀ t, (execVall x0 x1 x2 x3) = .next t → State.memOk t :=
  next_keeps (keeps_maskForm h3)

/-! ### Control transfers (Machine/Control.lean) -/

theorem keeps_codeBytes {x0 x1 x2 : Nat} {x3 : State} (h3 : State.memOk x3) :
    State.memOk (codeBytes x0 x1 x2 x3).2 := by
  unfold codeBytes
  try simp only [openValue]
  with_reducible repeat' (first | assumption | simp only [same_state, same_core, same_cluster, same_die, same_mod] | split)
theorem keeps_codeBytes_eq {x0 x1 x2 : Nat} {x3 t : State} {u : List Nat} (e : (codeBytes x0 x1 x2 x3) = (u, t)) (h3 : State.memOk x3) :
    State.memOk t := snd_keeps e (keeps_codeBytes h3)
theorem keeps_setCtl {x0 : Ctl} {x1 : State} (h1 : State.memOk x1) :
    State.memOk (setCtl x0 x1) := by
  unfold setCtl
  with_reducible repeat' (first | assumption | apply keeps_updFocus)
theorem keeps_controlForm {x0 : Nat} {x1 : State} {x2 : State → State} (h1 : State.memOk x1) (h2 : ∀ (y0 : State), State.memOk y0 → State.memOk (x2 y0)) :
    State.memOk (controlForm x0 x1 x2) := by
  unfold controlForm
  with_reducible repeat' (first | assumption | apply keeps_guarded | apply keeps_setCtl | split)
theorem keeps_brForm {x0 : Nat} {x1 : Int} {x2 : State} (h2 : State.memOk x2) :
    State.memOk (brForm x0 x1 x2) := by
  unfold brForm
  with_reducible repeat' (first | assumption | apply keeps_setCtl | apply keeps_controlForm | intro _)
theorem keeps_regForm {x0 x1 x2 : Nat} {x3 : State} (h3 : State.memOk x3) :
    State.memOk (regForm x0 x1 x2 x3) := by
  unfold regForm
  with_reducible repeat' (first | assumption | apply keeps_unlessTagged | apply keeps_setCtl | apply keeps_controlForm | intro _)
theorem keeps_callForm {x0 x1 : Nat} {x2 : Int} {x3 : State} (h3 : State.memOk x3) :
    State.memOk (callForm x0 x1 x2 x3) := by
  unfold callForm
  with_reducible repeat' (first | assumption | apply keeps_guarded | apply keeps_postS | apply keeps_setCtl | intro _ | split)
theorem keeps_skipTarget {x0 : Nat} {x1 : State} (h1 : State.memOk x1) :
    State.memOk (skipTarget x0 x1).2 := by
  unfold skipTarget
  with_reducible repeat' (first | assumption | apply keeps_codeBytes | split)
theorem keeps_skipTarget_eq {x0 : Nat} {x1 t : State} {u : Nat} (e : (skipTarget x0 x1) = (u, t)) (h1 : State.memOk x1) :
    State.memOk t := snd_keeps e (keeps_skipTarget h1)
theorem keeps_loopForm {x0 x1 : Nat} {x2 : Int} {x3 : State} (h3 : State.memOk x3) :
    State.memOk (loopForm x0 x1 x2 x3) := by
  unfold loopForm
  try dsimp only
  with_reducible repeat' (first
    | assumption | apply keeps_hardFault | apply keeps_unlessTagged | apply keeps_setCtl | apply keeps_controlForm | apply keeps_skipTarget
    | intro _ | split)
theorem keeps_execEndOp {x0 : Nat} {x1 : State} (h1 : State.memOk x1) :
    ∀ t, (execEndOp x0 x1) = .next t → State.memOk t := by
  intro t ht
  unfold execEndOp at ht
  injection ht with ht
  rw [← ht]
  with_reducible repeat' (first | assumption | apply keeps_notInRa | apply keeps_setCtl | apply keeps_controlForm | intro _)
theorem keeps_execBr {x0 : Nat} {x1 : Int} {x2 : State} (h2 : State.memOk x2) :
    ∀ t, (execBr x0 x1 x2) = .next t → State.memOk t :=
  next_keeps (keeps_brForm h2)
theorem keeps_execBrWide {x0 : Nat} {x1 : Int} {x2 : State} (h2 : State.memOk x2) :
    ∀ t, (execBrWide x0 x1 x2) = .next t → State.memOk t :=
  next_keeps (keeps_brForm h2)
theorem keeps_execBrr {x0 x1 : Nat} {x2 : State} (h2 : State.memOk x2) :
    ∀ t, (execBrr x0 x1 x2) = .next t → State.memOk t :=
  next_keeps (keeps_regForm h2)
theorem keeps_execCall {x0 x1 : Nat} {x2 : Int} {x3 : State} (h3 : State.memOk x3) :
    ∀ t, (execCall x0 x1 x2 x3) = .next t → State.memOk t :=
  next_keeps (keeps_callForm h3)
theorem keeps_execCallWide {x0 x1 : Nat} {x2 : Int} {x3 : State} (h3 : State.memOk x3) :
    ∀ t, (execCallWide x0 x1 x2 x3) = .next t → State.memOk t :=
  next_keeps (keeps_callForm h3)
theorem keeps_execRet {x0 x1 : Nat} {x2 : State} (h2 : State.memOk x2) :
    ∀ t, (execRet x0 x1 x2) = .next t → State.memOk t :=
  next_keeps (keeps_regForm h2)
theorem keeps_execLoop {x0 x1 : Nat} {x2 : Int} {x3 : State} (h3 : State.memOk x3) :
    ∀ t, (execLoop x0 x1 x2 x3) = .next t → State.memOk t :=
  next_keeps (keeps_loopForm h3)
theorem keeps_execLoopWide {x0 x1 : Nat} {x2 : Int} {x3 : State} (h3 : State.memOk x3) :
    ∀ t, (execLoopWide x0 x1 x2 x3) = .next t → State.memOk t :=
  next_keeps (keeps_loopForm h3)
theorem keeps_execBrk {x0 x1 : Nat} {x2 : Int} {x3 : State} (h3 : State.memOk x3) :
    ∀ t, (execBrk x0 x1 x2 x3) = .next t → State.memOk t := by
  intro t ht
  unfold execBrk at ht
  injection ht with ht
  rw [← ht]
  with_reducible repeat' (first
    | assumption | refine ite_state ?_ ?_ | apply keeps_hardFault | apply keeps_setCtl | apply keeps_controlForm | intro _)

/-! ### Time, tokens and actuation (Machine/Timed.lean) -/

theorem keeps_beginWait {x0 : Wait} {x1 : State} (h1 : State.memOk x1) :
    State.memOk (beginWait x0 x1) := by
  unfold beginWait
  with_reducible repeat' (first | assumption | apply keeps_updFocus)
theorem keeps_execTnow {x0 x1 : Nat} {x2 : State} (h2 : State.memOk x2) :
    ∀ t, (execTnow x0 x1 x2) = .next t → State.memOk t := by
  intro t ht
  unfold execTnow at ht
  injection ht with ht
  rw [← ht]
  with_reducible repeat' (first | assumption | apply keeps_guarded | apply keeps_postS | intro _)
theorem keeps_waittForm {x0 x1 : Nat} {x2 : State} (h2 : State.memOk x2) :
    State.memOk (waittForm x0 x1 x2) := by
  unfold waittForm
  try simp only [openValue]
  with_reducible repeat' (first
    | assumption | refine ite_state ?_ ?_ | apply keeps_unlessTagged | apply keeps_guarded | apply keeps_notInRa | apply keeps_beginWait
    | simp only [same_state, same_core, same_cluster, same_die, same_mod] | intro _)
theorem keeps_execWaitt {x0 x1 : Nat} {x2 : State} (h2 : State.memOk x2) :
    ∀ t, (execWaitt x0 x1 x2) = .next t → State.memOk t :=
  next_keeps (keeps_waittForm h2)
theorem keeps_waitTick {x0 : Nat} {x1 : State} (h1 : State.memOk x1) :
    State.memOk (waitTick x0 x1) := by
  unfold waitTick
  try dsimp only
  with_reducible repeat' (first | assumption | refine ite_state ?_ ?_ | refine keeps_openValue_eq (by assumption) ?_ | apply keeps_openValue | apply keeps_beginWait | apply foldl_memOk | apply memOk_getCore | apply memOk_getCluster | apply memOk_getMod | apply memOk_getPart | apply memOk_focusCore | simp only [same_state, same_core, same_cluster, same_die, same_mod] | intro _ | split )
theorem keeps_waittkForm {x0 : Nat} {x1 : Nat} {x2 : State} (h2 : State.memOk x2) :
    State.memOk (waittkForm x0 x1 x2) := by
  unfold waittkForm
  try dsimp only
  with_reducible repeat' (first | assumption | refine ite_state ?_ ?_ | apply keeps_guarded | apply keeps_notInRa | apply keeps_getCluster | apply keeps_waitTick | apply keeps_raise | apply foldl_memOk | apply memOk_getCore | apply memOk_getCluster | apply memOk_getMod | apply memOk_getPart | apply memOk_focusCore | simp only [same_state, same_core, same_cluster, same_die, same_mod] | intro _ | split )
theorem keeps_execWaittk {x0 x1 : Nat} {x2 : State} (h2 : State.memOk x2) :
    ∀ t, (execWaittk x0 x1 x2) = .next t → State.memOk t :=
  next_keeps (keeps_waittkForm h2)
theorem keeps_tokgetForm {x0 x1 : Nat} {x2 x3 : Nat} {x4 : State} (h4 : State.memOk x4) :
    State.memOk (tokgetForm x0 x1 x2 x3 x4) := by
  unfold tokgetForm
  try simp only [openValue]
  with_reducible repeat' (first
    | assumption | apply keeps_raise | apply keeps_unlessTagged | apply keeps_guarded | apply keeps_notInRa | apply keeps_beginWait
    | simp only [same_state, same_core, same_cluster, same_die, same_mod] | intro _ | split)
theorem keeps_tokrelForm {x0 x1 x2 : Nat} {x3 : State} (h3 : State.memOk x3) :
    State.memOk (tokrelForm x0 x1 x2 x3) := by
  unfold tokrelForm
  try dsimp only
  with_reducible repeat' (first
    | assumption | apply keeps_post | apply keeps_raise | apply keeps_unlessTagged | apply keeps_guarded | apply keeps_notInRa | intro _ | split)
theorem keeps_execTokget {x0 x1 : Nat} {x2 x3 : Nat} {x4 : State} (h4 : State.memOk x4) :
    ∀ t, (execTokget x0 x1 x2 x3 x4) = .next t → State.memOk t :=
  next_keeps (keeps_tokgetForm h4)
theorem keeps_execTokrel {x0 x1 x2 : Nat} {x3 : State} (h3 : State.memOk x3) :
    ∀ t, (execTokrel x0 x1 x2 x3) = .next t → State.memOk t :=
  next_keeps (keeps_tokrelForm h3)

/-! ### Weight coverage (Machine/Coverage.lean) -/

theorem keeps_cvgetForm {x0 x1 : Nat} {x2 : State} (h2 : State.memOk x2) :
    State.memOk (cvgetForm x0 x1 x2) := by
  unfold cvgetForm
  with_reducible repeat' (first
    | assumption | apply keeps_updCore | apply wf_regs | apply wf_ra | apply keeps_softFault | apply keeps_guarded | apply keeps_journal
    | apply keeps_postS | simp only [mk_core] | apply And.intro | intro _ | split)
theorem keeps_execCvget {x0 x1 : Nat} {x2 : State} (h2 : State.memOk x2) :
    ∀ t, (execCvget x0 x1 x2) = .next t → State.memOk t :=
  next_keeps (keeps_cvgetForm h2)
theorem keeps_updCtl {x0 : State} {x1 x2 : Nat} {x3 : CvCtl → CvCtl} (h0 : State.memOk x0) :
    State.memOk (updCtl x0 x1 x2 x3) := by
  unfold updCtl
  with_reducible repeat' (first | assumption | apply keeps_updMod | simp only [same_state, same_core, same_cluster, same_die, same_mod] | intro _)
theorem keeps_updLaunch {x0 : State} {x1 x2 : Nat} {x3 : Launch → Launch} (h0 : State.memOk x0) :
    State.memOk (updLaunch x0 x1 x2 x3) := by
  unfold updLaunch
  with_reducible repeat' (first | assumption | apply keeps_updMod | simp only [same_state, same_core, same_cluster, same_die, same_mod] | intro _)
theorem keeps_addSample {x0 x1 : Nat} {x2 x3 x4 : Nat} {x5 : State} (h5 : State.memOk x5) :
    State.memOk (addSample x0 x1 x2 x3 x4 x5) := by
  unfold addSample
  with_reducible repeat' (first | assumption | refine ite_state ?_ ?_ | apply keeps_updCtl | apply keeps_updLaunch)
theorem keeps_cvsampleForm {x0 x1 : Nat} {x2 : State} (h2 : State.memOk x2) :
    State.memOk (cvsampleForm x0 x1 x2) := by
  unfold cvsampleForm
  try dsimp only
  with_reducible repeat' (first
    | assumption | apply keeps_raise | apply keeps_unlessTagged | apply keeps_guarded | apply keeps_notInRa | apply keeps_addSample | intro _
    | split)
theorem keeps_execCvsample {x0 x1 : Nat} {x2 : State} (h2 : State.memOk x2) :
    ∀ t, (execCvsample x0 x1 x2) = .next t → State.memOk t :=
  next_keeps (keeps_cvsampleForm h2)

/-! ### The vector family (Machine/Vector.lean) -/

theorem keeps_vr {x0 x1 : Nat} {x2 : Fmt} {x3 x4 x5 : Nat} {x6 : VExt} {x7 : List (List Nat) → Mask → List Nat} {x8 : State} (h8 : State.memOk x8) :
    State.memOk (vr x0 x1 x2 x3 x4 x5 x6 x7 x8) := by
  unfold vr
  with_reducible repeat' (first | assumption | apply keeps_vecForm)
theorem keeps_vu {x0 x1 : Nat} {x2 : Fmt} {x3 x4 : Nat} {x5 : VExt} {x6 : List (List Nat) → Mask → List Nat} {x7 : State} (h7 : State.memOk x7) :
    State.memOk (vu x0 x1 x2 x3 x4 x5 x6 x7) := by
  unfold vu
  with_reducible repeat' (first | assumption | apply keeps_vecForm)
theorem keeps_vrd {x0 x1 : Nat} {x2 : Fmt} {x3 x4 x5 : Nat} {x6 : VExt} {x7 : List (List Nat) → Mask → List Nat} {x8 : State} (h8 : State.memOk x8) :
    State.memOk (vrd x0 x1 x2 x3 x4 x5 x6 x7 x8) := by
  unfold vrd
  with_reducible repeat' (first | assumption | apply keeps_vecForm)
theorem keeps_vpermForm {x0 : Nat} {x1 : Fmt} {x2 x3 x4 : Nat} {x5 : VExt} {x6 : State} (h6 : State.memOk x6) :
    State.memOk (vpermForm x0 x1 x2 x3 x4 x5 x6) := by
  unfold vpermForm
  with_reducible repeat' (first | assumption | apply keeps_vecForm)
theorem keeps_vselForm {x0 : Nat} {x1 : Fmt} {x2 x3 : Nat} {x4 x5 : Nat} {x6 : VExt} {x7 : State} (h7 : State.memOk x7) :
    State.memOk (vselForm x0 x1 x2 x3 x4 x5 x6 x7) := by
  unfold vselForm
  with_reducible repeat' (first | assumption | apply keeps_vecForm)
theorem keeps_vmovForm {x0 x1 x2 : Nat} {x3 : VExt} {x4 : State} (h4 : State.memOk x4) :
    State.memOk (vmovForm x0 x1 x2 x3 x4) := by
  unfold vmovForm
  with_reducible repeat' (first | assumption | apply keeps_vu)
theorem keeps_vcvtForm {x0 : Nat} {x1 : Fmt} {x2 x3 : Nat} {x4 : Fmt} {x5 : RMode} {x6 : VExt} {x7 : State} (h7 : State.memOk x7) :
    State.memOk (vcvtForm x0 x1 x2 x3 x4 x5 x6 x7) := by
  unfold vcvtForm
  with_reducible repeat' (first | assumption | apply keeps_vecForm)
theorem keeps_poisonMask {x0 : Nat} {x1 : Poison} {x2 : State} (h2 : State.memOk x2) :
    State.memOk (poisonMask x0 x1 x2) := by
  unfold poisonMask
  with_reducible repeat' (first | assumption | apply keeps_post | apply keeps_journal)
theorem keeps_vcmpForm {x0 : Nat} {x1 : Fmt} {x2 : Nat} {x3 : Cond} {x4 x5 : Nat} {x6 : VExt} {x7 : State} (h7 : State.memOk x7) :
    State.memOk (vcmpForm x0 x1 x2 x3 x4 x5 x6 x7) := by
  unfold vcmpForm
  with_reducible repeat' (first
    | assumption | apply keeps_post | apply keeps_guarded | apply keeps_journal | apply keeps_withSources | apply keeps_poisonMask | intro _ | split)
theorem keeps_vsplatForm {x0 : Nat} {x1 : Fmt} {x2 x3 : Nat} {x4 : State} (h4 : State.memOk x4) :
    State.memOk (vsplatForm x0 x1 x2 x3 x4) := by
  unfold vsplatForm
  with_reducible repeat' (first
    | assumption | apply keeps_hardFault | apply keeps_guarded | apply keeps_postVec | apply keeps_poisonVec | intro _ | split)
theorem keeps_execVadd {x0 : Nat} {x1 : Fmt} {x2 x3 x4 : Nat} {x5 : State} (h5 : State.memOk x5) :
    ∀ t, (execVadd x0 x1 x2 x3 x4 x5) = .next t → State.memOk t :=
  next_keeps (keeps_vr h5)
theorem keeps_execVaddExt {x0 : Nat} {x1 : Fmt} {x2 x3 x4 : Nat} {x5 : VExt} {x6 : State} (h6 : State.memOk x6) :
    ∀ t, (execVaddExt x0 x1 x2 x3 x4 x5 x6) = .next t → State.memOk t :=
  next_keeps (keeps_vr h6)
theorem keeps_execVsub {x0 : Nat} {x1 : Fmt} {x2 x3 x4 : Nat} {x5 : State} (h5 : State.memOk x5) :
    ∀ t, (execVsub x0 x1 x2 x3 x4 x5) = .next t → State.memOk t :=
  next_keeps (keeps_vr h5)
theorem keeps_execVsubExt {x0 : Nat} {x1 : Fmt} {x2 x3 x4 : Nat} {x5 : VExt} {x6 : State} (h6 : State.memOk x6) :
    ∀ t, (execVsubExt x0 x1 x2 x3 x4 x5 x6) = .next t → State.memOk t :=
  next_keeps (keeps_vr h6)
theorem keeps_execVmul {x0 : Nat} {x1 : Fmt} {x2 x3 x4 : Nat} {x5 : State} (h5 : State.memOk x5) :
    ∀ t, (execVmul x0 x1 x2 x3 x4 x5) = .next t → State.memOk t :=
  next_keeps (keeps_vr h5)
theorem keeps_execVmulExt {x0 : Nat} {x1 : Fmt} {x2 x3 x4 : Nat} {x5 : VExt} {x6 : State} (h6 : State.memOk x6) :
    ∀ t, (execVmulExt x0 x1 x2 x3 x4 x5 x6) = .next t → State.memOk t :=
  next_keeps (keeps_vr h6)
theorem keeps_execVmin {x0 : Nat} {x1 : Fmt} {x2 x3 x4 : Nat} {x5 : State} (h5 : State.memOk x5) :
    ∀ t, (execVmin x0 x1 x2 x3 x4 x5) = .next t → State.memOk t :=
  next_keeps (keeps_vr h5)
theorem keeps_execVminExt {x0 : Nat} {x1 : Fmt} {x2 x3 x4 : Nat} {x5 : VExt} {x6 : State} (h6 : State.memOk x6) :
    ∀ t, (execVminExt x0 x1 x2 x3 x4 x5 x6) = .next t → State.memOk t :=
  next_keeps (keeps_vr h6)
theorem keeps_execVmax {x0 : Nat} {x1 : Fmt} {x2 x3 x4 : Nat} {x5 : State} (h5 : State.memOk x5) :
    ∀ t, (execVmax x0 x1 x2 x3 x4 x5) = .next t → State.memOk t :=
  next_keeps (keeps_vr h5)
theorem keeps_execVmaxExt {x0 : Nat} {x1 : Fmt} {x2 x3 x4 : Nat} {x5 : VExt} {x6 : State} (h6 : State.memOk x6) :
    ∀ t, (execVmaxExt x0 x1 x2 x3 x4 x5 x6) = .next t → State.memOk t :=
  next_keeps (keeps_vr h6)
theorem keeps_execVand {x0 : Nat} {x1 : Fmt} {x2 x3 x4 : Nat} {x5 : State} (h5 : State.memOk x5) :
    ∀ t, (execVand x0 x1 x2 x3 x4 x5) = .next t → State.memOk t :=
  next_keeps (keeps_vr h5)
theorem keeps_execVandExt {x0 : Nat} {x1 : Fmt} {x2 x3 x4 : Nat} {x5 : VExt} {x6 : State} (h6 : State.memOk x6) :
    ∀ t, (execVandExt x0 x1 x2 x3 x4 x5 x6) = .next t → State.memOk t :=
  next_keeps (keeps_vr h6)
theorem keeps_execVor {x0 : Nat} {x1 : Fmt} {x2 x3 x4 : Nat} {x5 : State} (h5 : State.memOk x5) :
    ∀ t, (execVor x0 x1 x2 x3 x4 x5) = .next t → State.memOk t :=
  next_keeps (keeps_vr h5)
theorem keeps_execVorExt {x0 : Nat} {x1 : Fmt} {x2 x3 x4 : Nat} {x5 : VExt} {x6 : State} (h6 : State.memOk x6) :
    ∀ t, (execVorExt x0 x1 x2 x3 x4 x5 x6) = .next t → State.memOk t :=
  next_keeps (keeps_vr h6)
theorem keeps_execVxor {x0 : Nat} {x1 : Fmt} {x2 x3 x4 : Nat} {x5 : State} (h5 : State.memOk x5) :
    ∀ t, (execVxor x0 x1 x2 x3 x4 x5) = .next t → State.memOk t :=
  next_keeps (keeps_vr h5)
theorem keeps_execVxorExt {x0 : Nat} {x1 : Fmt} {x2 x3 x4 : Nat} {x5 : VExt} {x6 : State} (h6 : State.memOk x6) :
    ∀ t, (execVxorExt x0 x1 x2 x3 x4 x5 x6) = .next t → State.memOk t :=
  next_keeps (keeps_vr h6)
theorem keeps_execVshl {x0 : Nat} {x1 : Fmt} {x2 x3 x4 : Nat} {x5 : State} (h5 : State.memOk x5) :
    ∀ t, (execVshl x0 x1 x2 x3 x4 x5) = .next t → State.memOk t :=
  next_keeps (keeps_vr h5)
theorem keeps_execVshlExt {x0 : Nat} {x1 : Fmt} {x2 x3 x4 : Nat} {x5 : VExt} {x6 : State} (h6 : State.memOk x6) :
    ∀ t, (execVshlExt x0 x1 x2 x3 x4 x5 x6) = .next t → State.memOk t :=
  next_keeps (keeps_vr h6)
theorem keeps_execVshr {x0 : Nat} {x1 : Fmt} {x2 x3 x4 : Nat} {x5 : State} (h5 : State.memOk x5) :
    ∀ t, (execVshr x0 x1 x2 x3 x4 x5) = .next t → State.memOk t :=
  next_keeps (keeps_vr h5)
theorem keeps_execVshrExt {x0 : Nat} {x1 : Fmt} {x2 x3 x4 : Nat} {x5 : VExt} {x6 : State} (h6 : State.memOk x6) :
    ∀ t, (execVshrExt x0 x1 x2 x3 x4 x5 x6) = .next t → State.memOk t :=
  next_keeps (keeps_vr h6)
theorem keeps_execVsra {x0 : Nat} {x1 : Fmt} {x2 x3 x4 : Nat} {x5 : State} (h5 : State.memOk x5) :
    ∀ t, (execVsra x0 x1 x2 x3 x4 x5) = .next t → State.memOk t :=
  next_keeps (keeps_vr h5)
theorem keeps_execVsraExt {x0 : Nat} {x1 : Fmt} {x2 x3 x4 : Nat} {x5 : VExt} {x6 : State} (h6 : State.memOk x6) :
    ∀ t, (execVsraExt x0 x1 x2 x3 x4 x5 x6) = .next t → State.memOk t :=
  next_keeps (keeps_vr h6)
theorem keeps_execVfma {x0 : Nat} {x1 : Fmt} {x2 x3 x4 : Nat} {x5 : State} (h5 : State.memOk x5) :
    ∀ t, (execVfma x0 x1 x2 x3 x4 x5) = .next t → State.memOk t :=
  next_keeps (keeps_vrd h5)
theorem keeps_execVfmaExt {x0 : Nat} {x1 : Fmt} {x2 x3 x4 : Nat} {x5 : VExt} {x6 : State} (h6 : State.memOk x6) :
    ∀ t, (execVfmaExt x0 x1 x2 x3 x4 x5 x6) = .next t → State.memOk t :=
  next_keeps (keeps_vrd h6)
theorem keeps_execVfms {x0 : Nat} {x1 : Fmt} {x2 x3 x4 : Nat} {x5 : State} (h5 : State.memOk x5) :
    ∀ t, (execVfms x0 x1 x2 x3 x4 x5) = .next t → State.memOk t :=
  next_keeps (keeps_vrd h5)
theorem keeps_execVfmsExt {x0 : Nat} {x1 : Fmt} {x2 x3 x4 : Nat} {x5 : VExt} {x6 : State} (h6 : State.memOk x6) :
    ∀ t, (execVfmsExt x0 x1 x2 x3 x4 x5 x6) = .next t → State.memOk t :=
  next_keeps (keeps_vrd h6)
theorem keeps_execVperm {x0 : Nat} {x1 : Fmt} {x2 x3 x4 : Nat} {x5 : State} (h5 : State.memOk x5) :
    ∀ t, (execVperm x0 x1 x2 x3 x4 x5) = .next t → State.memOk t :=
  next_keeps (keeps_vpermForm h5)
theorem keeps_execVpermExt {x0 : Nat} {x1 : Fmt} {x2 x3 x4 : Nat} {x5 : VExt} {x6 : State} (h6 : State.memOk x6) :
    ∀ t, (execVpermExt x0 x1 x2 x3 x4 x5 x6) = .next t → State.memOk t :=
  next_keeps (keeps_vpermForm h6)
theorem keeps_execVslide {x0 : Nat} {x1 : Fmt} {x2 x3 x4 : Nat} {x5 : VExt} {x6 : Nat} {x7 : State} (h7 : State.memOk x7) :
    ∀ t, (execVslide x0 x1 x2 x3 x4 x5 x6 x7) = .next t → State.memOk t :=
  next_keeps (keeps_vr h7)
theorem keeps_execVabs {x0 : Nat} {x1 : Fmt} {x2 x3 : Nat} {x4 : State} (h4 : State.memOk x4) :
    ∀ t, (execVabs x0 x1 x2 x3 x4) = .next t → State.memOk t :=
  next_keeps (keeps_vu h4)
theorem keeps_execVabsExt {x0 : Nat} {x1 : Fmt} {x2 x3 : Nat} {x4 : VExt} {x5 : State} (h5 : State.memOk x5) :
    ∀ t, (execVabsExt x0 x1 x2 x3 x4 x5) = .next t → State.memOk t :=
  next_keeps (keeps_vu h5)
theorem keeps_execVneg {x0 : Nat} {x1 : Fmt} {x2 x3 : Nat} {x4 : State} (h4 : State.memOk x4) :
    ∀ t, (execVneg x0 x1 x2 x3 x4) = .next t → State.memOk t :=
  next_keeps (keeps_vu h4)
theorem keeps_execVnegExt {x0 : Nat} {x1 : Fmt} {x2 x3 : Nat} {x4 : VExt} {x5 : State} (h5 : State.memOk x5) :
    ∀ t, (execVnegExt x0 x1 x2 x3 x4 x5) = .next t → State.memOk t :=
  next_keeps (keeps_vu h5)
theorem keeps_execVmov {x0 x1 x2 : Nat} {x3 : State} (h3 : State.memOk x3) :
    ∀ t, (execVmov x0 x1 x2 x3) = .next t → State.memOk t :=
  next_keeps (keeps_vmovForm h3)
theorem keeps_execVmovExt {x0 x1 x2 : Nat} {x3 : VExt} {x4 : State} (h4 : State.memOk x4) :
    ∀ t, (execVmovExt x0 x1 x2 x3 x4) = .next t → State.memOk t :=
  next_keeps (keeps_vmovForm h4)
theorem keeps_execVexp2 {x0 : Nat} {x1 : Fmt} {x2 x3 : Nat} {x4 : State} (h4 : State.memOk x4) :
    ∀ t, (execVexp2 x0 x1 x2 x3 x4) = .next t → State.memOk t :=
  next_keeps (keeps_vu h4)
theorem keeps_execVexp2Ext {x0 : Nat} {x1 : Fmt} {x2 x3 : Nat} {x4 : VExt} {x5 : State} (h5 : State.memOk x5) :
    ∀ t, (execVexp2Ext x0 x1 x2 x3 x4 x5) = .next t → State.memOk t :=
  next_keeps (keeps_vu h5)
theorem keeps_execVlog2 {x0 : Nat} {x1 : Fmt} {x2 x3 : Nat} {x4 : State} (h4 : State.memOk x4) :
    ∀ t, (execVlog2 x0 x1 x2 x3 x4) = .next t → State.memOk t :=
  next_keeps (keeps_vu h4)
theorem keeps_execVlog2Ext {x0 : Nat} {x1 : Fmt} {x2 x3 : Nat} {x4 : VExt} {x5 : State} (h5 : State.memOk x5) :
    ∀ t, (execVlog2Ext x0 x1 x2 x3 x4 x5) = .next t → State.memOk t :=
  next_keeps (keeps_vu h5)
theorem keeps_execVrcp {x0 : Nat} {x1 : Fmt} {x2 x3 : Nat} {x4 : State} (h4 : State.memOk x4) :
    ∀ t, (execVrcp x0 x1 x2 x3 x4) = .next t → State.memOk t :=
  next_keeps (keeps_vu h4)
theorem keeps_execVrcpExt {x0 : Nat} {x1 : Fmt} {x2 x3 : Nat} {x4 : VExt} {x5 : State} (h5 : State.memOk x5) :
    ∀ t, (execVrcpExt x0 x1 x2 x3 x4 x5) = .next t → State.memOk t :=
  next_keeps (keeps_vu h5)
theorem keeps_execVrsq {x0 : Nat} {x1 : Fmt} {x2 x3 : Nat} {x4 : State} (h4 : State.memOk x4) :
    ∀ t, (execVrsq x0 x1 x2 x3 x4) = .next t → State.memOk t :=
  next_keeps (keeps_vu h4)
theorem keeps_execVrsqExt {x0 : Nat} {x1 : Fmt} {x2 x3 : Nat} {x4 : VExt} {x5 : State} (h5 : State.memOk x5) :
    ∀ t, (execVrsqExt x0 x1 x2 x3 x4 x5) = .next t → State.memOk t :=
  next_keeps (keeps_vu h5)
theorem keeps_execVtanh {x0 : Nat} {x1 : Fmt} {x2 x3 : Nat} {x4 : State} (h4 : State.memOk x4) :
    ∀ t, (execVtanh x0 x1 x2 x3 x4) = .next t → State.memOk t :=
  next_keeps (keeps_vu h4)
theorem keeps_execVtanhExt {x0 : Nat} {x1 : Fmt} {x2 x3 : Nat} {x4 : VExt} {x5 : State} (h5 : State.memOk x5) :
    ∀ t, (execVtanhExt x0 x1 x2 x3 x4 x5) = .next t → State.memOk t :=
  next_keeps (keeps_vu h5)
theorem keeps_execVsum {x0 : Nat} {x1 : Fmt} {x2 x3 : Nat} {x4 : State} (h4 : State.memOk x4) :
    ∀ t, (execVsum x0 x1 x2 x3 x4) = .next t → State.memOk t :=
  next_keeps (keeps_vu h4)
theorem keeps_execVsumExt {x0 : Nat} {x1 : Fmt} {x2 x3 : Nat} {x4 : VExt} {x5 : State} (h5 : State.memOk x5) :
    ∀ t, (execVsumExt x0 x1 x2 x3 x4 x5) = .next t → State.memOk t :=
  next_keeps (keeps_vu h5)
theorem keeps_execVmaxr {x0 : Nat} {x1 : Fmt} {x2 x3 : Nat} {x4 : State} (h4 : State.memOk x4) :
    ∀ t, (execVmaxr x0 x1 x2 x3 x4) = .next t → State.memOk t :=
  next_keeps (keeps_vu h4)
theorem keeps_execVmaxrExt {x0 : Nat} {x1 : Fmt} {x2 x3 : Nat} {x4 : VExt} {x5 : State} (h5 : State.memOk x5) :
    ∀ t, (execVmaxrExt x0 x1 x2 x3 x4 x5) = .next t → State.memOk t :=
  next_keeps (keeps_vu h5)
theorem keeps_execVcvt {x0 : Nat} {x1 : Fmt} {x2 x3 : Nat} {x4 : Fmt} {x5 : RMode} {x6 : State} (h6 : State.memOk x6) :
    ∀ t, (execVcvt x0 x1 x2 x3 x4 x5 x6) = .next t → State.memOk t :=
  next_keeps (keeps_vcvtForm h6)
theorem keeps_execVcvtExt {x0 : Nat} {x1 : Fmt} {x2 x3 : Nat} {x4 : Fmt} {x5 : RMode} {x6 : VExt} {x7 : State} (h7 : State.memOk x7) :
    ∀ t, (execVcvtExt x0 x1 x2 x3 x4 x5 x6 x7) = .next t → State.memOk t :=
  next_keeps (keeps_vcvtForm h7)
theorem keeps_execVsel {x0 : Nat} {x1 : Fmt} {x2 x3 : Nat} {x4 x5 : Nat} {x6 : State} (h6 : State.memOk x6) :
    ∀ t, (execVsel x0 x1 x2 x3 x4 x5 x6) = .next t → State.memOk t :=
  next_keeps (keeps_vselForm h6)
theorem keeps_execVselExt {x0 : Nat} {x1 : Fmt} {x2 x3 : Nat} {x4 x5 : Nat} {x6 : VExt} {x7 : State} (h7 : State.memOk x7) :
    ∀ t, (execVselExt x0 x1 x2 x3 x4 x5 x6 x7) = .next t → State.memOk t :=
  next_keeps (keeps_vselForm h7)
theorem keeps_execVcmp {x0 : Nat} {x1 : Fmt} {x2 : Nat} {x3 : Cond} {x4 x5 : Nat} {x6 : State} (h6 : State.memOk x6) :
    ∀ t, (execVcmp x0 x1 x2 x3 x4 x5 x6) = .next t → State.memOk t :=
  next_keeps (keeps_vcmpForm h6)
theorem keeps_execVcmpExt {x0 : Nat} {x1 : Fmt} {x2 : Nat} {x3 : Cond} {x4 x5 : Nat} {x6 : VExt} {x7 : State} (h7 : State.memOk x7) :
    ∀ t, (execVcmpExt x0 x1 x2 x3 x4 x5 x6 x7) = .next t → State.memOk t :=
  next_keeps (keeps_vcmpForm h7)
theorem keeps_execVsplat {x0 : Nat} {x1 : Fmt} {x2 x3 : Nat} {x4 : State} (h4 : State.memOk x4) :
    ∀ t, (execVsplat x0 x1 x2 x3 x4) = .next t → State.memOk t :=
  next_keeps (keeps_vsplatForm h4)

/-! ### Loads, stores, streams and atomics (Machine/Local.lean) -/

theorem keeps_localHeld {x0 : Nat} {x1 : State} {x2 : State → State} (h1 : State.memOk x1) (h2 : ∀ (y0 : State), State.memOk y0 → State.memOk (x2 y0)) :
    State.memOk (localHeld x0 x1 x2) := by
  unfold localHeld
  with_reducible repeat' (first | assumption | apply keeps_guarded | apply keeps_notInRa | intro _)
theorem keeps_withDescriptor {x0 x1 : Nat} {x2 : State} {x3 : Nat → List Nat → State → State} (h2 : State.memOk x2) (h3 : ∀ (y0 : Nat) (y1 : List Nat) (y2 : State), State.memOk y2 → State.memOk (x3 y0 y1 y2)) :
    State.memOk (withDescriptor x0 x1 x2 x3) := by
  unfold withDescriptor
  try dsimp only
  with_reducible repeat' (first | assumption | apply keeps_raise | apply keeps_unlessTagged | apply keeps_consume | apply h3 | intro _ | split)
theorem keeps_vwsetForm {x0 x1 : Nat} {x2 x3 : Nat} {x4 : State} (h4 : State.memOk x4) :
    State.memOk (vwsetForm x0 x1 x2 x3 x4) := by
  unfold vwsetForm
  with_reducible repeat' (first
    | assumption | apply keeps_post | apply keeps_raise | apply keeps_localHeld | apply keeps_withDescriptor | intro _ | split)
theorem keeps_vwclrForm {x0 x1 x2 : Nat} {x3 : State} (h3 : State.memOk x3) :
    State.memOk (vwclrForm x0 x1 x2 x3) := by
  unfold vwclrForm
  with_reducible repeat' (first | assumption | apply keeps_post | apply keeps_localHeld)
theorem keeps_vwgetForm {x0 x1 : Nat} {x2 x3 x4 : Nat} {x5 : State} (h5 : State.memOk x5) :
    State.memOk (vwgetForm x0 x1 x2 x3 x4 x5) := by
  unfold vwgetForm
  with_reducible repeat' (first | assumption | apply keeps_guarded | apply keeps_postS | intro _)
theorem keeps_execVwset {x0 x1 : Nat} {x2 x3 : Nat} {x4 : State} (h4 : State.memOk x4) :
    ∀ t, (execVwset x0 x1 x2 x3 x4) = .next t → State.memOk t :=
  next_keeps (keeps_vwsetForm h4)
theorem keeps_execVwclr {x0 x1 x2 : Nat} {x3 : State} (h3 : State.memOk x3) :
    ∀ t, (execVwclr x0 x1 x2 x3) = .next t → State.memOk t :=
  next_keeps (keeps_vwclrForm h3)
theorem keeps_execVwget {x0 x1 : Nat} {x2 x3 x4 : Nat} {x5 : State} (h5 : State.memOk x5) :
    ∀ t, (execVwget x0 x1 x2 x3 x4 x5) = .next t → State.memOk t :=
  next_keeps (keeps_vwgetForm h5)
theorem keeps_vldForm {x0 : Nat} {x1 : Fmt} {x2 : Nat} {x3 : Nat} {x4 : Int} {x5 : State} (h5 : State.memOk x5) :
    State.memOk (vldForm x0 x1 x2 x3 x4 x5) := by
  unfold vldForm
  try dsimp only
  with_reducible repeat' (first | assumption | refine ite_state ?_ ?_ | apply keeps_guarded | apply keeps_focusCore | apply keeps_hardFault | apply keeps_poisonView | apply keeps_softFirst | apply keeps_consume | apply keeps_post | apply keeps_journalMem | apply foldl_memOk | apply memOk_getCore | apply memOk_getCluster | apply memOk_getMod | apply memOk_getPart | apply memOk_focusCore | simp only [same_state, same_core, same_cluster, same_die, same_mod] | intro _ | split )
theorem keeps_vstForm_hardConsume {x0 : State} (h0 : State.memOk x0) :
    State.memOk (vstForm.hardConsume x0) := by
  unfold vstForm.hardConsume
  with_reducible repeat' (first | assumption | refine ite_state ?_ ?_ | apply keeps_stallOn | apply keeps_consume)
theorem keeps_vstForm {x0 : Nat} {x1 : Fmt} {x2 : Nat} {x3 : Nat} {x4 : Int} {x5 : State} (h5 : State.memOk x5) :
    State.memOk (vstForm x0 x1 x2 x3 x4 x5) := by
  unfold vstForm
  try dsimp only
  with_reducible repeat' (first | assumption | refine ite_state ?_ ?_ | apply keeps_guarded | apply keeps_unlessTagged | apply keeps_hardFirst | apply keeps_vstForm_hardConsume | apply keeps_storeReg | apply keeps_storeBytes | apply foldl_memOk | apply memOk_getCore | apply memOk_getCluster | apply memOk_getMod | apply memOk_getPart | apply memOk_focusCore | apply wf_regs | apply wf_ra | apply wf_raNone | apply wf_scratch | apply wf_codeOld | apply wf_hbm | apply wf_host | apply wf_saves | apply wf_parts | apply Mem.write_wf | simp only [mk_state, mk_core, mk_cluster, mk_mod] | apply And.intro | intro _ | split )
theorem keeps_execVld {x0 : Nat} {x1 : Fmt} {x2 x3 : Nat} {x4 : Int} {x5 : State} (h5 : State.memOk x5) :
    ∀ t, (execVld x0 x1 x2 x3 x4 x5) = .next t → State.memOk t :=
  next_keeps (keeps_vldForm h5)
theorem keeps_execVldWide {x0 : Nat} {x1 : Fmt} {x2 x3 : Nat} {x4 : Int} {x5 : State} (h5 : State.memOk x5) :
    ∀ t, (execVldWide x0 x1 x2 x3 x4 x5) = .next t → State.memOk t :=
  next_keeps (keeps_vldForm h5)
theorem keeps_execVst {x0 : Nat} {x1 : Fmt} {x2 x3 : Nat} {x4 : Int} {x5 : State} (h5 : State.memOk x5) :
    ∀ t, (execVst x0 x1 x2 x3 x4 x5) = .next t → State.memOk t :=
  next_keeps (keeps_vstForm h5)
theorem keeps_execVstWide {x0 : Nat} {x1 : Fmt} {x2 x3 : Nat} {x4 : Int} {x5 : State} (h5 : State.memOk x5) :
    ∀ t, (execVstWide x0 x1 x2 x3 x4 x5) = .next t → State.memOk t :=
  next_keeps (keeps_vstForm h5)
theorem keeps_tsrForm {x0 : Nat} {x1 : Fmt} {x2 : Nat} {x3 : Nat} {x4 : Bool} {x5 : Nat} {x6 : State} (h6 : State.memOk x6) :
    State.memOk (tsrForm x0 x1 x2 x3 x4 x5 x6) := by
  unfold tsrForm
  try dsimp only
  with_reducible repeat' (first | assumption | refine ite_state ?_ ?_ | apply keeps_guarded | apply keeps_focusCore | apply keeps_hardFault | apply keeps_softFirst | apply keeps_poisonView | apply keeps_consume | apply keeps_post | apply keeps_journalMem | apply foldl_memOk | apply memOk_getCore | apply memOk_getCluster | apply memOk_getMod | apply memOk_getPart | apply memOk_focusCore | simp only [same_state, same_core, same_cluster, same_die, same_mod] | intro _ | split )
theorem keeps_tswForm {x0 : Nat} {x1 : Fmt} {x2 : Nat} {x3 : Nat} {x4 : Bool} {x5 : Nat} {x6 : State} (h6 : State.memOk x6) :
    State.memOk (tswForm x0 x1 x2 x3 x4 x5 x6) := by
  unfold tswForm
  try dsimp only
  with_reducible repeat' (first | assumption | refine ite_state ?_ ?_ | apply keeps_guarded | apply keeps_focusCore | apply keeps_poisonView | apply keeps_hardFault | apply keeps_softFirst | apply keeps_consume | apply keeps_storeReg | apply foldl_memOk | apply memOk_getCore | apply memOk_getCluster | apply memOk_getMod | apply memOk_getPart | apply memOk_focusCore | simp only [same_state, same_core, same_cluster, same_die, same_mod] | intro _ | split )
theorem keeps_execTsr {x0 : Nat} {x1 : Fmt} {x2 x3 : Nat} {x4 : Bool} {x5 : Nat} {x6 : State} (h6 : State.memOk x6) :
    ∀ t, (execTsr x0 x1 x2 x3 x4 x5 x6) = .next t → State.memOk t :=
  next_keeps (keeps_tsrForm h6)
theorem keeps_execTsw {x0 : Nat} {x1 : Fmt} {x2 x3 : Nat} {x4 : Bool} {x5 : Nat} {x6 : State} (h6 : State.memOk x6) :
    ∀ t, (execTsw x0 x1 x2 x3 x4 x5 x6) = .next t → State.memOk t :=
  next_keeps (keeps_tswForm h6)
theorem keeps_wsldForm {x0 : Nat} {x1 : Fmt} {x2 : Nat} {x3 : Nat} {x4 : Int} {x5 : State} (h5 : State.memOk x5) :
    State.memOk (wsldForm x0 x1 x2 x3 x4 x5) := by
  unfold wsldForm
  try dsimp only
  with_reducible repeat' (first | assumption | refine ite_state ?_ ?_ | apply keeps_guarded | apply keeps_focusCore | apply keeps_hardFault | apply keeps_poisonView | apply keeps_softFault | apply keeps_stallOn | apply keeps_consume | apply keeps_post | apply keeps_getDie | apply keeps_journalMem | apply foldl_memOk | apply memOk_getCore | apply memOk_getCluster | apply memOk_getMod | apply memOk_getPart | apply memOk_focusCore | simp only [same_state, same_core, same_cluster, same_die, same_mod] | intro _ | split )
theorem keeps_execWsld {x0 : Nat} {x1 : Fmt} {x2 x3 : Nat} {x4 : Int} {x5 : State} (h5 : State.memOk x5) :
    ∀ t, (execWsld x0 x1 x2 x3 x4 x5) = .next t → State.memOk t :=
  next_keeps (keeps_wsldForm h5)
theorem keeps_execWsldWide {x0 : Nat} {x1 : Fmt} {x2 x3 : Nat} {x4 : Int} {x5 : State} (h5 : State.memOk x5) :
    ∀ t, (execWsldWide x0 x1 x2 x3 x4 x5) = .next t → State.memOk t :=
  next_keeps (keeps_wsldForm h5)
theorem keeps_endBinding {x0 : Nat} {x1 : State} {x2 : State → State} (h1 : State.memOk x1) (h2 : ∀ (y0 : State), State.memOk y0 → State.memOk (x2 y0)) :
    State.memOk (endBinding x0 x1 x2) := by
  unfold endBinding
  with_reducible repeat' (first | assumption | refine ite_state ?_ ?_ | apply keeps_stallOn | apply h2)
theorem keeps_setStream {x0 : Nat} {x1 : Option Stream} {x2 : State} (h2 : State.memOk x2) :
    State.memOk (setStream x0 x1 x2) := by
  unfold setStream
  with_reducible repeat' (first | assumption | apply keeps_updCore | simp only [same_state, same_core, same_cluster, same_die, same_mod] | intro _)
theorem keeps_qbindForm {x0 : Nat} {x1 : Nat} {x2 : Nat} {x3 : Bool} {x4 : Nat} {x5 : State} (h5 : State.memOk x5) :
    State.memOk (qbindForm x0 x1 x2 x3 x4 x5) := by
  unfold qbindForm
  try dsimp only
  with_reducible repeat' (first | assumption | refine ite_state ?_ ?_ | apply keeps_localHeld | apply keeps_notDraining | apply keeps_withDescriptor | apply keeps_focusCore | apply keeps_hardFirst | apply keeps_endBinding | apply keeps_traceFocus | apply keeps_setStream | apply foldl_memOk | apply memOk_getCore | apply memOk_getCluster | apply memOk_getMod | apply memOk_getPart | apply memOk_focusCore | simp only [same_state, same_core, same_cluster, same_die, same_mod] | intro _ | split )
theorem keeps_qbindNoneForm {x0 x1 : Nat} {x2 : State} (h2 : State.memOk x2) :
    State.memOk (qbindNoneForm x0 x1 x2) := by
  unfold qbindNoneForm
  with_reducible repeat' (first
    | assumption | apply keeps_notDraining | apply keeps_traceFocus | apply keeps_localHeld | apply keeps_endBinding | apply keeps_setStream
    | intro _)
theorem keeps_qadvForm {x0 x1 x2 : Nat} {x3 : State} (h3 : State.memOk x3) :
    State.memOk (qadvForm x0 x1 x2 x3) := by
  unfold qadvForm
  with_reducible repeat' (first
    | assumption | apply keeps_raise | apply keeps_stallOn | apply keeps_localHeld | apply keeps_setStream | intro _ | split)
theorem keeps_vmovPopForm {x0 x1 x2 : Nat} {x3 : State} (h3 : State.memOk x3) :
    State.memOk (vmovPopForm x0 x1 x2 x3) := by
  unfold vmovPopForm
  with_reducible repeat' (first | assumption | apply keeps_vecForm)
theorem keeps_vmovPushForm {x0 x1 x2 : Nat} {x3 : State} (h3 : State.memOk x3) :
    State.memOk (vmovPushForm x0 x1 x2 x3) := by
  unfold vmovPushForm
  with_reducible repeat' (first
    | assumption | apply keeps_unlessTagged | apply keeps_guarded | apply keeps_updStream | apply keeps_doReserve | apply keeps_destReady
    | apply keeps_withSources | intro _)
theorem keeps_execQbind {x0 x1 x2 : Nat} {x3 : Bool} {x4 : Nat} {x5 : State} (h5 : State.memOk x5) :
    ∀ t, (execQbind x0 x1 x2 x3 x4 x5) = .next t → State.memOk t :=
  next_keeps (keeps_qbindForm h5)
theorem keeps_execQbindNone {x0 x1 : Nat} {x2 : Bool} {x3 : Nat} {x4 : State} (h4 : State.memOk x4) :
    ∀ t, (execQbindNone x0 x1 x2 x3 x4) = .next t → State.memOk t :=
  next_keeps (keeps_qbindNoneForm h4)
theorem keeps_execQadv {x0 x1 x2 : Nat} {x3 : State} (h3 : State.memOk x3) :
    ∀ t, (execQadv x0 x1 x2 x3) = .next t → State.memOk t :=
  next_keeps (keeps_qadvForm h3)
theorem keeps_execVmovPop {x0 x1 x2 : Nat} {x3 : State} (h3 : State.memOk x3) :
    ∀ t, (execVmovPop x0 x1 x2 x3) = .next t → State.memOk t :=
  next_keeps (keeps_vmovPopForm h3)
theorem keeps_execVmovPush {x0 x1 x2 : Nat} {x3 : State} (h3 : State.memOk x3) :
    ∀ t, (execVmovPush x0 x1 x2 x3) = .next t → State.memOk t :=
  next_keeps (keeps_vmovPushForm h3)
theorem keeps_amoForm {x0 x1 : Nat} {x2 : Fmt} {x3 x4 : Nat} {x5 x6 : Nat} {x7 : List Nat} {x8 : Bool} {x9 : State} (h9 : State.memOk x9) :
    State.memOk (amoForm x0 x1 x2 x3 x4 x5 x6 x7 x8 x9) := by
  unfold amoForm
  with_reducible repeat' (first
    | assumption | apply keeps_updCore | apply keeps_post | apply keeps_raise | apply keeps_unlessTagged | apply keeps_notDraining
    | apply keeps_consume | apply keeps_traceFocus | apply keeps_localHeld | simp only [same_state, same_core, same_cluster, same_die, same_mod]
    | intro _ | split)
theorem keeps_execAmoAdd {x0 : Nat} {x1 : Fmt} {x2 x3 x4 : Nat} {x5 : Bool} {x6 : State} (h6 : State.memOk x6) :
    ∀ t, (execAmoAdd x0 x1 x2 x3 x4 x5 x6) = .next t → State.memOk t :=
  next_keeps (keeps_amoForm h6)
theorem keeps_execAmoMin {x0 : Nat} {x1 : Fmt} {x2 x3 x4 : Nat} {x5 : Bool} {x6 : State} (h6 : State.memOk x6) :
    ∀ t, (execAmoMin x0 x1 x2 x3 x4 x5 x6) = .next t → State.memOk t :=
  next_keeps (keeps_amoForm h6)
theorem keeps_execAmoMax {x0 : Nat} {x1 : Fmt} {x2 x3 x4 : Nat} {x5 : Bool} {x6 : State} (h6 : State.memOk x6) :
    ∀ t, (execAmoMax x0 x1 x2 x3 x4 x5 x6) = .next t → State.memOk t :=
  next_keeps (keeps_amoForm h6)
theorem keeps_execAmoSwap {x0 : Nat} {x1 : Fmt} {x2 x3 x4 : Nat} {x5 : Bool} {x6 : State} (h6 : State.memOk x6) :
    ∀ t, (execAmoSwap x0 x1 x2 x3 x4 x5 x6) = .next t → State.memOk t :=
  next_keeps (keeps_amoForm h6)
theorem keeps_execAmoCas {x0 : Nat} {x1 : Fmt} {x2 x3 : Nat} {x4 x5 : Nat} {x6 : Bool} {x7 : State} (h7 : State.memOk x7) :
    ∀ t, (execAmoCas x0 x1 x2 x3 x4 x5 x6 x7) = .next t → State.memOk t :=
  next_keeps (keeps_amoForm h7)

/-! ### Copies and binding operations (Machine/Engine.lean) -/

theorem keeps_updReq {x0 : Nat} {x1 : Nat} {x2 : Nat} {x3 : QReq → QReq} {x4 : State} (h4 : State.memOk x4) :
    State.memOk (updReq x0 x1 x2 x3 x4) := by
  unfold updReq
  try dsimp only
  with_reducible repeat' (first | assumption | refine ite_state ?_ ?_ | apply keeps_updCluster | apply foldl_memOk | apply memOk_getCore | apply memOk_getCluster | apply memOk_getMod | apply memOk_getPart | apply memOk_focusCore | simp only [same_state, same_core, same_cluster, same_die, same_mod] | intro _ | split )
theorem keeps_Cluster_enqueue {x0 : Cluster} {x1 : Nat} {x2 : QReq} (h0 : Cluster.memOk x0) :
    Cluster.memOk (Cluster.enqueue x0 x1 x2) := by
  unfold Cluster.enqueue
  try dsimp only
  with_reducible repeat' (first | assumption | refine ite_state ?_ ?_ | apply foldl_memOk | apply memOk_getCore | apply memOk_getCluster | apply memOk_getMod | apply memOk_getPart | apply memOk_focusCore | simp only [same_state, same_core, same_cluster, same_die, same_mod] | intro _ | split )
theorem keeps_Cluster_dequeue {x0 : Cluster} {x1 : Nat} {x2 : Nat} (h0 : Cluster.memOk x0) :
    Cluster.memOk (Cluster.dequeue x0 x1 x2) := by
  unfold Cluster.dequeue
  try dsimp only
  with_reducible repeat' (first | assumption | refine ite_state ?_ ?_ | apply foldl_memOk | apply memOk_getCore | apply memOk_getCluster | apply memOk_getMod | apply memOk_getPart | apply memOk_focusCore | simp only [same_state, same_core, same_cluster, same_die, same_mod] | intro _ | split )
theorem keeps_acceptReq {x0 : Nat} {x1 : Nat} {x2 : Req} {x3 : State} (h3 : State.memOk x3) :
    State.memOk (acceptReq x0 x1 x2 x3) := by
  unfold acceptReq
  try dsimp only
  with_reducible repeat' (first | assumption | refine ite_state ?_ ?_ | apply keeps_updCluster | refine keeps_newId_eq (by assumption) ?_ | apply keeps_newId | apply keeps_getCluster | apply keeps_countCluster | apply keeps_Cluster_enqueue | apply foldl_memOk | apply memOk_getCore | apply memOk_getCluster | apply memOk_getMod | apply memOk_getPart | apply memOk_focusCore | simp only [same_state, same_core, same_cluster, same_die, same_mod] | intro _ | split )
theorem keeps_handOver {x0 : Req} {x1 : Nat} {x2 : State} (h2 : State.memOk x2) :
    State.memOk (handOver x0 x1 x2) := by
  unfold handOver
  with_reducible repeat' (first
    | assumption | refine ite_state ?_ ?_ | apply keeps_updCore | apply keeps_updFocus | apply keeps_journal | apply keeps_acceptReq
    | simp only [same_state, same_core, same_cluster, same_die, same_mod] | intro _)
theorem keeps_bumpCount {x0 : State} (h0 : State.memOk x0) :
    State.memOk (bumpCount x0) := by
  unfold bumpCount
  with_reducible repeat' (first | assumption | apply keeps_updCore | apply wf_regs | apply wf_ra | simp only [mk_core] | apply And.intro | intro _)
theorem keeps_faultInto {x0 : Option Nat} {x1 : Nat} {x2 : State} (h2 : State.memOk x2) :
    State.memOk (faultInto x0 x1 x2) := by
  unfold faultInto
  try dsimp only
  with_reducible repeat' (first | assumption | refine ite_state ?_ ?_ | apply keeps_softFault | apply keeps_postS | apply keeps_hardFault | apply foldl_memOk | apply memOk_getCore | apply memOk_getCluster | apply memOk_getMod | apply memOk_getPart | apply memOk_focusCore | simp only [same_state, same_core, same_cluster, same_die, same_mod] | intro _ | split )
theorem keeps_withRequest {x0 : Option Nat} {x1 : Nat} {x2 : Nat} {x3 : State} {x4 : List Nat → State → State} (h3 : State.memOk x3) (h4 : ∀ (y0 : List Nat) (y1 : State), State.memOk y1 → State.memOk (x4 y0 y1)) :
    State.memOk (withRequest x0 x1 x2 x3 x4) := by
  unfold withRequest
  try dsimp only
  with_reducible repeat' (first | assumption | refine ite_state ?_ ?_ | apply keeps_faultInto | apply keeps_unlessTagged | apply keeps_focusCore | apply keeps_postS | apply keeps_stallOn | apply keeps_consume | apply foldl_memOk | apply h4 | apply memOk_getCore | apply memOk_getCluster | apply memOk_getMod | apply memOk_getPart | apply memOk_focusCore | simp only [same_state, same_core, same_cluster, same_die, same_mod] | intro _ | split )
theorem keeps_journalTag {x0 : Nat} {x1 : State} (h1 : State.memOk x1) :
    State.memOk (journalTag x0 x1) := by
  unfold journalTag
  try dsimp only
  with_reducible repeat' (first | assumption | refine ite_state ?_ ?_ | apply keeps_journal | apply foldl_memOk | apply memOk_getCore | apply memOk_getCluster | apply memOk_getMod | apply memOk_getPart | apply memOk_focusCore | simp only [same_state, same_core, same_cluster, same_die, same_mod] | intro _ | split )
theorem keeps_cpyForm {x0 : Nat} {x1 : Nat} {x2 : Nat} {x3 : State} (h3 : State.memOk x3) :
    State.memOk (cpyForm x0 x1 x2 x3) := by
  unfold cpyForm
  try dsimp only
  with_reducible repeat' (first | assumption | refine ite_state ?_ ?_ | apply keeps_guarded | apply keeps_unlessTagged | apply keeps_stallOn | apply keeps_withRequest | apply keeps_getCluster | apply keeps_hardFaults | apply keeps_faultInto | apply keeps_traceFocus | apply keeps_bumpCount | apply keeps_postS | apply keeps_handOver | apply keeps_journalTag | apply foldl_memOk | apply memOk_getCore | apply memOk_getCluster | apply memOk_getMod | apply memOk_getPart | apply memOk_focusCore | simp only [same_state, same_core, same_cluster, same_die, same_mod] | intro _ | split )
theorem keeps_cpywForm {x0 : Nat} {x1 : Nat} {x2 : Nat} {x3 : Nat} {x4 : State} (h4 : State.memOk x4) :
    State.memOk (cpywForm x0 x1 x2 x3 x4) := by
  unfold cpywForm
  try dsimp only
  with_reducible repeat' (first | assumption | refine ite_state ?_ ?_ | apply keeps_guarded | apply keeps_unlessTagged | apply keeps_stallOn | apply keeps_withRequest | apply keeps_getCluster | apply keeps_hardFaults | apply keeps_hardFault | apply keeps_traceFocus | apply keeps_bumpCount | apply keeps_handOver | apply foldl_memOk | apply memOk_getCore | apply memOk_getCluster | apply memOk_getMod | apply memOk_getPart | apply memOk_focusCore | simp only [same_state, same_core, same_cluster, same_die, same_mod] | intro _ | split )
theorem keeps_gemvForm {x0 : Nat} {x1 : Nat} {x2 : Nat} {x3 : State} (h3 : State.memOk x3) :
    State.memOk (gemvForm x0 x1 x2 x3) := by
  unfold gemvForm
  try dsimp only
  with_reducible repeat' (first | assumption | refine ite_state ?_ ?_ | apply keeps_guarded | apply keeps_unlessTagged | apply keeps_stallOn | apply keeps_withRequest | apply keeps_getCluster | apply keeps_hardFaults | apply keeps_traceFocus | apply keeps_bumpCount | apply keeps_postS | apply keeps_handOver | apply keeps_journalTag | apply foldl_memOk | apply memOk_getCore | apply memOk_getCluster | apply memOk_getMod | apply memOk_getPart | apply memOk_focusCore | simp only [same_state, same_core, same_cluster, same_die, same_mod] | intro _ | split )
theorem keeps_execCpy {x0 x1 x2 : Nat} {x3 : State} (h3 : State.memOk x3) :
    ∀ t, (execCpy x0 x1 x2 x3) = .next t → State.memOk t :=
  next_keeps (keeps_cpyForm h3)
theorem keeps_execCpyw {x0 x1 : Nat} {x2 x3 : Nat} {x4 : State} (h4 : State.memOk x4) :
    ∀ t, (execCpyw x0 x1 x2 x3 x4) = .next t → State.memOk t :=
  next_keeps (keeps_cpywForm h4)
theorem keeps_execGemv {x0 x1 x2 : Nat} {x3 : State} (h3 : State.memOk x3) :
    ∀ t, (execGemv x0 x1 x2 x3) = .next t → State.memOk t :=
  next_keeps (keeps_gemvForm h3)
theorem keeps_joinKitty {x0 : KEntry} {x1 : State} (h1 : State.memOk x1) :
    State.memOk (joinKitty x0 x1) := by
  unfold joinKitty
  with_reducible repeat' (first
    | assumption | apply keeps_updCore | apply keeps_updFocus | simp only [same_state, same_core, same_cluster, same_die, same_mod] | intro _)
theorem keeps_setWait {x0 : Wait} {x1 : State} (h1 : State.memOk x1) :
    State.memOk (setWait x0 x1) := by
  unfold setWait
  with_reducible repeat' (first | assumption | apply keeps_updFocus)
theorem keeps_beginPub {x0 : Nat} {x1 : PubOp} {x2 : State} (h2 : State.memOk x2) :
    State.memOk (beginPub x0 x1 x2) := by
  unfold beginPub
  try dsimp only
  with_reducible repeat' (first | assumption | refine ite_state ?_ ?_ | apply keeps_updCluster | apply foldl_memOk | apply memOk_getCore | apply memOk_getCluster | apply memOk_getMod | apply memOk_getPart | apply memOk_focusCore | simp only [same_state, same_core, same_cluster, same_die, same_mod] | intro _ | split )
theorem keeps_pubForm {x0 : Nat} {x1 : Nat} {x2 : State} (h2 : State.memOk x2) :
    State.memOk (pubForm x0 x1 x2) := by
  unfold pubForm
  try dsimp only
  with_reducible repeat' (first | assumption | refine ite_state ?_ ?_ | apply keeps_guarded | apply keeps_hardFault | apply keeps_traceFocus | apply keeps_joinKitty | apply keeps_setWait | apply keeps_beginPub | apply foldl_memOk | apply memOk_getCore | apply memOk_getCluster | apply memOk_getMod | apply memOk_getPart | apply memOk_focusCore | simp only [same_state, same_core, same_cluster, same_die, same_mod] | intro _ | split )
theorem keeps_dropCached {x0 x1 : Nat} {x2 : State} (h2 : State.memOk x2) :
    State.memOk (dropCached x0 x1 x2) := by
  unfold dropCached
  with_reducible repeat' (first
    | assumption | apply keeps_updCluster | apply wf_scratch | apply wf_codeOld | simp only [mk_cluster] | apply And.intro | intro _)
theorem keeps_acqForm {x0 x1 : Nat} {x2 : State} (h2 : State.memOk x2) :
    State.memOk (acqForm x0 x1 x2) := by
  unfold acqForm
  with_reducible repeat' (first
    | assumption | apply keeps_raise | apply keeps_guarded | apply keeps_notInRa | apply keeps_notDraining | apply keeps_traceFocus
    | apply keeps_setWait | apply keeps_dropCached | intro _ | split)
theorem keeps_beginRel {x0 x1 x2 : Nat} {x3 : State} (h3 : State.memOk x3) :
    State.memOk (beginRel x0 x1 x2 x3) := by
  unfold beginRel
  with_reducible repeat' (first | assumption | apply keeps_updCore | simp only [same_state, same_core, same_cluster, same_die, same_mod] | intro _)
theorem keeps_relForm {x0 x1 : Nat} {x2 : State} (h2 : State.memOk x2) :
    State.memOk (relForm x0 x1 x2) := by
  unfold relForm
  try dsimp only
  with_reducible repeat' (first
    | assumption | apply keeps_hardFault | apply keeps_guarded | apply keeps_traceFocus | apply keeps_joinKitty | apply keeps_beginRel | intro _
    | split)
theorem keeps_fenceForm {x0 x1 : Nat} {x2 : State} (h2 : State.memOk x2) :
    State.memOk (fenceForm x0 x1 x2) := by
  unfold fenceForm
  with_reducible repeat' (first
    | assumption | apply keeps_guarded | apply keeps_notInRa | apply keeps_notDraining | apply keeps_traceFocus | apply keeps_setWait | intro _)
theorem keeps_waitaForm {x0 x1 x2 : Nat} {x3 : WCond} {x4 : Bool} {x5 : State} (h5 : State.memOk x5) :
    State.memOk (waitaForm x0 x1 x2 x3 x4 x5) := by
  unfold waitaForm
  try dsimp only
  with_reducible repeat' (first
    | assumption | apply keeps_raise | apply keeps_unlessTagged | apply keeps_guarded | apply keeps_notInRa | apply keeps_notDraining
    | apply keeps_setWait | intro _ | split)
theorem keeps_execPub {x0 x1 : Nat} {x2 : State} (h2 : State.memOk x2) :
    ∀ t, (execPub x0 x1 x2) = .next t → State.memOk t :=
  next_keeps (keeps_pubForm h2)
theorem keeps_execAcq {x0 x1 : Nat} {x2 : State} (h2 : State.memOk x2) :
    ∀ t, (execAcq x0 x1 x2) = .next t → State.memOk t :=
  next_keeps (keeps_acqForm h2)
theorem keeps_execRel {x0 x1 : Nat} {x2 : State} (h2 : State.memOk x2) :
    ∀ t, (execRel x0 x1 x2) = .next t → State.memOk t :=
  next_keeps (keeps_relForm h2)
theorem keeps_execFenceCore {x0 : Nat} {x1 : State} (h1 : State.memOk x1) :
    ∀ t, (execFenceCore x0 x1) = .next t → State.memOk t :=
  next_keeps (keeps_fenceForm h1)
theorem keeps_execFenceCluster {x0 : Nat} {x1 : State} (h1 : State.memOk x1) :
    ∀ t, (execFenceCluster x0 x1) = .next t → State.memOk t :=
  next_keeps (keeps_fenceForm h1)
theorem keeps_execFenceModule {x0 : Nat} {x1 : State} (h1 : State.memOk x1) :
    ∀ t, (execFenceModule x0 x1) = .next t → State.memOk t :=
  next_keeps (keeps_fenceForm h1)
theorem keeps_execWaita {x0 x1 x2 : Nat} {x3 : WCond} {x4 : Bool} {x5 : State} (h5 : State.memOk x5) :
    ∀ t, (execWaita x0 x1 x2 x3 x4 x5) = .next t → State.memOk t :=
  next_keeps (keeps_waitaForm h5)

/-! ### Communication graphs (Machine/Graph.lean) -/

theorem keeps_updGraph {x0 : State} {x1 x2 : Nat} {x3 : GSlot → GSlot} (h0 : State.memOk x0) :
    State.memOk (updGraph x0 x1 x2 x3) := by
  unfold updGraph
  with_reducible repeat' (first
    | assumption | apply keeps_updCluster | apply wf_scratch | apply wf_codeOld | simp only [mk_cluster] | apply And.intro | intro _ | split)
theorem keeps_partOf {x0 : State} {x1 : Nat} (h0 : State.memOk x0) :
    Part.memOk (partOf x0 x1) := by
  unfold partOf
  try dsimp only
  with_reducible repeat' (first | assumption | refine ite_state ?_ ?_ | apply foldl_memOk | apply memOk_getCore | apply memOk_getCluster | apply memOk_getMod | apply memOk_getPart | apply memOk_focusCore | apply wf_regs | apply wf_ra | apply wf_raNone | apply wf_scratch | apply wf_codeOld | apply wf_hbm | apply wf_host | apply wf_saves | apply wf_parts | apply Mem.write_wf | simp only [mk_state, mk_core, mk_cluster, mk_mod] | apply And.intro | intro _ | split )
theorem keeps_sendTo {x0 : FKind} {x1 : State} (h1 : State.memOk x1) :
    State.memOk (sendTo x0 x1) := by
  unfold sendTo
  try simp only [openAny]
  with_reducible repeat' (first | assumption | apply keeps_launchFlight | simp only [same_state, same_core, same_cluster, same_die, same_mod])
theorem keeps_answerSender {x0 : Nat} {x1 : Nat × Nat × Nat} {x2 : State} (h2 : State.memOk x2) :
    State.memOk (answerSender x0 x1 x2) := by
  unfold answerSender
  try dsimp only
  with_reducible repeat' (first | assumption | refine ite_state ?_ ?_ | apply keeps_sendTo | apply foldl_memOk | apply memOk_getCore | apply memOk_getCluster | apply memOk_getMod | apply memOk_getPart | apply memOk_focusCore | simp only [same_state, same_core, same_cluster, same_die, same_mod] | intro _ | split )
theorem keeps_flushOp {x0 : Nat} {x1 : Nat} {x2 : Nat} {x3 : Nat} {x4 : State} (h4 : State.memOk x4) :
    State.memOk (flushOp x0 x1 x2 x3 x4) := by
  unfold flushOp
  try dsimp only
  with_reducible repeat' (first | assumption | refine ite_state ?_ ?_ | apply keeps_updMod | apply keeps_answerSender | apply foldl_memOk | apply memOk_getCore | apply memOk_getCluster | apply memOk_getMod | apply memOk_getPart | apply memOk_focusCore | simp only [same_state, same_core, same_cluster, same_die, same_mod] | intro _ | split )
theorem keeps_fireZero {x0 : Nat} {x1 : Nat} {x2 : Nat} {x3 : GOp} {x4 : GSlot} {x5 : State} (h5 : State.memOk x5) :
    State.memOk (fireZero x0 x1 x2 x3 x4 x5).1 := by
  unfold fireZero
  try dsimp only
  with_reducible repeat' (first | assumption | refine ite_state ?_ ?_ | apply keeps_updGraph | apply keeps_flushOp | apply foldl_memOk | apply memOk_getCore | apply memOk_getCluster | apply memOk_getMod | apply memOk_getPart | apply memOk_focusCore | simp only [same_state, same_core, same_cluster, same_die, same_mod] | intro _ | split )
theorem keeps_fireZero_eq {x0 : Nat} {x1 : Nat} {x2 : Nat} {x3 : GOp} {x4 : GSlot} {x5 : State} {t : State} {u : Fired} (e : (fireZero x0 x1 x2 x3 x4 x5) = (t, u)) (h5 : State.memOk x5) : State.memOk t := fst_keeps e (keeps_fireZero h5)
theorem keeps_fireEffect {x0 x1 x2 : Nat} {x3 : GOp} {x4 : State} (h4 : State.memOk x4) :
    State.memOk (fireEffect x0 x1 x2 x3 x4).1 := by
  unfold fireEffect
  try dsimp only
  with_reducible repeat' (first | assumption | apply keeps_acceptReq | apply keeps_updGraph | apply keeps_sendTo | apply keeps_fireZero | split)
theorem keeps_fireEffect_eq {x0 x1 x2 : Nat} {x3 : GOp} {x4 t : State} {u : Fired} (e : (fireEffect x0 x1 x2 x3 x4) = (t, u)) (h4 : State.memOk x4) :
    State.memOk t := fst_keeps e (keeps_fireEffect h4)
theorem keeps_failFired {x0 : Nat} {x1 : Nat} {x2 : Nat} {x3 : Option Nat} {x4 : State} (h4 : State.memOk x4) :
    State.memOk (failFired x0 x1 x2 x3 x4) := by
  unfold failFired
  try dsimp only
  with_reducible repeat' (first | assumption | refine ite_state ?_ ?_ | refine keeps_openValue_eq (by assumption) ?_ | apply keeps_openValue | apply keeps_updGraph | apply foldl_memOk | apply memOk_getCore | apply memOk_getCluster | apply memOk_getMod | apply memOk_getPart | apply memOk_focusCore | simp only [same_state, same_core, same_cluster, same_die, same_mod] | intro _ | split )
theorem keeps_fireOps {x0 x1 x2 : Nat} {x3 : List Nat} {x4 : State} (h4 : State.memOk x4) : State.memOk (fireOps x0 x1 x2 x3 x4) := by
  induction x2 generalizing x3 x4 with
  | zero => unfold fireOps; exact h4
  | succ n ih =>
    cases x3 with
    | nil => unfold fireOps; exact h4
    | cons i rest =>
      unfold fireOps
      split
      · exact h4
      · split
        · exact h4
        · split
          · exact ih h4
          · next o ho =>
            have hk := keeps_fireEffect (x0 := x0) (x1 := x1) (x2 := i) (x3 := o) (keeps_countCluster (x1 := x0) (x2 := 0x0A) (x3 := 1) (keeps_updGraph (x1 := x0) (x2 := x1) (x3 := fun x => x.mark i .fired) h4))
            dsimp only
            split
            · next e => rw [e] at hk; exact ih hk
            · next e => rw [e] at hk; exact keeps_failFired hk
            · next e => rw [e] at hk; exact ih (keeps_updGraph hk)
theorem keeps_incrementSlot {x0 x1 : Nat} {x2 x3 : Nat} {x4 : State} (h4 : State.memOk x4) :
    State.memOk (incrementSlot x0 x1 x2 x3 x4) := by
  unfold incrementSlot
  with_reducible repeat' (first | assumption | apply keeps_updGraph | apply keeps_fireOps | split)
theorem keeps_refuseSender {x0 : Nat × Nat × Nat} {x1 : State} (h1 : State.memOk x1) :
    State.memOk (refuseSender x0 x1) := by
  unfold refuseSender
  try dsimp only
  with_reducible repeat' (first | assumption | refine ite_state ?_ ?_ | refine keeps_openValue_eq (by assumption) ?_ | apply keeps_openValue | apply keeps_answerSender | apply foldl_memOk | apply memOk_getCore | apply memOk_getCluster | apply memOk_getMod | apply memOk_getPart | apply memOk_focusCore | apply wf_regs | apply wf_ra | apply wf_raNone | apply wf_scratch | apply wf_codeOld | apply wf_hbm | apply wf_host | apply wf_saves | apply wf_parts | apply Mem.write_wf | simp only [mk_state, mk_core, mk_cluster, mk_mod] | apply And.intro | intro _ | split )
theorem keeps_completeOp {x0 x1 : Nat} {x2 x3 : Nat} {x4 : State} (h4 : State.memOk x4) :
    State.memOk (completeOp x0 x1 x2 x3 x4) := by
  unfold completeOp
  try dsimp only
  with_reducible repeat' (first | assumption | apply keeps_updGraph | apply keeps_incrementSlot | apply keeps_flushOp | split)
theorem keeps_noteMoved {x0 x1 : Nat} {x2 : State} (h2 : State.memOk x2) :
    State.memOk (noteMoved x0 x1 x2) := by
  unfold noteMoved
  with_reducible repeat' (first | assumption | apply keeps_updGraph)
theorem keeps_takeSignal {x0 : Nat} {x1 : Signal} {x2 : State} (h2 : State.memOk x2) :
    State.memOk (takeSignal x0 x1 x2) := by
  unfold takeSignal
  try dsimp only
  with_reducible repeat' (first | assumption | refine ite_state ?_ ?_ | apply keeps_refuseSender | apply keeps_answerSender | apply keeps_incrementSlot | apply foldl_memOk | apply memOk_getCore | apply memOk_getCluster | apply memOk_getMod | apply memOk_getPart | apply memOk_focusCore | simp only [same_state, same_core, same_cluster, same_die, same_mod] | intro _ | split )
theorem keeps_holdSignal {x0 : Nat} {x1 : Signal} {x2 : State} (h2 : State.memOk x2) :
    State.memOk (holdSignal x0 x1 x2) := by
  unfold holdSignal
  try dsimp only
  with_reducible repeat' (first | assumption | refine ite_state ?_ ?_ | apply keeps_updMod | refine keeps_openAny_eq (by assumption) ?_ | apply keeps_openAny | refine keeps_newId_eq (by assumption) ?_ | apply keeps_newId | apply foldl_memOk | apply memOk_getCore | apply memOk_getCluster | apply memOk_getMod | apply memOk_getPart | apply memOk_focusCore | simp only [same_state, same_core, same_cluster, same_die, same_mod] | intro _ | split )
theorem keeps_signalArrives {x0 : Nat} {x1 : Signal} {x2 : State} (h2 : State.memOk x2) :
    State.memOk (signalArrives x0 x1 x2) := by
  unfold signalArrives
  try dsimp only
  with_reducible repeat' (first | assumption | refine ite_state ?_ ?_ | apply keeps_holdSignal | apply keeps_takeSignal | apply keeps_answerSender | apply keeps_countErr | apply foldl_memOk | apply memOk_getCore | apply memOk_getCluster | apply memOk_getMod | apply memOk_getPart | apply memOk_focusCore | simp only [same_state, same_core, same_cluster, same_die, same_mod] | intro _ | split )
theorem keeps_dropContribution {x0 : Nat} {x1 : Contribution} {x2 : State} (h2 : State.memOk x2) :
    State.memOk (dropContribution x0 x1 x2) := by
  unfold dropContribution
  with_reducible repeat' (first | assumption | apply keeps_updMod | simp only [same_state, same_core, same_cluster, same_die, same_mod] | intro _)
theorem keeps_skipDead {x0 : State} {x1 : Nat} {x2 : Nat} {x3 : Nat} {x4 : GOp} (h0 : State.memOk x0) :
    State.memOk (skipDead x0 x1 x2 x3 x4) := by
  unfold skipDead
  try dsimp only
  with_reducible repeat' (first | assumption | refine ite_state ?_ ?_ | apply keeps_updMod | apply keeps_getCluster | apply keeps_updGraph | apply foldl_memOk | apply memOk_getCore | apply memOk_getCluster | apply memOk_getMod | apply memOk_getPart | apply memOk_focusCore | simp only [same_state, same_core, same_cluster, same_die, same_mod] | intro _ | split )
theorem keeps_physWrite {x0 : Nat} {x1 : Nat} {x2 : List Nat} {x3 : State} (h3 : State.memOk x3) :
    State.memOk (physWrite x0 x1 x2 x3) := by
  unfold physWrite
  try dsimp only
  with_reducible repeat' (first | assumption | refine ite_state ?_ ?_ | apply keeps_updMod | apply keeps_Module_countBytes | apply foldl_memOk | apply memOk_getCore | apply memOk_getCluster | apply memOk_getMod | apply memOk_getPart | apply memOk_focusCore | apply wf_regs | apply wf_ra | apply wf_raNone | apply wf_scratch | apply wf_codeOld | apply wf_hbm | apply wf_host | apply wf_saves | apply wf_parts | apply Mem.write_wf | simp only [mk_state, mk_core, mk_cluster, mk_mod] | apply And.intro | intro _ | split )
theorem keeps_countHbm {x0 : Nat} {x1 : Nat} {x2 : State} (h2 : State.memOk x2) :
    State.memOk (countHbm x0 x1 x2) := by
  unfold countHbm
  try dsimp only
  with_reducible repeat' (first | assumption | refine ite_state ?_ ?_ | apply keeps_countErr | apply foldl_memOk | apply memOk_getCore | apply memOk_getCluster | apply memOk_getMod | apply memOk_getPart | apply memOk_focusCore | simp only [same_state, same_core, same_cluster, same_die, same_mod] | intro _ | split )
theorem keeps_countHbmRead {x0 : List (Nat × Nat × Nat)} {x1 : State} (h1 : State.memOk x1) :
    State.memOk (countHbmRead x0 x1) := by
  unfold countHbmRead
  try dsimp only
  with_reducible repeat' (first | assumption | refine ite_state ?_ ?_ | apply keeps_countBytes | apply foldl_memOk | apply memOk_getCore | apply memOk_getCluster | apply memOk_getMod | apply memOk_getPart | apply memOk_focusCore | simp only [same_state, same_core, same_cluster, same_die, same_mod] | intro _ | split )
theorem keeps_applyContribution {x0 x1 x2 : Nat} {x3 : GOp} {x4 : List PageMap} {x5 : Nat} {x6 : Contribution} {x7 : State} (h7 : State.memOk x7) :
    State.memOk (applyContribution x0 x1 x2 x3 x4 x5 x6 x7) := by
  unfold applyContribution
  dsimp only
  split
  · exact keeps_answerSender (keeps_completeOp h7)
  · split
    · exact keeps_answerSender (keeps_completeOp (keeps_updMod (fun _ h => h) (keeps_countErr h7)))
    · split
      · exact keeps_answerSender (keeps_countMod (keeps_updGraph h7))
      · split
        · exact keeps_answerSender (keeps_completeOp (keeps_countHbm h7))
        · exact keeps_answerSender (keeps_countMod (keeps_updGraph (keeps_countHbmRead
            (foldl_keeps (P := fun x : State × List Nat => x.1.memOk) (fun x p hx => keeps_physWrite hx) h7))))
theorem keeps_foldRun {x0 x1 x2 x3 : Nat} {x4 : State} (h4 : State.memOk x4) : State.memOk (foldRun x0 x1 x2 x3 x4) := by
  induction x3 generalizing x4 with
  | zero => unfold foldRun; exact h4
  | succ n ih =>
    unfold foldRun
    split
    · split
      · exact h4
      · split
        · exact h4
        · dsimp only
          split
          · exact keeps_completeOp (keeps_skipDead h4)
          · split
            · exact keeps_skipDead h4
            · exact ih (keeps_applyContribution (keeps_dropContribution (keeps_skipDead h4)))
    · exact h4
theorem keeps_foldNow {x0 : Nat} {x1 : Nat} {x2 : Nat} {x3 : State} (h3 : State.memOk x3) :
    State.memOk (foldNow x0 x1 x2 x3) := by
  unfold foldNow
  try dsimp only
  with_reducible repeat' (first | assumption | refine ite_state ?_ ?_ | apply keeps_getCluster | apply keeps_foldRun | apply foldl_memOk | apply memOk_getCore | apply memOk_getCluster | apply memOk_getMod | apply memOk_getPart | apply memOk_focusCore | simp only [same_state, same_core, same_cluster, same_die, same_mod] | intro _ | split )
theorem keeps_foldCluster {x0 : Nat} {x1 : State} (h1 : State.memOk x1) :
    State.memOk (foldCluster x0 x1) := by
  unfold foldCluster
  try dsimp only
  with_reducible repeat' (first | assumption | refine ite_state ?_ ?_ | apply keeps_foldNow | apply foldl_memOk | apply memOk_getCore | apply memOk_getCluster | apply memOk_getMod | apply memOk_getPart | apply memOk_focusCore | simp only [same_state, same_core, same_cluster, same_die, same_mod] | intro _ | split )
theorem keeps_contributionArrives {x0 : Nat} {x1 : Contribution} {x2 : State} (h2 : State.memOk x2) :
    State.memOk (contributionArrives x0 x1 x2) := by
  unfold contributionArrives
  try dsimp only
  with_reducible repeat' (first | assumption | refine ite_state ?_ ?_ | apply keeps_updMod | apply keeps_refuseSender | apply keeps_answerSender | apply keeps_foldNow | apply keeps_countErr | apply foldl_memOk | apply memOk_getCore | apply memOk_getCluster | apply memOk_getMod | apply memOk_getPart | apply memOk_focusCore | simp only [same_state, same_core, same_cluster, same_die, same_mod] | intro _ | split )
theorem keeps_takeHeld {x0 : Nat} {x1 : Nat} {x2 : State} (h2 : State.memOk x2) :
    State.memOk (takeHeld x0 x1 x2) := by
  unfold takeHeld
  try dsimp only
  with_reducible repeat' (first | assumption | refine ite_state ?_ ?_ | apply keeps_updMod | apply keeps_getCluster | apply keeps_getMod | apply keeps_takeSignal | apply keeps_refuseSender | apply foldl_memOk | apply memOk_getCore | apply memOk_getCluster | apply memOk_getMod | apply memOk_getPart | apply memOk_focusCore | simp only [same_state, same_core, same_cluster, same_die, same_mod] | intro _ | split )
theorem keeps_cgloadForm {x0 x1 x2 : Nat} {x3 : State} (h3 : State.memOk x3) :
    State.memOk (cgloadForm x0 x1 x2 x3) := by
  unfold cgloadForm
  try dsimp only
  with_reducible repeat' (first
    | assumption | apply keeps_raise | apply keeps_stallOn | apply keeps_unlessTagged | apply keeps_guarded | apply keeps_notInRa
    | apply keeps_notDraining | apply keeps_setWait | intro _ | split)
theorem keeps_cgrunForm {x0 x1 x2 : Nat} {x3 : State} (h3 : State.memOk x3) :
    State.memOk (cgrunForm x0 x1 x2 x3) := by
  unfold cgrunForm
  try dsimp only
  with_reducible repeat' (first
    | assumption | apply keeps_raise | apply keeps_stallOn | apply keeps_unlessTagged | apply keeps_guarded | apply keeps_notInRa
    | apply keeps_notDraining | apply keeps_setWait | intro _ | split)
theorem keeps_execCgload {x0 x1 x2 : Nat} {x3 : State} (h3 : State.memOk x3) :
    ∀ t, (execCgload x0 x1 x2 x3) = .next t → State.memOk t :=
  next_keeps (keeps_cgloadForm h3)
theorem keeps_execCgrun {x0 x1 x2 : Nat} {x3 : State} (h3 : State.memOk x3) :
    ∀ t, (execCgrun x0 x1 x2 x3) = .next t → State.memOk t :=
  next_keeps (keeps_cgrunForm h3)
theorem keeps_graphFault {x0 : Nat} {x1 : Nat} {x2 : Option Nat} {x3 : Nat} {x4 : List Loop} {x5 : List Trace} {x6 : Nat} {x7 : Nat} {x8 : State} (h8 : State.memOk x8) :
    State.memOk (graphFault x0 x1 x2 x3 x4 x5 x6 x7 x8) := by
  unfold graphFault
  try dsimp only
  with_reducible repeat' (first | assumption | refine ite_state ?_ ?_ | apply keeps_updCore | apply keeps_updFocus | apply keeps_consumeError | apply keeps_takeTrap | apply foldl_memOk | apply memOk_getCore | apply memOk_getCluster | apply memOk_getMod | apply memOk_getPart | apply memOk_focusCore | simp only [same_state, same_core, same_cluster, same_die, same_mod] | intro _ | split )
theorem keeps_loadImage {x0 x1 x2 x3 : Nat} {x4 : Option Nat} {x5 : Nat} {x6 : List Loop} {x7 : List Trace} {x8 : State} (h8 : State.memOk x8) :
    State.memOk (loadImage x0 x1 x2 x3 x4 x5 x6 x7 x8) := by
  unfold loadImage
  try simp only [openValue]
  with_reducible repeat' (first
    | assumption | apply keeps_updCore | apply keeps_updCluster | apply keeps_graphFault
    | simp only [same_state, same_core, same_cluster, same_die, same_mod] | intro _ | split)
theorem keeps_beginRun {x0 x1 x2 x3 : Nat} {x4 : Option Nat} {x5 : Nat} {x6 : List Loop} {x7 : List Trace} {x8 : State} (h8 : State.memOk x8) :
    State.memOk (beginRun x0 x1 x2 x3 x4 x5 x6 x7 x8) := by
  unfold beginRun
  with_reducible repeat' (first
    | assumption | apply keeps_updCore | apply keeps_updGraph | apply keeps_fireOps | apply keeps_takeHeld | apply keeps_graphFault
    | simp only [same_state, same_core, same_cluster, same_die, same_mod] | intro _ | split)
theorem keeps_dueWrite {x0 x1 : Nat} {x2 x3 x4 : Nat} {x5 : List Nat} {x6 : After} {x7 : State} (h7 : State.memOk x7) :
    State.memOk (dueWrite x0 x1 x2 x3 x4 x5 x6 x7) := by
  unfold dueWrite
  with_reducible repeat' (first
    | assumption | apply keeps_updCluster | apply wf_scratch | apply wf_codeOld | simp only [mk_cluster] | apply And.intro | intro _)
theorem keeps_execGraphRunFinish {x0 x1 : Nat} {x2 : State} (h2 : State.memOk x2) :
    ∀ t, (execGraphRunFinish x0 x1 x2) = .next t → State.memOk t := by
  intro t ht
  unfold execGraphRunFinish at ht
  injection ht with ht
  rw [← ht]
  with_reducible repeat' (first | assumption | apply keeps_updGraph | apply keeps_dueWrite | split)
theorem keeps_endRun {x0 x1 : Nat} {x2 : State} (h2 : State.memOk x2) :
    State.memOk (endRun x0 x1 x2) := by
  unfold endRun
  with_reducible repeat' (first
    | assumption | apply keeps_countErr | apply keeps_updGraph | simp only [same_state, same_core, same_cluster, same_die, same_mod] | split)
theorem keeps_afterGraph {x0 x1 x2 : Nat} {x3 : State} (h3 : State.memOk x3) :
    State.memOk (afterGraph x0 x1 x2 x3) := by
  unfold afterGraph
  with_reducible repeat' (first | assumption | apply keeps_dueWrite | apply keeps_endRun | split)
theorem keeps_execGraphSignalArrival {x0 : State} (h0 : State.memOk x0) :
    ∀ t, (execGraphSignalArrival x0) = .next t → State.memOk t := by
  intro t ht
  unfold execGraphSignalArrival at ht
  injection ht with ht
  rw [← ht]
  try dsimp only
  with_reducible repeat' (first | assumption | refine ite_state ?_ ?_ | apply keeps_signalArrives | apply keeps_landFlight | apply foldl_memOk | apply memOk_getCore | apply memOk_getCluster | apply memOk_getMod | apply memOk_getPart | apply memOk_focusCore | simp only [same_state, same_core, same_cluster, same_die, same_mod] | intro _ | split )
theorem keeps_execSignalRetry {x0 : State} (h0 : State.memOk x0) :
    ∀ t, (execSignalRetry x0) = .next t → State.memOk t := by
  intro t ht
  unfold execSignalRetry at ht
  injection ht with ht
  rw [← ht]
  try dsimp only
  with_reducible repeat' (first | assumption | refine ite_state ?_ ?_ | apply keeps_sendTo | apply keeps_landFlight | apply foldl_memOk | apply memOk_getCore | apply memOk_getCluster | apply memOk_getMod | apply memOk_getPart | apply memOk_focusCore | simp only [same_state, same_core, same_cluster, same_die, same_mod] | intro _ | split )
theorem keeps_execGraphOperationComplete {x0 : State} (h0 : State.memOk x0) :
    ∀ t, (execGraphOperationComplete x0) = .next t → State.memOk t := by
  intro t ht
  unfold execGraphOperationComplete at ht
  injection ht with ht
  rw [← ht]
  try dsimp only
  with_reducible repeat' (first | assumption | refine ite_state ?_ ?_ | apply keeps_getCluster | apply keeps_completeOp | apply keeps_landFlight | apply foldl_memOk | apply memOk_getCore | apply memOk_getCluster | apply memOk_getMod | apply memOk_getPart | apply memOk_focusCore | simp only [same_state, same_core, same_cluster, same_die, same_mod] | intro _ | split )

/-! ### The matrix family (Machine/Matrix.lean) -/

theorem keeps_recomputeSums {x0 : Core} (h0 : Core.memOk x0) :
    Core.memOk (recomputeSums x0) := by
  unfold recomputeSums
  with_reducible repeat' (first | assumption | simp only [same_state, same_core, same_cluster, same_die, same_mod])
theorem keeps_pushRow {x0 : Nat} {x1 : List Nat} {x2 : Core} (h2 : Core.memOk x2) :
    Core.memOk (pushRow x0 x1 x2) := by
  unfold pushRow
  with_reducible repeat' (first | assumption | apply keeps_recomputeSums | simp only [same_state, same_core, same_cluster, same_die, same_mod])
theorem keeps_shiftDown {x0 : Nat} {x1 : Core} (h1 : Core.memOk x1) :
    Core.memOk (shiftDown x0 x1) := by
  unfold shiftDown
  with_reducible repeat' (first | assumption | apply keeps_recomputeSums | simp only [same_state, same_core, same_cluster, same_die, same_mod])
theorem keeps_shiftAcross {x0 : Nat} {x1 : Core} (h1 : Core.memOk x1) :
    Core.memOk (shiftAcross x0 x1) := by
  unfold shiftAcross
  with_reducible repeat' (first | assumption | apply keeps_recomputeSums | simp only [same_state, same_core, same_cluster, same_die, same_mod])
theorem keeps_updFocusCore {x0 : State} {x1 : Core → Core} (h0 : State.memOk x0) (h1 : ∀ (y0 : Core), Core.memOk y0 → Core.memOk (x1 y0)) :
    State.memOk (updFocusCore x0 x1) := by
  unfold updFocusCore
  with_reducible repeat' (first | assumption | apply keeps_updCore)
theorem keeps_arrayForm {x0 : Nat} {x1 : State} {x2 : State → State} (h1 : State.memOk x1) (h2 : ∀ (y0 : State), State.memOk y0 → State.memOk (x2 y0)) :
    State.memOk (arrayForm x0 x1 x2) := by
  unfold arrayForm
  with_reducible repeat' (first | assumption | apply keeps_guarded | apply keeps_notInRa | intro _)
theorem keeps_mpushForm {x0 x1 : Nat} {x2 : Bool} {x3 : Nat} {x4 : State} (h4 : State.memOk x4) :
    State.memOk (mpushForm x0 x1 x2 x3 x4) := by
  unfold mpushForm
  with_reducible repeat' (first
    | assumption | apply keeps_unlessTagged | apply keeps_withSources | apply keeps_pushRow | apply keeps_updFocusCore | apply keeps_arrayForm
    | intro _)
theorem keeps_mfeedForm {x0 : Nat} {x1 : Bool} {x2 x3 x4 : Nat} {x5 : State} (h5 : State.memOk x5) :
    State.memOk (mfeedForm x0 x1 x2 x3 x4 x5) := by
  unfold mfeedForm
  with_reducible repeat' (first | assumption | apply keeps_countCore | apply keeps_post | apply keeps_withSources | apply keeps_arrayForm | intro _)
theorem keeps_mshiftDownForm {x0 x1 : Nat} {x2 : State} (h2 : State.memOk x2) :
    State.memOk (mshiftDownForm x0 x1 x2) := by
  unfold mshiftDownForm
  with_reducible repeat' (first | assumption | apply keeps_shiftDown | apply keeps_updFocusCore | apply keeps_arrayForm | intro _)
theorem keeps_mshiftAcrossForm {x0 x1 : Nat} {x2 : State} (h2 : State.memOk x2) :
    State.memOk (mshiftAcrossForm x0 x1 x2) := by
  unfold mshiftAcrossForm
  with_reducible repeat' (first | assumption | apply keeps_shiftAcross | apply keeps_updFocusCore | apply keeps_arrayForm | intro _)
theorem keeps_mzeroForm {x0 : Nat} {x1 : Nat} {x2 : Nat} {x3 : State} (h3 : State.memOk x3) :
    State.memOk (mzeroForm x0 x1 x2 x3) := by
  unfold mzeroForm
  try dsimp only
  with_reducible repeat' (first | assumption | refine ite_state ?_ ?_ | apply keeps_arrayForm | apply keeps_hardFirst | apply keeps_post | apply foldl_memOk | apply memOk_getCore | apply memOk_getCluster | apply memOk_getMod | apply memOk_getPart | apply memOk_focusCore | simp only [same_state, same_core, same_cluster, same_die, same_mod] | intro _ | split )
theorem keeps_mdrainForm {x0 : Nat} {x1 : Fmt} {x2 : Nat} {x3 : Nat} {x4 : Nat} {x5 : Nat} {x6 : State} (h6 : State.memOk x6) :
    State.memOk (mdrainForm x0 x1 x2 x3 x4 x5 x6) := by
  unfold mdrainForm
  try dsimp only
  with_reducible repeat' (first | assumption | refine ite_state ?_ ?_ | apply keeps_arrayForm | apply keeps_focusCore | apply keeps_hardFirst | apply keeps_consume | apply keeps_post | apply keeps_getCluster | apply keeps_countErr | apply keeps_countCore | apply foldl_memOk | apply memOk_getCore | apply memOk_getCluster | apply memOk_getMod | apply memOk_getPart | apply memOk_focusCore | simp only [same_state, same_core, same_cluster, same_die, same_mod] | intro _ | split )
theorem keeps_execMpush {x0 x1 : Nat} {x2 : Bool} {x3 : Nat} {x4 : State} (h4 : State.memOk x4) :
    ∀ t, (execMpush x0 x1 x2 x3 x4) = .next t → State.memOk t :=
  next_keeps (keeps_mpushForm h4)
theorem keeps_execMfeed {x0 : Nat} {x1 : Bool} {x2 x3 x4 : Nat} {x5 : State} (h5 : State.memOk x5) :
    ∀ t, (execMfeed x0 x1 x2 x3 x4 x5) = .next t → State.memOk t :=
  next_keeps (keeps_mfeedForm h5)
theorem keeps_execMshiftDown {x0 x1 : Nat} {x2 : State} (h2 : State.memOk x2) :
    ∀ t, (execMshiftDown x0 x1 x2) = .next t → State.memOk t :=
  next_keeps (keeps_mshiftDownForm h2)
theorem keeps_execMshiftAcross {x0 x1 : Nat} {x2 : State} (h2 : State.memOk x2) :
    ∀ t, (execMshiftAcross x0 x1 x2) = .next t → State.memOk t :=
  next_keeps (keeps_mshiftAcrossForm h2)
theorem keeps_execMdrain {x0 : Nat} {x1 : Fmt} {x2 x3 : Nat} {x4 x5 : Nat} {x6 : State} (h6 : State.memOk x6) :
    ∀ t, (execMdrain x0 x1 x2 x3 x4 x5 x6) = .next t → State.memOk t :=
  next_keeps (keeps_mdrainForm h6)
theorem keeps_execMzero {x0 x1 x2 : Nat} {x3 : State} (h3 : State.memOk x3) :
    ∀ t, (execMzero x0 x1 x2 x3) = .next t → State.memOk t :=
  next_keeps (keeps_mzeroForm h3)
theorem keeps_ksetForm {x0 : Nat} {x1 : Bool} {x2 x3 : Nat} {x4 : Int} {x5 : State} (h5 : State.memOk x5) :
    State.memOk (ksetForm x0 x1 x2 x3 x4 x5) := by
  unfold ksetForm
  with_reducible repeat' (first | assumption | apply keeps_post | apply keeps_arrayForm)
theorem keeps_kldForm {x0 : Nat} {x1 : Bool} {x2 x3 : Nat} {x4 : State} (h4 : State.memOk x4) :
    State.memOk (kldForm x0 x1 x2 x3 x4) := by
  unfold kldForm
  try dsimp only
  with_reducible repeat' (first
    | assumption | apply keeps_post | apply keeps_raise | apply keeps_unlessTagged | apply keeps_consume | apply keeps_arrayForm | intro _ | split)
theorem keeps_execKset {x0 : Nat} {x1 : Bool} {x2 x3 : Nat} {x4 : Int} {x5 : State} (h5 : State.memOk x5) :
    ∀ t, (execKset x0 x1 x2 x3 x4 x5) = .next t → State.memOk t :=
  next_keeps (keeps_ksetForm h5)
theorem keeps_execKld {x0 : Nat} {x1 : Bool} {x2 x3 : Nat} {x4 : State} (h4 : State.memOk x4) :
    ∀ t, (execKld x0 x1 x2 x3 x4) = .next t → State.memOk t :=
  next_keeps (keeps_kldForm h4)

/-! ### Traps, returns and system requests (Machine/Trap.lean) -/

theorem keeps_trapForm {x0 x1 : Nat} {x2 : State} (h2 : State.memOk x2) :
    State.memOk (trapForm x0 x1 x2) := by
  unfold trapForm
  with_reducible repeat' (first | assumption | apply keeps_guarded | apply keeps_notInRa | apply keeps_setECtl | intro _)
theorem keeps_brkpForm {x0 x1 : Nat} {x2 : State} (h2 : State.memOk x2) :
    State.memOk (brkpForm x0 x1 x2) := by
  unfold brkpForm
  with_reducible repeat' (first | assumption | refine ite_state ?_ ?_ | apply keeps_guarded | apply keeps_notInRa | apply keeps_setECtl | intro _)
theorem keeps_rteForm {x0 : Nat} {x1 : State} (h1 : State.memOk x1) :
    State.memOk (rteForm x0 x1) := by
  unfold rteForm
  try dsimp only
  with_reducible repeat' (first | assumption | apply keeps_raise | apply keeps_guarded | apply keeps_notInRa | apply keeps_setECtl | intro _ | split)
theorem keeps_execTrap {x0 x1 : Nat} {x2 : State} (h2 : State.memOk x2) :
    ∀ t, (execTrap x0 x1 x2) = .next t → State.memOk t :=
  next_keeps (keeps_trapForm h2)
theorem keeps_execBrkp {x0 x1 : Nat} {x2 : State} (h2 : State.memOk x2) :
    ∀ t, (execBrkp x0 x1 x2) = .next t → State.memOk t :=
  next_keeps (keeps_brkpForm h2)
theorem keeps_execRte {x0 : Nat} {x1 : State} (h1 : State.memOk x1) :
    ∀ t, (execRte x0 x1) = .next t → State.memOk t :=
  next_keeps (keeps_rteForm h1)
theorem keeps_ctopenForm {x0 x1 : Nat} {x2 : State} (h2 : State.memOk x2) :
    State.memOk (ctopenForm x0 x1 x2) := by
  unfold ctopenForm
  try dsimp only
  with_reducible repeat' (first
    | assumption | apply keeps_post | apply keeps_raise | apply keeps_unlessTagged | apply keeps_guarded | apply keeps_notInRa | intro _ | split)
theorem keeps_ctcloseForm {x0 : Nat} {x1 : State} (h1 : State.memOk x1) :
    State.memOk (ctcloseForm x0 x1) := by
  unfold ctcloseForm
  with_reducible repeat' (first | assumption | apply keeps_post | apply keeps_raise | apply keeps_guarded | apply keeps_notInRa | intro _ | split)
theorem keeps_execCtopen {x0 x1 : Nat} {x2 : State} (h2 : State.memOk x2) :
    ∀ t, (execCtopen x0 x1 x2) = .next t → State.memOk t :=
  next_keeps (keeps_ctopenForm h2)
theorem keeps_execCtclose {x0 : Nat} {x1 : State} (h1 : State.memOk x1) :
    ∀ t, (execCtclose x0 x1) = .next t → State.memOk t :=
  next_keeps (keeps_ctcloseForm h1)
theorem keeps_liveForm {x0 x1 : Nat} {x2 : State} (h2 : State.memOk x2) :
    State.memOk (liveForm x0 x1 x2) := by
  unfold liveForm
  try dsimp only
  with_reducible repeat' (first
    | assumption | apply keeps_raise | apply keeps_unlessTagged | apply keeps_guarded | apply keeps_notInRa | apply keeps_setECtl | intro _ | split)
theorem keeps_execLive {x0 x1 : Nat} {x2 : State} (h2 : State.memOk x2) :
    ∀ t, (execLive x0 x1 x2) = .next t → State.memOk t :=
  next_keeps (keeps_liveForm h2)
theorem keeps_updQueue {x0 : State} {x1 x2 : Nat} {x3 : Queue → Queue} (h0 : State.memOk x0) :
    State.memOk (updQueue x0 x1 x2 x3) := by
  unfold updQueue
  with_reducible repeat' (first | assumption | apply keeps_updMod | simp only [same_state, same_core, same_cluster, same_die, same_mod] | intro _)
theorem keeps_requestPreempt {x0 : Nat} {x1 : State} (h1 : State.memOk x1) :
    State.memOk (requestPreempt x0 x1) := by
  unfold requestPreempt
  with_reducible repeat' (first
    | assumption | apply keeps_updCluster | apply wf_scratch | apply wf_codeOld | simp only [mk_cluster] | apply And.intro | intro _ | split)
theorem keeps_sysYieldForm {x0 : Nat} {x1 : State} (h1 : State.memOk x1) :
    State.memOk (sysYieldForm x0 x1) := by
  unfold sysYieldForm
  try dsimp only
  with_reducible repeat' (first
    | assumption | apply keeps_guarded | apply keeps_notInRa | apply keeps_notDraining | apply keeps_requestPreempt | intro _ | split)
theorem keeps_sysSubmitForm {x0 x1 : Nat} {x2 : State} (h2 : State.memOk x2) :
    State.memOk (sysSubmitForm x0 x1 x2) := by
  unfold sysSubmitForm
  try dsimp only
  with_reducible repeat' (first
    | assumption | apply keeps_raise | apply keeps_stallOn | apply keeps_hardFaults | apply keeps_unlessTagged | apply keeps_guarded
    | apply keeps_notInRa | apply keeps_notDraining | apply keeps_consume | apply keeps_updQueue | intro _ | split)
theorem keeps_sysNotifyForm {x0 x1 : Nat} {x2 : State} (h2 : State.memOk x2) :
    State.memOk (sysNotifyForm x0 x1 x2) := by
  unfold sysNotifyForm
  with_reducible repeat' (first
    | assumption | apply keeps_unlessTagged | apply keeps_guarded | apply keeps_notInRa | apply keeps_notDraining
    | simp only [same_state, same_core, same_cluster, same_die, same_mod] | intro _)
theorem keeps_execSysYield {x0 x1 : Nat} {x2 : State} (h2 : State.memOk x2) :
    ∀ t, (execSysYield x0 x1 x2) = .next t → State.memOk t :=
  next_keeps (keeps_sysYieldForm h2)
theorem keeps_execSysSubmit {x0 x1 : Nat} {x2 : State} (h2 : State.memOk x2) :
    ∀ t, (execSysSubmit x0 x1 x2) = .next t → State.memOk t :=
  next_keeps (keeps_sysSubmitForm h2)
theorem keeps_execSysNotify {x0 x1 : Nat} {x2 : State} (h2 : State.memOk x2) :
    ∀ t, (execSysNotify x0 x1 x2) = .next t → State.memOk t :=
  next_keeps (keeps_sysNotifyForm h2)

/-! ### A syllable of a bundle (Machine/Slots.lean) -/

theorem keeps_slotExec {x0 : Instr} {x1 : State} (h1 : State.memOk x1) : ∀ t, slotExec x0 x1 = .next t → State.memOk t := by
  intro t
  cases x0
  case add => intro ht; exact keeps_execAdd h1 t ht
  case sub => intro ht; exact keeps_execSub h1 t ht
  case mul => intro ht; exact keeps_execMul h1 t ht
  case mulh => intro ht; exact keeps_execMulh h1 t ht
  case and => intro ht; exact keeps_execAnd h1 t ht
  case or => intro ht; exact keeps_execOr h1 t ht
  case xor => intro ht; exact keeps_execXor h1 t ht
  case shl => intro ht; exact keeps_execShl h1 t ht
  case shr => intro ht; exact keeps_execShr h1 t ht
  case sra => intro ht; exact keeps_execSra h1 t ht
  case min => intro ht; exact keeps_execMin h1 t ht
  case max => intro ht; exact keeps_execMax h1 t ht
  case clz => intro ht; exact keeps_execClz h1 t ht
  case popc => intro ht; exact keeps_execPopc h1 t ht
  case addi => intro ht; exact keeps_execAddi h1 t ht
  case addiWide => intro ht; exact keeps_execAddiWide h1 t ht
  case movi => intro ht; exact keeps_execMovi h1 t ht
  case moviWide => intro ht; exact keeps_execMoviWide h1 t ht
  case movhi => intro ht; exact keeps_execMovhi h1 t ht
  case sext => intro ht; exact keeps_execSext h1 t ht
  case zext => intro ht; exact keeps_execZext h1 t ht
  case bfx => intro ht; exact keeps_execBfx h1 t ht
  case bfi => intro ht; exact keeps_execBfi h1 t ht
  case madd => intro ht; exact keeps_execMadd h1 t ht
  case sld => intro ht; exact keeps_execSld h1 t ht
  case sldWide => intro ht; exact keeps_execSldWide h1 t ht
  case sst => intro ht; exact keeps_execSst h1 t ht
  case sstWide => intro ht; exact keeps_execSstWide h1 t ht
  case rdsys => intro ht; exact keeps_execRdsys h1 t ht
  case wrsys => intro ht; exact keeps_execWrsys h1 t ht
  case endOp => intro ht; exact keeps_execEndOp h1 t ht
  case br => intro ht; exact keeps_execBr h1 t ht
  case brWide => intro ht; exact keeps_execBrWide h1 t ht
  case brr => intro ht; exact keeps_execBrr h1 t ht
  case call => intro ht; exact keeps_execCall h1 t ht
  case callWide => intro ht; exact keeps_execCallWide h1 t ht
  case ret => intro ht; exact keeps_execRet h1 t ht
  case loop => intro ht; exact keeps_execLoop h1 t ht
  case loopWide => intro ht; exact keeps_execLoopWide h1 t ht
  case brk => intro ht; exact keeps_execBrk h1 t ht
  case cmp => intro ht; exact keeps_execCmp h1 t ht
  case cmpi => intro ht; exact keeps_execCmpi h1 t ht
  case cmpiWide => intro ht; exact keeps_execCmpiWide h1 t ht
  case fcmp => intro ht; exact keeps_execFcmp h1 t ht
  case pand => intro ht; exact keeps_execPand h1 t ht
  case por => intro ht; exact keeps_execPor h1 t ht
  case pxor => intro ht; exact keeps_execPxor h1 t ht
  case vany => intro ht; exact keeps_execVany h1 t ht
  case vall => intro ht; exact keeps_execVall h1 t ht
  case vadd => intro ht; exact keeps_execVadd h1 t ht
  case vaddExt => intro ht; exact keeps_execVaddExt h1 t ht
  case vsub => intro ht; exact keeps_execVsub h1 t ht
  case vsubExt => intro ht; exact keeps_execVsubExt h1 t ht
  case vmul => intro ht; exact keeps_execVmul h1 t ht
  case vmulExt => intro ht; exact keeps_execVmulExt h1 t ht
  case vmin => intro ht; exact keeps_execVmin h1 t ht
  case vminExt => intro ht; exact keeps_execVminExt h1 t ht
  case vmax => intro ht; exact keeps_execVmax h1 t ht
  case vmaxExt => intro ht; exact keeps_execVmaxExt h1 t ht
  case vand => intro ht; exact keeps_execVand h1 t ht
  case vandExt => intro ht; exact keeps_execVandExt h1 t ht
  case vor => intro ht; exact keeps_execVor h1 t ht
  case vorExt => intro ht; exact keeps_execVorExt h1 t ht
  case vxor => intro ht; exact keeps_execVxor h1 t ht
  case vxorExt => intro ht; exact keeps_execVxorExt h1 t ht
  case vshl => intro ht; exact keeps_execVshl h1 t ht
  case vshlExt => intro ht; exact keeps_execVshlExt h1 t ht
  case vshr => intro ht; exact keeps_execVshr h1 t ht
  case vshrExt => intro ht; exact keeps_execVshrExt h1 t ht
  case vsra => intro ht; exact keeps_execVsra h1 t ht
  case vsraExt => intro ht; exact keeps_execVsraExt h1 t ht
  case vfma => intro ht; exact keeps_execVfma h1 t ht
  case vfmaExt => intro ht; exact keeps_execVfmaExt h1 t ht
  case vfms => intro ht; exact keeps_execVfms h1 t ht
  case vfmsExt => intro ht; exact keeps_execVfmsExt h1 t ht
  case vperm => intro ht; exact keeps_execVperm h1 t ht
  case vpermExt => intro ht; exact keeps_execVpermExt h1 t ht
  case vslide => intro ht; exact keeps_execVslide h1 t ht
  case vabs => intro ht; exact keeps_execVabs h1 t ht
  case vabsExt => intro ht; exact keeps_execVabsExt h1 t ht
  case vneg => intro ht; exact keeps_execVneg h1 t ht
  case vnegExt => intro ht; exact keeps_execVnegExt h1 t ht
  case vmov => intro ht; exact keeps_execVmov h1 t ht
  case vmovExt => intro ht; exact keeps_execVmovExt h1 t ht
  case vexp2 => intro ht; exact keeps_execVexp2 h1 t ht
  case vexp2Ext => intro ht; exact keeps_execVexp2Ext h1 t ht
  case vlog2 => intro ht; exact keeps_execVlog2 h1 t ht
  case vlog2Ext => intro ht; exact keeps_execVlog2Ext h1 t ht
  case vrcp => intro ht; exact keeps_execVrcp h1 t ht
  case vrcpExt => intro ht; exact keeps_execVrcpExt h1 t ht
  case vrsq => intro ht; exact keeps_execVrsq h1 t ht
  case vrsqExt => intro ht; exact keeps_execVrsqExt h1 t ht
  case vtanh => intro ht; exact keeps_execVtanh h1 t ht
  case vtanhExt => intro ht; exact keeps_execVtanhExt h1 t ht
  case vsum => intro ht; exact keeps_execVsum h1 t ht
  case vsumExt => intro ht; exact keeps_execVsumExt h1 t ht
  case vmaxr => intro ht; exact keeps_execVmaxr h1 t ht
  case vmaxrExt => intro ht; exact keeps_execVmaxrExt h1 t ht
  case vcvt => intro ht; exact keeps_execVcvt h1 t ht
  case vcvtExt => intro ht; exact keeps_execVcvtExt h1 t ht
  case vsel => intro ht; exact keeps_execVsel h1 t ht
  case vselExt => intro ht; exact keeps_execVselExt h1 t ht
  case vcmp => intro ht; exact keeps_execVcmp h1 t ht
  case vcmpExt => intro ht; exact keeps_execVcmpExt h1 t ht
  case vsplat => intro ht; exact keeps_execVsplat h1 t ht
  case mpush => intro ht; exact keeps_execMpush h1 t ht
  case mfeed => intro ht; exact keeps_execMfeed h1 t ht
  case mshiftDown => intro ht; exact keeps_execMshiftDown h1 t ht
  case mshiftAcross => intro ht; exact keeps_execMshiftAcross h1 t ht
  case mdrain => intro ht; exact keeps_execMdrain h1 t ht
  case mzero => intro ht; exact keeps_execMzero h1 t ht
  case kset => intro ht; exact keeps_execKset h1 t ht
  case kld => intro ht; exact keeps_execKld h1 t ht
  case vwset => intro ht; exact keeps_execVwset h1 t ht
  case vwclr => intro ht; exact keeps_execVwclr h1 t ht
  case vwget => intro ht; exact keeps_execVwget h1 t ht
  case vld => intro ht; exact keeps_execVld h1 t ht
  case vldWide => intro ht; exact keeps_execVldWide h1 t ht
  case vst => intro ht; exact keeps_execVst h1 t ht
  case vstWide => intro ht; exact keeps_execVstWide h1 t ht
  case tsr => intro ht; exact keeps_execTsr h1 t ht
  case tsw => intro ht; exact keeps_execTsw h1 t ht
  case wsld => intro ht; exact keeps_execWsld h1 t ht
  case wsldWide => intro ht; exact keeps_execWsldWide h1 t ht
  case qbind => intro ht; exact keeps_execQbind h1 t ht
  case qbindNone => intro ht; exact keeps_execQbindNone (x2 := true) (x3 := 0)  h1 t ht
  case qadv => intro ht; exact keeps_execQadv h1 t ht
  case amoAdd => intro ht; exact keeps_execAmoAdd h1 t ht
  case amoMin => intro ht; exact keeps_execAmoMin h1 t ht
  case amoMax => intro ht; exact keeps_execAmoMax h1 t ht
  case amoSwap => intro ht; exact keeps_execAmoSwap h1 t ht
  case amoCas => intro ht; exact keeps_execAmoCas h1 t ht
  case vmovPop => intro ht; exact keeps_execVmovPop h1 t ht
  case vmovPush => intro ht; exact keeps_execVmovPush h1 t ht
  case cpy => intro ht; exact keeps_execCpy h1 t ht
  case cpyw => intro ht; exact keeps_execCpyw h1 t ht
  case pub => intro ht; exact keeps_execPub h1 t ht
  case acq => intro ht; exact keeps_execAcq h1 t ht
  case rel => intro ht; exact keeps_execRel h1 t ht
  case fenceCore => intro ht; exact keeps_execFenceCore h1 t ht
  case fenceCluster => intro ht; exact keeps_execFenceCluster h1 t ht
  case fenceModule => intro ht; exact keeps_execFenceModule h1 t ht
  case waita => intro ht; exact keeps_execWaita h1 t ht
  case gemv => intro ht; exact keeps_execGemv h1 t ht
  case cgload => intro ht; exact keeps_execCgload h1 t ht
  case cgrun => intro ht; exact keeps_execCgrun h1 t ht
  case abr => intro ht; exact keeps_execAbr h1 t ht
  case abrWide => intro ht; exact keeps_execAbrWide h1 t ht
  case agreeAnd => intro ht; exact keeps_execAgreeAnd h1 t ht
  case agreeOr => intro ht; exact keeps_execAgreeOr h1 t ht
  case agreeMin => intro ht; exact keeps_execAgreeMin h1 t ht
  case agreeMax => intro ht; exact keeps_execAgreeMax h1 t ht
  case agreeSum => intro ht; exact keeps_execAgreeSum h1 t ht
  case acall => intro ht; exact keeps_execAcall h1 t ht
  case xchk => intro ht; exact keeps_execXchk h1 t ht
  case tnow => intro ht; exact keeps_execTnow h1 t ht
  case waitt => intro ht; exact keeps_execWaitt h1 t ht
  case waittk => intro ht; exact keeps_execWaittk h1 t ht
  case tokget => intro ht; exact keeps_execTokget h1 t ht
  case tokrel => intro ht; exact keeps_execTokrel h1 t ht
  case cvget => intro ht; exact keeps_execCvget h1 t ht
  case cvsample => intro ht; exact keeps_execCvsample h1 t ht
  case live => intro ht; exact keeps_execLive h1 t ht
  case trap => intro ht; exact keeps_execTrap h1 t ht
  case rte => intro ht; exact keeps_execRte h1 t ht
  case brkp => intro ht; exact keeps_execBrkp h1 t ht
  case ctopen => intro ht; exact keeps_execCtopen h1 t ht
  case ctclose => intro ht; exact keeps_execCtclose h1 t ht
  case sysYield => intro ht; exact keeps_execSysYield (x1 := 0)  h1 t ht
  case sysSubmit => intro ht; exact keeps_execSysSubmit h1 t ht
  case sysNotify => intro ht; exact keeps_execSysNotify h1 t ht
  all_goals (intro ht; injection ht with ht; rw [← ht]; exact h1)

end Sys2Proof.Machine
end

