-- ==== Sys2Proof/Laws/KeepsMoves.lean ====
section
/-! SUPPORT. Sys2Proof/Laws/KeepsMoves.lean: every move of a core, of the engines and of the scheduler keeps every memory in the canonical form. -/

namespace Sys2Proof.Machine

set_option Elab.async false
set_option linter.unusedVariables false
set_option linter.unusedSimpArgs false

/-! ### The root arbiter (Machine/Root.lean) -/


theorem keeps_sendCall {x0 : Nat} {x1 : Nat} {x2 : Nat} {x3 : Nat} {x4 : Nat} {x5 : Nat} {x6 : List Nat} {x7 : State} (h7 : State.memOk x7) :
    State.memOk (sendCall x0 x1 x2 x3 x4 x5 x6 x7) := by
  unfold sendCall
  try dsimp only
  with_reducible repeat' (first | assumption | refine ite_state ?_ ?_ | refine keeps_openValue_eq (by assumption) ?_ | apply keeps_openValue | apply keeps_launchFlight | apply foldl_memOk | apply memOk_getCore | apply memOk_getCluster | apply memOk_getMod | apply memOk_getPart | apply memOk_focusCore | simp only [same_state, same_core, same_cluster, same_die, same_mod] | intro _ | split )
theorem keeps_resolve {x0 : Nat} {x1 : Nat} {x2 : Nat} {x3 : Option Nat} {x4 : State} (h4 : State.memOk x4) :
    State.memOk (resolve x0 x1 x2 x3 x4) := by
  unfold resolve
  try dsimp only
  with_reducible repeat' (first | assumption | refine ite_state ?_ ?_ | refine keeps_openValue_eq (by assumption) ?_ | apply keeps_openValue | apply keeps_updJob | apply keeps_sendCall | apply foldl_memOk | apply memOk_getCore | apply memOk_getCluster | apply memOk_getMod | apply memOk_getPart | apply memOk_focusCore | simp only [same_state, same_core, same_cluster, same_die, same_mod] | intro _ | split )
theorem keeps_settle {x0 x1 : Nat} {x2 : State} (h2 : State.memOk x2) :
    State.memOk (settle x0 x1 x2) := by
  unfold settle
  with_reducible repeat' (first | assumption | apply keeps_resolve | split)
theorem keeps_finishPlaces {x0 : Nat} {x1 : Place → Bool} {x2 : State} (h2 : State.memOk x2) :
    State.memOk (finishPlaces x0 x1 x2) := by
  unfold finishPlaces
  with_reducible repeat' (first | assumption | apply foldl_memOk | apply keeps_updJob | apply keeps_settle | intro _)
theorem keeps_enterBid {x0 : Nat} {x1 : Nat} {x2 : Nat} {x3 : Nat} {x4 : Nat} {x5 : Bool} {x6 : Nat} {x7 : Int} {x8 : Nat} {x9 : Nat} {x10 : Bool} {x11 : State} (h11 : State.memOk x11) :
    State.memOk (enterBid x0 x1 x2 x3 x4 x5 x6 x7 x8 x9 x10 x11) := by
  unfold enterBid
  try dsimp only
  with_reducible repeat' (first | assumption | refine ite_state ?_ ?_ | apply keeps_updJob | apply foldl_memOk | apply memOk_getCore | apply memOk_getCluster | apply memOk_getMod | apply memOk_getPart | apply memOk_focusCore | simp only [same_state, same_core, same_cluster, same_die, same_mod] | intro _ | split )
theorem keeps_bidArrives {x0 : Nat} {x1 : Nat} {x2 : Nat} {x3 : Nat} {x4 : Bool} {x5 : Nat} {x6 : Nat} {x7 : Int} {x8 : Nat} {x9 : State} (h9 : State.memOk x9) :
    State.memOk (bidArrives x0 x1 x2 x3 x4 x5 x6 x7 x8 x9) := by
  unfold bidArrives
  try dsimp only
  with_reducible repeat' (first | assumption | refine ite_state ?_ ?_ | apply keeps_sendCall | apply keeps_enterBid | apply keeps_fireWave | apply keeps_settle | apply foldl_memOk | apply memOk_getCore | apply memOk_getCluster | apply memOk_getMod | apply memOk_getPart | apply memOk_focusCore | simp only [same_state, same_core, same_cluster, same_die, same_mod] | intro _ | split )
theorem keeps_execBidArrival {x0 : State} (h0 : State.memOk x0) :
    ∀ t, (execBidArrival x0) = .next t → State.memOk t := by
  intro t ht
  unfold execBidArrival at ht
  injection ht with ht
  rw [← ht]
  try dsimp only
  with_reducible repeat' (first | assumption | refine ite_state ?_ ?_ | apply keeps_bidArrives | apply keeps_landFlight | apply foldl_memOk | apply memOk_getCore | apply memOk_getCluster | apply memOk_getMod | apply memOk_getPart | apply memOk_focusCore | simp only [same_state, same_core, same_cluster, same_die, same_mod] | intro _ | split )
theorem keeps_execAgreementDeadlineExpiry {x0 x1 : Nat} {x2 : State} (h2 : State.memOk x2) :
    ∀ t, (execAgreementDeadlineExpiry x0 x1 x2) = .next t → State.memOk t := by
  intro t ht
  unfold execAgreementDeadlineExpiry at ht
  injection ht with ht
  rw [← ht]
  try dsimp only
  with_reducible repeat' (first | assumption | apply keeps_resolve | split)
theorem keeps_markFailed {x0 x1 : Nat} {x2 : State} (h2 : State.memOk x2) : State.memOk (markFailed x0 x1 x2) := by
  refine ⟨?_, h2.2⟩
  intro y hy
  obtain ⟨x, hx, rfl⟩ := List.mem_map.mp hy
  dsimp only
  split
  · exact h2.1 x hx
  · exact h2.1 x hx
theorem keeps_killMember {x0 : Nat} {x1 : Nat} {x2 : State} (h2 : State.memOk x2) :
    State.memOk (killMember x0 x1 x2) := by
  unfold killMember
  try dsimp only
  with_reducible repeat' (first | assumption | refine ite_state ?_ ?_ | apply keeps_updJob | apply keeps_settle | apply keeps_resolve | apply keeps_markFailed | apply foldl_memOk | apply memOk_getCore | apply memOk_getCluster | apply memOk_getMod | apply memOk_getPart | apply memOk_focusCore | simp only [same_state, same_core, same_cluster, same_die, same_mod] | intro _ | split )

/-! ### Issue of bundles, traps and fetch (Machine/Bundle.lean) -/

theorem keeps_askBlocks {x0 : Nat} {x1 : List Nat} {x2 : State} (h2 : State.memOk x2) :
    State.memOk (askBlocks x0 x1 x2) := by
  unfold askBlocks
  try simp only [openAny]
  with_reducible repeat' (first
    | assumption | apply keeps_updCore | apply foldl_memOk | simp only [same_state, same_core, same_cluster, same_die, same_mod] | intro _ | split)
theorem keeps_codeWords {x0 : Nat} {x1 : Nat} {x2 : State} (h2 : State.memOk x2) :
    State.memOk (codeWords x0 x1 x2).2 := by
  unfold codeWords
  try dsimp only
  with_reducible repeat' (first | assumption | refine ite_state ?_ ?_ | refine keeps_openValue_eq (by assumption) ?_ | apply keeps_openValue | apply foldl_memOk | apply memOk_getCore | apply memOk_getCluster | apply memOk_getMod | apply memOk_getPart | apply memOk_focusCore | apply wf_regs | apply wf_ra | apply wf_raNone | apply wf_scratch | apply wf_codeOld | apply wf_hbm | apply wf_host | apply wf_saves | apply wf_parts | apply Mem.write_wf | simp only [mk_state, mk_core, mk_cluster, mk_mod] | apply And.intro | intro _ | split )
theorem keeps_codeWords_eq {x0 : Nat} {x1 : Nat} {x2 : State} {t : State} {u : List Nat} (e : (codeWords x0 x1 x2) = (u, t)) (h2 : State.memOk x2) : State.memOk t := snd_keeps e (keeps_codeWords h2)
theorem keeps_cached {x0 x1 x2 : Nat} {x3 : State} (h3 : State.memOk x3) :
    State.memOk (cached x0 x1 x2 x3).2 := by
  unfold cached
  try dsimp only
  with_reducible repeat' (first | assumption | apply keeps_askBlocks | split)
theorem keeps_cached_eq {x0 x1 x2 : Nat} {x3 t : State} {u : Option Stall} (e : (cached x0 x1 x2 x3) = (u, t)) (h3 : State.memOk x3) :
    State.memOk t := snd_keeps e (keeps_cached h3)
theorem keeps_fetchAt {x0 : Nat} {x1 : Nat} {x2 : Bool} {x3 : State} (h3 : State.memOk x3) :
    State.memOk (fetchAt x0 x1 x2 x3).2 := by
  unfold fetchAt
  try dsimp only
  with_reducible repeat' (first | assumption | refine ite_state ?_ ?_ | apply keeps_updCore | refine keeps_cached_eq (by assumption) ?_ | apply keeps_cached | refine keeps_codeWords_eq (by assumption) ?_ | apply keeps_codeWords | apply foldl_memOk | apply memOk_getCore | apply memOk_getCluster | apply memOk_getMod | apply memOk_getPart | apply memOk_focusCore | simp only [same_state, same_core, same_cluster, same_die, same_mod] | intro _ | split )
theorem keeps_fetchAt_eq {x0 : Nat} {x1 : Nat} {x2 : Bool} {x3 : State} {t : State} {u : Fetched} (e : (fetchAt x0 x1 x2 x3) = (u, t)) (h3 : State.memOk x3) : State.memOk t := snd_keeps e (keeps_fetchAt h3)
theorem keeps_fillBlocks {x0 : Nat} {x1 : Nat → Bool} {x2 : Core} (h2 : Core.memOk x2) :
    Core.memOk (fillBlocks x0 x1 x2) := by
  unfold fillBlocks
  try dsimp only
  with_reducible repeat' (first | assumption | refine ite_state ?_ ?_ | apply foldl_memOk | apply memOk_getCore | apply memOk_getCluster | apply memOk_getMod | apply memOk_getPart | apply memOk_focusCore | simp only [same_state, same_core, same_cluster, same_die, same_mod] | intro _ | split )
theorem keeps_fetchFillMove {x0 : Nat} {x1 : State} (h1 : State.memOk x1) :
    State.memOk (fetchFillMove x0 x1) := by
  unfold fetchFillMove
  try dsimp only
  with_reducible repeat' (first | assumption | refine ite_state ?_ ?_ | apply keeps_updCore | apply keeps_fillBlocks | apply keeps_clearMarks | apply foldl_memOk | apply memOk_getCore | apply memOk_getCluster | apply memOk_getMod | apply memOk_getPart | apply memOk_focusCore | simp only [same_state, same_core, same_cluster, same_die, same_mod] | intro _ | split )
theorem keeps_execFetchBlockFill {x0 : State} (h0 : State.memOk x0) :
    ∀ t, (execFetchBlockFill x0) = .next t → State.memOk t := by
  intro t ht
  unfold execFetchBlockFill at ht
  injection ht with ht
  rw [← ht]
  try dsimp only
  with_reducible repeat' (first | assumption | refine ite_state ?_ ?_ | apply keeps_fetchFillMove | apply foldl_memOk | apply memOk_getCore | apply memOk_getCluster | apply memOk_getMod | apply memOk_getPart | apply memOk_focusCore | simp only [same_state, same_core, same_cluster, same_die, same_mod] | intro _ | split )
theorem keeps_runSlot {x0 : State} {x1 : Slot × Instr} (h0 : State.memOk x0) : State.memOk (runSlot x0 x1) := by
  unfold runSlot
  split
  · next s' e => exact keeps_slotExec (keeps_updFocus h0) _ e
  · exact h0
theorem keeps_dropLink {x0 : Nat} {x1 : Nat} {x2 : State} (h2 : State.memOk x2) :
    State.memOk (dropLink x0 x1 x2) := by
  unfold dropLink
  try dsimp only
  with_reducible repeat' (first | assumption | refine ite_state ?_ ?_ | apply keeps_updCore | apply foldl_memOk | apply memOk_getCore | apply memOk_getCluster | apply memOk_getMod | apply memOk_getPart | apply memOk_focusCore | simp only [same_state, same_core, same_cluster, same_die, same_mod] | intro _ | split )
theorem keeps_waitOn {x0 : Nat} {x1 : Focus} {x2 : State} (h2 : State.memOk x2) :
    State.memOk (waitOn x0 x1 x2) := by
  unfold waitOn
  try dsimp only
  with_reducible repeat' (first | assumption | refine ite_state ?_ ?_ | apply keeps_updCore | apply foldl_memOk | apply memOk_getCore | apply memOk_getCluster | apply memOk_getMod | apply memOk_getPart | apply memOk_focusCore | simp only [same_state, same_core, same_cluster, same_die, same_mod] | intro _ | split )
theorem keeps_waveOn {x0 : Nat} {x1 : Nat} {x2 : Focus} {x3 : State} (h3 : State.memOk x3) :
    State.memOk (waveOn x0 x1 x2 x3) := by
  unfold waveOn
  try dsimp only
  with_reducible repeat' (first | assumption | refine ite_state ?_ ?_ | apply keeps_fireWave | apply foldl_memOk | apply memOk_getCore | apply memOk_getCluster | apply memOk_getMod | apply memOk_getPart | apply memOk_focusCore | simp only [same_state, same_core, same_cluster, same_die, same_mod] | intro _ | split )
theorem keeps_pushTrace {x0 : List Trace} {x1 : Core} (h1 : Core.memOk x1) :
    Core.memOk (pushTrace x0 x1) := h1
theorem keeps_noteStart {x0 : Nat} {x1 : State} (h1 : State.memOk x1) :
    State.memOk (noteStart x0 x1) := by
  unfold noteStart
  with_reducible repeat' (first | assumption | apply keeps_updLaunch)
theorem keeps_countIssue {x0 : Nat} {x1 : Nat} {x2 : State} (h2 : State.memOk x2) :
    State.memOk (countIssue x0 x1 x2) := by
  unfold countIssue
  try dsimp only
  with_reducible repeat' (first | assumption | refine ite_state ?_ ?_ | apply keeps_updCore | apply keeps_noteStart | apply keeps_updFocus | apply keeps_countCore | apply foldl_memOk | apply memOk_getCore | apply memOk_getCluster | apply memOk_getMod | apply memOk_getPart | apply memOk_focusCore | simp only [same_state, same_core, same_cluster, same_die, same_mod] | intro _ | split )
theorem keeps_issued {x0 : State} (h0 : State.memOk x0) :
    State.memOk (issued x0) := by
  unfold issued
  try dsimp only
  with_reducible repeat' (first | assumption | refine ite_state ?_ ?_ | apply keeps_updFocus | apply foldl_memOk | apply memOk_getCore | apply memOk_getCluster | apply memOk_getMod | apply memOk_getPart | apply memOk_focusCore | simp only [same_state, same_core, same_cluster, same_die, same_mod] | intro _ | split )
theorem keeps_stopGroup {x0 : Nat} {x1 : State} (h1 : State.memOk x1) :
    State.memOk (stopGroup x0 x1) := by
  unfold stopGroup
  with_reducible repeat' (first
    | assumption | apply keeps_updCluster | apply wf_scratch | apply wf_codeOld | simp only [mk_cluster] | apply And.intro | intro _ | split)
theorem keeps_endCore {x0 : Nat} {x1 : Core} (h1 : Core.memOk x1) :
    Core.memOk (endCore x0 x1) := h1
theorem keeps_placeCore {x0 : Next} {x1 x2 : Nat} {x3 : Wait} {x4 : Core} (h4 : Core.memOk x4) :
    Core.memOk (placeCore x0 x1 x2 x3 x4) := by
  unfold placeCore
  with_reducible repeat' (first
    | assumption | refine ite_core ?_ ?_ | apply keeps_endCore | simp only [same_state, same_core, same_cluster, same_die, same_mod])
theorem keeps_Core_unwound {x0 : Core} {x1 : Core} {x2 : Nat} (h0 : Core.memOk x0) (h1 : Core.memOk x1) :
    Core.memOk (Core.unwound x0 x1 x2) := by
  unfold Core.unwound
  try dsimp only
  with_reducible repeat' (first | assumption | refine ite_state ?_ ?_ | apply foldl_memOk | apply memOk_getCore | apply memOk_getCluster | apply memOk_getMod | apply memOk_getPart | apply memOk_focusCore | simp only [same_state, same_core, same_cluster, same_die, same_mod] | intro _ | split )
theorem keeps_unwindGroup {x0 : Nat} {x1 : Nat} {x2 : State} (h2 : State.memOk x2) :
    State.memOk (unwindGroup x0 x1 x2) := by
  unfold unwindGroup
  try dsimp only
  with_reducible repeat' (first | assumption | refine ite_state ?_ ?_ | apply keeps_updCore | apply keeps_updCluster | apply keeps_Core_unwound | apply foldl_memOk | apply memOk_getCore | apply memOk_getCluster | apply memOk_getMod | apply memOk_getPart | apply memOk_focusCore | simp only [same_state, same_core, same_cluster, same_die, same_mod] | intro _ | split )
theorem keeps_trapBundle {x0 x1 x2 : Nat} {x3 : Nat × Nat × Nat × Bool} {x4 : State} (h4 : State.memOk x4) :
    State.memOk (trapBundle x0 x1 x2 x3 x4) := by
  unfold trapBundle
  with_reducible repeat' (first
    | assumption | refine ite_state ?_ ?_ | apply keeps_fatalTrap | apply keeps_takeTrap | apply keeps_consumeError | apply keeps_stopGroup
    | apply keeps_unwindGroup)
theorem keeps_completeBundle {x0 x1 x2 x3 : Nat} {x4 : State} (h4 : State.memOk x4) : State.memOk (completeBundle x0 x1 x2 x3 x4) := by
  have hf : State.memOk (updFocus x4 fun f => { f with done := true }) := keeps_updFocus h4
  have hp : ∀ es, State.memOk (updCore (updFocus x4 fun f => { f with done := true }) x0 (pushTrace es)) :=
    fun es => keeps_updCore (fun c h => keeps_pushTrace h) hf
  have hra : ∀ (ra : RunAhead) (c d : Core), d.memOk → c.memOk → ra.shadow = d.regs → Core.memOk ({ c with ra := some ra } : Core) := by
    intro ra c d hd hc e
    refine ⟨hc.1, fun r hr => ?_⟩
    injection hr with hr
    rw [← hr, e]; exact hd.1
  unfold completeBundle
  dsimp only
  with_reducible repeat' (first
    | assumption | (refine hra _ _ (getCore x4 x0) (memOk_getCore h4 _) ?_ rfl) | apply keeps_updCore | apply keeps_traceCore | apply keeps_fireWave
    | apply keeps_Core_returnTrap | apply keeps_pushTrace | apply keeps_placeCore
    | simp only [same_state, same_core, same_cluster, same_die, same_mod] | intro _ | split)
theorem keeps_tryBundle {x0 x1 x2 x3 : Nat} {x4 : List (Slot × Instr)} {x5 : Option Sent} {x6 : State} (h6 : State.memOk x6) :
    State.memOk (tryBundle x0 x1 x2 x3 x4 x5 x6).1 := by
  unfold tryBundle
  dsimp only
  have h0 : State.memOk ({ x6 with focus := focusOn x0 x1 x2 x3 x5 } : State) := h6
  have h1 : ∀ l : List (Slot × Instr), State.memOk (l.foldl runSlot { x6 with focus := focusOn x0 x1 x2 x3 x5 }) := fun l => foldl_keeps (fun s a h => keeps_runSlot h) h0
  generalize hs1 : List.foldl runSlot { x6 with focus := focusOn x0 x1 x2 x3 x5 } _ = s1
  replace h1 : s1.memOk := hs1 ▸ h1 _
  generalize hs2 : List.foldl runSlot s1 _ = s2
  have h2 : s2.memOk := hs2 ▸ foldl_keeps (P := State.memOk) (fun s a h => keeps_runSlot h) h1
  split
  · exact h6
  · split
    · exact h6
    · split
      · exact keeps_issued (keeps_trapBundle (keeps_countIssue h6))
      · split
        · refine keeps_issued (keeps_trapBundle (keeps_countIssue (keeps_updCore (fun c h => keeps_pushTrace h) ?_)))
          split
          · exact h1
          · exact keeps_dropLink h1
        · split
          · refine keeps_issued (keeps_waitOn (keeps_trapBundle (keeps_waveOn (keeps_countIssue (keeps_updCore (fun c h => keeps_pushTrace h) ?_)))))
            split
            · exact h2
            · exact keeps_dropLink h2
          · refine keeps_issued (keeps_completeBundle (keeps_updCore (fun c h => ⟨h.1, fun r hr => ?_⟩) (keeps_countIssue h2)))
            obtain ⟨ra, hra, rfl⟩ := Option.map_eq_some_iff.mp hr
            exact h.2 ra hra
theorem keeps_resumeIfDue {x0 : Nat} {x1 : State} (h1 : State.memOk x1) :
    State.memOk (resumeIfDue x0 x1) := by
  unfold resumeIfDue
  with_reducible repeat' (first | assumption | apply keeps_updCore | apply keeps_Core_resumeHeld | intro _ | split)
theorem keeps_issueFetched {x0 : Nat} {x1 : Option Sent} {x2 : Fetched} {x3 : State} (h3 : State.memOk x3) :
    State.memOk (issueFetched x0 x1 x2 x3).1 := by
  unfold issueFetched
  try dsimp only
  with_reducible repeat' (first | assumption | refine ite_state ?_ ?_ | apply keeps_stopGroup | apply keeps_takeTrap | refine keeps_codeWords_eq (by assumption) ?_ | apply keeps_codeWords | apply keeps_trapBundle | apply keeps_countCoreErr | refine keeps_tryBundle_eq (by assumption) ?_ | apply keeps_tryBundle | apply foldl_memOk | apply memOk_getCore | apply memOk_getCluster | apply memOk_getMod | apply memOk_getPart | apply memOk_focusCore | simp only [same_state, same_core, same_cluster, same_die, same_mod] | intro _ | split )
theorem keeps_issueFetched_eq {x0 : Nat} {x1 : Option Sent} {x2 : Fetched} {x3 : State} {t : State} {u : Option Stall} (e : (issueFetched x0 x1 x2 x3) = (t, u)) (h3 : State.memOk x3) : State.memOk t := fst_keeps e (keeps_issueFetched h3)
theorem keeps_fetchNext {x0 : Nat} {x1 : Option Sent} {x2 : State} (h2 : State.memOk x2) :
    State.memOk (fetchNext x0 x1 x2).2 := by
  unfold fetchNext
  try dsimp only
  with_reducible repeat' (first | assumption | refine ite_state ?_ ?_ | refine keeps_fetchAt_eq (by assumption) ?_ | apply keeps_fetchAt | apply foldl_memOk | apply memOk_getCore | apply memOk_getCluster | apply memOk_getMod | apply memOk_getPart | apply memOk_focusCore | simp only [same_state, same_core, same_cluster, same_die, same_mod] | intro _ | split )
theorem keeps_fetchNext_eq {x0 : Nat} {x1 : Option Sent} {x2 : State} {t : State} {u : Fetched} (e : (fetchNext x0 x1 x2) = (u, t)) (h2 : State.memOk x2) : State.memOk t := snd_keeps e (keeps_fetchNext h2)
theorem keeps_attempt {x0 : Nat} {x1 : Option Sent} {x2 : State} (h2 : State.memOk x2) :
    State.memOk (attempt x0 x1 x2).1 := by
  unfold attempt
  try dsimp only
  with_reducible repeat' (first | assumption | refine ite_state ?_ ?_ | refine keeps_fetchNext_eq (by assumption) ?_ | apply keeps_fetchNext | apply keeps_resumeIfDue | refine keeps_issueFetched_eq (by assumption) ?_ | apply keeps_issueFetched | apply foldl_memOk | apply memOk_getCore | apply memOk_getCluster | apply memOk_getMod | apply memOk_getPart | apply memOk_focusCore | simp only [same_state, same_core, same_cluster, same_die, same_mod] | intro _ | split )
theorem keeps_attempt_eq {x0 : Nat} {x1 : Option Sent} {x2 : State} {t : State} {u : Option Stall} (e : (attempt x0 x1 x2) = (t, u)) (h2 : State.memOk x2) : State.memOk t := fst_keeps e (keeps_attempt h2)
theorem keeps_noteStall {x0 : Nat} {x1 : Stall} {x2 : State} (h2 : State.memOk x2) :
    State.memOk (noteStall x0 x1 x2) := by
  unfold noteStall
  with_reducible repeat' (first
    | assumption | apply keeps_updCore | apply keeps_countCore | simp only [same_state, same_core, same_cluster, same_die, same_mod] | intro _
    | split)
theorem keeps_issueAlone {x0 : Nat} {x1 : State} (h1 : State.memOk x1) :
    State.memOk (issueAlone x0 x1) := by
  unfold issueAlone
  with_reducible repeat' (first | assumption | apply keeps_noteWake | refine keeps_attempt_eq (by assumption) ?_ | apply keeps_noteStall | split)
theorem keeps_holdLines {x0 : Nat} {x1 : State} (h1 : State.memOk x1) :
    State.memOk (holdLines x0 x1) := by
  unfold holdLines
  try dsimp only
  with_reducible repeat' (first | assumption | refine ite_state ?_ ?_ | apply keeps_updCore | apply foldl_memOk | apply memOk_getCore | apply memOk_getCluster | apply memOk_getMod | apply memOk_getPart | apply memOk_focusCore | simp only [same_state, same_core, same_cluster, same_die, same_mod] | intro _ | split )
theorem keeps_holdGroup {x0 : Nat} {x1 : Nat} {x2 : Stall} {x3 : State} (h3 : State.memOk x3) :
    State.memOk (holdGroup x0 x1 x2 x3) := by
  unfold holdGroup
  try dsimp only
  with_reducible repeat' (first | assumption | refine ite_state ?_ ?_ | apply keeps_updCore | apply keeps_noteStall | apply keeps_holdLines | apply foldl_memOk | apply memOk_getCore | apply memOk_getCluster | apply memOk_getMod | apply memOk_getPart | apply memOk_focusCore | simp only [same_state, same_core, same_cluster, same_die, same_mod] | intro _ | split )
theorem keeps_sendBundle {x0 : Nat} {x1 : Nat} {x2 : Sent} {x3 : State} (h3 : State.memOk x3) :
    State.memOk (sendBundle x0 x1 x2 x3) := by
  unfold sendBundle
  try dsimp only
  with_reducible repeat' (first | assumption | refine ite_state ?_ ?_ | apply keeps_updCore | apply keeps_updCluster | apply foldl_memOk | apply memOk_getCore | apply memOk_getCluster | apply memOk_getMod | apply memOk_getPart | apply memOk_focusCore | simp only [same_state, same_core, same_cluster, same_die, same_mod] | intro _ | split )
theorem keeps_leadIssues {x0 : Nat} {x1 : State} (h1 : State.memOk x1) :
    State.memOk (leadIssues x0 x1).1 := by
  unfold leadIssues
  try dsimp only
  with_reducible repeat' (first | assumption | refine ite_state ?_ ?_ | apply keeps_updCluster | refine keeps_fetchNext_eq (by assumption) ?_ | apply keeps_fetchNext | apply keeps_resumeIfDue | refine keeps_issueFetched_eq (by assumption) ?_ | apply keeps_issueFetched | apply keeps_sendBundle | apply foldl_memOk | apply memOk_getCore | apply memOk_getCluster | apply memOk_getMod | apply memOk_getPart | apply memOk_focusCore | simp only [same_state, same_core, same_cluster, same_die, same_mod] | intro _ | split )
theorem keeps_leadIssues_eq {x0 : Nat} {x1 : State} {t : State} {u : Option (Nat × Stall)} (e : (leadIssues x0 x1) = (t, u)) (h1 : State.memOk x1) : State.memOk t := fst_keeps e (keeps_leadIssues h1)
theorem keeps_followersIssue {x0 : Nat} {x1 : List Nat} {x2 : State} (h2 : State.memOk x2) : State.memOk (followersIssue x0 x1 x2).1 := by
  induction x1 generalizing x2 with
  | nil => unfold followersIssue; exact h2
  | cons r rs ih =>
    unfold followersIssue
    dsimp only
    split
    · exact ih h2
    · next x hx =>
      split
      · exact h2
      · have ha := keeps_attempt (x0 := 8 * x0 + r) (x1 := some x) h2
        split
        · next s' st e => rw [e] at ha; exact keeps_setCore (memOk_getCore ha _) h2
        · next s' e =>
          rw [e] at ha
          apply ih
          split
          · exact ha
          · exact keeps_updCore (fun y hy => hy) ha
theorem keeps_followersIssue_eq {x0 : Nat} {x1 : List Nat} {x2 t : State} {u : Option (Nat × Stall)} (e : followersIssue x0 x1 x2 = (t, u)) (h2 : State.memOk x2) :
    State.memOk t := fst_keeps e (keeps_followersIssue h2)
theorem keeps_issueGroup {x0 : Nat} {x1 : State} (h1 : State.memOk x1) :
    State.memOk (issueGroup x0 x1) := by
  unfold issueGroup
  with_reducible repeat' (first
    | assumption | apply keeps_setCore | apply memOk_getCore | apply keeps_noteWake | apply keeps_holdGroup
    | refine keeps_leadIssues_eq (by assumption) ?_ | refine keeps_followersIssue_eq (by assumption) ?_ | split)
theorem keeps_returnGroup {x0 : Nat} {x1 : State} (h1 : State.memOk x1) :
    State.memOk (returnGroup x0 x1) := by
  unfold returnGroup
  with_reducible repeat' (first
    | assumption | apply keeps_updCore | apply keeps_updCluster | apply foldl_memOk
    | simp only [same_state, same_core, same_cluster, same_die, same_mod] | intro _)
theorem keeps_returnMove {x0 : Nat} {x1 : State} (h1 : State.memOk x1) :
    State.memOk (returnMove x0 x1) := by
  unfold returnMove
  try dsimp only
  with_reducible repeat' (first | assumption | refine ite_state ?_ ?_ | apply keeps_returnGroup | apply foldl_memOk | apply memOk_getCore | apply memOk_getCluster | apply memOk_getMod | apply memOk_getPart | apply memOk_focusCore | simp only [same_state, same_core, same_cluster, same_die, same_mod] | intro _ | split )
theorem keeps_execBroadcastGroupReturn {x0 : State} (h0 : State.memOk x0) :
    ∀ t, (execBroadcastGroupReturn x0) = .next t → State.memOk t := by
  intro t ht
  unfold execBroadcastGroupReturn at ht
  injection ht with ht
  rw [← ht]
  try dsimp only
  with_reducible repeat' (first | assumption | refine ite_state ?_ ?_ | apply keeps_returnMove | apply foldl_memOk | apply memOk_getCore | apply memOk_getCluster | apply memOk_getMod | apply memOk_getPart | apply memOk_focusCore | simp only [same_state, same_core, same_cluster, same_die, same_mod] | intro _ | split )
theorem keeps_holdCore {x0 : Nat} {x1 : State} (h1 : State.memOk x1) :
    State.memOk (holdCore x0 x1) := by
  unfold holdCore
  try dsimp only
  with_reducible repeat' (first | assumption | refine ite_state ?_ ?_ | apply keeps_updCore | apply foldl_memOk | apply memOk_getCore | apply memOk_getCluster | apply memOk_getMod | apply memOk_getPart | apply memOk_focusCore | simp only [same_state, same_core, same_cluster, same_die, same_mod] | intro _ | split )
theorem keeps_execStallWatchdogExpiry {x0 : State} (h0 : State.memOk x0) :
    ∀ t, (execStallWatchdogExpiry x0) = .next t → State.memOk t := by
  intro t ht
  unfold execStallWatchdogExpiry at ht
  dsimp only at ht
  injection ht with ht
  rw [← ht]
  with_reducible repeat' (first
    | assumption | refine ite_state ?_ ?_ | apply keeps_updCore | apply keeps_takeTrap | apply keeps_stopGroup
    | simp only [same_state, same_core, same_cluster, same_die, same_mod] | intro _)
theorem keeps_asyncMove {x0 : Nat} {x1 : State} (h1 : State.memOk x1) :
    State.memOk (asyncMove x0 x1) := by
  unfold asyncMove
  try dsimp only
  with_reducible repeat' (first | assumption | refine ite_state ?_ ?_ | apply keeps_updCore | apply keeps_stopGroup | apply keeps_takeTrap | apply foldl_memOk | apply memOk_getCore | apply memOk_getCluster | apply memOk_getMod | apply memOk_getPart | apply memOk_focusCore | simp only [same_state, same_core, same_cluster, same_die, same_mod] | intro _ | split )
theorem keeps_execAsyncTrap {x0 : State} (h0 : State.memOk x0) :
    ∀ t, (execAsyncTrap x0) = .next t → State.memOk t := by
  intro t ht
  unfold execAsyncTrap at ht
  injection ht with ht
  rw [← ht]
  try dsimp only
  with_reducible repeat' (first | assumption | refine ite_state ?_ ?_ | apply keeps_asyncMove | apply foldl_memOk | apply memOk_getCore | apply memOk_getCluster | apply memOk_getMod | apply memOk_getPart | apply memOk_focusCore | simp only [same_state, same_core, same_cluster, same_die, same_mod] | intro _ | split )
theorem keeps_execSequencerRetire {x0 : State} (h0 : State.memOk x0) :
    ∀ t, (execSequencerRetire x0) = .next t → State.memOk t := by
  intro t ht
  unfold execSequencerRetire at ht
  dsimp only at ht
  injection ht with ht
  rw [← ht]
  with_reducible repeat' (first
    | assumption | apply keeps_updCore | apply keeps_updCluster | apply keeps_finishPlaces
    | simp only [same_state, same_core, same_cluster, same_die, same_mod] | intro _ | split)

/-! ### Page walks (Machine/Walk.lean) -/

theorem keeps_useTlb {x0 x1 : Nat} {x2 : Tlb} {x3 : State} (h3 : State.memOk x3) :
    State.memOk (useTlb x0 x1 x2 x3) := by
  unfold useTlb
  with_reducible repeat' (first
    | assumption | apply keeps_updCluster | apply wf_scratch | apply wf_codeOld | simp only [mk_cluster] | apply And.intro | intro _)
theorem keeps_orEntry {x0 x1 x2 : Nat} {x3 : State} (h3 : State.memOk x3) :
    State.memOk (orEntry x0 x1 x2 x3) := by
  unfold orEntry
  with_reducible repeat' (first | assumption | apply keeps_physWrite)
theorem keeps_updFrame {x0 x1 : Nat} {x2 : Frame → Frame} {x3 : State} (h3 : State.memOk x3) :
    State.memOk (updFrame x0 x1 x2 x3) := by
  unfold updFrame
  with_reducible repeat' (first | assumption | apply keeps_updMod | simp only [same_state, same_core, same_cluster, same_die, same_mod] | intro _)
theorem keeps_lookup {x0 x1 : Nat} {x2 x3 x4 : Nat} {x5 : State} (h5 : State.memOk x5) :
    State.memOk (lookup x0 x1 x2 x3 x4 x5).1 := by
  unfold lookup
  with_reducible repeat' (first | assumption | apply keeps_useTlb | apply keeps_orEntry | split)
theorem keeps_lookup_eq {x0 x1 : Nat} {x2 x3 x4 : Nat} {x5 t : State} {u : (Walk ⊕ Tlb)} (e : (lookup x0 x1 x2 x3 x4 x5) = (t, u)) (h5 : State.memOk x5) :
    State.memOk t := fst_keeps e (keeps_lookup h5)
theorem keeps_pinPage {x0 x1 : Nat} {x2 x3 x4 : Nat} {x5 : State} (h5 : State.memOk x5) :
    ∀ t, (pinPage x0 x1 x2 x3 x4 x5) = some t → State.memOk t := by
  intro t
  unfold pinPage
  dsimp only
  split
  · intro e; injection e with e; exact e ▸ h5
  · split
    · intro e; injection e with e; exact e ▸ h5
    · split
      · intro e; cases e
      · intro e; injection e with e; rw [← e]; exact keeps_updReq (keeps_updFrame h5)
theorem keeps_markDirty {x0 : Nat} {x1 : Nat} {x2 : Nat} {x3 : Tlb} {x4 : State} (h4 : State.memOk x4) :
    State.memOk (markDirty x0 x1 x2 x3 x4) := by
  unfold markDirty
  try dsimp only
  with_reducible repeat' (first | assumption | refine ite_state ?_ ?_ | apply keeps_useTlb | apply keeps_orEntry | apply foldl_memOk | apply memOk_getCore | apply memOk_getCluster | apply memOk_getMod | apply memOk_getPart | apply memOk_focusCore | simp only [same_state, same_core, same_cluster, same_die, same_mod] | intro _ | split )
theorem keeps_findPage {x0 : Nat} {x1 : Nat} {x2 : Nat} {x3 : Nat} {x4 : Bool} {x5 : Bool} {x6 : State} (h6 : State.memOk x6) :
    State.memOk (findPage x0 x1 x2 x3 x4 x5 x6).1 := by
  unfold findPage
  try dsimp only
  with_reducible repeat' (first | assumption | refine ite_state ?_ ?_ | refine keeps_lookup_eq (by assumption) ?_ | apply keeps_lookup | apply foldl_memOk | apply memOk_getCore | apply memOk_getCluster | apply memOk_getMod | apply memOk_getPart | apply memOk_focusCore | simp only [same_state, same_core, same_cluster, same_die, same_mod] | intro _ | split )
theorem keeps_findPage_eq {x0 : Nat} {x1 : Nat} {x2 : Nat} {x3 : Nat} {x4 : Bool} {x5 : Bool} {x6 : State} {t : State} {u : Found} (e : (findPage x0 x1 x2 x3 x4 x5 x6) = (t, u)) (h6 : State.memOk x6) : State.memOk t := fst_keeps e (keeps_findPage h6)
theorem keeps_findRange {x0 : Nat} {x1 : Nat} {x2 : Nat} {x3 : Bool} {x4 : Bool} {x5 : Nat} {x6 : Nat} {x7 : Nat} {x8 : State} (h8 : State.memOk x8) :
    State.memOk (findRange x0 x1 x2 x3 x4 x5 x6 x7 x8).1 := by
  induction x5 generalizing x6 x7 x8 with
  | zero => unfold findRange; exact h8
  | succ f ih =>
    cases x7 with
    | zero => unfold findRange; exact h8
    | succ n => unfold findRange; exact ih (keeps_findPage h8)
theorem keeps_findRange_eq {x0 : Nat} {x1 : Nat} {x2 : Nat} {x3 : Bool} {x4 : Bool} {x5 : Nat} {x6 : Nat} {x7 : Nat} {x8 : State} {t : State} {u : List Found} (e : (findRange x0 x1 x2 x3 x4 x5 x6 x7 x8) = (t, u)) (h8 : State.memOk x8) : State.memOk t := fst_keeps e (keeps_findRange h8)
theorem keeps_pinPages {x0 : Nat} {x1 : Nat} {x2 : Nat} {x3 : List Found} {x4 : State} (h4 : State.memOk x4) :
    State.memOk (pinPages x0 x1 x2 x3 x4).1 := by
  induction x3 generalizing x4 with
  | nil => exact h4
  | cons f fs ih =>
    unfold pinPages
    split
    · split
      · next e => exact ih (keeps_pinPage h4 _ e)
      · exact h4
    · exact ih h4
theorem keeps_pinPages_eq {x0 : Nat} {x1 : Nat} {x2 : Nat} {x3 : List Found} {x4 : State} {t : State} {u : Bool} (e : (pinPages x0 x1 x2 x3 x4) = (t, u)) (h4 : State.memOk x4) : State.memOk t := fst_keeps e (keeps_pinPages h4)
theorem keeps_dirtyPages {x0 : Nat} {x1 : Nat} {x2 : List Found} {x3 : State} (h3 : State.memOk x3) :
    State.memOk (dirtyPages x0 x1 x2 x3) := by
  unfold dirtyPages
  try dsimp only
  with_reducible repeat' (first | assumption | refine ite_state ?_ ?_ | apply keeps_markDirty | apply foldl_memOk | apply memOk_getCore | apply memOk_getCluster | apply memOk_getMod | apply memOk_getPart | apply memOk_focusCore | simp only [same_state, same_core, same_cluster, same_die, same_mod] | intro _ | split )
theorem keeps_translatePages {x0 : Nat} {x1 : Nat} {x2 : Nat} {x3 : Nat} {x4 : List Found} {x5 : State} (h5 : State.memOk x5) :
    State.memOk (translatePages x0 x1 x2 x3 x4 x5).1 := by
  unfold translatePages
  try dsimp only
  with_reducible repeat' (first | assumption | refine ite_state ?_ ?_ | refine keeps_pinPages_eq (by assumption) ?_ | apply keeps_pinPages | apply keeps_dirtyPages | apply foldl_memOk | apply memOk_getCore | apply memOk_getCluster | apply memOk_getMod | apply memOk_getPart | apply memOk_focusCore | simp only [same_state, same_core, same_cluster, same_die, same_mod] | intro _ | split )
theorem keeps_translatePages_eq {x0 : Nat} {x1 : Nat} {x2 : Nat} {x3 : Nat} {x4 : List Found} {x5 : State} {t : State} {u : (List PageMap ⊕ Tr × Found)} (e : (translatePages x0 x1 x2 x3 x4 x5) = (t, u)) (h5 : State.memOk x5) : State.memOk t := fst_keeps e (keeps_translatePages h5)
theorem keeps_sendFault {x0 : Nat} {x1 : Nat} {x2 : List Nat} {x3 : State} (h3 : State.memOk x3) :
    State.memOk (sendFault x0 x1 x2 x3) := by
  unfold sendFault
  try dsimp only
  with_reducible repeat' (first | assumption | refine ite_state ?_ ?_ | apply keeps_updMod | refine keeps_openValue_eq (by assumption) ?_ | apply keeps_openValue | apply foldl_memOk | apply memOk_getCore | apply memOk_getCluster | apply memOk_getMod | apply memOk_getPart | apply memOk_focusCore | simp only [same_state, same_core, same_cluster, same_die, same_mod] | intro _ | split )
theorem keeps_flushList {x0 : Nat} {x1 : List (Nat × List Nat)} {x2 : List Nat} {x3 : State} (h3 : State.memOk x3) :
    State.memOk (flushList x0 x1 x2 x3) := by
  induction x1 generalizing x2 x3 with
  | nil => exact h3
  | cons r rs ih =>
    unfold flushList
    dsimp only
    split
    · exact ih (keeps_updMod (fun _ h => h) h3)
    · exact ih h3
theorem keeps_flushFaults {x0 : Nat} {x1 : State} (h1 : State.memOk x1) :
    State.memOk (flushFaults x0 x1) := by
  unfold flushFaults
  try dsimp only
  with_reducible repeat' (first | assumption | refine ite_state ?_ ?_ | apply keeps_updMod | apply keeps_flushList | apply foldl_memOk | apply memOk_getCore | apply memOk_getCluster | apply memOk_getMod | apply memOk_getPart | apply memOk_focusCore | simp only [same_state, same_core, same_cluster, same_die, same_mod] | intro _ | split )
theorem keeps_pauseReq {x0 : Nat} {x1 : Nat} {x2 : Nat} {x3 : Nat} {x4 : Nat} {x5 : Bool} {x6 : State} (h6 : State.memOk x6) :
    State.memOk (pauseReq x0 x1 x2 x3 x4 x5 x6) := by
  unfold pauseReq
  try dsimp only
  with_reducible repeat' (first | assumption | refine ite_state ?_ ?_ | apply keeps_updCluster | apply keeps_sendFault | apply keeps_updReq | apply foldl_memOk | apply memOk_getCore | apply memOk_getCluster | apply memOk_getMod | apply memOk_getPart | apply memOk_focusCore | simp only [same_state, same_core, same_cluster, same_die, same_mod] | intro _ | split )
theorem keeps_failReq {x0 x1 : Nat} {x2 x3 : Nat} {x4 : State} (h4 : State.memOk x4) :
    State.memOk (failReq x0 x1 x2 x3 x4) := by
  unfold failReq
  with_reducible repeat' (first | assumption | apply keeps_updReq)
theorem keeps_refuseReq {x0 : Nat} {x1 : Nat} {x2 : Nat} {x3 : Tr × Found} {x4 : State} (h4 : State.memOk x4) :
    State.memOk (refuseReq x0 x1 x2 x3 x4) := by
  unfold refuseReq
  try dsimp only
  with_reducible repeat' (first | assumption | refine ite_state ?_ ?_ | apply keeps_failReq | apply keeps_pauseReq | apply foldl_memOk | apply memOk_getCore | apply memOk_getCluster | apply memOk_getMod | apply memOk_getPart | apply memOk_focusCore | simp only [same_state, same_core, same_cluster, same_die, same_mod] | intro _ | split )
theorem keeps_syncPlace {x0 : Nat} {x1 : Nat} {x2 : State} (h2 : State.memOk x2) :
    State.memOk (syncPlace x0 x1 x2).1 := by
  unfold syncPlace
  try dsimp only
  with_reducible repeat' (first | assumption | refine ite_state ?_ ?_ | refine keeps_lookup_eq (by assumption) ?_ | apply keeps_lookup | apply foldl_memOk | apply memOk_getCore | apply memOk_getCluster | apply memOk_getMod | apply memOk_getPart | apply memOk_focusCore | simp only [same_state, same_core, same_cluster, same_die, same_mod] | intro _ | split )
theorem keeps_syncPlace_eq {x0 : Nat} {x1 : Nat} {x2 : State} {t : State} {u : Option (Nat × Tlb)} (e : (syncPlace x0 x1 x2) = (t, u)) (h2 : State.memOk x2) : State.memOk t := fst_keeps e (keeps_syncPlace h2)

/-! ### Landing of results (Machine/Land.lean) -/

theorem keeps_updStreamOf {x0 x1 : Nat} {x2 : Stream → Stream} {x3 : State} (h3 : State.memOk x3) :
    State.memOk (updStreamOf x0 x1 x2 x3) := by
  unfold updStreamOf
  with_reducible repeat' (first
    | assumption | apply keeps_updCore | simp only [same_state, same_core, same_cluster, same_die, same_mod] | intro _ | split)
theorem keeps_setLatches {x0 : List (Bool × Nat × Nat × Int)} {x1 : Core} (h1 : Core.memOk x1) :
    Core.memOk (setLatches x0 x1) := by
  exact foldl_keeps (P := Core.memOk) (fun c w h => ite_core h h) h1
theorem keeps_releaseWindow {x0 x1 : Nat} {x2 : Int} {x3 : State} (h3 : State.memOk x3) :
    State.memOk (releaseWindow x0 x1 x2 x3) := by
  unfold releaseWindow
  with_reducible repeat' (first
    | assumption | apply keeps_updMod | simp only [same_state, same_core, same_cluster, same_die, same_mod] | intro _ | split)
theorem keeps_landOne {x0 : Nat} {x1 : Regs} {x2 : Pend} {x3 : State} (h1 : Mem.wf (Regs.mem x1) = true) (h3 : State.memOk x3) :
    State.memOk (landOne x0 x1 x2 x3) := by
  unfold landOne
  split
  · exact keeps_updCore (fun c h => h) h3
  · exact keeps_updCore (fun c h => keeps_setLatches h) h3
  · exact keeps_updStreamOf h3
  · exact keeps_updCore (fun c h => keeps_Core_sysWrite h) h3
  · exact keeps_updCore (fun c h => h) h3
  · exact keeps_releaseWindow h3
  · refine keeps_updCore (fun c h => ⟨wf_land _ _ h.1, ?_⟩) (keeps_clearCovered h3)
    split
    · exact h.2
    · exact wf_raMap h.2 fun r h => wf_land _ _ h
theorem keeps_landAll {x0 : Nat} {x1 : Regs} {x2 : Nat} {x3 : List Pend} {x4 : State} (h1 : Mem.wf (Regs.mem x1) = true) (h4 : State.memOk x4) :
    State.memOk (landAll x0 x1 x2 x3 x4) := by
  induction x3 generalizing x1 x2 x4 with
  | nil => unfold landAll; exact h4
  | cons p ps ih =>
    unfold landAll
    dsimp only
    split
    · exact ih h1 (keeps_landOne h1 h4)
    · exact ih (wf_regs (memOk_getCore h4 _)) (keeps_landOne (wf_regs (memOk_getCore h4 _)) h4)
theorem keeps_landDue {x0 x1 : Nat} {x2 : State} (h2 : State.memOk x2) :
    State.memOk (landDue x0 x1 x2) := by
  unfold landDue
  with_reducible repeat' (first
    | assumption | apply keeps_updCore | apply memOk_getCore | apply wf_regs | apply keeps_landAll
    | simp only [same_state, same_core, same_cluster, same_die, same_mod] | intro _)
theorem keeps_asLanded {x0 : Nat} {x1 : Nat} {x2 : State} (h2 : State.memOk x2) :
    State.memOk (asLanded x0 x1 x2) := by
  unfold asLanded
  try dsimp only
  with_reducible repeat' (first | assumption | refine ite_state ?_ ?_ | apply keeps_landDue | apply foldl_memOk | apply memOk_getCore | apply memOk_getCluster | apply memOk_getMod | apply memOk_getPart | apply memOk_focusCore | simp only [same_state, same_core, same_cluster, same_die, same_mod] | intro _ | split )
theorem keeps_readDue {x0 x1 : Nat} {x2 : State} (h2 : State.memOk x2) :
    State.memOk (readDue x0 x1 x2) := by
  unfold readDue
  with_reducible repeat' (first
    | assumption | refine ite_state ?_ ?_ | apply keeps_updCore | apply keeps_countCore | apply keeps_countCluster
    | simp only [same_state, same_core, same_cluster, same_die, same_mod] | intro _)
theorem keeps_graphRead {x0 : Nat} {x1 : State} (h1 : State.memOk x1) :
    State.memOk (graphRead x0 x1) := by
  unfold graphRead
  split
  · next load slot ea t0 addr mask loops trace _ =>
    split
    · exact h1
    · cases load
      · have hf : State.memOk (beginRun x0 slot ea addr mask t0 loops trace x1) := keeps_beginRun h1
        simp only [if_true, Bool.false_eq_true, if_false]
        exact ite_state (keeps_stopGroup hf) hf
      · have hf : State.memOk (loadImage x0 slot ea addr mask t0 loops trace x1) := keeps_loadImage h1
        simp only [if_true, Bool.false_eq_true, if_false]
        exact ite_state (keeps_stopGroup hf) hf
  · exact h1
theorem keeps_resultLandMove {x0 : Nat} {x1 : State} (h1 : State.memOk x1) :
    State.memOk (resultLandMove x0 x1) := by
  unfold resultLandMove
  with_reducible repeat' (first | assumption | refine ite_state ?_ ?_ | apply keeps_landDue | apply keeps_readDue | apply keeps_graphRead)
theorem keeps_execResultLand {x0 : State} (h0 : State.memOk x0) :
    ∀ t, (execResultLand x0) = .next t → State.memOk t :=
  next_keeps (keeps_resultLandMove h0)
theorem keeps_performStore {x0 : Nat} {x1 : PStore} {x2 : List PStore} {x3 : State} (h3 : State.memOk x3) :
    State.memOk (performStore x0 x1 x2 x3) := by
  unfold performStore
  with_reducible repeat' (first
    | assumption | apply keeps_updCore | apply keeps_countCore | apply keeps_countCluster | apply keeps_scratchWrite
    | simp only [same_state, same_core, same_cluster, same_die, same_mod] | intro _ | split)
theorem keeps_performStores {x0 x1 : Nat} {x2 : List PStore} {x3 : State} (h3 : State.memOk x3) :
    State.memOk (performStores x0 x1 x2 x3) := by
  induction x2 generalizing x3 with
  | nil => unfold performStores; exact h3
  | cons p ps ih => unfold performStores; exact ih (ite_state (keeps_performStore h3) h3)
theorem keeps_storePerformMove {x0 x1 : Nat} {x2 : State} (h2 : State.memOk x2) :
    State.memOk (storePerformMove x0 x1 x2) := by
  unfold storePerformMove
  with_reducible repeat' (first
    | assumption | apply keeps_updCore | apply keeps_performStores | simp only [same_state, same_core, same_cluster, same_die, same_mod] | intro _)
theorem keeps_execStorePerform {x0 : State} (h0 : State.memOk x0) :
    ∀ t, (execStorePerform x0) = .next t → State.memOk t := by
  intro t ht
  unfold execStorePerform at ht
  injection ht with ht
  rw [← ht]
  with_reducible repeat' (first | assumption | refine ite_state ?_ ?_ | apply keeps_storePerformMove)
theorem keeps_fetchEntry {x0 : Nat} {x1 : Nat} {x2 : Stream} {x3 : State} (h3 : State.memOk x3) :
    State.memOk (fetchEntry x0 x1 x2 x3) := by
  unfold fetchEntry
  try dsimp only
  with_reducible repeat' (first | assumption | refine ite_state ?_ ?_ | apply keeps_updStreamOf | apply keeps_countCluster | apply keeps_countCoreErr | apply foldl_memOk | apply memOk_getCore | apply memOk_getCluster | apply memOk_getMod | apply memOk_getPart | apply memOk_focusCore | simp only [same_state, same_core, same_cluster, same_die, same_mod] | intro _ | split )
theorem keeps_writeEntry {x0 x1 : Nat} {x2 : Stream} {x3 : State} (h3 : State.memOk x3) :
    State.memOk (writeEntry x0 x1 x2 x3) := by
  unfold writeEntry
  with_reducible repeat' (first | assumption | apply keeps_scratchWrite | apply keeps_updStreamOf | split)
theorem keeps_unitMove {x0 x1 : Nat} {x2 : State} (h2 : State.memOk x2) :
    State.memOk (unitMove x0 x1 x2) := by
  unfold unitMove
  with_reducible repeat' (first | assumption | apply keeps_fetchEntry | apply keeps_writeEntry | split)
theorem keeps_execStreamUnitMove {x0 x1 : Nat} {x2 : State} (h2 : State.memOk x2) :
    ∀ t, (execStreamUnitMove x0 x1 x2) = .next t → State.memOk t := by
  intro t ht
  unfold execStreamUnitMove at ht
  injection ht with ht
  rw [← ht]
  with_reducible repeat' (first | assumption | refine ite_state ?_ ?_ | apply keeps_unitMove)
theorem keeps_wakeAt {x0 x1 : Nat} {x2 : State} (h2 : State.memOk x2) :
    State.memOk (wakeAt x0 x1 x2) := by
  unfold wakeAt
  with_reducible repeat' (first
    | assumption | apply keeps_updCore | apply keeps_noteWake | simp only [same_state, same_core, same_cluster, same_die, same_mod] | intro _)
theorem keeps_wakeWaita {x0 x1 : Nat} {x2 x3 : Nat} {x4 : State} (h4 : State.memOk x4) :
    State.memOk (wakeWaita x0 x1 x2 x3 x4) := by
  unfold wakeWaita
  with_reducible repeat' (first
    | assumption | apply keeps_updCore | apply keeps_wakeAt | simp only [same_state, same_core, same_cluster, same_die, same_mod] | intro _)
theorem keeps_waitaMove {x0 : Nat} {x1 : State} (h1 : State.memOk x1) :
    State.memOk (waitaMove x0 x1) := by
  unfold waitaMove
  with_reducible repeat' (first | assumption | apply keeps_wakeWaita | split)
theorem keeps_execWaitaWake {x0 : State} (h0 : State.memOk x0) :
    ∀ t, (execWaitaWake x0) = .next t → State.memOk t :=
  next_keeps (keeps_waitaMove h0)
theorem keeps_waittMove {x0 : Nat} {x1 : State} (h1 : State.memOk x1) :
    State.memOk (waittMove x0 x1) := by
  unfold waittMove
  refine ite_state h1 ?_
  split
  · have ho := keeps_openValue (x0 := 0) (x1 := wakeLag) h1
    exact ite_state (ite_state (keeps_wakeAt ho) (keeps_updCore (fun c h => h) ho)) h1
  · exact ite_state (keeps_wakeAt h1) h1
  · exact h1
theorem keeps_execWaittWake {x0 : State} (h0 : State.memOk x0) :
    ∀ t, (execWaittWake x0) = .next t → State.memOk t :=
  next_keeps (keeps_waittMove h0)
theorem keeps_waittkMove {x0 : Nat} {x1 : State} (h1 : State.memOk x1) :
    State.memOk (waittkMove x0 x1) := by
  unfold waittkMove
  with_reducible repeat' (first | assumption | apply keeps_wakeAt | split)
theorem keeps_execWaittkWake {x0 : State} (h0 : State.memOk x0) :
    ∀ t, (execWaittkWake x0) = .next t → State.memOk t :=
  next_keeps (keeps_waittkMove h0)
theorem keeps_tokgetMove {x0 : Nat} {x1 : State} (h1 : State.memOk x1) :
    State.memOk (tokgetMove x0 x1) := by
  have hg : ∀ (d word l : Nat) (w : Wait) (s : State), s.memOk → State.memOk (if s.cycle < l then updCore s x0 fun c => { c with wait := w }
      else updCore s x0 fun c => { c with wait := .none, nextIssue := max c.nextIssue s.cycle, regs := c.regs.putS d (BitVec.ofNat 64 word) none }) :=
    fun d word l w s h => ite_state (keeps_updCore (fun c h => h) h) (keeps_updCore (fun c h => ⟨wf_putS_ok h.1, h.2⟩) h)
  unfold tokgetMove
  dsimp only
  split
  · exact h1
  · split
    · split
      · exact hg _ _ _ _ _ h1
      · split
        · split
          · exact keeps_updCore (fun c h => h) h1
          · exact hg _ _ _ _ _ h1
        · split
          · exact hg _ _ _ _ _ h1
          · exact keeps_stopGroup (keeps_graphFault h1)
    · exact h1
theorem keeps_execTokgetResult {x0 : State} (h0 : State.memOk x0) :
    ∀ t, (execTokgetResult x0) = .next t → State.memOk t :=
  next_keeps (keeps_tokgetMove h0)

/-! ### The copy engines (Machine/Copy.lean) -/

theorem keeps_setHand {x0 x1 : Nat} {x2 : Option Chunk} {x3 : State} (h3 : State.memOk x3) :
    State.memOk (setHand x0 x1 x2 x3) := by
  unfold setHand
  with_reducible repeat' (first
    | assumption | apply keeps_updCluster | apply wf_scratch | apply wf_codeOld | simp only [mk_cluster] | apply And.intro | intro _)
theorem keeps_dropChunk {x0 x1 : Nat} {x2 : Chunk} {x3 : State} (h3 : State.memOk x3) :
    State.memOk (dropChunk x0 x1 x2 x3) := by
  unfold dropChunk
  with_reducible repeat' (first | assumption | apply keeps_updReq | apply keeps_setHand)
theorem keeps_finishChunk {x0 : Nat} {x1 : Nat} {x2 : Chunk} {x3 : State} (h3 : State.memOk x3) :
    State.memOk (finishChunk x0 x1 x2 x3) := by
  unfold finishChunk
  try dsimp only
  with_reducible repeat' (first | assumption | refine ite_state ?_ ?_ | apply keeps_updCluster | apply keeps_dropChunk | apply keeps_noteMoved | apply keeps_countCluster | apply keeps_updReq | apply keeps_Cluster_countBytes | apply foldl_memOk | apply memOk_getCore | apply memOk_getCluster | apply memOk_getMod | apply memOk_getPart | apply memOk_focusCore | simp only [same_state, same_core, same_cluster, same_die, same_mod] | intro _ | split )
theorem keeps_failChunk {x0 x1 x2 : Nat} {x3 : Chunk} {x4 : State} (h4 : State.memOk x4) :
    State.memOk (failChunk x0 x1 x2 x3 x4) := by
  unfold failChunk
  with_reducible repeat' (first | assumption | apply keeps_failReq | apply keeps_dropChunk)
theorem keeps_transit {x0 : Nat} {x1 : QReq} {x2 : Chunk} {x3 : State} (h3 : State.memOk x3) :
    State.memOk (transit x0 x1 x2 x3).2 := by
  unfold transit
  try simp only [openValue, openAny]
  with_reducible repeat' (first | assumption | simp only [same_state, same_core, same_cluster, same_die, same_mod] | split)
theorem keeps_transit_eq {x0 : Nat} {x1 : QReq} {x2 : Chunk} {x3 t : State} {u : Nat} (e : (transit x0 x1 x2 x3) = (u, t)) (h3 : State.memOk x3) :
    State.memOk t := snd_keeps e (keeps_transit h3)
theorem keeps_sendAccess {x0 x1 : Nat} {x2 : QReq} {x3 : Chunk} {x4 : FKind} {x5 : State} (h5 : State.memOk x5) :
    State.memOk (sendAccess x0 x1 x2 x3 x4 x5) := by
  unfold sendAccess
  with_reducible repeat' (first | assumption | apply keeps_launchFlight | apply keeps_setHand | apply keeps_transit)
theorem keeps_countLocal {x0 : Nat} {x1 : Nat} {x2 : Nat} {x3 : State} (h3 : State.memOk x3) :
    State.memOk (countLocal x0 x1 x2 x3) := by
  unfold countLocal
  try dsimp only
  with_reducible repeat' (first | assumption | refine ite_state ?_ ?_ | apply keeps_countErr | apply foldl_memOk | apply memOk_getCore | apply memOk_getCluster | apply memOk_getMod | apply memOk_getPart | apply memOk_focusCore | simp only [same_state, same_core, same_cluster, same_die, same_mod] | intro _ | split )
theorem keeps_readPiece {x0 : Nat} {x1 : Nat} {x2 : QReq} {x3 : Chunk} {x4 : Nat} {x5 : Nat} {x6 : State} (h6 : State.memOk x6) :
    State.memOk (readPiece x0 x1 x2 x3 x4 x5 x6) := by
  unfold readPiece
  try dsimp only
  with_reducible repeat' (first | assumption | refine ite_state ?_ ?_ | apply keeps_setHand | apply keeps_sendAccess | apply keeps_failChunk | apply keeps_countCluster | apply keeps_countLocal | apply foldl_memOk | apply memOk_getCore | apply memOk_getCluster | apply memOk_getMod | apply memOk_getPart | apply memOk_focusCore | simp only [same_state, same_core, same_cluster, same_die, same_mod] | intro _ | split )
theorem keeps_writePiece {x0 x1 : Nat} {x2 : QReq} {x3 : Chunk} {x4 : List Nat} {x5 : State} (h5 : State.memOk x5) :
    State.memOk (writePiece x0 x1 x2 x3 x4 x5) := by
  unfold writePiece
  try dsimp only
  with_reducible repeat' (first
    | assumption | apply keeps_scratchWrite | apply keeps_setHand | apply keeps_finishChunk | apply keeps_failChunk | apply keeps_sendAccess | split)
theorem keeps_sendFold {x0 : Nat} {x1 : Nat} {x2 : QReq} {x3 : Chunk} {x4 : GOp} {x5 : List Nat} {x6 : State} (h6 : State.memOk x6) :
    State.memOk (sendFold x0 x1 x2 x3 x4 x5 x6) := by
  unfold sendFold
  try dsimp only
  with_reducible repeat' (first | assumption | refine ite_state ?_ ?_ | apply keeps_sendAccess | apply foldl_memOk | apply memOk_getCore | apply memOk_getCluster | apply memOk_getMod | apply memOk_getPart | apply memOk_focusCore | simp only [same_state, same_core, same_cluster, same_die, same_mod] | intro _ | split )
theorem keeps_atomicPiece {x0 : Nat} {x1 : Nat} {x2 : QReq} {x3 : Chunk} {x4 : State} (h4 : State.memOk x4) :
    State.memOk (atomicPiece x0 x1 x2 x3 x4) := by
  unfold atomicPiece
  try dsimp only
  with_reducible repeat' (first | assumption | refine ite_state ?_ ?_ | apply keeps_finishChunk | apply keeps_scratchWrite | apply keeps_setHand | apply keeps_dueWrite | apply keeps_sendAccess | apply keeps_failChunk | apply foldl_memOk | apply memOk_getCore | apply memOk_getCluster | apply memOk_getMod | apply memOk_getPart | apply memOk_focusCore | simp only [same_state, same_core, same_cluster, same_die, same_mod] | intro _ | split )
theorem keeps_advance {x0 : Nat} {x1 : Nat} {x2 : Chunk} {x3 : State} (h3 : State.memOk x3) :
    State.memOk (advance x0 x1 x2 x3) := by
  unfold advance
  try dsimp only
  with_reducible repeat' (first | assumption | refine ite_state ?_ ?_ | apply keeps_setHand | apply keeps_dropChunk | apply keeps_atomicPiece | apply keeps_readPiece | apply keeps_sendFold | apply keeps_writePiece | apply foldl_memOk | apply memOk_getCore | apply memOk_getCluster | apply memOk_getMod | apply memOk_getPart | apply memOk_focusCore | simp only [same_state, same_core, same_cluster, same_die, same_mod] | intro _ | split )
theorem keeps_findAll {x0 : Nat} {x1 : Nat} {x2 : Nat} {x3 : List Nat} {x4 : State} (h4 : State.memOk x4) :
    State.memOk (findAll x0 x1 x2 x3 x4).1 := by
  induction x3 generalizing x4 with
  | nil => exact h4
  | cons va rest ih => unfold findAll; exact ih (keeps_findPage h4)
theorem keeps_findAll_eq {x0 : Nat} {x1 : Nat} {x2 : Nat} {x3 : List Nat} {x4 : State} {t : State} {u : List Found} (e : (findAll x0 x1 x2 x3 x4) = (t, u)) (h4 : State.memOk x4) : State.memOk t := fst_keeps e (keeps_findAll h4)
theorem keeps_translateAll {x0 : Nat} {x1 : Nat} {x2 : Nat} {x3 : Nat} {x4 : List Nat} {x5 : State} (h5 : State.memOk x5) :
    State.memOk (translateAll x0 x1 x2 x3 x4 x5).1 := by
  unfold translateAll
  try dsimp only
  with_reducible repeat' (first | assumption | refine ite_state ?_ ?_ | refine keeps_findAll_eq (by assumption) ?_ | apply keeps_findAll | refine keeps_translatePages_eq (by assumption) ?_ | apply keeps_translatePages | apply foldl_memOk | apply memOk_getCore | apply memOk_getCluster | apply memOk_getMod | apply memOk_getPart | apply memOk_focusCore | apply wf_regs | apply wf_ra | apply wf_raNone | apply wf_scratch | apply wf_codeOld | apply wf_hbm | apply wf_host | apply wf_saves | apply wf_parts | apply Mem.write_wf | simp only [mk_state, mk_core, mk_cluster, mk_mod] | apply And.intro | intro _ | split )
theorem keeps_translateAll_eq {x0 : Nat} {x1 : Nat} {x2 : Nat} {x3 : Nat} {x4 : List Nat} {x5 : State} {t : State} {u : (List PageMap ⊕ Tr × Found)} (e : (translateAll x0 x1 x2 x3 x4 x5) = (t, u)) (h5 : State.memOk x5) : State.memOk t := fst_keeps e (keeps_translateAll h5)
theorem keeps_gemvRead {x0 : Nat} {x1 : Nat} {x2 : QReq} {x3 : Nat} {x4 : Nat} {x5 : Nat} {x6 : State} (h6 : State.memOk x6) :
    State.memOk (gemvRead x0 x1 x2 x3 x4 x5 x6) := by
  unfold gemvRead
  try dsimp only
  with_reducible repeat' (first | assumption | refine ite_state ?_ ?_ | apply keeps_countCluster | apply keeps_updReq | apply keeps_failReq | apply keeps_countLocal | apply foldl_memOk | apply memOk_getCore | apply memOk_getCluster | apply memOk_getMod | apply memOk_getPart | apply memOk_focusCore | simp only [same_state, same_core, same_cluster, same_die, same_mod] | intro _ | split )
theorem keeps_gemvStep {x0 : Nat} {x1 : Nat} {x2 : QReq} {x3 : Nat} {x4 : Nat} {x5 : List Nat} {x6 : State} (h6 : State.memOk x6) :
    State.memOk (gemvStep x0 x1 x2 x3 x4 x5 x6) := by
  unfold gemvStep
  try dsimp only
  with_reducible repeat' (first | assumption | refine ite_state ?_ ?_ | refine keeps_translateAll_eq (by assumption) ?_ | apply keeps_translateAll | apply keeps_refuseReq | apply keeps_failReq | apply keeps_updReq | apply keeps_gemvRead | apply keeps_countHbmRead | apply keeps_countFlits | apply keeps_scratchWrite | apply keeps_countMod | apply keeps_countHbm | apply foldl_memOk | apply memOk_getCore | apply memOk_getCluster | apply memOk_getMod | apply memOk_getPart | apply memOk_focusCore | simp only [same_state, same_core, same_cluster, same_die, same_mod] | intro _ | split )
theorem keeps_findChunk {x0 : Nat} {x1 : Nat} {x2 : QReq} {x3 : Nat} {x4 : Nat} {x5 : Nat} {x6 : State} (h6 : State.memOk x6) :
    State.memOk (findChunk x0 x1 x2 x3 x4 x5 x6).1 := by
  unfold findChunk
  try dsimp only
  with_reducible repeat' (first | assumption | refine ite_state ?_ ?_ | refine keeps_findRange_eq (by assumption) ?_ | apply keeps_findRange | apply foldl_memOk | apply memOk_getCore | apply memOk_getCluster | apply memOk_getMod | apply memOk_getPart | apply memOk_focusCore | simp only [same_state, same_core, same_cluster, same_die, same_mod] | intro _ | split )
theorem keeps_findChunk_eq {x0 : Nat} {x1 : Nat} {x2 : QReq} {x3 : Nat} {x4 : Nat} {x5 : Nat} {x6 : State} {t : State} {u : List Found} (e : (findChunk x0 x1 x2 x3 x4 x5 x6) = (t, u)) (h6 : State.memOk x6) : State.memOk t := fst_keeps e (keeps_findChunk h6)
theorem keeps_translateChunk {x0 : Nat} {x1 : Nat} {x2 : Nat} {x3 : QReq} {x4 : Nat} {x5 : Nat} {x6 : Nat} {x7 : State} (h7 : State.memOk x7) :
    State.memOk (translateChunk x0 x1 x2 x3 x4 x5 x6 x7).1 := by
  unfold translateChunk
  try dsimp only
  with_reducible repeat' (first | assumption | refine ite_state ?_ ?_ | refine keeps_findChunk_eq (by assumption) ?_ | apply keeps_findChunk | refine keeps_translatePages_eq (by assumption) ?_ | apply keeps_translatePages | apply foldl_memOk | apply memOk_getCore | apply memOk_getCluster | apply memOk_getMod | apply memOk_getPart | apply memOk_focusCore | apply wf_regs | apply wf_ra | apply wf_raNone | apply wf_scratch | apply wf_codeOld | apply wf_hbm | apply wf_host | apply wf_saves | apply wf_parts | apply Mem.write_wf | simp only [mk_state, mk_core, mk_cluster, mk_mod] | apply And.intro | intro _ | split )
theorem keeps_translateChunk_eq {x0 : Nat} {x1 : Nat} {x2 : Nat} {x3 : QReq} {x4 : Nat} {x5 : Nat} {x6 : Nat} {x7 : State} {t : State} {u : (List PageMap ⊕ Tr × Found)} (e : (translateChunk x0 x1 x2 x3 x4 x5 x6 x7) = (t, u)) (h7 : State.memOk x7) : State.memOk t := fst_keeps e (keeps_translateChunk h7)
theorem keeps_sendSignal {x0 : Nat} {x1 : Nat} {x2 : QReq} {x3 : Nat} {x4 : Nat} {x5 : GOp} {x6 : State} (h6 : State.memOk x6) :
    State.memOk (sendSignal x0 x1 x2 x3 x4 x5 x6) := by
  unfold sendSignal
  try dsimp only
  with_reducible repeat' (first | assumption | refine ite_state ?_ ?_ | apply keeps_failReq | apply keeps_sendTo | apply keeps_updReq | apply foldl_memOk | apply memOk_getCore | apply memOk_getCluster | apply memOk_getMod | apply memOk_getPart | apply memOk_focusCore | simp only [same_state, same_core, same_cluster, same_die, same_mod] | intro _ | split )
theorem keeps_openRecv {x0 : Nat} {x1 : Nat} {x2 : QReq} {x3 : Nat} {x4 : Nat} {x5 : State} (h5 : State.memOk x5) :
    State.memOk (openRecv x0 x1 x2 x3 x4 x5) := by
  unfold openRecv
  try dsimp only
  with_reducible repeat' (first | assumption | refine ite_state ?_ ?_ | refine keeps_findRange_eq (by assumption) ?_ | apply keeps_findRange | refine keeps_translatePages_eq (by assumption) ?_ | apply keeps_translatePages | apply keeps_refuseReq | apply keeps_foldNow | apply keeps_updReq | apply foldl_memOk | apply memOk_getCore | apply memOk_getCluster | apply memOk_getMod | apply memOk_getPart | apply memOk_focusCore | simp only [same_state, same_core, same_cluster, same_die, same_mod] | intro _ | split )
theorem keeps_startChunk {x0 : Nat} {x1 : Nat} {x2 : Nat} {x3 : QReq} {x4 : State} (h4 : State.memOk x4) :
    State.memOk (startChunk x0 x1 x2 x3 x4) := by
  unfold startChunk
  try dsimp only
  with_reducible repeat' (first | assumption | refine ite_state ?_ ?_ | apply keeps_failReq | refine keeps_translateChunk_eq (by assumption) ?_ | apply keeps_translateChunk | apply keeps_refuseReq | refine keeps_newId_eq (by assumption) ?_ | apply keeps_newId | apply keeps_countCluster | apply keeps_setHand | apply keeps_updReq | apply keeps_gemvStep | apply keeps_sendSignal | apply keeps_openRecv | apply foldl_memOk | apply memOk_getCore | apply memOk_getCluster | apply memOk_getMod | apply memOk_getPart | apply memOk_focusCore | simp only [same_state, same_core, same_cluster, same_die, same_mod] | intro _ | split )
theorem keeps_accessDone {x0 x1 : Nat} {x2 : Chunk → State → State} {x3 : State} (h2 : ∀ (y0 : Chunk) (y1 : State), State.memOk y1 → State.memOk (x2 y0 y1)) (h3 : State.memOk x3) :
    State.memOk (accessDone x0 x1 x2 x3) := by
  unfold accessDone
  with_reducible repeat' (first | assumption | apply h2 | split)
theorem keeps_beginPublish {x0 : Nat} {x1 : Nat} {x2 : QReq} {x3 : State} (h3 : State.memOk x3) :
    State.memOk (beginPublish x0 x1 x2 x3) := by
  unfold beginPublish
  try dsimp only
  with_reducible repeat' (first | assumption | refine ite_state ?_ ?_ | apply keeps_failReq | apply keeps_beginPub | apply foldl_memOk | apply memOk_getCore | apply memOk_getCluster | apply memOk_getMod | apply memOk_getPart | apply memOk_focusCore | simp only [same_state, same_core, same_cluster, same_die, same_mod] | intro _ | split )
theorem keeps_publishAtEnd {x0 : Nat} {x1 : Nat} {x2 : Nat} {x3 : State} (h3 : State.memOk x3) :
    State.memOk (publishAtEnd x0 x1 x2 x3) := by
  unfold publishAtEnd
  try dsimp only
  with_reducible repeat' (first | assumption | refine ite_state ?_ ?_ | apply keeps_beginPublish | apply foldl_memOk | apply memOk_getCore | apply memOk_getCluster | apply memOk_getMod | apply memOk_getPart | apply memOk_focusCore | simp only [same_state, same_core, same_cluster, same_die, same_mod] | intro _ | split )
theorem keeps_afterWrite {x0 : Nat} {x1 : After} {x2 : State} (h2 : State.memOk x2) :
    State.memOk (afterWrite x0 x1 x2) := by
  unfold afterWrite
  split
  · exact h2
  · exact keeps_updReq h2
  · exact keeps_afterGraph h2
  · with_reducible repeat' (first
      | assumption | apply keeps_publishAtEnd | apply keeps_finishChunk | simp only [same_state, same_core, same_cluster, same_die, same_mod] | split)
  · exact keeps_accessDone (fun _ _ h => keeps_finishChunk h) h2
theorem keeps_performDue {x0 : Nat} {x1 : DueWrite} {x2 : State} (h2 : State.memOk x2) :
    State.memOk (performDue x0 x1 x2) := by
  unfold performDue
  with_reducible repeat' (first
    | assumption | apply keeps_updCluster | apply keeps_scratchWrite | apply keeps_afterWrite
    | simp only [same_state, same_core, same_cluster, same_die, same_mod] | intro _)
theorem keeps_engineMove {x0 x1 : Nat} {x2 : State} (h2 : State.memOk x2) :
    State.memOk (engineMove x0 x1 x2) := by
  unfold engineMove
  try dsimp only
  with_reducible repeat' (first | assumption | apply keeps_advance | apply keeps_startChunk | apply keeps_performDue | split)
theorem keeps_execChunkPerform {x0 x1 : Nat} {x2 : State} (h2 : State.memOk x2) :
    ∀ t, (execChunkPerform x0 x1 x2) = .next t → State.memOk t :=
  next_keeps (keeps_engineMove h2)
theorem keeps_boundByte {x0 x1 : Nat} {x2 x3 : Nat} {x4 : State} (h4 : State.memOk x4) :
    State.memOk (boundByte x0 x1 x2 x3 x4).2 := by
  unfold boundByte
  dsimp only
  split
  · exact h4
  · have ho := keeps_openValue (x0 := 0) (x1 := 1) h4
    split
    · split
      · exact ho
      · exact keeps_updCluster (fun c h => h) ho
    · exact keeps_updCluster (fun c h => h) ho
theorem keeps_boundByte_eq {x0 x1 : Nat} {x2 x3 : Nat} {x4 t : State} {u : Nat} (e : (boundByte x0 x1 x2 x3 x4) = (u, t)) (h4 : State.memOk x4) :
    State.memOk t := snd_keeps e (keeps_boundByte h4)
theorem keeps_boundBytes {x0 x1 x2 : Nat} {x3 : List Nat} {x4 : State} (h4 : State.memOk x4) :
    State.memOk (boundBytes x0 x1 x2 x3 x4).2 := by
  induction x3 generalizing x2 x4 with
  | nil => unfold boundBytes; exact h4
  | cons v vs ih =>
    unfold boundBytes
    exact ih (keeps_boundByte h4)
theorem keeps_boundBytes_eq {x0 x1 x2 : Nat} {x3 : List Nat} {x4 t : State} {u : List Nat} (e : (boundBytes x0 x1 x2 x3 x4) = (u, t)) (h4 : State.memOk x4) :
    State.memOk t := snd_keeps e (keeps_boundBytes h4)
theorem keeps_performAccess {x0 : Nat} {x1 : Nat} {x2 : AccOp} {x3 : Nat} {x4 : Nat} {x5 : State} (h5 : State.memOk x5) :
    State.memOk (performAccess x0 x1 x2 x3 x4 x5) := by
  unfold performAccess
  try dsimp only
  with_reducible repeat' (first | assumption | refine ite_state ?_ ?_ | apply keeps_countHbmRead | apply keeps_accessDone | apply keeps_failChunk | apply keeps_countHbm | refine keeps_boundBytes_eq (by assumption) ?_ | apply keeps_boundBytes | apply keeps_setHand | apply keeps_physWrite | apply keeps_finishChunk | apply foldl_memOk | apply memOk_getCore | apply memOk_getCluster | apply memOk_getMod | apply memOk_getPart | apply memOk_focusCore | simp only [same_state, same_core, same_cluster, same_die, same_mod] | intro _ | split )
theorem keeps_parkFlight {x0 x1 x2 : Nat} {x3 : State} (h3 : State.memOk x3) :
    State.memOk (parkFlight x0 x1 x2 x3) := by
  unfold parkFlight
  with_reducible repeat' (first
    | assumption | apply keeps_updMod | simp only [same_state, same_core, same_cluster, same_die, same_mod] | intro _ | split)
theorem keeps_accessArrivalMove {x0 : State} (h0 : State.memOk x0) :
    State.memOk (accessArrivalMove x0) := by
  unfold accessArrivalMove
  with_reducible repeat' (first | assumption | apply keeps_landFlight | apply keeps_performAccess | apply keeps_parkFlight | split)
theorem keeps_execAccessArrival {x0 : State} (h0 : State.memOk x0) :
    ∀ t, (execAccessArrival x0) = .next t → State.memOk t :=
  next_keeps (keeps_accessArrivalMove h0)
theorem keeps_performAtomic {x0 : Nat} {x1 : Nat} {x2 : Nat} {x3 : Nat} {x4 : Nat} {x5 : State} (h5 : State.memOk x5) :
    State.memOk (performAtomic x0 x1 x2 x3 x4 x5) := by
  unfold performAtomic
  try dsimp only
  with_reducible repeat' (first | assumption | refine ite_state ?_ ?_ | apply keeps_accessDone | apply keeps_failChunk | apply keeps_countHbm | apply keeps_countHbmRead | apply keeps_physWrite | apply keeps_setHand | apply keeps_dropChunk | apply foldl_memOk | apply memOk_getCore | apply memOk_getCluster | apply memOk_getMod | apply memOk_getPart | apply memOk_focusCore | simp only [same_state, same_core, same_cluster, same_die, same_mod] | intro _ | split )
theorem keeps_atomicMove {x0 : State} (h0 : State.memOk x0) :
    State.memOk (atomicMove x0) := by
  unfold atomicMove
  with_reducible repeat' (first | assumption | apply keeps_landFlight | apply keeps_parkFlight | apply keeps_performAtomic | split)
theorem keeps_execRemoteAtomicPerform {x0 : State} (h0 : State.memOk x0) :
    ∀ t, (execRemoteAtomicPerform x0) = .next t → State.memOk t :=
  next_keeps (keeps_atomicMove h0)
theorem keeps_dueWindow {x0 : Nat} {x1 : Nat × Nat} {x2 : Nat} {x3 : Nat} {x4 : Nat} {x5 : Bool} {x6 : List Nat} {x7 : State} (h7 : State.memOk x7) :
    State.memOk (dueWindow x0 x1 x2 x3 x4 x5 x6 x7) := by
  unfold dueWindow
  try dsimp only
  with_reducible repeat' (first | assumption | refine ite_state ?_ ?_ | apply keeps_updCluster | apply foldl_memOk | apply memOk_getCore | apply memOk_getCluster | apply memOk_getMod | apply memOk_getPart | apply memOk_focusCore | simp only [same_state, same_core, same_cluster, same_die, same_mod] | intro _ | split )
theorem keeps_refuseWindow {x0 x1 : Nat} {x2 : State} (h2 : State.memOk x2) :
    State.memOk (refuseWindow x0 x1 x2) := by
  unfold refuseWindow
  with_reducible repeat' (first | assumption | apply keeps_failChunk | apply keeps_accessDone)
theorem keeps_windowArrivalMove {x0 : State} (h0 : State.memOk x0) :
    State.memOk (windowArrivalMove x0) := by
  unfold windowArrivalMove
  try dsimp only
  with_reducible repeat' (first | assumption | refine ite_state ?_ ?_ | apply keeps_refuseWindow | apply keeps_landFlight | refine keeps_newId_eq (by assumption) ?_ | apply keeps_newId | apply keeps_dueWindow | apply foldl_memOk | apply memOk_getCore | apply memOk_getCluster | apply memOk_getMod | apply memOk_getPart | apply memOk_focusCore | simp only [same_state, same_core, same_cluster, same_die, same_mod] | intro _ | split )
theorem keeps_execWindowChunkArrival {x0 : State} (h0 : State.memOk x0) :
    ∀ t, (execWindowChunkArrival x0) = .next t → State.memOk t :=
  next_keeps (keeps_windowArrivalMove h0)
theorem keeps_addPart {x0 : Nat} {x1 : Contribution} {x2 : Nat} {x3 : Nat} {x4 : List Nat} {x5 : State} (h5 : State.memOk x5) :
    State.memOk (addPart x0 x1 x2 x3 x4 x5) := by
  unfold addPart
  try dsimp only
  with_reducible repeat' (first | assumption | refine ite_state ?_ ?_ | apply keeps_updMod | apply keeps_contributionArrives | apply foldl_memOk | apply memOk_getCore | apply memOk_getCluster | apply memOk_getMod | apply memOk_getPart | apply memOk_focusCore | simp only [same_state, same_core, same_cluster, same_die, same_mod] | intro _ | split )
theorem keeps_foldArrivalMove {x0 : State} (h0 : State.memOk x0) :
    State.memOk (foldArrivalMove x0) := by
  unfold foldArrivalMove
  try dsimp only
  with_reducible repeat' (first | assumption | refine ite_state ?_ ?_ | apply keeps_addPart | apply keeps_accessDone | apply keeps_finishChunk | apply keeps_landFlight | apply keeps_contributionArrives | apply foldl_memOk | apply memOk_getCore | apply memOk_getCluster | apply memOk_getMod | apply memOk_getPart | apply memOk_focusCore | simp only [same_state, same_core, same_cluster, same_die, same_mod] | intro _ | split )
theorem keeps_execFoldContributionArrival {x0 : State} (h0 : State.memOk x0) :
    ∀ t, (execFoldContributionArrival x0) = .next t → State.memOk t := by
  intro t ht
  unfold execFoldContributionArrival at ht
  injection ht with ht
  rw [← ht]
  try dsimp only
  with_reducible repeat' (first | assumption | refine ite_state ?_ ?_ | apply keeps_foldArrivalMove | apply foldl_memOk | apply memOk_getCore | apply memOk_getCluster | apply memOk_getMod | apply memOk_getPart | apply memOk_focusCore | simp only [same_state, same_core, same_cluster, same_die, same_mod] | intro _ | split )
theorem keeps_unpin {x0 : QReq} {x1 : State} (h1 : State.memOk x1) :
    State.memOk (unpin x0 x1) := by
  unfold unpin
  with_reducible repeat' (first | assumption | apply foldl_memOk | apply keeps_updFrame | intro _)
theorem keeps_leaveQueue {x0 : Nat} {x1 : Nat} {x2 : QReq} {x3 : State} (h3 : State.memOk x3) :
    State.memOk (leaveQueue x0 x1 x2 x3) := by
  unfold leaveQueue
  try dsimp only
  with_reducible repeat' (first | assumption | refine ite_state ?_ ?_ | apply keeps_updCluster | apply keeps_unpin | apply keeps_Cluster_dequeue | apply foldl_memOk | apply memOk_getCore | apply memOk_getCluster | apply memOk_getMod | apply memOk_getPart | apply memOk_focusCore | simp only [same_state, same_core, same_cluster, same_die, same_mod] | intro _ | split )
theorem keeps_countFailure {x0 : Nat} {x1 : QReq} {x2 : State} (h2 : State.memOk x2) :
    State.memOk (countFailure x0 x1 x2) := by
  unfold countFailure
  with_reducible repeat' (first | assumption | refine ite_state ?_ ?_ | apply keeps_countCluster | apply keeps_countErr)
theorem keeps_copyError {x0 : Nat} {x1 : QReq} {x2 : State} (h2 : State.memOk x2) :
    State.memOk (copyError x0 x1 x2) := by
  unfold copyError
  with_reducible repeat' (first
    | assumption | apply keeps_updCore | apply keeps_updCluster | simp only [same_state, same_core, same_cluster, same_die, same_mod] | intro _
    | split)
theorem keeps_finishGraph {x0 : Nat} {x1 : Nat} {x2 : Nat} {x3 : Nat} {x4 : QReq} {x5 : State} (h5 : State.memOk x5) :
    State.memOk (finishGraph x0 x1 x2 x3 x4 x5) := by
  unfold finishGraph
  try dsimp only
  with_reducible repeat' (first | assumption | refine ite_state ?_ ?_ | apply keeps_leaveQueue | apply keeps_completeOp | apply keeps_updGraph | apply keeps_countFailure | apply keeps_foldNow | apply foldl_memOk | apply memOk_getCore | apply memOk_getCluster | apply memOk_getMod | apply memOk_getPart | apply memOk_focusCore | simp only [same_state, same_core, same_cluster, same_die, same_mod] | intro _ | split )
theorem keeps_finishReq {x0 x1 : Nat} {x2 : QReq} {x3 : State} (h3 : State.memOk x3) :
    State.memOk (finishReq x0 x1 x2 x3) := by
  unfold finishReq
  try dsimp only
  with_reducible repeat' (first
    | assumption | apply keeps_dueWrite | apply keeps_updReq | apply keeps_leaveQueue | apply keeps_countFailure | apply keeps_copyError
    | apply keeps_beginPublish | apply keeps_finishGraph | split)
theorem keeps_requestFinishMove {x0 x1 : Nat} {x2 : State} (h2 : State.memOk x2) :
    State.memOk (requestFinishMove x0 x1 x2) := by
  unfold requestFinishMove
  with_reducible repeat' (first | assumption | apply foldl_memOk | apply keeps_finishReq | intro _ | split)
theorem keeps_execRequestFinish {x0 x1 : Nat} {x2 : State} (h2 : State.memOk x2) :
    ∀ t, (execRequestFinish x0 x1 x2) = .next t → State.memOk t :=
  next_keeps (keeps_requestFinishMove h2)
theorem keeps_publish {x0 : Nat} {x1 : PubOp} {x2 : State} (h2 : State.memOk x2) :
    State.memOk (publish x0 x1 x2) := by
  unfold publish
  dsimp only
  have h1 := keeps_updCluster (k := x0) (f := fun x => { x with pubs := x.pubs.erase x1, swapped := Tbl.set x.swapped x1.b (!Tbl.get false x.swapped x1.b) })
    (fun c h => h) h2
  split
  · exact ⟨h1.1, map_all (P := Cluster.memOk) (fun k c h => h) h1.2.1, h1.2.2⟩
  · split
    · exact keeps_updCore (fun c h => ⟨h.1, wf_raMap h.2 fun r h => h⟩) h1
    · exact h1
theorem keeps_wakePub {x0 : Nat} {x1 : Nat} {x2 : Nat} {x3 : State} (h3 : State.memOk x3) :
    State.memOk (wakePub x0 x1 x2 x3) := by
  unfold wakePub
  try dsimp only
  with_reducible repeat' (first | assumption | refine ite_state ?_ ?_ | apply keeps_updCore | apply foldl_memOk | apply memOk_getCore | apply memOk_getCluster | apply memOk_getMod | apply memOk_getPart | apply memOk_focusCore | simp only [same_state, same_core, same_cluster, same_die, same_mod] | intro _ | split )
theorem keeps_publishMove {x0 : Nat} {x1 : Nat} {x2 : State} (h2 : State.memOk x2) :
    State.memOk (publishMove x0 x1 x2) := by
  unfold publishMove
  try dsimp only
  with_reducible repeat' (first | assumption | refine ite_state ?_ ?_ | apply keeps_wakePub | apply keeps_publish | apply foldl_memOk | apply memOk_getCore | apply memOk_getCluster | apply memOk_getMod | apply memOk_getPart | apply memOk_focusCore | simp only [same_state, same_core, same_cluster, same_die, same_mod] | intro _ | split )
theorem keeps_execPublishSwap {x0 x1 : Nat} {x2 : State} (h2 : State.memOk x2) :
    ∀ t, (execPublishSwap x0 x1 x2) = .next t → State.memOk t :=
  next_keeps (keeps_publishMove h2)

/-! ### Page maintenance (Machine/Pages.lean) -/

theorem keeps_again {x0 x1 : Nat} {x2 : Instr} {x3 : State} (h3 : State.memOk x3) :
    State.memOk (again x0 x1 x2 x3) := h3
theorem keeps_tellHost {x0 : HostMsg} {x1 : State} (h1 : State.memOk x1) :
    State.memOk (tellHost x0 x1) := h1
theorem keeps_answerDone {x0 : Nat} {x1 : State} (h1 : State.memOk x1) :
    State.memOk (answerDone x0 x1) := by
  unfold answerDone
  with_reducible repeat' (first | assumption | apply keeps_tellHost)
theorem keeps_refuseOp {x0 : Nat} {x1 : State} (h1 : State.memOk x1) :
    State.memOk (refuseOp x0 x1) := by
  unfold refuseOp
  try simp only [openAny]
  with_reducible repeat' (first | assumption | apply keeps_tellHost | simp only [same_state, same_core, same_cluster, same_die, same_mod])
theorem keeps_holdMessage {x0 : Nat} {x1 : Instr} {x2 : State} (h2 : State.memOk x2) :
    State.memOk (holdMessage x0 x1 x2) := by
  unfold holdMessage
  try dsimp only
  with_reducible repeat' (first | assumption | refine ite_state ?_ ?_ | apply keeps_updMod | apply foldl_memOk | apply memOk_getCore | apply memOk_getCluster | apply memOk_getMod | apply memOk_getPart | apply memOk_focusCore | simp only [same_state, same_core, same_cluster, same_die, same_mod] | intro _ | split )
theorem keeps_unlessPaused {x0 : Nat} {x1 : Instr} {x2 : State} {x3 : State → State} (h2 : State.memOk x2) (h3 : ∀ (y0 : State), State.memOk y0 → State.memOk (x3 y0)) :
    State.memOk (unlessPaused x0 x1 x2 x3) := by
  unfold unlessPaused
  try dsimp only
  with_reducible repeat' (first | assumption | refine ite_state ?_ ?_ | apply keeps_holdMessage | apply foldl_memOk | apply h3 | apply memOk_getCore | apply memOk_getCluster | apply memOk_getMod | apply memOk_getPart | apply memOk_focusCore | simp only [same_state, same_core, same_cluster, same_die, same_mod] | intro _ | split )
theorem keeps_afterHeld {x0 : Nat} {x1 : Instr} {x2 : State} {x3 : State → State} (h2 : State.memOk x2) (h3 : ∀ (y0 : State), State.memOk y0 → State.memOk (x3 y0)) :
    State.memOk (afterHeld x0 x1 x2 x3) := by
  unfold afterHeld
  try dsimp only
  with_reducible repeat' (first | assumption | refine ite_state ?_ ?_ | apply keeps_holdMessage | apply foldl_memOk | apply h3 | apply memOk_getCore | apply memOk_getCluster | apply memOk_getMod | apply memOk_getPart | apply memOk_focusCore | simp only [same_state, same_core, same_cluster, same_die, same_mod] | intro _ | split )
theorem keeps_dropTlbs {x0 x1 : Nat} {x2 x3 : Nat} {x4 : State} (h4 : State.memOk x4) :
    State.memOk (dropTlbs x0 x1 x2 x3 x4) := by
  exact ⟨h4.1, map_all (P := Cluster.memOk) (fun k c h => h) h4.2.1, h4.2.2⟩
theorem keeps_shootdownMove {x0 x1 : Nat} {x2 x3 : Nat} {x4 x5 : Nat} {x6 : State} (h6 : State.memOk x6) :
    State.memOk (shootdownMove x0 x1 x2 x3 x4 x5 x6) := by
  unfold shootdownMove
  with_reducible repeat' (first
    | assumption | apply keeps_updMod | apply keeps_again | apply keeps_answerDone | apply keeps_refuseOp | apply keeps_unlessPaused
    | apply keeps_dropTlbs | simp only [same_state, same_core, same_cluster, same_die, same_mod] | intro _ | split)
theorem keeps_execShootdown {x0 x1 : Nat} {x2 x3 : Nat} {x4 x5 : Nat} {x6 : State} (h6 : State.memOk x6) :
    ∀ t, (execShootdown x0 x1 x2 x3 x4 x5 x6) = .next t → State.memOk t :=
  next_keeps (keeps_shootdownMove h6)
theorem keeps_retryPaused {x0 : Nat} {x1 : Nat} {x2 : QReq} {x3 : PFault} {x4 : State} (h4 : State.memOk x4) :
    State.memOk (retryPaused x0 x1 x2 x3 x4) := by
  unfold retryPaused
  try dsimp only
  with_reducible repeat' (first | assumption | refine ite_state ?_ ?_ | apply keeps_sendFault | apply keeps_updReq | apply keeps_useTlb | apply keeps_orEntry | apply foldl_memOk | apply memOk_getCore | apply memOk_getCluster | apply memOk_getMod | apply memOk_getPart | apply memOk_focusCore | simp only [same_state, same_core, same_cluster, same_die, same_mod] | intro _ | split )
theorem keeps_notePagesReady {x0 : Nat} {x1 : State} (h1 : State.memOk x1) :
    State.memOk (notePagesReady x0 x1) := by
  unfold notePagesReady
  dsimp only
  refine keeps_updMod (fun md hm => ⟨hm.1, hm.2.1, fun v hv => ?_, hm.2.2.2⟩) (ite_state (keeps_updCluster (fun c h => h) h1) h1)
  obtain ⟨w, hw, rfl⟩ := List.mem_map.mp hv
  exact ite_saved (hm.2.2.1 w hw) (hm.2.2.1 w hw)
theorem keeps_retryRange {x0 x1 : Nat} {x2 x3 : Nat} {x4 : State} (h4 : State.memOk x4) :
    State.memOk (retryRange x0 x1 x2 x3 x4) := by
  unfold retryRange
  with_reducible repeat' (first | assumption | apply foldl_memOk | apply keeps_retryPaused | apply keeps_notePagesReady | intro _ | split)
theorem keeps_pageReadyMove {x0 x1 : Nat} {x2 x3 : Nat} {x4 x5 : Nat} {x6 : State} (h6 : State.memOk x6) :
    State.memOk (pageReadyMove x0 x1 x2 x3 x4 x5 x6) := by
  unfold pageReadyMove
  with_reducible repeat' (first
    | assumption | refine ite_state ?_ ?_ | apply keeps_answerDone | apply keeps_refuseOp | apply keeps_unlessPaused | apply keeps_retryRange
    | intro _)
theorem keeps_execPageReady {x0 x1 : Nat} {x2 x3 : Nat} {x4 x5 : Nat} {x6 : State} (h6 : State.memOk x6) :
    ∀ t, (execPageReady x0 x1 x2 x3 x4 x5 x6) = .next t → State.memOk t :=
  next_keeps (keeps_pageReadyMove h6)
theorem keeps_setSwap {x0 : Nat} {x1 : SwapCmd} {x2 : Bool} {x3 : State} (h3 : State.memOk x3) :
    State.memOk (setSwap x0 x1 x2 x3) := by
  unfold setSwap
  with_reducible repeat' (first | assumption | apply foldl_memOk | apply keeps_updFrame | intro _)
theorem keeps_exchange {x0 : Nat} {x1 : SwapCmd} {x2 : State} (h2 : State.memOk x2) :
    State.memOk (exchange x0 x1 x2) := by
  unfold exchange
  try dsimp only
  with_reducible repeat' (first | assumption | refine ite_state ?_ ?_ | apply keeps_updMod | apply keeps_physWrite | apply keeps_countHbmRead | apply foldl_memOk | apply memOk_getCore | apply memOk_getCluster | apply memOk_getMod | apply memOk_getPart | apply memOk_focusCore | simp only [same_state, same_core, same_cluster, same_die, same_mod] | intro _ | split )
theorem keeps_rehome {x0 x1 x2 : Nat} {x3 : State} (h3 : State.memOk x3) :
    State.memOk (rehome x0 x1 x2 x3) := by
  unfold rehome
  with_reducible repeat' (first | assumption | apply keeps_physWrite)
theorem keeps_redirect {x0 : Nat} {x1 : SwapCmd} {x2 : State} (h2 : State.memOk x2) :
    State.memOk (redirect x0 x1 x2) := by
  unfold redirect
  dsimp only
  generalize hs : updMod x2 x0 _ = s
  have h : s.memOk := hs ▸ keeps_updMod (fun _ h => h) h2
  exact ⟨h.1, map_all (P := Cluster.memOk) (fun k c h => h) h.2.1, h.2.2⟩
theorem keeps_movePins {x0 : Nat} {x1 : SwapCmd} {x2 : State} (h2 : State.memOk x2) :
    State.memOk (movePins x0 x1 x2) := by
  unfold movePins
  with_reducible repeat' (first | assumption | apply foldl_memOk | apply keeps_updFrame | intro _)
theorem keeps_replayOne {x0 : Nat} {x1 : State} (h1 : State.memOk x1) :
    State.memOk (replayOne x0 x1) := by
  unfold replayOne
  with_reducible repeat' (first
    | assumption | apply keeps_performAccess | apply keeps_performAtomic | simp only [same_state, same_core, same_cluster, same_die, same_mod]
    | split)
theorem keeps_finishSwap {x0 x1 : Nat} {x2 : Swap} {x3 : State} (h3 : State.memOk x3) :
    State.memOk (finishSwap x0 x1 x2 x3) := by
  unfold finishSwap
  with_reducible repeat' (first
    | assumption | apply keeps_updMod | apply foldl_memOk | apply keeps_tellHost | apply keeps_dropTlbs | apply keeps_setSwap | apply keeps_exchange
    | apply keeps_rehome | apply keeps_redirect | apply keeps_movePins | apply keeps_replayOne
    | simp only [same_state, same_core, same_cluster, same_die, same_mod] | intro _)
theorem keeps_continueSwap {x0 x1 x2 : Nat} {x3 : List Nat} {x4 : Swap} {x5 : State} (h5 : State.memOk x5) :
    State.memOk (continueSwap x0 x1 x2 x3 x4 x5) := by
  unfold continueSwap
  try simp only [openAny]
  with_reducible repeat' (first
    | assumption | apply keeps_updMod | apply keeps_again | apply keeps_finishSwap
    | simp only [same_state, same_core, same_cluster, same_die, same_mod] | intro _ | split)
theorem keeps_swapMove {x0 x1 : Nat} {x2 : List Nat} {x3 : State} (h3 : State.memOk x3) :
    State.memOk (swapMove x0 x1 x2 x3) := by
  unfold swapMove
  with_reducible repeat' (first
    | assumption | apply keeps_updMod | apply keeps_again | apply keeps_tellHost | apply keeps_refuseOp | apply keeps_unlessPaused
    | apply keeps_setSwap | apply keeps_continueSwap | simp only [same_state, same_core, same_cluster, same_die, same_mod] | intro _ | split)
theorem keeps_execSwapCommand {x0 x1 : Nat} {x2 : List Nat} {x3 : State} (h3 : State.memOk x3) :
    ∀ t, (execSwapCommand x0 x1 x2 x3) = .next t → State.memOk t :=
  next_keeps (keeps_swapMove h3)

/-! ### Time and ticks (Machine/Clock.lean) -/

theorem keeps_updTime {x0 : State} {x1 : Nat} {x2 : TimeUnit → TimeUnit} (h0 : State.memOk x0) :
    State.memOk (updTime x0 x1 x2) := by
  unfold updTime
  with_reducible repeat' (first | assumption | apply keeps_updMod | simp only [same_state, same_core, same_cluster, same_die, same_mod] | intro _)
theorem keeps_writeTmcfg {x0 x1 : Nat} {x2 : State} (h2 : State.memOk x2) :
    State.memOk (writeTmcfg x0 x1 x2) := by
  unfold writeTmcfg
  with_reducible repeat' (first | assumption | apply keeps_updTime)
theorem keeps_execTmcfgWrite {x0 x1 : Nat} {x2 : State} (h2 : State.memOk x2) :
    ∀ t, (execTmcfgWrite x0 x1 x2) = .next t → State.memOk t :=
  next_keeps (keeps_writeTmcfg h2)
theorem keeps_Die_lasting {x0 : Nat} {x1 : Die} (h1 : Mem.wf (Die.weights x1) = true) :
    Mem.wf (Die.weights (Die.lasting x0 x1)) = true := by
  unfold Die.lasting
  try dsimp only
  with_reducible repeat' (first | assumption | refine ite_state ?_ ?_ | apply foldl_memOk | apply memOk_getCore | apply memOk_getCluster | apply memOk_getMod | apply memOk_getPart | apply memOk_focusCore | simp only [same_state, same_core, same_cluster, same_die, same_mod] | intro _ | split )
theorem keeps_endRefresh {x0 : Nat} {x1 : State} (h1 : State.memOk x1) :
    State.memOk (endRefresh x0 x1) := by
  unfold endRefresh
  try dsimp only
  with_reducible repeat' (first | assumption | refine ite_state ?_ ?_ | apply keeps_updDie | apply foldl_memOk | apply memOk_getCore | apply memOk_getCluster | apply memOk_getMod | apply memOk_getPart | apply memOk_focusCore | simp only [same_state, same_core, same_cluster, same_die, same_mod] | intro _ | split )
theorem keeps_openRefresh {x0 : Nat} {x1 : Nat} {x2 : State} (h2 : State.memOk x2) :
    State.memOk (openRefresh x0 x1 x2) := by
  unfold openRefresh
  try dsimp only
  with_reducible repeat' (first | assumption | refine ite_state ?_ ?_ | apply keeps_updDie | apply keeps_endRefresh | apply foldl_memOk | apply memOk_getCore | apply memOk_getCluster | apply memOk_getMod | apply memOk_getPart | apply memOk_focusCore | simp only [same_state, same_core, same_cluster, same_die, same_mod] | intro _ | split )
theorem keeps_openWindows {x0 : Nat} {x1 : State} (h1 : State.memOk x1) :
    State.memOk (openWindows x0 x1) := by
  unfold openWindows
  try dsimp only
  with_reducible repeat' (first | assumption | refine ite_state ?_ ?_ | apply keeps_openRefresh | apply foldl_memOk | apply memOk_getCore | apply memOk_getCluster | apply memOk_getMod | apply memOk_getPart | apply memOk_focusCore | simp only [same_state, same_core, same_cluster, same_die, same_mod] | intro _ | split )
theorem keeps_updTick {x0 : State} {x1 x2 : Nat} {x3 : Tick → Tick} (h0 : State.memOk x0) :
    State.memOk (updTick x0 x1 x2 x3) := by
  unfold updTick
  with_reducible repeat' (first | assumption | apply keeps_updMod | simp only [same_state, same_core, same_cluster, same_die, same_mod] | intro _)
theorem keeps_pickFiring {x0 : Nat} {x1 : State} {x2 : Nat} (h1 : State.memOk x1) :
    State.memOk (pickFiring x0 x1 x2) := by
  unfold pickFiring
  try dsimp only
  with_reducible repeat' (first | assumption | refine ite_state ?_ ?_ | refine keeps_openValue_eq (by assumption) ?_ | apply keeps_openValue | apply keeps_updTick | apply foldl_memOk | apply memOk_getCore | apply memOk_getCluster | apply memOk_getMod | apply memOk_getPart | apply memOk_focusCore | simp only [same_state, same_core, same_cluster, same_die, same_mod] | intro _ | split )
theorem keeps_stepForward {x0 : Nat} {x1 : Nat} {x2 : State} (h2 : State.memOk x2) :
    State.memOk (stepForward x0 x1 x2) := by
  have key : ∀ s : State, s.memOk → State.memOk { s with agenda := dueTimed s x0 ++ s.agenda } := fun s h => h
  have hp : ∀ s : State, s.memOk → State.memOk ((List.range 16).foldl (pickFiring x0) s) :=
    fun s h => foldl_memOk (fun s a h => keeps_pickFiring h) h
  have hl : ∀ s : State, s.memOk → State.memOk ((List.range 8).foldl (fun s i => updDie s (8 * x0 + i) (Die.lasting x1)) s) :=
    fun s h => foldl_memOk (fun s i h => keeps_updDie (fun d h => keeps_Die_lasting h) h) h
  have he : State.memOk ((List.range 8).foldl (fun s i => endRefresh (8 * x0 + i) s) x2) := foldl_memOk (fun s i h => keeps_endRefresh h) h2
  exact key _ (hp _ (keeps_openWindows (hl _ (keeps_updTime he))))
theorem keeps_writeTick {x0 x1 x2 : Nat} {x3 : List Nat} {x4 : State} (h4 : State.memOk x4) :
    State.memOk (writeTick x0 x1 x2 x3 x4).1 := by
  unfold writeTick
  try dsimp only
  with_reducible repeat' (first | assumption | apply keeps_updTick | split)
theorem keeps_writeTick_eq {x0 x1 x2 : Nat} {x3 : List Nat} {x4 t : State} {u : Bool} (e : (writeTick x0 x1 x2 x3 x4) = (t, u)) (h4 : State.memOk x4) :
    State.memOk t := fst_keeps e (keeps_writeTick h4)
theorem keeps_answerIf {x0 : Nat} {x1 : State × Bool} (h : State.memOk x1.1) :
    State.memOk (answerIf x0 x1) := by
  exact ite_state (keeps_answerDone h) (keeps_refuseOp h)
theorem keeps_tickSetMove {x0 x1 x2 : Nat} {x3 : List Nat} {x4 : State} (h4 : State.memOk x4) :
    State.memOk (tickSetMove x0 x1 x2 x3 x4) := by
  unfold tickSetMove
  with_reducible repeat' (first | assumption | apply keeps_unlessPaused | apply keeps_writeTick | apply keeps_answerIf | intro _)
theorem keeps_execTickSet {x0 x1 x2 : Nat} {x3 : List Nat} {x4 : State} (h4 : State.memOk x4) :
    ∀ t, (execTickSet x0 x1 x2 x3 x4) = .next t → State.memOk t :=
  next_keeps (keeps_tickSetMove h4)
theorem keeps_wakeTick {x0 x1 x2 : Nat} {x3 : State} (h3 : State.memOk x3) :
    State.memOk (wakeTick x0 x1 x2 x3) := by
  unfold wakeTick
  try simp only [openValue]
  with_reducible repeat' (first
    | assumption | apply keeps_updCore | apply foldl_memOk | simp only [same_state, same_core, same_cluster, same_die, same_mod] | intro _ | split)
theorem keeps_tickTarget {x0 : Nat} {x1 : Tick} {x2 x3 : Nat} {x4 : State} (h4 : State.memOk x4) :
    State.memOk (tickTarget x0 x1 x2 x3 x4).1 := by
  unfold tickTarget
  try dsimp only
  with_reducible repeat' (first | assumption | apply keeps_dueWrite | apply keeps_updQueue | apply keeps_countHbm | split)
theorem keeps_tickTarget_eq {x0 : Nat} {x1 : Tick} {x2 x3 : Nat} {x4 t : State} {u : Bool} (e : (tickTarget x0 x1 x2 x3 x4) = (t, u)) (h4 : State.memOk x4) :
    State.memOk t := fst_keeps e (keeps_tickTarget h4)
theorem keeps_deliverFiring {x0 : Nat} {x1 : Nat} {x2 : Nat} {x3 : Nat} {x4 : State} (h4 : State.memOk x4) :
    State.memOk (deliverFiring x0 x1 x2 x3 x4) := by
  unfold deliverFiring
  try dsimp only
  with_reducible repeat' (first | assumption | refine ite_state ?_ ?_ | apply keeps_updTick | apply keeps_wakeTick | refine keeps_tickTarget_eq (by assumption) ?_ | apply keeps_tickTarget | apply foldl_memOk | apply memOk_getCore | apply memOk_getCluster | apply memOk_getMod | apply memOk_getPart | apply memOk_focusCore | simp only [same_state, same_core, same_cluster, same_die, same_mod] | intro _ | split )
theorem keeps_tickMove {x0 : Nat} {x1 : Nat} {x2 : State} (h2 : State.memOk x2) :
    State.memOk (tickMove x0 x1 x2) := by
  unfold tickMove
  try dsimp only
  with_reducible repeat' (first | assumption | refine ite_state ?_ ?_ | apply keeps_deliverFiring | apply foldl_memOk | apply memOk_getCore | apply memOk_getCluster | apply memOk_getMod | apply memOk_getPart | apply memOk_focusCore | simp only [same_state, same_core, same_cluster, same_die, same_mod] | intro _ | split )
theorem keeps_releaseTicks {x0 : Nat} {x1 : Nat} {x2 : State} (h2 : State.memOk x2) :
    State.memOk (releaseTicks x0 x1 x2) := by
  unfold releaseTicks
  try dsimp only
  with_reducible repeat' (first | assumption | refine ite_state ?_ ?_ | refine keeps_openValue_eq (by assumption) ?_ | apply keeps_openValue | apply keeps_deliverFiring | apply foldl_memOk | apply memOk_getCore | apply memOk_getCluster | apply memOk_getMod | apply memOk_getPart | apply memOk_focusCore | simp only [same_state, same_core, same_cluster, same_die, same_mod] | intro _ | split )
theorem keeps_execTickFiring {x0 x1 : Nat} {x2 : State} (h2 : State.memOk x2) :
    ∀ t, (execTickFiring x0 x1 x2) = .next t → State.memOk t :=
  next_keeps (keeps_tickMove h2)
theorem keeps_pinFrames {x0 : Bool} {x1 : List (Nat × Nat)} {x2 : State} (h2 : State.memOk x2) :
    State.memOk (pinFrames x0 x1 x2) := by
  unfold pinFrames
  with_reducible repeat' (first | assumption | apply foldl_memOk | apply keeps_updFrame | intro _)
theorem keeps_setWindow {x0 x1 : Nat} {x2 : Option Window} {x3 : State} (h3 : State.memOk x3) :
    State.memOk (setWindow x0 x1 x2 x3) := by
  unfold setWindow
  with_reducible repeat' (first | assumption | apply keeps_updMod | simp only [same_state, same_core, same_cluster, same_die, same_mod] | intro _)
theorem keeps_winOpenMove {x0 : Nat} {x1 : Nat} {x2 : Nat} {x3 : Nat} {x4 : List Nat} {x5 : State} (h5 : State.memOk x5) :
    State.memOk (winOpenMove x0 x1 x2 x3 x4 x5) := by
  unfold winOpenMove
  try dsimp only
  with_reducible repeat' (first | assumption | refine ite_state ?_ ?_ | apply keeps_unlessPaused | apply keeps_refuseOp | apply keeps_again | apply keeps_pinFrames | apply keeps_answerDone | apply keeps_dueWrite | apply keeps_setWindow | apply foldl_memOk | apply memOk_getCore | apply memOk_getCluster | apply memOk_getMod | apply memOk_getPart | apply memOk_focusCore | simp only [same_state, same_core, same_cluster, same_die, same_mod] | intro _ | split )
theorem keeps_execWinOpen {x0 x1 : Nat} {x2 x3 : Nat} {x4 : List Nat} {x5 : State} (h5 : State.memOk x5) :
    ∀ t, (execWinOpen x0 x1 x2 x3 x4 x5) = .next t → State.memOk t :=
  next_keeps (keeps_winOpenMove h5)
theorem keeps_shutWindow {x0 x1 : Nat} {x2 : State} (h2 : State.memOk x2) :
    State.memOk (shutWindow x0 x1 x2) := by
  unfold shutWindow
  with_reducible repeat' (first | assumption | apply keeps_pinFrames | apply keeps_setWindow | split)
theorem keeps_execWinClose {x0 x1 x2 : Nat} {x3 : State} (h3 : State.memOk x3) :
    ∀ t, (execWinClose x0 x1 x2 x3) = .next t → State.memOk t := by
  intro t ht
  unfold execWinClose at ht
  injection ht with ht
  rw [← ht]
  with_reducible repeat' (first
    | assumption | apply keeps_answerDone | apply keeps_refuseOp | apply keeps_unlessPaused | apply keeps_shutWindow | intro _ | split)
theorem keeps_cacheWrite {x0 x1 : Nat} {x2 : Window} {x3 : Nat} {x4 : List Nat} {x5 : State} (h5 : State.memOk x5) :
    State.memOk (cacheWrite x0 x1 x2 x3 x4 x5) := by
  unfold cacheWrite
  with_reducible repeat' (first | assumption | apply foldl_memOk | apply keeps_dueWrite | intro _)
theorem keeps_sinkWrite {x0 : Window} {x1 : Int} {x2 : List Nat} {x3 : State} (h3 : State.memOk x3) :
    State.memOk (sinkWrite x0 x1 x2 x3) := by
  exact foldl_keeps (P := fun x : State × List Nat => x.1.memOk) (fun x p hx => keeps_physWrite hx) h3
theorem keeps_slotCloseMove {x0 x1 : Nat} {x2 : State} (h2 : State.memOk x2) :
    State.memOk (slotCloseMove x0 x1 x2) := by
  unfold slotCloseMove
  with_reducible repeat' (first | assumption | apply keeps_dueWrite | apply keeps_setWindow | apply keeps_cacheWrite | apply keeps_sinkWrite | split)
theorem keeps_execSlotClose {x0 x1 : Nat} {x2 : State} (h2 : State.memOk x2) :
    ∀ t, (execSlotClose x0 x1 x2) = .next t → State.memOk t :=
  next_keeps (keeps_slotCloseMove h2)
theorem keeps_tokenIn {x0 x1 x2 : Nat} {x3 : Window} {x4 : Token} {x5 : State} (h5 : State.memOk x5) :
    State.memOk (tokenIn x0 x1 x2 x3 x4 x5) := by
  unfold tokenIn
  try dsimp only
  with_reducible repeat' (first | assumption | apply keeps_countMod | apply keeps_setWindow | apply keeps_cacheWrite | apply keeps_sinkWrite | split)
theorem keeps_forwardToken {x0 : Nat} {x1 : Job} {x2 : Token} {x3 : State} (h3 : State.memOk x3) :
    State.memOk (forwardToken x0 x1 x2 x3) := by
  unfold forwardToken
  try simp only [openValue, openAny]
  with_reducible repeat' (first
    | assumption | apply keeps_countMod | apply keeps_countErr | apply keeps_again
    | simp only [same_state, same_core, same_cluster, same_die, same_mod] | split)
theorem keeps_tokenMove {x0 x1 : Nat} {x2 : Token} {x3 : State} (h3 : State.memOk x3) :
    State.memOk (tokenMove x0 x1 x2 x3) := by
  unfold tokenMove
  with_reducible repeat' (first
    | assumption | apply keeps_countMod | apply keeps_countErr | apply keeps_again | apply keeps_tokenIn | apply keeps_forwardToken | split)
theorem keeps_execTokenArrival {x0 x1 : Nat} {x2 : Token} {x3 : State} (h3 : State.memOk x3) :
    ∀ t, (execTokenArrival x0 x1 x2 x3) = .next t → State.memOk t :=
  next_keeps (keeps_tokenMove h3)

/-! ### PTP (Machine/Ptp.lean) -/

theorem keeps_sendPtp {x0 : Nat} {x1 : Nat} {x2 : Nat} {x3 : PtpMsg} {x4 : State} (h4 : State.memOk x4) :
    State.memOk (sendPtp x0 x1 x2 x3 x4) := by
  unfold sendPtp
  try dsimp only
  with_reducible repeat' (first | assumption | refine ite_state ?_ ?_ | apply keeps_tellHost | apply keeps_again | apply keeps_countMod | apply foldl_memOk | apply memOk_getCore | apply memOk_getCluster | apply memOk_getMod | apply memOk_getPart | apply memOk_focusCore | simp only [same_state, same_core, same_cluster, same_die, same_mod] | intro _ | split )
theorem keeps_peerDelayMove {x0 : Nat} {x1 : Nat} {x2 : PeerMsg} {x3 : State} (h3 : State.memOk x3) :
    State.memOk (peerDelayMove x0 x1 x2 x3) := by
  unfold peerDelayMove
  try dsimp only
  with_reducible repeat' (first | assumption | refine ite_state ?_ ?_ | apply keeps_updTime | refine keeps_openAny_eq (by assumption) ?_ | apply keeps_openAny | apply keeps_sendPtp | apply foldl_memOk | apply memOk_getCore | apply memOk_getCluster | apply memOk_getMod | apply memOk_getPart | apply memOk_focusCore | simp only [same_state, same_core, same_cluster, same_die, same_mod] | intro _ | split )
theorem keeps_execPeerDelayMessage {x0 : Nat} {x1 : Nat} {x2 : PeerMsg} {x3 : State} (h3 : State.memOk x3) :
    ∀ t, (execPeerDelayMessage x0 x1 x2 x3) = .next t → State.memOk t := by
  intro t ht
  unfold execPeerDelayMessage at ht
  injection ht with ht
  rw [← ht]
  try dsimp only
  with_reducible repeat' (first | assumption | refine ite_state ?_ ?_ | apply keeps_peerDelayMove | apply foldl_memOk | apply memOk_getCore | apply memOk_getCluster | apply memOk_getMod | apply memOk_getPart | apply memOk_focusCore | apply wf_regs | apply wf_ra | apply wf_raNone | apply wf_scratch | apply wf_codeOld | apply wf_hbm | apply wf_host | apply wf_saves | apply wf_parts | apply Mem.write_wf | simp only [mk_state, mk_core, mk_cluster, mk_mod] | apply And.intro | intro _ | split )
theorem keeps_selectMaster {x0 : Nat} {x1 : State} (h1 : State.memOk x1) :
    State.memOk (selectMaster x0 x1) := by
  unfold selectMaster
  try dsimp only
  with_reducible repeat' (first | assumption | refine ite_state ?_ ?_ | apply keeps_updTime | apply foldl_memOk | apply memOk_getCore | apply memOk_getCluster | apply memOk_getMod | apply memOk_getPart | apply memOk_focusCore | simp only [same_state, same_core, same_cluster, same_die, same_mod] | intro _ | split )
theorem keeps_announceMove {x0 : Nat} {x1 : Nat} {x2 : Announce} {x3 : State} (h3 : State.memOk x3) :
    State.memOk (announceMove x0 x1 x2 x3) := by
  unfold announceMove
  try dsimp only
  with_reducible repeat' (first | assumption | refine ite_state ?_ ?_ | apply keeps_selectMaster | apply keeps_updTime | apply foldl_memOk | apply memOk_getCore | apply memOk_getCluster | apply memOk_getMod | apply memOk_getPart | apply memOk_focusCore | apply wf_regs | apply wf_ra | apply wf_raNone | apply wf_scratch | apply wf_codeOld | apply wf_hbm | apply wf_host | apply wf_saves | apply wf_parts | apply Mem.write_wf | simp only [mk_state, mk_core, mk_cluster, mk_mod] | apply And.intro | intro _ | split )
theorem keeps_execAnnounceReceive {x0 : Nat} {x1 : PortAnnounce} {x2 : State} (h2 : State.memOk x2) :
    ∀ t, (execAnnounceReceive x0 x1 x2) = .next t → State.memOk t := by
  intro t ht
  unfold execAnnounceReceive at ht
  injection ht with ht
  rw [← ht]
  try dsimp only
  with_reducible repeat' (first | assumption | refine ite_state ?_ ?_ | apply keeps_announceMove | apply foldl_memOk | apply memOk_getCore | apply memOk_getCluster | apply memOk_getMod | apply memOk_getPart | apply memOk_focusCore | simp only [same_state, same_core, same_cluster, same_die, same_mod] | intro _ | split )
theorem keeps_announceTimeoutMove {x0 : Nat} {x1 : State} (h1 : State.memOk x1) :
    State.memOk (announceTimeoutMove x0 x1) := by
  unfold announceTimeoutMove
  try dsimp only
  with_reducible repeat' (first | assumption | refine ite_state ?_ ?_ | apply keeps_selectMaster | apply keeps_updTime | apply foldl_memOk | apply memOk_getCore | apply memOk_getCluster | apply memOk_getMod | apply memOk_getPart | apply memOk_focusCore | apply wf_regs | apply wf_ra | apply wf_raNone | apply wf_scratch | apply wf_codeOld | apply wf_hbm | apply wf_host | apply wf_saves | apply wf_parts | apply Mem.write_wf | simp only [mk_state, mk_core, mk_cluster, mk_mod] | apply And.intro | intro _ | split )
theorem keeps_execAnnounceReceiptTimeout {x0 : State} (h0 : State.memOk x0) :
    ∀ t, (execAnnounceReceiptTimeout x0) = .next t → State.memOk t := by
  intro t ht
  unfold execAnnounceReceiptTimeout at ht
  injection ht with ht
  rw [← ht]
  try dsimp only
  with_reducible repeat' (first | assumption | refine ite_state ?_ ?_ | apply keeps_announceTimeoutMove | apply foldl_memOk | apply memOk_getCore | apply memOk_getCluster | apply memOk_getMod | apply memOk_getPart | apply memOk_focusCore | simp only [same_state, same_core, same_cluster, same_die, same_mod] | intro _ | split )
theorem keeps_chooseRate {x0 : Nat} {x1 : State} (h1 : State.memOk x1) :
    State.memOk (chooseRate x0 x1) := by
  unfold chooseRate
  try dsimp only
  with_reducible repeat' (first | assumption | refine ite_state ?_ ?_ | refine keeps_openValue_eq (by assumption) ?_ | apply keeps_openValue | apply keeps_updTime | apply foldl_memOk | apply memOk_getCore | apply memOk_getCluster | apply memOk_getMod | apply memOk_getPart | apply memOk_focusCore | simp only [same_state, same_core, same_cluster, same_die, same_mod] | intro _ | split )
theorem keeps_measure {x0 : Nat} {x1 : Option Nat} {x2 : State} (h2 : State.memOk x2) :
    State.memOk (measure x0 x1 x2).2 := by
  unfold measure
  try dsimp only
  with_reducible repeat' (first | assumption | refine ite_state ?_ ?_ | refine keeps_openAny_eq (by assumption) ?_ | apply keeps_openAny | refine keeps_openValue_eq (by assumption) ?_ | apply keeps_openValue | apply foldl_memOk | apply memOk_getCore | apply memOk_getCluster | apply memOk_getMod | apply memOk_getPart | apply memOk_focusCore | simp only [same_state, same_core, same_cluster, same_die, same_mod] | intro _ | split )
theorem keeps_measure_eq {x0 : Nat} {x1 : Option Nat} {x2 : State} {t : State} {u : Int} (e : (measure x0 x1 x2) = (u, t)) (h2 : State.memOk x2) : State.memOk t := snd_keeps e (keeps_measure h2)
theorem keeps_syncMove {x0 : Nat} {x1 : Nat} {x2 : Option Nat} {x3 : Nat} {x4 : Nat} {x5 : State} (h5 : State.memOk x5) :
    State.memOk (syncMove x0 x1 x2 x3 x4 x5) := by
  unfold syncMove
  try dsimp only
  with_reducible repeat' (first | assumption | refine ite_state ?_ ?_ | refine keeps_measure_eq (by assumption) ?_ | apply keeps_measure | apply keeps_chooseRate | apply keeps_updTime | apply keeps_stepForward | apply foldl_memOk | apply memOk_getCore | apply memOk_getCluster | apply memOk_getMod | apply memOk_getPart | apply memOk_focusCore | simp only [same_state, same_core, same_cluster, same_die, same_mod] | intro _ | split )
theorem keeps_execSyncReceive {x0 : Nat} {x1 : Nat} {x2 : SyncMsg} {x3 : State} (h3 : State.memOk x3) :
    ∀ t, (execSyncReceive x0 x1 x2 x3) = .next t → State.memOk t := by
  intro t ht
  unfold execSyncReceive at ht
  injection ht with ht
  rw [← ht]
  try dsimp only
  with_reducible repeat' (first | assumption | refine ite_state ?_ ?_ | apply keeps_syncMove | apply foldl_memOk | apply memOk_getCore | apply memOk_getCluster | apply memOk_getMod | apply memOk_getPart | apply memOk_focusCore | simp only [same_state, same_core, same_cluster, same_die, same_mod] | intro _ | split )
theorem keeps_syncIntervalMove {x0 : Nat} {x1 : State} (h1 : State.memOk x1) : State.memOk (syncIntervalMove x0 x1) := by
  have ho : ∀ (f : TimeUnit → TimeUnit), State.memOk (updTime x1 x0 f) := fun f => keeps_updTime h1
  have ha : ∀ (due : Prop) [Decidable due] (t : TimeUnit) (now : Nat) (ps : List Nat) (s : State), s.memOk → State.memOk (ps.foldl (fun s port =>
      if due then sendPtp x0 port 0 (.announce (nextAnnounce t x0)) (sendPtp x0 port 0 (.sync (t.bound now) t.logsync) s)
      else sendPtp x0 port 0 (.sync (t.bound now) t.logsync) s) s) :=
    fun due _ t now ps s h => foldl_memOk (fun s p h => ite_state (keeps_sendPtp (keeps_sendPtp h)) (keeps_sendPtp h)) h
  unfold syncIntervalMove
  refine ite_state h1 ?_
  exact foldl_memOk (fun s p h => keeps_sendPtp h) (ha _ _ _ _ _ (ho _))
theorem keeps_execSyncInterval {x0 : State} (h0 : State.memOk x0) :
    ∀ t, (execSyncInterval x0) = .next t → State.memOk t := by
  intro t ht
  unfold execSyncInterval at ht
  injection ht with ht
  rw [← ht]
  try dsimp only
  with_reducible repeat' (first | assumption | refine ite_state ?_ ?_ | apply keeps_syncIntervalMove | apply foldl_memOk | apply memOk_getCore | apply memOk_getCluster | apply memOk_getMod | apply memOk_getPart | apply memOk_focusCore | simp only [same_state, same_core, same_cluster, same_die, same_mod] | intro _ | split )
theorem keeps_execOffsetBoundExpiry {x0 : State} (h0 : State.memOk x0) :
    ∀ t, (execOffsetBoundExpiry x0) = .next t → State.memOk t := by
  intro t ht
  unfold execOffsetBoundExpiry at ht
  dsimp only at ht
  injection ht with ht
  rw [← ht]
  with_reducible repeat' (first | assumption | refine ite_state ?_ ?_ | apply keeps_updTime)
theorem keeps_execHoldoverExpiry {x0 : State} (h0 : State.memOk x0) :
    ∀ t, (execHoldoverExpiry x0) = .next t → State.memOk t := by
  intro t ht
  unfold execHoldoverExpiry at ht
  dsimp only at ht
  injection ht with ht
  rw [← ht]
  with_reducible repeat' (first | assumption | refine ite_state ?_ ?_ | apply keeps_updTime)

/-! ### Ordering (Machine/Order.lean) -/

theorem keeps_claimed {x0 x1 : Nat} {x2 : State} (h2 : State.memOk x2) :
    State.memOk (claimed x0 x1 x2) := by
  unfold claimed
  with_reducible repeat' (first
    | assumption | apply keeps_updCore | apply keeps_dropCached | apply keeps_wakeAt
    | simp only [same_state, same_core, same_cluster, same_die, same_mod] | intro _)
theorem keeps_setAttempt {x0 x1 : Nat} {x2 : Option Nat} {x3 : State} (h3 : State.memOk x3) :
    State.memOk (setAttempt x0 x1 x2 x3) := by
  unfold setAttempt
  with_reducible repeat' (first | assumption | apply keeps_updCore | simp only [same_state, same_core, same_cluster, same_die, same_mod] | intro _)
theorem keeps_retryAcq {x0 x1 : Nat} {x2 : State} (h2 : State.memOk x2) :
    State.memOk (retryAcq x0 x1 x2) := by
  unfold retryAcq
  try simp only [openValue]
  with_reducible repeat' (first | assumption | apply keeps_setAttempt | simp only [same_state, same_core, same_cluster, same_die, same_mod])
theorem keeps_acqMove {x0 : Nat} {x1 : State} (h1 : State.memOk x1) :
    State.memOk (acqMove x0 x1) := by
  unfold acqMove
  try dsimp only
  with_reducible repeat' (first | assumption | refine ite_state ?_ ?_ | refine keeps_syncPlace_eq (by assumption) ?_ | apply keeps_syncPlace | apply keeps_retryAcq | apply keeps_claimed | apply keeps_physWrite | apply keeps_markDirty | apply keeps_setAttempt | apply keeps_scratchWrite | apply foldl_memOk | apply memOk_getCore | apply memOk_getCluster | apply memOk_getMod | apply memOk_getPart | apply memOk_focusCore | simp only [same_state, same_core, same_cluster, same_die, same_mod] | intro _ | split )
theorem keeps_execAcqAttempt {x0 : State} (h0 : State.memOk x0) :
    ∀ t, (execAcqAttempt x0) = .next t → State.memOk t :=
  next_keeps (keeps_acqMove h0)
theorem keeps_completeRel {x0 : Nat} {x1 : Binding} {x2 : State} (h2 : State.memOk x2) :
    State.memOk (completeRel x0 x1 x2) := by
  unfold completeRel
  try dsimp only
  with_reducible repeat' (first | assumption | refine ite_state ?_ ?_ | apply keeps_updCore | refine keeps_syncPlace_eq (by assumption) ?_ | apply keeps_syncPlace | apply keeps_markDirty | apply keeps_physWrite | apply keeps_scratchWrite | apply foldl_memOk | apply memOk_getCore | apply memOk_getCluster | apply memOk_getMod | apply memOk_getPart | apply memOk_focusCore | simp only [same_state, same_core, same_cluster, same_die, same_mod] | intro _ | split )
theorem keeps_setRelDue {x0 : Nat} {x1 : Nat} {x2 : State} (h2 : State.memOk x2) :
    State.memOk (setRelDue x0 x1 x2) := by
  unfold setRelDue
  try dsimp only
  with_reducible repeat' (first | assumption | refine ite_state ?_ ?_ | apply keeps_updCore | apply foldl_memOk | apply memOk_getCore | apply memOk_getCluster | apply memOk_getMod | apply memOk_getPart | apply memOk_focusCore | simp only [same_state, same_core, same_cluster, same_die, same_mod] | intro _ | split )
theorem keeps_relMove {x0 : Nat} {x1 : State} (h1 : State.memOk x1) :
    State.memOk (relMove x0 x1) := by
  unfold relMove
  try dsimp only
  with_reducible repeat' (first | assumption | refine ite_state ?_ ?_ | apply keeps_updCore | apply keeps_completeRel | refine keeps_openAny_eq (by assumption) ?_ | apply keeps_openAny | apply keeps_setRelDue | apply foldl_memOk | apply memOk_getCore | apply memOk_getCluster | apply memOk_getMod | apply memOk_getPart | apply memOk_focusCore | simp only [same_state, same_core, same_cluster, same_die, same_mod] | intro _ | split )
theorem keeps_execRelComplete {x0 : State} (h0 : State.memOk x0) :
    ∀ t, (execRelComplete x0) = .next t → State.memOk t := by
  intro t ht
  unfold execRelComplete at ht
  injection ht with ht
  rw [← ht]
  try dsimp only
  with_reducible repeat' (first | assumption | refine ite_state ?_ ?_ | apply keeps_relMove | apply foldl_memOk | apply memOk_getCore | apply memOk_getCluster | apply memOk_getMod | apply memOk_getPart | apply memOk_focusCore | simp only [same_state, same_core, same_cluster, same_die, same_mod] | intro _ | split )
theorem keeps_fenceMove {x0 : Nat} {x1 : State} (h1 : State.memOk x1) :
    State.memOk (fenceMove x0 x1) := by
  unfold fenceMove
  with_reducible repeat' (first
    | assumption | apply keeps_updCore | apply wf_regs | apply wf_ra | simp only [mk_core] | apply And.intro | intro _ | split)
theorem keeps_execFenceComplete {x0 : State} (h0 : State.memOk x0) :
    ∀ t, (execFenceComplete x0) = .next t → State.memOk t :=
  next_keeps (keeps_fenceMove h0)

/-! ### Saving and restoring (Machine/Save.lean) -/

theorem keeps_Core_freeze {x0 : Nat} {x1 : Core} (h1 : Core.memOk x1) :
    Core.memOk (Core.freeze x0 x1) := h1
theorem keeps_Core_stepShift {x0 : Nat} {x1 : Core} (h1 : Core.memOk x1) :
    Core.memOk (Core.stepShift x0 x1) := by
  unfold Core.stepShift
  with_reducible repeat' (first | assumption | refine ite_core ?_ ?_ | simp only [same_state, same_core, same_cluster, same_die, same_mod])
theorem keeps_Core_thaw {x0 : Nat} {x1 : Core} (h1 : Core.memOk x1) :
    Core.memOk (Core.thaw x0 x1) := by
  unfold Core.thaw
  try dsimp only
  with_reducible repeat' (first | assumption | refine ite_state ?_ ?_ | apply keeps_Core_stepShift | apply foldl_memOk | apply memOk_getCore | apply memOk_getCluster | apply memOk_getMod | apply memOk_getPart | apply memOk_focusCore | simp only [same_state, same_core, same_cluster, same_die, same_mod] | intro _ | split )
theorem keeps_retestWait {x0 x1 : Nat} {x2 : State} (h2 : State.memOk x2) :
    State.memOk (retestWait x0 x1 x2) := by
  unfold retestWait
  try simp only [openValue]
  with_reducible repeat' (first
    | assumption | apply keeps_updCore | simp only [same_state, same_core, same_cluster, same_die, same_mod] | intro _ | split)
theorem keeps_liveFault {x0 : Nat} {x1 : Nat} {x2 : Nat} {x3 : State} (h3 : State.memOk x3) :
    State.memOk (liveFault x0 x1 x2 x3) := by
  unfold liveFault
  try dsimp only
  with_reducible repeat' (first | assumption | refine ite_state ?_ ?_ | apply keeps_updCore | apply keeps_updFocus | apply keeps_issued | apply keeps_trapBundle | apply foldl_memOk | apply memOk_getCore | apply memOk_getCluster | apply memOk_getMod | apply memOk_getPart | apply memOk_focusCore | simp only [same_state, same_core, same_cluster, same_die, same_mod] | intro _ | split )
theorem keeps_Core_leaveLanding {x0 : Nat} {x1 : Core} (h1 : Core.memOk x1) :
    Core.memOk (Core.leaveLanding x0 x1) := by
  unfold Core.leaveLanding
  with_reducible repeat' (first | assumption | apply keeps_endCore | simp only [same_state, same_core, same_cluster, same_die, same_mod] | split)
theorem keeps_updPart {x0 : State} {x1 x2 : Nat} {x3 : Part → Part} (h0 : State.memOk x0) (h3 : ∀ p, Part.memOk p → Part.memOk (x3 p)) :
    State.memOk (updPart x0 x1 x2 x3) := by
  exact keeps_updMod (fun md hm => ⟨hm.1, hm.2.1, hm.2.2.1, parts_set (h3 _ (memOk_getPart hm.2.2.2 _)) hm.2.2.2⟩) h0
theorem keeps_openBytes {x0 x1 x2 : Nat} {x3 : State} (h3 : State.memOk x3) :
    State.memOk (openBytes x0 x1 x2 x3) := by
  unfold openBytes
  with_reducible repeat' (first | assumption | apply keeps_physWrite | simp only [same_state, same_core, same_cluster, same_die, same_mod])
theorem keeps_writeRecords {x0 : Nat} {x1 : List (List Nat)} {x2 : Nat} {x3 : State} (h3 : State.memOk x3) : State.memOk (writeRecords x0 x1 x2 x3) := by
  induction x1 generalizing x2 x3 with
  | nil => exact h3
  | cons b bs ih => exact ih (keeps_physWrite (keeps_openBytes h3))
theorem keeps_writeFrame {x0 : Nat} {x1 : Nat} {x2 : Nat} {x3 : Nat} {x4 : List (List Nat)} {x5 : List (List Nat)} {x6 : State} (h6 : State.memOk x6) :
    State.memOk (writeFrame x0 x1 x2 x3 x4 x5 x6) := by
  unfold writeFrame
  try dsimp only
  with_reducible repeat' (first | assumption | refine ite_state ?_ ?_ | apply keeps_writeRecords | apply keeps_openBytes | apply foldl_memOk | apply memOk_getCore | apply memOk_getCluster | apply memOk_getMod | apply memOk_getPart | apply memOk_focusCore | simp only [same_state, same_core, same_cluster, same_die, same_mod] | intro _ | split )
theorem keeps_freeTheFrame {x0 x1 x2 : Nat} {x3 : State} (h3 : State.memOk x3) :
    State.memOk (freeTheFrame x0 x1 x2 x3) := by
  exact keeps_updPart h3 (fun p h => h)
theorem keeps_Core_clearArray {x0 : Core} (h0 : Core.memOk x0) :
    Core.memOk (Core.clearArray x0) := h0
theorem keeps_landedCore {x0 : Nat} {x1 : LiveSet} {x2 : Core} (h2 : Core.memOk x2) :
    Core.memOk (landedCore x0 x1 x2) := by
  unfold landedCore
  dsimp only
  have hl : Core.memOk (Core.leaveLanding x0 x2) := keeps_Core_leaveLanding h2
  refine ⟨Mem.filter_wf _ _ h2.1, ?_⟩
  have : Core.memOk (if x1.arr then Core.leaveLanding x0 x2 else Core.clearArray (Core.leaveLanding x0 x2)) := ite_core hl (keeps_Core_clearArray hl)
  exact this.2
theorem keeps_retiredCore {x0 : Core} (h0 : Core.memOk x0) :
    Core.memOk (retiredCore x0) := by
  unfold retiredCore
  try dsimp only
  with_reducible repeat' (first | assumption | refine ite_state ?_ ?_ | apply keeps_landedCore | apply foldl_memOk | apply memOk_getCore | apply memOk_getCluster | apply memOk_getMod | apply memOk_getPart | apply memOk_focusCore | simp only [same_state, same_core, same_cluster, same_die, same_mod] | intro _ | split )
theorem keeps_savedCluster {x0 : Bool} {x1 : Cluster} (h1 : Cluster.memOk x1) :
    Cluster.memOk (savedCluster x0 x1) := by
  unfold savedCluster
  with_reducible repeat' (first
    | assumption | apply wf_scratch | apply wf_codeOld | apply Mem.nil_wf | simp only [mk_cluster] | apply And.intro | split)
theorem keeps_leaveCluster {x0 : Nat} {x1 : State} (h1 : State.memOk x1) :
    State.memOk (leaveCluster x0 x1) := by
  unfold leaveCluster
  with_reducible repeat' (first
    | assumption | apply keeps_updCluster | apply keeps_setCore | apply foldl_memOk | apply memOk_coreReset
    | simp only [same_state, same_core, same_cluster, same_die, same_mod] | intro _)
theorem keeps_resumeReady {x0 : Nat} {x1 : Nat} {x2 : State} (h2 : State.memOk x2) :
    State.memOk (resumeReady x0 x1 x2) := by
  unfold resumeReady
  try dsimp only
  with_reducible repeat' (first | assumption | refine ite_state ?_ ?_ | apply keeps_updCluster | apply foldl_memOk | apply memOk_getCore | apply memOk_getCluster | apply memOk_getMod | apply memOk_getPart | apply memOk_focusCore | simp only [same_state, same_core, same_cluster, same_die, same_mod] | intro _ | split )
theorem keeps_abandonSave {x0 : Nat} {x1 : State} (h1 : State.memOk x1) :
    State.memOk (abandonSave x0 x1) := by
  unfold abandonSave
  dsimp only
  exact keeps_updCluster (fun c h => h) (keeps_resumeReady (keeps_tellHost (keeps_updPart h1 (fun p h => h))))
theorem keeps_restDie {x0 : Nat} {x1 : State} (h1 : State.memOk x1) :
    State.memOk (restDie x0 x1) := by
  unfold restDie
  try dsimp only
  with_reducible repeat' (first | assumption | refine ite_state ?_ ?_ | apply keeps_updDie | apply foldl_memOk | apply memOk_getCore | apply memOk_getCluster | apply memOk_getMod | apply memOk_getPart | apply memOk_focusCore | simp only [same_state, same_core, same_cluster, same_die, same_mod] | intro _ | split )
theorem keeps_bringMarks {x0 : Nat} {x1 : Saved} {x2 : State} (h1 : Saved.memOk x1) (h2 : State.memOk x2) :
    State.memOk (bringMarks x0 x1 x2) := by
  unfold bringMarks
  try dsimp only
  with_reducible repeat' (first | assumption | refine ite_state ?_ ?_ | apply foldl_memOk | apply memOk_getCore | apply memOk_getCluster | apply memOk_getMod | apply memOk_getPart | apply memOk_focusCore | simp only [same_state, same_core, same_cluster, same_die, same_mod] | intro _ | split )
theorem keeps_recordSave {x0 : Nat} {x3 : Saved} {x4 : State} (h3 : Saved.memOk x3) (h4 : State.memOk x4) :
    State.memOk (recordSave x0 x3 x4) := by
  unfold recordSave
  dsimp only
  refine keeps_restDie (keeps_leaveCluster (keeps_updLaunch (keeps_updMod (fun md hm => ⟨hm.1, hm.2.1, fun v hv => ?_, hm.2.2.2⟩) h4)))
  rcases List.mem_append.mp hv with hv | hv
  · exact hm.2.2.1 v hv
  · rcases List.mem_singleton.mp hv with rfl
    exact h3
theorem keeps_beginEngine {m part : Nat} {dir whole : Bool} {c uid frame size : Nat} {s : State} (h : s.memOk) :
    (beginEngine m part dir whole c uid frame size s).memOk :=
  keeps_updPart (x0 := { s with free := s.free + 1 }) h (fun p h => h)
theorem keeps_engineChunk {m part : Nat} {s : State} (h : s.memOk) : (engineChunk m part s).memOk :=
  keeps_updPart (x0 := { s with free := s.free + 1 }) h (fun p h => h)
theorem keeps_engineRest {m part : Nat} {s : State} (h : s.memOk) : (engineRest m part s).memOk := keeps_updPart h (fun p h => h)
theorem keeps_saveLanded {x0 : Nat} {x1 : State} (h1 : State.memOk x1) :
    State.memOk (saveLanded x0 x1) := by
  unfold saveLanded
  dsimp only
  split
  · exact h1
  · exact keeps_engineChunk h1
  · split
    · exact foldl_memOk (fun s k h => ite_state (keeps_updCore (fun c h => keeps_Core_leaveLanding h) h) h)
        (keeps_updCluster (fun c h => h) (keeps_abandonSave h1))
    · exact keeps_beginEngine h1
  · refine keeps_recordSave ⟨keeps_savedCluster (memOk_getCluster h1 _), fun x hx => ?_⟩ (keeps_engineRest (keeps_writeFrame h1))
    obtain ⟨k, _, rfl⟩ := List.mem_map.mp hx
    dsimp only
    split
    · exact keeps_landedCore (memOk_getCore h1 _)
    · exact keeps_retiredCore (memOk_getCore h1 _)
theorem keeps_taskSaveMove {x0 : Nat} {x1 : State} (h1 : State.memOk x1) :
    State.memOk (taskSaveMove x0 x1) := by
  unfold taskSaveMove
  try dsimp only
  with_reducible repeat' (first | assumption | refine ite_state ?_ ?_ | apply keeps_liveFault | apply keeps_saveLanded | apply foldl_memOk | apply memOk_getCore | apply memOk_getCluster | apply memOk_getMod | apply memOk_getPart | apply memOk_focusCore | simp only [same_state, same_core, same_cluster, same_die, same_mod] | intro _ | split )
theorem keeps_execTaskSave {x0 : State} (h0 : State.memOk x0) :
    ∀ t, (execTaskSave x0) = .next t → State.memOk t :=
  next_keeps (keeps_taskSaveMove h0)
theorem keeps_beginWhole {x0 : Nat} {x1 : State} (h1 : State.memOk x1) :
    State.memOk (beginWhole x0 x1) := by
  unfold beginWhole
  with_reducible repeat' (first
    | assumption | apply keeps_updCore | apply keeps_updCluster | apply foldl_memOk | apply keeps_Core_freeze
    | simp only [same_state, same_core, same_cluster, same_die, same_mod] | intro _)
theorem keeps_wholeCore {x0 : Core} (h0 : Core.memOk x0) :
    Core.memOk (wholeCore x0) := by
  unfold wholeCore
  with_reducible repeat' (first
    | assumption | refine ite_core ?_ ?_ | apply keeps_Core_leaveLanding | simp only [same_state, same_core, same_cluster, same_die, same_mod])
theorem keeps_goOn {x0 x1 : Nat} {x2 : State} (h2 : State.memOk x2) :
    State.memOk (goOn x0 x1 x2) := by
  unfold goOn
  with_reducible repeat' (first
    | assumption | refine ite_state ?_ ?_ | apply keeps_updCore | apply keeps_Core_thaw | apply keeps_retestWait | apply keeps_Core_leaveLanding)
theorem keeps_hyperCore {x0 : State} {x1 : Nat} {x2 : Nat} (h0 : State.memOk x0) :
    Core.memOk (hyperCore x0 x1 x2) := by
  unfold hyperCore
  try dsimp only
  with_reducible repeat' (first | assumption | refine ite_state ?_ ?_ | apply keeps_wholeCore | apply foldl_memOk | apply memOk_getCore | apply memOk_getCluster | apply memOk_getMod | apply memOk_getPart | apply memOk_focusCore | simp only [same_state, same_core, same_cluster, same_die, same_mod] | intro _ | split )
theorem keeps_saveWhole {x0 : Nat} {x1 : State} (h1 : State.memOk x1) :
    State.memOk (saveWhole x0 x1) := by
  unfold saveWhole
  dsimp only
  have hv : ∀ x ∈ (usedCores x1 x0).map (fun k => (k, wholeCore (getCore x1 k))), Core.memOk x.2 := by
    intro x hx
    obtain ⟨k, _, rfl⟩ := List.mem_map.mp hx
    exact keeps_wholeCore (memOk_getCore h1 _)
  have hh : ∀ x ∈ (usedCores x1 x0).map (fun k => (k, hyperCore x1 x0 k)), Core.memOk x.2 := by
    intro x hx
    obtain ⟨k, _, rfl⟩ := List.mem_map.mp hx
    unfold hyperCore
    dsimp only
    split
    · exact memOk_getCore h1 _
    · exact keeps_wholeCore (memOk_getCore h1 _)
  split
  · exact keeps_recordSave ⟨keeps_savedCluster (memOk_getCluster h1 _), hh⟩ h1
  · split
    · exact h1
    · exact keeps_engineChunk h1
    · exact keeps_recordSave ⟨keeps_savedCluster (memOk_getCluster h1 _), hv⟩ (keeps_engineRest (keeps_writeFrame h1))
    · split
      · exact keeps_beginEngine h1
      · exact foldl_memOk (fun s k h => keeps_goOn h) (keeps_updCluster (fun c h => h) (keeps_abandonSave h1))
theorem keeps_wholeSaveMove {x0 : Nat} {x1 : State} (h1 : State.memOk x1) :
    State.memOk (wholeSaveMove x0 x1) := by
  unfold wholeSaveMove
  with_reducible repeat' (first | assumption | refine ite_state ?_ ?_ | apply keeps_beginWhole | apply keeps_saveWhole)
theorem keeps_execWholeContextSave {x0 : State} (h0 : State.memOk x0) :
    ∀ t, (execWholeContextSave x0) = .next t → State.memOk t :=
  next_keeps (keeps_wholeSaveMove h0)
theorem keeps_fillEntry {x0 : Nat} {x1 : State} (h1 : State.memOk x1) :
    State.memOk (fillEntry x0 x1) := by
  unfold fillEntry
  with_reducible repeat' (first
    | assumption | apply keeps_updCore | apply keeps_askBlocks | simp only [same_state, same_core, same_cluster, same_die, same_mod] | intro _)
theorem keeps_restoreCore {x0 : Nat} {x1 : Nat} {x2 : Nat} {x3 : Core} {x4 : State} (h3 : Core.memOk x3) (h4 : State.memOk x4) :
    State.memOk (restoreCore x0 x1 x2 x3 x4) := by
  unfold restoreCore
  try dsimp only
  with_reducible repeat' (first | assumption | refine ite_state ?_ ?_ | apply keeps_updCore | apply keeps_setCore | apply keeps_Core_thaw | apply keeps_retestWait | apply keeps_fillEntry | apply foldl_memOk | apply memOk_getCore | apply memOk_getCluster | apply memOk_getMod | apply memOk_getPart | apply memOk_focusCore | simp only [same_state, same_core, same_cluster, same_die, same_mod] | intro _ | split )
theorem keeps_restoreTask {x0 : Nat} {x1 : Saved} {x2 : State} (h1 : Saved.memOk x1) (h2 : State.memOk x2) :
    State.memOk (restoreTask x0 x1 x2) := by
  have hcl := h1.1
  have hs : ∀ (b : Prop) [Decidable b] (l : Nat) (xs : List (Nat × Core)) (s : State), (∀ x ∈ xs, Core.memOk x.2) → State.memOk s →
      State.memOk (List.foldl (fun s x => if b then setCore s x.1 x.2 else restoreCore (s.cycle + 1) l x.1 x.2 s) s xs) := by
    intro b _ l xs
    induction xs with
    | nil => exact fun s _ h => h
    | cons y ys ih =>
      intro s hx h
      exact ih _ (fun z hz => hx z (List.mem_cons_of_mem _ hz))
        (ite_state (keeps_setCore (hx y (List.mem_cons_self ..)) h) (keeps_restoreCore (hx y (List.mem_cons_self ..)) h))
  have hr : ∀ (rs : List (Nat × List Nat)) (s : State), State.memOk s → State.memOk (rs.foldl (fun s r =>
      clearScratchMarks (updCluster s x0 fun cl => { cl with scratch := writeHalf cl false r.1 r.2 }) x0 false r.1 r.2.length) s) :=
    fun rs s h => foldl_memOk (fun s r h => keeps_clearScratchMarks (keeps_updCluster (fun c h => ⟨writeHalf_wf _ _ _ _ h.1, h.2⟩) h)) h
  have hg : ∀ (s : State), State.memOk s → State.memOk ((List.range 16).foldl (fun s g => if runs s x0 g then takeHeld x0 g s else s) s) :=
    fun s h => foldl_memOk (fun s g h => ite_state (keeps_takeHeld h) h) h
  have hm : ∀ (s : State), State.memOk s →
      State.memOk (updMod s (x0 / 96) fun md => { md with saves := md.saves.filter fun y => !(y.uid == x1.uid && y.cluster == x0) }) :=
    fun s h => keeps_updMod (fun md hm => ⟨hm.1, hm.2.1, filter_all hm.2.2.1, hm.2.2.2⟩) h
  have hc : ∀ (s : State), State.memOk s → State.memOk (updCluster s x0 fun cl => { cl with codeOld := if x1.whole then x1.cl.codeOld else cl.scratch }) :=
    fun s h => keeps_updCluster (fun c h => ⟨h.1, by dsimp only; split; exact hcl.2; exact h.1⟩) h
  have ha : ∀ (tk : TaskState) (pre : Bool), State.memOk (updCluster x2 x0 fun cl =>
    { cl with bindings := x1.cl.bindings, swapped := x1.cl.swapped, pubs := x1.cl.pubs, graphs := x1.cl.graphs, ctx := x1.cl.ctx, cv := x1.cl.cv,
              history := x1.cl.history, stopped := x1.cl.stopped, failedCopy := x1.cl.failedCopy, cache := []
              recon := x1.cl.recon, reconAt := x1.cl.reconAt, task := tk, preempt := pre
              scratch := if x1.whole then x1.cl.scratch else cl.scratch }) :=
    fun tk pre => keeps_updCluster (fun c h => ⟨by dsimp only; split; exact hcl.1; exact h.1, h.2⟩) h2
  have hf : ∀ (b : Prop) [Decidable b] (s : State), State.memOk s → State.memOk (if b then s else freeTheFrame (x0 / 96) x1.part x1.frame s) :=
    fun b _ s h => ite_state h (keeps_freeTheFrame h)
  have hw : ∀ (s : State), State.memOk s →
      State.memOk (updCluster s x0 fun cl => { cl with wholeSave := (ownRequests cl).any fun q => q.paused.isSome }) :=
    fun s h => keeps_updCluster (fun c h => h) h
  have hd : ∀ (s : State), State.memOk s → State.memOk (updDie s (x0 / 12) fun d => { d with power := .active }) :=
    fun s h => keeps_updDie (fun d h => h) h
  unfold restoreTask
  dsimp only
  split
  · refine ite_state (keeps_stopLaunch ?_) ?_ <;>
    · refine hg _ (hm _ (hf _ _ (hs _ _ _ _ h1.2 (hc _ (keeps_bringMarks h1 (hr _ _ (hw _ ?_)))))))
      exact ite_state (hd _ (ha _ _)) (keeps_resumeReady (hd _ (ha _ _)))
  · refine hg _ (hm _ (hf _ _ (hs _ _ _ _ h1.2 (hc _ (keeps_bringMarks h1 (hr _ _ (hw _ ?_)))))))
    exact ite_state (hd _ (ha _ _)) (keeps_resumeReady (hd _ (ha _ _)))
theorem keeps_taskRestoreMove {c : Nat} {s : State} (h : s.memOk) : (taskRestoreMove c s).memOk := by
  unfold taskRestoreMove
  refine ite_state h ?_
  split
  · exact h
  · next v hv =>
    dsimp only
    split
    · exact keeps_again h
    · exact keeps_again (keeps_beginEngine h)
    · exact keeps_again (keeps_engineChunk h)
    · exact keeps_restoreTask (wf_saves (memOk_getMod h _) v (List.mem_of_find?_eq_some hv)) (keeps_engineRest h)
theorem keeps_execTaskRestore {x0 : State} (h0 : State.memOk x0) :
    ∀ t, (execTaskRestore x0) = .next t → State.memOk t :=
  next_keeps (keeps_taskRestoreMove h0)
theorem keeps_execAbandonHoldoffExpiry {x0 : State} (h0 : State.memOk x0) :
    ∀ t, (execAbandonHoldoffExpiry x0) = .next t → State.memOk t := by
  intro t ht
  unfold execAbandonHoldoffExpiry at ht
  dsimp only at ht
  injection ht with ht
  rw [← ht]
  with_reducible repeat' (first
    | assumption | apply keeps_updCluster | apply wf_scratch | apply wf_codeOld | simp only [mk_cluster] | apply And.intro | intro _ | split)
theorem keeps_forHypervisor {x0 : Nat} {x1 : State} {x2 : State → State} (h1 : State.memOk x1) (h2 : ∀ (y0 : State), State.memOk y0 → State.memOk (x2 y0)) :
    State.memOk (forHypervisor x0 x1 x2) := by
  unfold forHypervisor
  try dsimp only
  with_reducible repeat' (first | assumption | refine ite_state ?_ ?_ | apply keeps_refuseOp | apply foldl_memOk | apply h2 | apply memOk_getCore | apply memOk_getCluster | apply memOk_getMod | apply memOk_getPart | apply memOk_focusCore | simp only [same_state, same_core, same_cluster, same_die, same_mod] | intro _ | split )
theorem keeps_execPartPreempt {x0 x1 : Nat} {x2 : State} (h2 : State.memOk x2) :
    ∀ t, (execPartPreempt x0 x1 x2) = .next t → State.memOk t := by
  intro t ht
  unfold execPartPreempt at ht
  injection ht with ht
  rw [← ht]
  exact keeps_unlessPaused h2 (fun s h => keeps_forHypervisor h (fun s h => keeps_answerDone (keeps_updPart h (fun p h => h))))
theorem keeps_partResumeMove {x0 x1 : Nat} {x2 : State} (h2 : State.memOk x2) :
    State.memOk (partResumeMove x0 x1 x2) := by
  unfold partResumeMove
  refine keeps_unlessPaused h2 (fun s h => keeps_forHypervisor h (fun s h => ?_))
  dsimp only
  have hf : ∀ (vs : List Saved) (s : State), (∀ v ∈ vs, v.memOk) → s.memOk →
      State.memOk (vs.foldl (fun s v => if (getCluster s v.cluster).task = .none then restoreTask v.cluster v s else s) s) := by
    intro vs
    induction vs with
    | nil => exact fun s _ h => h
    | cons v vs ih => exact fun s hv h => ih _ (fun w hw => hv w (List.mem_cons_of_mem _ hw)) (ite_state (keeps_restoreTask (hv v (List.mem_cons_self ..)) h) h)
  exact keeps_answerDone (foldl_memOk (fun s c h => foldl_memOk (fun s k h => keeps_retestWait (keeps_updCore (fun c h => keeps_Core_thaw h) h))
    (keeps_updCluster (fun c h => h) (keeps_resumeReady h))) (hf _ _ (filter_all (wf_saves (memOk_getMod h _))) (keeps_updPart h (fun p h => h))))
theorem keeps_execPartResume {x0 x1 : Nat} {x2 : State} (h2 : State.memOk x2) :
    ∀ t, (execPartResume x0 x1 x2) = .next t → State.memOk t :=
  next_keeps (keeps_partResumeMove h2)

/-! ### Launch and reconfiguration (Machine/Launch.lean) -/

theorem keeps_queueIrq {x0 x1 : Nat} {x2 : State} (h2 : State.memOk x2) :
    State.memOk (queueIrq x0 x1 x2) := by
  unfold queueIrq
  with_reducible repeat' (first | assumption | refine ite_state ?_ ?_ | apply keeps_tellHost)
theorem keeps_pauseQueue {x0 : Nat} {x1 : Nat} {x2 : Bool} {x3 : Bool} {x4 : Nat} {x5 : State} (h5 : State.memOk x5) :
    State.memOk (pauseQueue x0 x1 x2 x3 x4 x5) := by
  unfold pauseQueue
  try dsimp only
  with_reducible repeat' (first | assumption | refine ite_state ?_ ?_ | apply keeps_sendFault | apply keeps_queueIrq | apply keeps_updQueue | apply foldl_memOk | apply memOk_getCore | apply memOk_getCluster | apply memOk_getMod | apply memOk_getPart | apply memOk_focusCore | simp only [same_state, same_core, same_cluster, same_die, same_mod] | intro _ | split )
theorem keeps_readPacket {x0 : Nat} {x1 : Nat} {x2 : State} (h2 : State.memOk x2) :
    State.memOk (readPacket x0 x1 x2) := by
  unfold readPacket
  try dsimp only
  with_reducible repeat' (first | assumption | refine ite_state ?_ ?_ | apply keeps_pauseQueue | apply keeps_updQueue | apply foldl_memOk | apply memOk_getCore | apply memOk_getCluster | apply memOk_getMod | apply memOk_getPart | apply memOk_focusCore | simp only [same_state, same_core, same_cluster, same_die, same_mod] | intro _ | split )
theorem keeps_execQueueDoorbell {x0 : Nat} {x1 : Nat} {x2 : State} (h2 : State.memOk x2) :
    ∀ t, (execQueueDoorbell x0 x1 x2) = .next t → State.memOk t := by
  intro t ht
  unfold execQueueDoorbell at ht
  injection ht with ht
  rw [← ht]
  try dsimp only
  with_reducible repeat' (first | assumption | refine ite_state ?_ ?_ | apply keeps_afterHeld | apply keeps_readPacket | apply foldl_memOk | apply memOk_getCore | apply memOk_getCluster | apply memOk_getMod | apply memOk_getPart | apply memOk_focusCore | simp only [same_state, same_core, same_cluster, same_die, same_mod] | intro _ | split )
theorem keeps_execQueuePollTimer {x0 x1 : Nat} {x2 : State} (h2 : State.memOk x2) :
    ∀ t, (execQueuePollTimer x0 x1 x2) = .next t → State.memOk t := by
  intro t ht
  unfold execQueuePollTimer at ht
  injection ht with ht
  rw [← ht]
  with_reducible repeat' (first | assumption | refine ite_state ?_ ?_ | apply keeps_readPacket)
theorem keeps_execPacketRead {x0 x1 : Nat} {x2 : State} (h2 : State.memOk x2) :
    ∀ t, (execPacketRead x0 x1 x2) = .next t → State.memOk t := by
  intro t ht
  unfold execPacketRead at ht
  injection ht with ht
  rw [← ht]
  with_reducible repeat' (first | assumption | refine ite_state ?_ ?_ | apply keeps_readPacket)
theorem keeps_goQueue {x0 x1 : Nat} {x2 : State} (h2 : State.memOk x2) :
    State.memOk (goQueue x0 x1 x2) := by
  unfold goQueue
  with_reducible repeat' (first | assumption | apply keeps_updQueue | apply keeps_readPacket)
theorem keeps_execQueueGo {x0 : Nat} {x1 : Nat} {x2 : Nat} {x3 : State} (h3 : State.memOk x3) :
    ∀ t, (execQueueGo x0 x1 x2 x3) = .next t → State.memOk t := by
  intro t ht
  unfold execQueueGo at ht
  injection ht with ht
  rw [← ht]
  try dsimp only
  with_reducible repeat' (first | assumption | refine ite_state ?_ ?_ | apply keeps_afterHeld | apply keeps_goQueue | apply foldl_memOk | apply memOk_getCore | apply memOk_getCluster | apply memOk_getMod | apply memOk_getPart | apply memOk_focusCore | simp only [same_state, same_core, same_cluster, same_die, same_mod] | intro _ | split )
theorem keeps_execQueueErrClear {x0 : Nat} {x1 : Nat} {x2 : Nat} {x3 : Bool} {x4 : Bool} {x5 : State} (h5 : State.memOk x5) :
    ∀ t, (execQueueErrClear x0 x1 x2 x3 x4 x5) = .next t → State.memOk t := by
  intro t ht
  unfold execQueueErrClear at ht
  injection ht with ht
  rw [← ht]
  try dsimp only
  with_reducible repeat' (first | assumption | refine ite_state ?_ ?_ | apply keeps_afterHeld | apply keeps_updQueue | apply foldl_memOk | apply memOk_getCore | apply memOk_getCluster | apply memOk_getMod | apply memOk_getPart | apply memOk_focusCore | simp only [same_state, same_core, same_cluster, same_die, same_mod] | intro _ | split )
theorem keeps_execQueueCompletionAck {x0 : Nat} {x1 : Nat} {x2 : Nat} {x3 : Nat} {x4 : State} (h4 : State.memOk x4) :
    ∀ t, (execQueueCompletionAck x0 x1 x2 x3 x4) = .next t → State.memOk t := by
  intro t ht
  unfold execQueueCompletionAck at ht
  injection ht with ht
  rw [← ht]
  try dsimp only
  with_reducible repeat' (first | assumption | refine ite_state ?_ ?_ | apply keeps_afterHeld | apply keeps_updQueue | apply foldl_memOk | apply memOk_getCore | apply memOk_getCluster | apply memOk_getMod | apply memOk_getPart | apply memOk_focusCore | simp only [same_state, same_core, same_cluster, same_die, same_mod] | intro _ | split )
theorem keeps_pushRecord {x0 x1 : Nat} {x2 x3 : Nat} {x4 x5 : Nat} {x6 : List Nat} {x7 x8 : Nat} {x9 : State} (h9 : State.memOk x9) :
    State.memOk (pushRecord x0 x1 x2 x3 x4 x5 x6 x7 x8 x9) := by
  unfold pushRecord
  with_reducible repeat' (first | assumption | apply keeps_updQueue)
theorem keeps_dropHead {x0 x1 x2 : Nat} {x3 : List Nat} {x4 : State} (h4 : State.memOk x4) :
    State.memOk (dropHead x0 x1 x2 x3 x4) := by
  unfold dropHead
  with_reducible repeat' (first
    | assumption | apply keeps_updMod | apply keeps_updQueue | apply keeps_pushRecord
    | simp only [same_state, same_core, same_cluster, same_die, same_mod] | intro _)
theorem keeps_dependencesMet {x0 x1 : Nat} {x2 : Launch} {x3 : State} (h3 : State.memOk x3) :
    State.memOk (dependencesMet x0 x1 x2 x3) := by
  unfold dependencesMet
  with_reducible repeat' (first | assumption | apply keeps_updLaunch | apply keeps_dropHead | split)
theorem keeps_testDeps {x0 x1 : Nat} {x2 : Launch} {x3 : State} (h3 : State.memOk x3) :
    State.memOk (testDeps x0 x1 x2 x3) := by
  unfold testDeps
  try simp only [openValue]
  with_reducible repeat' (first
    | assumption | apply keeps_updLaunch | apply keeps_dropHead | apply keeps_dependencesMet
    | simp only [same_state, same_core, same_cluster, same_die, same_mod] | split)
theorem keeps_claimJob {x0 x1 : Nat} {x2 : List Nat} {x3 : State} (h3 : State.memOk x3) :
    State.memOk (claimJob x0 x1 x2 x3) := by
  unfold claimJob
  with_reducible repeat' (first | assumption | refine ite_state ?_ ?_ | apply keeps_updJob)
theorem keeps_enterHead {x0 x1 : Nat} {x2 : Packet} {x3 : State} (h3 : State.memOk x3) :
    State.memOk (enterHead x0 x1 x2 x3) := by
  unfold enterHead
  with_reducible repeat' (first
    | assumption | apply keeps_updMod | apply keeps_dropHead | apply keeps_testDeps | apply keeps_claimJob
    | simp only [same_state, same_core, same_cluster, same_die, same_mod] | intro _ | split)
theorem keeps_dependenceMove {x0 x1 : Nat} {x2 : State} (h2 : State.memOk x2) :
    State.memOk (dependenceMove x0 x1 x2) := by
  unfold dependenceMove
  try dsimp only
  with_reducible repeat' (first | assumption | apply keeps_testDeps | apply keeps_enterHead | split)
theorem keeps_execDependenceTest {x0 x1 : Nat} {x2 : State} (h2 : State.memOk x2) :
    ∀ t, (execDependenceTest x0 x1 x2) = .next t → State.memOk t :=
  next_keeps (keeps_dependenceMove h2)
theorem keeps_pickSome {x0 : Nat} {x1 : List Nat} {x2 : State} (h2 : State.memOk x2) :
    State.memOk (pickSome x0 x1 x2).2 := by
  induction x0 generalizing x1 x2 with
  | zero => unfold pickSome; exact h2
  | succ n ih =>
    cases x1 with
    | nil => unfold pickSome; exact h2
    | cons y ys => unfold pickSome; exact ih (keeps_openValue (x0 := 0) h2)
theorem keeps_pickSome_eq {x0 : Nat} {x1 : List Nat} {x2 t : State} {u : List Nat} (e : (pickSome x0 x1 x2) = (u, t)) (h2 : State.memOk x2) :
    State.memOk t := snd_keeps e (keeps_pickSome h2)
theorem keeps_endLaunch {x0 : Nat} {x1 : Launch} {x2 x3 : Nat} {x4 : State} (h4 : State.memOk x4) :
    State.memOk (endLaunch x0 x1 x2 x3 x4) := by
  unfold endLaunch
  with_reducible repeat' (first | assumption | apply keeps_updLaunch | apply keeps_pushRecord)
theorem keeps_beginLoading {x0 : Nat} {x1 : Launch} {x2 : List Nat} {x3 : State} (h3 : State.memOk x3) :
    State.memOk (beginLoading x0 x1 x2 x3) := by
  unfold beginLoading
  try dsimp only
  with_reducible repeat' (first | assumption | refine ite_state ?_ ?_ | apply keeps_updCluster | apply keeps_updDie | apply keeps_updQueue | apply keeps_updLaunch | apply keeps_endLaunch | refine keeps_openAny_eq (by assumption) ?_ | apply keeps_openAny | apply keeps_again | apply foldl_memOk | apply memOk_getCore | apply memOk_getCluster | apply memOk_getMod | apply memOk_getPart | apply memOk_focusCore | simp only [same_state, same_core, same_cluster, same_die, same_mod] | intro _ | split )
theorem keeps_beginRestore {v : Saved} {s : State} (h : s.memOk) : (beginRestore v s).memOk :=
  keeps_again (keeps_updCluster (fun c h => h) (keeps_updDie (fun d h => h) h))
theorem keeps_preemptFor {x0 x1 : Nat} {x2 x3 x4 : Nat} {x5 : State} (h5 : State.memOk x5) :
    State.memOk (preemptFor x0 x1 x2 x3 x4 x5) := by
  unfold preemptFor
  try dsimp only
  with_reducible repeat' (first | assumption | apply foldl_memOk | apply keeps_requestPreempt | intro _ | split)
theorem keeps_reserve {x0 : Nat} {x1 : Cand} {x2 : State} (h2 : State.memOk x2) :
    State.memOk (reserve x0 x1 x2) := by
  unfold reserve
  try dsimp only
  with_reducible repeat' (first | assumption | refine ite_state ?_ ?_ | apply keeps_updMod | apply foldl_memOk | apply memOk_getCore | apply memOk_getCluster | apply memOk_getMod | apply memOk_getPart | apply memOk_focusCore | simp only [same_state, same_core, same_cluster, same_die, same_mod] | intro _ | split )
theorem keeps_serve {x0 : Nat} {x1 : Cand} {x2 : State} (h2 : State.memOk x2) :
    State.memOk (serve x0 x1 x2) := by
  unfold serve
  try dsimp only
  with_reducible repeat' (first | assumption | refine ite_state ?_ ?_ | apply keeps_updMod | apply foldl_memOk | apply memOk_getCore | apply memOk_getCluster | apply memOk_getMod | apply memOk_getPart | apply memOk_focusCore | simp only [same_state, same_core, same_cluster, same_die, same_mod] | intro _ | split )
theorem keeps_decide_ {x0 : Nat} {x1 x2 : List Cand} {x3 : State} (h3 : State.memOk x3) : State.memOk (decide_ x0 x1 x2 x3) := by
  induction x2 generalizing x3 with
  | nil => unfold decide_; exact h3
  | cons x xs ih =>
    unfold decide_
    dsimp only
    split
    · split
      · exact keeps_beginRestore (keeps_serve h3)
      · split
        · exact ih (keeps_reserve h3)
        · exact ih (keeps_reserve (ite_state (keeps_requestPreempt h3) h3))
    · split
      · exact keeps_dropHead h3
      · split
        · exact keeps_beginLoading (keeps_serve (keeps_pickSome h3))
        · exact ih (keeps_reserve (keeps_preemptFor h3))
theorem keeps_decisionMove {x0 : Nat} {x1 : State} (h1 : State.memOk x1) :
    State.memOk (decisionMove x0 x1) := by
  unfold decisionMove
  try dsimp only
  with_reducible repeat' (first | assumption | refine ite_state ?_ ?_ | apply keeps_updMod | apply keeps_decide_ | apply foldl_memOk | apply memOk_getCore | apply memOk_getCluster | apply memOk_getMod | apply memOk_getPart | apply memOk_focusCore | simp only [same_state, same_core, same_cluster, same_die, same_mod] | intro _ | split )
theorem keeps_execLaunchDecision {x0 : State} (h0 : State.memOk x0) :
    ∀ t, (execLaunchDecision x0) = .next t → State.memOk t :=
  next_keeps (keeps_decisionMove h0)
theorem keeps_clearCoreMarks {x0 : Nat} {x1 : State} (h1 : State.memOk x1) :
    State.memOk (clearCoreMarks x0 x1) := by
  unfold clearCoreMarks
  try dsimp only
  with_reducible repeat' (first | assumption | refine ite_state ?_ ?_ | apply foldl_memOk | apply memOk_getCore | apply memOk_getCluster | apply memOk_getMod | apply memOk_getPart | apply memOk_focusCore | simp only [same_state, same_core, same_cluster, same_die, same_mod] | intro _ | split )
theorem keeps_Core_atLaunch {x0 x1 x2 : Nat} :
    Core.memOk (Core.atLaunch x0 x1 x2) := by
  exact ⟨rfl, fun r h => nomatch h⟩
theorem keeps_startCluster {x0 : Nat} {x1 : Launch} {x2 : Nat} {x3 : Nat} {x4 : State} (h4 : State.memOk x4) :
    State.memOk (startCluster x0 x1 x2 x3 x4) := by
  unfold startCluster
  try dsimp only
  with_reducible repeat' (first | assumption | refine ite_state ?_ ?_ | apply keeps_updCluster | apply keeps_setCore | apply keeps_clearCoreMarks | apply keeps_Core_atLaunch | apply keeps_fillEntry | apply foldl_memOk | apply memOk_getCore | apply memOk_getCluster | apply memOk_getMod | apply memOk_getPart | apply memOk_focusCore | apply wf_regs | apply wf_ra | apply wf_raNone | apply wf_scratch | apply wf_codeOld | apply wf_hbm | apply wf_host | apply wf_saves | apply wf_parts | apply Mem.write_wf | simp only [mk_state, mk_core, mk_cluster, mk_mod] | apply And.intro | intro _ | split )
theorem keeps_loadingMove {x0 : Nat} {x1 : State} (h1 : State.memOk x1) :
    State.memOk (loadingMove x0 x1) := by
  unfold loadingMove
  try dsimp only
  with_reducible repeat' (first
    | assumption | apply foldl_memOk | apply keeps_updLaunch | apply keeps_startCluster | apply keeps_endLaunch | intro _ | split)
theorem keeps_execLaunchLoading {x0 : State} (h0 : State.memOk x0) :
    ∀ t, (execLaunchLoading x0) = .next t → State.memOk t :=
  next_keeps (keeps_loadingMove h0)
theorem keeps_beginWrite {x0 : Nat} {x1 : Launch} {x2 : State} (h2 : State.memOk x2) :
    State.memOk (beginWrite x0 x1 x2) := by
  unfold beginWrite
  try simp only [openAny]
  with_reducible repeat' (first
    | assumption | apply keeps_updDie | apply foldl_memOk | apply keeps_updLaunch | apply keeps_updQueue
    | simp only [same_state, same_core, same_cluster, same_die, same_mod] | intro _)
theorem keeps_finishWrite {x0 : Nat} {x1 : Launch} {x2 : State} (h2 : State.memOk x2) :
    State.memOk (finishWrite x0 x1 x2) := by
  unfold finishWrite
  try dsimp only
  with_reducible repeat' (first | assumption | refine ite_state ?_ ?_ | apply keeps_updDie | apply keeps_countHbmRead | apply keeps_countHbm | apply keeps_clearMarks | apply keeps_endLaunch | refine keeps_openValue_eq (by assumption) ?_ | apply keeps_openValue | apply foldl_memOk | apply memOk_getCore | apply memOk_getCluster | apply memOk_getMod | apply memOk_getPart | apply memOk_focusCore | apply wf_regs | apply wf_ra | apply wf_raNone | apply wf_scratch | apply wf_codeOld | apply wf_hbm | apply wf_host | apply wf_saves | apply wf_parts | apply Mem.write_wf | simp only [mk_state, mk_core, mk_cluster, mk_mod] | apply And.intro | intro _ | split )
theorem keeps_weightWriteMove {x0 : Nat} {x1 : State} (h1 : State.memOk x1) :
    State.memOk (weightWriteMove x0 x1) := by
  unfold weightWriteMove
  try dsimp only
  with_reducible repeat' (first | assumption | refine ite_state ?_ ?_ | apply keeps_dropHead | apply keeps_beginWrite | apply keeps_finishWrite | apply foldl_memOk | apply memOk_getCore | apply memOk_getCluster | apply memOk_getMod | apply memOk_getPart | apply memOk_focusCore | simp only [same_state, same_core, same_cluster, same_die, same_mod] | intro _ | split )
theorem keeps_execWeightStoreWriteLaunch {x0 : State} (h0 : State.memOk x0) :
    ∀ t, (execWeightStoreWriteLaunch x0) = .next t → State.memOk t :=
  next_keeps (keeps_weightWriteMove h0)
theorem keeps_reconStep {x0 : Nat} {x1 : CvDesc} {x2 : State} (h2 : State.memOk x2) :
    State.memOk (reconStep x0 x1 x2) := by
  unfold reconStep
  with_reducible repeat' (first
    | assumption | apply keeps_updCluster | apply foldl_memOk | apply keeps_countErr | apply keeps_stopLaunch | apply keeps_failLaunch
    | apply keeps_updCtl | apply keeps_addSample | apply keeps_dueWrite | simp only [same_state, same_core, same_cluster, same_die, same_mod]
    | intro _ | split)
theorem keeps_reconMove {x0 : Nat} {x1 : State} (h1 : State.memOk x1) :
    State.memOk (reconMove x0 x1) := by
  unfold reconMove
  dsimp only
  split
  · refine ite_state ?_ h1
    split
    · exact ite_state (keeps_reconStep h1) h1
    · have ho := keeps_openAny h1
      exact ite_state (keeps_reconStep ho) (keeps_updCluster (fun c hc => by simpa only [same_cluster] using hc) ho)
  · exact h1
theorem keeps_execReconstructionPhase {x0 : State} (h0 : State.memOk x0) :
    ∀ t, (execReconstructionPhase x0) = .next t → State.memOk t :=
  next_keeps (keeps_reconMove h0)
theorem keeps_failRequests {x0 : Nat} {x1 : Nat} {x2 : State} (h2 : State.memOk x2) :
    State.memOk (failRequests x0 x1 x2) := by
  unfold failRequests
  try dsimp only
  with_reducible repeat' (first | assumption | refine ite_state ?_ ?_ | apply keeps_updCluster | refine keeps_openValue_eq (by assumption) ?_ | apply keeps_openValue | apply keeps_updReq | apply foldl_memOk | apply memOk_getCore | apply memOk_getCluster | apply memOk_getMod | apply memOk_getPart | apply memOk_focusCore | simp only [same_state, same_core, same_cluster, same_die, same_mod] | intro _ | split )
theorem keeps_failGraphs {x0 : Nat} {x1 : State} (h1 : State.memOk x1) :
    State.memOk (failGraphs x0 x1) := by
  unfold failGraphs
  try simp only [openValue]
  with_reducible repeat' (first
    | assumption | apply foldl_memOk | apply keeps_completeOp | simp only [same_state, same_core, same_cluster, same_die, same_mod] | intro _
    | split)
theorem keeps_dropRequests {x0 : Nat} {x1 : Nat} {x2 : State} (h2 : State.memOk x2) :
    State.memOk (dropRequests x0 x1 x2) := by
  unfold dropRequests
  try dsimp only
  with_reducible repeat' (first | assumption | refine ite_state ?_ ?_ | refine keeps_openValue_eq (by assumption) ?_ | apply keeps_openValue | apply keeps_leaveQueue | apply keeps_countFailure | apply foldl_memOk | apply memOk_getCore | apply memOk_getCluster | apply memOk_getMod | apply memOk_getPart | apply memOk_focusCore | simp only [same_state, same_core, same_cluster, same_die, same_mod] | intro _ | split )
theorem keeps_dropSaves {x0 x1 : Nat} {x2 : State} (h2 : State.memOk x2) :
    State.memOk (dropSaves x0 x1 x2) := by
  unfold dropSaves
  dsimp only
  exact keeps_updMod (fun md hm => ⟨hm.1, hm.2.1, filter_all hm.2.2.1, hm.2.2.2⟩)
    (foldl_memOk (fun s v h => ite_state (keeps_dropRequests h) (keeps_freeTheFrame (keeps_dropRequests h))) h2)
theorem keeps_finishSave {m n : Nat} {p : Part} {s : State} (h : s.memOk) : (finishSave m n p s).memOk := by
  unfold finishSave
  exact ite_state h (ite_state (keeps_freeTheFrame (keeps_engineRest h)) (keeps_engineChunk h))
theorem keeps_failingMove {x0 : Nat} {x1 : Launch} {x2 : State} (h2 : State.memOk x2) :
    State.memOk (failingMove x0 x1 x2) := by
  unfold failingMove
  try dsimp only
  with_reducible repeat' (first
    | assumption | apply foldl_memOk | apply keeps_endLaunch | apply keeps_failRequests | apply keeps_failGraphs | apply keeps_dropSaves | apply keeps_finishSave | intro _
    | split)
theorem keeps_runningMove {x0 : Nat} {x1 : Launch} {x2 : State} (h2 : State.memOk x2) :
    State.memOk (runningMove x0 x1 x2) := by
  unfold runningMove
  with_reducible repeat' (first | assumption | refine ite_state ?_ ?_ | apply keeps_updLaunch | apply keeps_endLaunch)
theorem keeps_updateInstant {x0 : Nat} {x1 : Launch} {x2 : State} (h2 : State.memOk x2) :
    State.memOk (updateInstant x0 x1 x2) := by
  unfold updateInstant
  with_reducible repeat' (first | assumption | apply keeps_updCtl | split)
theorem keeps_recorded {x0 : Nat} {x1 : Nat} {x2 : List Nat} {x3 : State} (h3 : State.memOk x3) :
    State.memOk (recorded x0 x1 x2 x3) := by
  unfold recorded
  try dsimp only
  with_reducible repeat' (first | assumption | refine ite_state ?_ ?_ | apply keeps_updMod | apply keeps_countMod | apply keeps_updateInstant | apply keeps_leaveCluster | apply keeps_restDie | apply keeps_finishPlaces | apply foldl_memOk | apply memOk_getCore | apply memOk_getCluster | apply memOk_getMod | apply memOk_getPart | apply memOk_focusCore | simp only [same_state, same_core, same_cluster, same_die, same_mod] | intro _ | split )
theorem keeps_flushRecord {x0 : Nat} {x1 : Nat} {x2 : State} (h2 : State.memOk x2) :
    State.memOk (flushRecord x0 x1 x2) := by
  unfold flushRecord
  try dsimp only
  with_reducible repeat' (first | assumption | refine ite_state ?_ ?_ | apply keeps_pauseQueue | apply keeps_physWrite | apply keeps_updQueue | apply keeps_recorded | apply keeps_queueIrq | apply foldl_memOk | apply memOk_getCore | apply memOk_getCluster | apply memOk_getMod | apply memOk_getPart | apply memOk_focusCore | simp only [same_state, same_core, same_cluster, same_die, same_mod] | intro _ | split )
theorem keeps_completeMove {x0 : Nat} {x1 : State} (h1 : State.memOk x1) :
    State.memOk (completeMove x0 x1) := by
  unfold completeMove
  try dsimp only
  with_reducible repeat' (first | assumption | refine ite_state ?_ ?_ | apply keeps_runningMove | apply keeps_failingMove | apply keeps_flushFaults | apply keeps_flushRecord | apply foldl_memOk | apply memOk_getCore | apply memOk_getCluster | apply memOk_getMod | apply memOk_getPart | apply memOk_focusCore | simp only [same_state, same_core, same_cluster, same_die, same_mod] | intro _ | split )
theorem keeps_execLaunchComplete {x0 : State} (h0 : State.memOk x0) :
    ∀ t, (execLaunchComplete x0) = .next t → State.memOk t :=
  next_keeps (keeps_completeMove h0)
theorem keeps_dumpLaunch {m uid cause : Nat} {going : List Nat} {s : State} (h : s.memOk) : (dumpLaunch m uid cause going s).memOk := by
  have hsv : ∀ v ∈ ((getMod s m).saves.filter fun v => v.uid == uid), v.memOk := filter_all (wf_saves (memOk_getMod h _))
  have hsc : ∀ v : Saved, v.memOk → Mem.wf v.scratch = true := by
    intro v hv
    unfold Saved.scratch
    split
    · exact hv.1.1
    · exact foldl_keeps (P := fun m : Mem => Mem.wf m = true) (fun m r hm => Mem.write_wf _ _ _ hm) rfl
  refine keeps_dumpWith (fun x hx => ?_) (fun x hx => ?_) h
  · rcases List.mem_append.mp hx with hx | hx
    · obtain ⟨c, _, rfl⟩ := List.mem_map.mp hx
      exact (memOk_getCluster h c).1
    · obtain ⟨v, hv, rfl⟩ := List.mem_map.mp hx
      obtain ⟨w, hw, rfl⟩ := List.mem_map.mp (List.mem_filter.mp hv).1
      exact hsc _ (hsv _ hw)
  · rcases List.mem_append.mp hx with hx | hx
    · obtain ⟨k, _, rfl⟩ := List.mem_map.mp hx
      exact memOk_getCore h k
    · obtain ⟨v, hv, hx⟩ := List.mem_flatMap.mp hx
      obtain ⟨w, hw, rfl⟩ := List.mem_map.mp (List.mem_filter.mp hv).1
      obtain ⟨y, hy, rfl⟩ := List.mem_map.mp hx
      exact keeps_Core_stopAt ((hsv _ hw).2 y (List.mem_filter.mp hy).1)
theorem keeps_killLaunch {x0 : Nat} {x1 : Nat} {x2 : Bool} {x3 : Launch} {x4 : State} (h4 : State.memOk x4) :
    State.memOk (killLaunch x0 x1 x2 x3 x4) := by
  unfold killLaunch
  try dsimp only
  with_reducible repeat' (first | assumption | refine ite_state ?_ ?_ | apply keeps_stopLaunch | apply keeps_dumpLaunch | apply keeps_failLaunch | apply foldl_memOk | apply memOk_getCore | apply memOk_getCluster | apply memOk_getMod | apply memOk_getPart | apply memOk_focusCore | simp only [same_state, same_core, same_cluster, same_die, same_mod] | intro _ | split )
theorem keeps_watchdogMove {x0 : Nat} {x1 : State} (h1 : State.memOk x1) :
    State.memOk (watchdogMove x0 x1) := by
  unfold watchdogMove
  try dsimp only
  with_reducible repeat' (first
    | assumption | apply keeps_updDie | apply foldl_memOk | apply keeps_endLaunch | apply keeps_killLaunch | intro _ | split)
theorem keeps_execLaunchWatchdogExpiry {x0 : State} (h0 : State.memOk x0) :
    ∀ t, (execLaunchWatchdogExpiry x0) = .next t → State.memOk t :=
  next_keeps (keeps_watchdogMove h0)
theorem keeps_writeCtl {x0 : Nat} {x1 : Nat} {x2 : Nat} {x3 : Bool} {x4 : List Nat} {x5 : State} (h5 : State.memOk x5) :
    State.memOk (writeCtl x0 x1 x2 x3 x4 x5).1 := by
  unfold writeCtl
  try dsimp only
  with_reducible repeat' (first | assumption | refine ite_state ?_ ?_ | apply keeps_updCtl | apply foldl_memOk | apply memOk_getCore | apply memOk_getCluster | apply memOk_getMod | apply memOk_getPart | apply memOk_focusCore | apply wf_regs | apply wf_ra | apply wf_raNone | apply wf_scratch | apply wf_codeOld | apply wf_hbm | apply wf_host | apply wf_saves | apply wf_parts | apply Mem.write_wf | simp only [mk_state, mk_core, mk_cluster, mk_mod] | apply And.intro | intro _ | split )
theorem keeps_writeCtl_eq {x0 : Nat} {x1 : Nat} {x2 : Nat} {x3 : Bool} {x4 : List Nat} {x5 : State} {t : State} {u : Bool} (e : (writeCtl x0 x1 x2 x3 x4 x5) = (t, u)) (h5 : State.memOk x5) : State.memOk t := fst_keeps e (keeps_writeCtl h5)
theorem keeps_cvAllotMove {x0 : Nat} {x1 : Nat} {x2 : Nat} {x3 : List Nat} {x4 : State} (h4 : State.memOk x4) :
    State.memOk (cvAllotMove x0 x1 x2 x3 x4) := by
  unfold cvAllotMove
  try dsimp only
  with_reducible repeat' (first | assumption | refine ite_state ?_ ?_ | apply keeps_unlessPaused | apply keeps_answerIf | refine keeps_writeCtl_eq (by assumption) ?_ | apply keeps_writeCtl | apply foldl_memOk | apply memOk_getCore | apply memOk_getCluster | apply memOk_getMod | apply memOk_getPart | apply memOk_focusCore | simp only [same_state, same_core, same_cluster, same_die, same_mod] | intro _ | split )
theorem keeps_execCvAllot {x0 x1 x2 : Nat} {x3 : List Nat} {x4 : State} (h4 : State.memOk x4) :
    ∀ t, (execCvAllot x0 x1 x2 x3 x4) = .next t → State.memOk t :=
  next_keeps (keeps_cvAllotMove h4)

end Sys2Proof.Machine
end

