-- ==== Sys2Proof/Laws/KeepsPorts.lean ====
section
/-! SUPPORT. Sys2Proof/Laws/KeepsPorts.lean: every move of run-ahead, of the host port, of the debug halt, of power and links, and the beginning of a cycle,
keep every memory in the canonical form. -/

namespace Sys2Proof.Machine

set_option Elab.async false
set_option linter.unusedVariables false
set_option linter.unusedSimpArgs false

/-! ### Run-ahead (Machine/Runahead.lean) -/


theorem keeps_keepCore {x0 : Nat} {x1 : RunAhead} {x2 : Core} (h1 : Mem.wf x1.shadow.mem = true) (h2 : Core.memOk x2) :
    Core.memOk (keepCore x0 x1 x2) := by
  unfold keepCore
  with_reducible repeat' (first | assumption | exact wf_raNone | apply wf_regs | simp only [mk_core] | apply And.intro)
theorem keeps_discardCore {x0 : Nat} {x1 : RunAhead} {x2 : Core} (h1 : Mem.wf x1.shadow.mem = true) (h2 : Core.memOk x2) :
    Core.memOk (discardCore x0 x1 x2) := by
  unfold discardCore
  with_reducible repeat' (first | assumption | exact wf_raNone | simp only [mk_core] | apply And.intro)
theorem keeps_countDiscard {x0 : Nat} {x1 : RunAhead} {x2 : State} (h1 : Mem.wf x1.shadow.mem = true) (h2 : State.memOk x2) :
    State.memOk (countDiscard x0 x1 x2) := by
  unfold countDiscard
  with_reducible repeat' (first | assumption | apply keeps_countCore)
theorem keeps_traceCall {x0 x1 : Nat} {x2 : RunAhead} {x3 : Nat} {x4 : State} (h2 : Mem.wf x2.shadow.mem = true) (h4 : State.memOk x4) :
    State.memOk (traceCall x0 x1 x2 x3 x4) := by
  unfold traceCall
  with_reducible repeat' (first | assumption | apply keeps_updCore | simp only [same_state, same_core, same_cluster, same_die, same_mod] | intro _)
theorem keeps_endHeld {x0 : Nat} {x1 : RunAhead} {x2 : Core} (h2 : Core.memOk x2) :
    Core.memOk (endHeld x0 x1 x2) := by
  unfold endHeld
  try dsimp only
  with_reducible repeat' (first | assumption | refine ite_state ?_ ?_ | apply keeps_pushTrace | apply keeps_endCore | apply foldl_memOk | apply memOk_getCore | apply memOk_getCluster | apply memOk_getMod | apply memOk_getPart | apply memOk_focusCore | simp only [same_state, same_core, same_cluster, same_die, same_mod] | intro _ | split )
theorem keeps_keepCall {x0 x1 : Nat} {x2 : RunAhead} {x3 : State} (h2 : Mem.wf x2.shadow.mem = true) (h3 : State.memOk x3) :
    State.memOk (keepCall x0 x1 x2 x3) := by
  unfold keepCall
  dsimp only
  refine keeps_traceCall h2 (keeps_updCore (fun c h => ?_) (keeps_noteWake h3))
  have hk : (keepCore x3.cycle x2 c).memOk := keeps_keepCore h2 h
  generalize keepCore x3.cycle x2 c = d at hk ⊢
  split
  · exact keeps_endHeld hk
  · exact hk
theorem keeps_discardCall {x0 x1 : Nat} {x2 : RunAhead} {x3 : State} (h2 : Mem.wf x2.shadow.mem = true) (h3 : State.memOk x3) :
    State.memOk (discardCall x0 x1 x2 x3) := by
  have hd : ∀ (t : Nat) (c : Core), c.memOk → (discardCore t x2 c).memOk := fun t c h => keeps_discardCore h2 h
  have hp : ∀ (b : Prop) [Decidable b] (c : Core) (p : List Pend), c.memOk → (if b then { c with pend := p } else c : Core).memOk := fun b _ c p h => ite_core h h
  have hl : ∀ (c : Core) (pc : Nat) (xf : Bool) (ls : List Loop), c.memOk → ({ c with pc := pc, xfer := xf, loops := ls } : Core).memOk := fun c _ _ _ h => h
  have he : ∀ (b : Prop) [Decidable b] (t : Nat) (c : Core), c.memOk → (if b then endHeld t x2 c else c).memOk := fun b _ t c h => ite_core (keeps_endHeld h) h
  unfold discardCall
  dsimp only
  exact keeps_traceCall h2 (keeps_updCore (fun c h => he _ _ _ (hl _ _ _ _ (hp _ _ _ (hd _ _ h)))) (keeps_noteWake (keeps_countDiscard h2 h3)))
theorem keeps_faultCall {x0 x1 x2 : Nat} {x3 : RunAhead} {x4 : State} (h3 : Mem.wf x3.shadow.mem = true) (h4 : State.memOk x4) :
    State.memOk (faultCall x0 x1 x2 x3 x4) := by
  unfold faultCall
  with_reducible repeat' (first
    | assumption | apply keeps_updCore | apply keeps_takeTrap | apply keeps_stopGroup | apply keeps_discardCore | apply keeps_countDiscard
    | apply keeps_traceCall | simp only [same_state, same_core, same_cluster, same_die, same_mod] | intro _)
theorem keeps_applyCall {x0 x1 : Nat} {x2 : RunAhead} {x3 : Bool} {x4 : State} (h2 : Mem.wf x2.shadow.mem = true) (h4 : State.memOk x4) :
    State.memOk (applyCall x0 x1 x2 x3 x4) := by
  unfold applyCall
  with_reducible repeat' (first | assumption | refine ite_state ?_ ?_ | apply keeps_keepCall | apply keeps_discardCall | apply keeps_faultCall)
theorem keeps_noteCall {x0 : Nat} {x1 : Nat} {x2 : Nat} {x3 : Nat} {x4 : Nat} {x5 : Nat} {x6 : State} (h6 : State.memOk x6) :
    State.memOk (noteCall x0 x1 x2 x3 x4 x5 x6) := by
  unfold noteCall
  try dsimp only
  with_reducible repeat' (first | assumption | refine ite_state ?_ ?_ | apply keeps_updCore | apply keeps_Core_updChan | apply foldl_memOk | apply memOk_getCore | apply memOk_getCluster | apply memOk_getMod | apply memOk_getPart | apply memOk_focusCore | simp only [same_state, same_core, same_cluster, same_die, same_mod] | intro _ | split )
theorem keeps_followCall {x0 : Nat} {x1 : RunAhead} {x2 : Nat} {x3 : Core} (h3 : Core.memOk x3) :
    Core.memOk (followCall x0 x1 x2 x3) := by
  unfold followCall
  try dsimp only
  with_reducible repeat' (first | assumption | refine ite_state ?_ ?_ | apply keeps_endHeld | apply foldl_memOk | apply memOk_getCore | apply memOk_getCluster | apply memOk_getMod | apply memOk_getPart | apply memOk_focusCore | simp only [same_state, same_core, same_cluster, same_die, same_mod] | intro _ | split )
theorem keeps_groupCall {x0 : Nat} {x1 : State} (h1 : State.memOk x1) :
    State.memOk (groupCall x0 x1) := by
  have hf : ∀ (w : Bool) (vs : List (Nat × RunAhead × Nat)) (s : State), (∀ v ∈ vs, Mem.wf v.2.1.shadow.mem = true) → s.memOk →
      State.memOk (vs.foldl (fun s x => applyCall x.1 x.2.2 x.2.1 w s) s) := by
    intro w vs
    induction vs with
    | nil => exact fun s _ h => h
    | cons v vs ih => exact fun s hv h => ih _ (fun w hw => hv w (List.mem_cons_of_mem _ hw)) (keeps_applyCall (hv v (List.mem_cons_self ..)) h)
  have hr : ∀ v ∈ (groupOf x1 x0).filterMap (fun j => (getCore x1 j).ra.bind fun r => r.call.map fun rec => (j, r, rec)), Mem.wf v.2.1.shadow.mem = true := by
    intro v hv
    obtain ⟨j, _, hj⟩ := List.mem_filterMap.mp hv
    obtain ⟨r, hr, hc⟩ := Option.bind_eq_some_iff.mp hj
    obtain ⟨c, _, rfl⟩ := Option.map_eq_some_iff.mp hc
    exact wf_ra (memOk_getCore h1 j) r hr
  have hw : ∀ (ra : RunAhead) (rec : Nat) (js : List Nat) (s : State), s.memOk →
      State.memOk (js.foldl (fun s j => updCore s j (followCall s.cycle ra rec)) s) :=
    fun ra rec js s h => foldl_memOk (fun s j h => keeps_updCore (fun c h => keeps_followCall h) h) h
  have hl : ∀ (s : State), s.memOk → State.memOk ((List.range 8).foldl (fun s r => updCore s (x0 / 8 * 8 + r) fun c => { c with line := [] }) s) :=
    fun s h => foldl_memOk (fun s r h => keeps_updCore (fun c h => h) h) h
  unfold groupCall
  dsimp only
  split
  · exact h1
  · split
    · exact h1
    · generalize hq : List.foldl (fun s (x : Nat × RunAhead × Nat) => applyCall x.1 x.2.2 x.2.1 _ s) x1 _ = q
      have h : q.memOk := hq ▸ hf _ _ _ hr h1
      split
      · exact hl _ (hw _ _ _ _ h)
      · exact h
theorem keeps_callDeliveryMove {x0 : State} (h0 : State.memOk x0) :
    State.memOk (callDeliveryMove x0) := by
  unfold callDeliveryMove
  split
  · next job ch k uid record trick e =>
    dsimp only
    refine ite_state h0 (ite_state (keeps_landFlight h0) ?_)
    have hn := keeps_noteCall (x0 := job) (x1 := ch) (x2 := k) (x3 := uid) (x4 := record) (x5 := trick) (keeps_landFlight h0)
    split
    · exact hn
    · next ra hra =>
      have hr : Mem.wf ra.shadow.mem = true := by
        split at hra
        · exact wf_ra (memOk_getCore h0 _) ra hra
        · exact nomatch hra
      refine ite_state h0 (ite_state ?_ ?_)
      · exact keeps_groupCall (keeps_updCore (fun c h => ⟨h.1, wf_raSome hr⟩) hn)
      · exact keeps_applyCall hr hn
  · exact h0
theorem keeps_execCallDelivery {x0 : State} (h0 : State.memOk x0) :
    ∀ t, (execCallDelivery x0) = .next t → State.memOk t :=
  next_keeps (keeps_callDeliveryMove h0)
theorem keeps_popKitty {x0 : Core} (h0 : Core.memOk x0) :
    Core.memOk (popKitty x0) := by
  exact ⟨h0.1, wf_raMap h0.2 fun r h => h⟩
theorem keeps_releaseHead {x0 : Nat} {x1 : State} (h1 : State.memOk x1) :
    State.memOk (releaseHead x0 x1) := by
  unfold releaseHead
  with_reducible repeat' (first
    | assumption | apply keeps_updCore | apply keeps_updCluster | apply keeps_acceptReq | apply keeps_beginRel | apply keeps_popKitty
    | simp only [same_state, same_core, same_cluster, same_die, same_mod] | intro _ | split)
theorem keeps_execKittyRelease {x0 : State} (h0 : State.memOk x0) :
    ∀ t, (execKittyRelease x0) = .next t → State.memOk t := by
  intro t ht
  unfold execKittyRelease at ht
  injection ht with ht
  rw [← ht]
  with_reducible repeat' (first | assumption | refine ite_state ?_ ?_ | apply keeps_releaseHead)
theorem keeps_groupMove {x0 : Nat} {x1 : State} (h1 : State.memOk x1) :
    State.memOk (groupMove x0 x1) := by
  unfold groupMove
  try dsimp only
  with_reducible repeat' (first | assumption | refine ite_state ?_ ?_ | apply keeps_groupCall | apply keeps_holdLines | apply keeps_holdCore | apply keeps_issueGroup | apply foldl_memOk | apply memOk_getCore | apply memOk_getCluster | apply memOk_getMod | apply memOk_getPart | apply memOk_focusCore | apply wf_regs | apply wf_ra | apply wf_raNone | apply wf_scratch | apply wf_codeOld | apply wf_hbm | apply wf_host | apply wf_saves | apply wf_parts | apply Mem.write_wf | simp only [mk_state, mk_core, mk_cluster, mk_mod] | apply And.intro | intro _ | split )
theorem keeps_issueMove {x0 : Nat} {x1 : State} (h1 : State.memOk x1) :
    State.memOk (issueMove x0 x1) := by
  unfold issueMove
  try dsimp only
  with_reducible repeat' (first | assumption | refine ite_state ?_ ?_ | apply keeps_holdCore | apply keeps_issueAlone | apply keeps_groupMove | apply foldl_memOk | apply memOk_getCore | apply memOk_getCluster | apply memOk_getMod | apply memOk_getPart | apply memOk_focusCore | simp only [same_state, same_core, same_cluster, same_die, same_mod] | intro _ | split )
theorem keeps_execIssueBundle {x0 : State} (h0 : State.memOk x0) :
    ∀ t, (execIssueBundle x0) = .next t → State.memOk t := by
  intro t ht
  unfold execIssueBundle at ht
  injection ht with ht
  rw [← ht]
  try dsimp only
  with_reducible repeat' (first | assumption | refine ite_state ?_ ?_ | apply keeps_issueMove | apply foldl_memOk | apply memOk_getCore | apply memOk_getCluster | apply memOk_getMod | apply memOk_getPart | apply memOk_focusCore | simp only [same_state, same_core, same_cluster, same_die, same_mod] | intro _ | split )
theorem keeps_refoldJob {x0 : Nat} {x1 : State} (h1 : State.memOk x1) :
    State.memOk (refoldJob x0 x1) := by
  unfold refoldJob
  try dsimp only
  with_reducible repeat' (first | assumption | refine ite_state ?_ ?_ | apply keeps_foldCluster | apply foldl_memOk | apply memOk_getCore | apply memOk_getCluster | apply memOk_getMod | apply memOk_getPart | apply memOk_focusCore | simp only [same_state, same_core, same_cluster, same_die, same_mod] | intro _ | split )
theorem keeps_abandonSlot {x0 : Nat} {x1 : Nat} {x2 : State} (h2 : State.memOk x2) :
    State.memOk (abandonSlot x0 x1 x2) := by
  unfold abandonSlot
  try dsimp only
  with_reducible repeat' (first | assumption | refine ite_state ?_ ?_ | apply keeps_updReq | apply keeps_answerSender | apply keeps_updGraph | apply foldl_memOk | apply memOk_getCore | apply memOk_getCluster | apply memOk_getMod | apply memOk_getPart | apply memOk_focusCore | simp only [same_state, same_core, same_cluster, same_die, same_mod] | intro _ | split )
theorem keeps_abandonOps {x0 : Nat} {x1 : State} (h1 : State.memOk x1) :
    State.memOk (abandonOps x0 x1) := by
  unfold abandonOps
  try dsimp only
  with_reducible repeat' (first | assumption | refine ite_state ?_ ?_ | apply keeps_abandonSlot | apply foldl_memOk | apply memOk_getCore | apply memOk_getCluster | apply memOk_getMod | apply memOk_getPart | apply memOk_focusCore | simp only [same_state, same_core, same_cluster, same_die, same_mod] | intro _ | split )
theorem keeps_declareDead {x0 : Nat} {x1 : Nat} {x2 : State} (h2 : State.memOk x2) :
    State.memOk (declareDead x0 x1 x2) := by
  unfold declareDead
  try dsimp only
  with_reducible repeat' (first | assumption | refine ite_state ?_ ?_ | apply keeps_refoldJob | apply keeps_abandonOps | apply keeps_killMember | apply foldl_memOk | apply memOk_getCore | apply memOk_getCluster | apply memOk_getMod | apply memOk_getPart | apply memOk_focusCore | simp only [same_state, same_core, same_cluster, same_die, same_mod] | intro _ | split )
theorem keeps_execMemberDeath {x0 : State} (h0 : State.memOk x0) :
    ∀ t, (execMemberDeath x0) = .next t → State.memOk t := by
  intro t ht
  unfold execMemberDeath at ht
  injection ht with ht
  rw [← ht]
  with_reducible repeat' (first | assumption | apply foldl_memOk | apply keeps_declareDead | intro _ | split)

/-! ### The host port (Machine/HostPort.lean) -/

theorem keeps_enterJob {x0 x1 : Nat} {x2 x3 x4 : Nat} {x5 : State} (h5 : State.memOk x5) :
    State.memOk (enterJob x0 x1 x2 x3 x4 x5) := by
  unfold enterJob
  with_reducible repeat' (first
    | assumption | apply keeps_updMod | apply keeps_updJob | simp only [same_state, same_core, same_cluster, same_die, same_mod] | intro _)
theorem keeps_jobCreateMove {x0 x1 x2 : Nat} {x3 : List Nat} {x4 : Nat} {x5 : List (List Nat)} {x6 : State} (h6 : State.memOk x6) :
    State.memOk (jobCreateMove x0 x1 x2 x3 x4 x5 x6) := by
  unfold jobCreateMove
  with_reducible repeat' (first
    | assumption | apply keeps_updJob | apply keeps_answerDone | apply keeps_refuseOp | apply keeps_unlessPaused | apply keeps_answerIf
    | apply keeps_enterJob | simp only [same_state, same_core, same_cluster, same_die, same_mod] | intro _ | split)
theorem keeps_execJobCreate {x0 x1 x2 : Nat} {x3 : List Nat} {x4 : Nat} {x5 : List (List Nat)} {x6 : State} (h6 : State.memOk x6) :
    ∀ t, (execJobCreate x0 x1 x2 x3 x4 x5 x6) = .next t → State.memOk t :=
  next_keeps (keeps_jobCreateMove h6)
theorem keeps_cancelLaunch {x0 : Nat} {x1 : Launch} {x2 : State} (h2 : State.memOk x2) :
    State.memOk (cancelLaunch x0 x1 x2) := by
  unfold cancelLaunch
  with_reducible repeat' (first
    | assumption | apply keeps_updDie | apply foldl_memOk | apply keeps_dropHead | apply keeps_endLaunch | apply keeps_killLaunch | intro _ | split)
theorem keeps_shutWindows {x0 x1 : Nat} {x2 : State} (h2 : State.memOk x2) :
    State.memOk (shutWindows x0 x1 x2) := by
  unfold shutWindows
  with_reducible repeat' (first | assumption | apply foldl_memOk | apply keeps_shutWindow | intro _ | split)
theorem keeps_jobRemoveMove {x0 x1 x2 : Nat} {x3 : State} (h3 : State.memOk x3) :
    State.memOk (jobRemoveMove x0 x1 x2 x3) := by
  unfold jobRemoveMove
  with_reducible repeat' (first
    | assumption | apply keeps_updMod | apply foldl_memOk | apply keeps_updJob | apply keeps_finishPlaces | apply keeps_answerDone
    | apply keeps_refuseOp | apply keeps_unlessPaused | apply keeps_cancelLaunch | apply keeps_shutWindows
    | simp only [same_state, same_core, same_cluster, same_die, same_mod] | intro _ | split)
theorem keeps_execJobRemove {x0 x1 x2 : Nat} {x3 : State} (h3 : State.memOk x3) :
    ∀ t, (execJobRemove x0 x1 x2 x3) = .next t → State.memOk t :=
  next_keeps (keeps_jobRemoveMove h3)
theorem keeps_jobShrinkMove {x0 x1 : Nat} {x2 x3 : Nat} {x4 : State} (h4 : State.memOk x4) :
    State.memOk (jobShrinkMove x0 x1 x2 x3 x4) := by
  unfold jobShrinkMove
  with_reducible repeat' (first
    | assumption | apply keeps_answerDone | apply keeps_refuseOp | apply keeps_unlessPaused | apply keeps_declareDead | intro _ | split)
theorem keeps_execJobShrink {x0 x1 : Nat} {x2 x3 : Nat} {x4 : State} (h4 : State.memOk x4) :
    ∀ t, (execJobShrink x0 x1 x2 x3 x4) = .next t → State.memOk t :=
  next_keeps (keeps_jobShrinkMove h4)
theorem keeps_fabSchedMove {x0 x1 : Nat} {x2 x3 : Nat} {x4 x5 x6 : Nat} {x7 : List Nat} {x8 : State} (h8 : State.memOk x8) :
    State.memOk (fabSchedMove x0 x1 x2 x3 x4 x5 x6 x7 x8) := by
  unfold fabSchedMove
  with_reducible repeat' (first
    | assumption | apply keeps_updMod | apply keeps_answerDone | apply keeps_refuseOp | apply keeps_unlessPaused
    | simp only [same_state, same_core, same_cluster, same_die, same_mod] | intro _ | split)
theorem keeps_execFabSched {x0 x1 : Nat} {x2 x3 : Nat} {x4 x5 x6 : Nat} {x7 : List Nat} {x8 : State} (h8 : State.memOk x8) :
    ∀ t, (execFabSched x0 x1 x2 x3 x4 x5 x6 x7 x8) = .next t → State.memOk t :=
  next_keeps (keeps_fabSchedMove h8)
theorem keeps_Cluster_scrubbed {x0 : Cluster} (h0 : Cluster.memOk x0) :
    Cluster.memOk (Cluster.scrubbed x0) := by
  unfold Cluster.scrubbed
  with_reducible repeat' (first | apply memOk_clusterReset | simp only [same_state, same_core, same_cluster, same_die, same_mod])
theorem keeps_scrubCluster {x0 : Nat} {x1 : State} (h1 : State.memOk x1) :
    State.memOk (scrubCluster x0 x1) := by
  unfold scrubCluster
  with_reducible repeat' (first
    | assumption | apply keeps_updCluster | apply keeps_setCore | apply foldl_memOk | apply memOk_coreReset | apply keeps_Cluster_scrubbed
    | simp only [same_state, same_core, same_cluster, same_die, same_mod] | intro _)
theorem keeps_partAssignMove {x0 : Nat} {x1 : Nat} {x2 : State} (h2 : State.memOk x2) :
    State.memOk (partAssignMove x0 x1 x2) := by
  unfold partAssignMove
  try dsimp only
  with_reducible repeat' (first | assumption | refine ite_state ?_ ?_ | apply keeps_updCluster | apply keeps_unlessPaused | apply keeps_forHypervisor | apply keeps_refuseOp | apply keeps_again | apply keeps_cancelLaunch | refine keeps_openValue_eq (by assumption) ?_ | apply keeps_openValue | apply keeps_answerDone | apply keeps_scrubCluster | apply foldl_memOk | apply memOk_getCore | apply memOk_getCluster | apply memOk_getMod | apply memOk_getPart | apply memOk_focusCore | simp only [same_state, same_core, same_cluster, same_die, same_mod] | intro _ | split )
theorem keeps_execPartAssign {x0 x1 : Nat} {x2 : State} (h2 : State.memOk x2) :
    ∀ t, (execPartAssign x0 x1 x2) = .next t → State.memOk t :=
  next_keeps (keeps_partAssignMove h2)
theorem keeps_clusterScrubDoneMove {x0 : Nat} {x1 : State} (h1 : State.memOk x1) :
    State.memOk (clusterScrubDoneMove x0 x1) := by
  unfold clusterScrubDoneMove
  with_reducible repeat' (first
    | assumption | apply keeps_updCluster | apply keeps_scrubCluster | simp only [same_state, same_core, same_cluster, same_die, same_mod] | intro _
    | split)
theorem keeps_execClusterScrubDone {x0 : State} (h0 : State.memOk x0) :
    ∀ t, (execClusterScrubDone x0) = .next t → State.memOk t :=
  next_keeps (keeps_clusterScrubDoneMove h0)
theorem keeps_clearStore {x0 : Nat} {x1 : State} (h1 : State.memOk x1) :
    State.memOk (clearStore x0 x1) := by
  unfold clearStore
  with_reducible repeat' (first
    | assumption | apply keeps_updDie | apply Mem.nil_wf | simp only [same_state, same_core, same_cluster, same_die, same_mod] | intro _)
theorem keeps_wsownMove {x0 x1 : Nat} {x2 : State} (h2 : State.memOk x2) :
    State.memOk (wsownMove x0 x1 x2) := by
  unfold wsownMove
  try simp only [openValue]
  with_reducible repeat' (first
    | assumption | apply keeps_updDie | apply keeps_clearStore | simp only [same_state, same_core, same_cluster, same_die, same_mod] | intro _
    | split)
theorem keeps_execWsownWrite {x0 : Nat} {x1 : Nat} {x2 : State} (h2 : State.memOk x2) :
    ∀ t, (execWsownWrite x0 x1 x2) = .next t → State.memOk t := by
  intro t ht
  unfold execWsownWrite at ht
  injection ht with ht
  rw [← ht]
  try dsimp only
  with_reducible repeat' (first | assumption | refine ite_state ?_ ?_ | apply keeps_afterHeld | apply keeps_wsownMove | apply foldl_memOk | apply memOk_getCore | apply memOk_getCluster | apply memOk_getMod | apply memOk_getPart | apply memOk_focusCore | simp only [same_state, same_core, same_cluster, same_die, same_mod] | intro _ | split )
theorem keeps_weightScrubDoneMove {x0 : Nat} {x1 : State} (h1 : State.memOk x1) :
    State.memOk (weightScrubDoneMove x0 x1) := by
  unfold weightScrubDoneMove
  with_reducible repeat' (first | assumption | apply keeps_updDie | apply keeps_clearStore | intro _ | split)
theorem keeps_execWeightStoreScrubDone {x0 : State} (h0 : State.memOk x0) :
    ∀ t, (execWeightStoreScrubDone x0) = .next t → State.memOk t :=
  next_keeps (keeps_weightScrubDoneMove h0)
theorem keeps_writeQueue {x0 x1 : Nat} {x2 x3 x4 : Nat} {x5 : State} (h5 : State.memOk x5) :
    State.memOk (writeQueue x0 x1 x2 x3 x4 x5) := by
  unfold writeQueue
  with_reducible repeat' (first | assumption | apply keeps_updQueue | apply keeps_readPacket | apply keeps_goQueue | split)
theorem keeps_writeHwctl {x0 x1 : Nat} {x2 x3 : Nat} {x4 : State} (h4 : State.memOk x4) :
    State.memOk (writeHwctl x0 x1 x2 x3 x4) := by
  unfold writeHwctl
  with_reducible repeat' (first
    | assumption | apply keeps_updMod | simp only [same_state, same_core, same_cluster, same_die, same_mod] | intro _ | split)
theorem keeps_writePart {x0 x1 : Nat} {x2 x3 x4 : Nat} {x5 : State} (h5 : State.memOk x5) :
    State.memOk (writePart x0 x1 x2 x3 x4 x5) := by
  unfold writePart
  with_reducible repeat' (first | assumption | apply memOk_dumps | apply keeps_updPart | simp only [mk_part] | split)
theorem keeps_writeClusterCounter {x0 x1 : Nat} {x2 x3 : Nat} {x4 x5 : Nat} {x6 : State} (h6 : State.memOk x6) :
    State.memOk (writeClusterCounter x0 x1 x2 x3 x4 x5 x6) := by
  unfold writeClusterCounter
  with_reducible repeat' (first
    | assumption | apply keeps_updCluster | apply wf_scratch | apply wf_codeOld | simp only [mk_cluster] | apply And.intro | intro _ | split)
theorem keeps_writeModuleCounter {x0 x1 : Nat} {x2 x3 x4 : Nat} {x5 : State} (h5 : State.memOk x5) :
    State.memOk (writeModuleCounter x0 x1 x2 x3 x4 x5) := by
  unfold writeModuleCounter
  with_reducible repeat' (first
    | assumption | apply keeps_updMod | simp only [same_state, same_core, same_cluster, same_die, same_mod] | intro _ | split)
theorem keeps_clearErrors {x0 x1 : Nat} {x2 : State} (h2 : State.memOk x2) :
    State.memOk (clearErrors x0 x1 x2) := by
  unfold clearErrors
  with_reducible repeat' (first | assumption | apply keeps_updMod | simp only [same_state, same_core, same_cluster, same_die, same_mod] | intro _)
theorem keeps_execErrorCounterClear {x0 : Nat} {x1 : Nat} {x2 : State} (h2 : State.memOk x2) :
    ∀ t, (execErrorCounterClear x0 x1 x2) = .next t → State.memOk t := by
  intro t ht
  unfold execErrorCounterClear at ht
  injection ht with ht
  rw [← ht]
  try dsimp only
  with_reducible repeat' (first | assumption | refine ite_state ?_ ?_ | apply keeps_afterHeld | apply keeps_clearErrors | apply foldl_memOk | apply memOk_getCore | apply memOk_getCluster | apply memOk_getMod | apply memOk_getPart | apply memOk_focusCore | simp only [same_state, same_core, same_cluster, same_die, same_mod] | intro _ | split )
theorem keeps_writePower {x0 x1 x2 : Nat} {x3 : State} (h3 : State.memOk x3) :
    State.memOk (writePower x0 x1 x2 x3) := by
  unfold writePower
  with_reducible repeat' (first
    | assumption | apply keeps_updMod | simp only [same_state, same_core, same_cluster, same_die, same_mod] | intro _ | split)
theorem keeps_writeOwner {x0 : Nat} {x1 : Nat} {x2 : Nat} {x3 : Nat} {x4 : State} (h4 : State.memOk x4) :
    State.memOk (writeOwner x0 x1 x2 x3 x4) := by
  unfold writeOwner
  try dsimp only
  with_reducible repeat' (first | assumption | refine ite_state ?_ ?_ | apply keeps_updFrame | apply foldl_memOk | apply memOk_getCore | apply memOk_getCluster | apply memOk_getMod | apply memOk_getPart | apply memOk_focusCore | simp only [same_state, same_core, same_cluster, same_die, same_mod] | intro _ | split )
theorem keeps_registerWriteMove {x0 : Nat} {x1 : Nat} {x2 : Nat} {x3 : Nat} {x4 : State} (h4 : State.memOk x4) :
    State.memOk (registerWriteMove x0 x1 x2 x3 x4) := by
  unfold registerWriteMove
  try dsimp only
  with_reducible repeat' (first | assumption | refine ite_state ?_ ?_ | apply keeps_writeQueue | apply keeps_writeTmcfg | apply keeps_updTime | refine keeps_writeTick_eq (by assumption) ?_ | apply keeps_writeTick | refine keeps_writeCtl_eq (by assumption) ?_ | apply keeps_writeCtl | apply keeps_writeHwctl | apply keeps_writePart | apply keeps_wsownMove | apply keeps_writeClusterCounter | apply keeps_writeModuleCounter | apply keeps_clearErrors | apply keeps_writePower | apply keeps_writeOwner | apply foldl_memOk | apply memOk_getCore | apply memOk_getCluster | apply memOk_getMod | apply memOk_getPart | apply memOk_focusCore | apply wf_regs | apply wf_ra | apply wf_raNone | apply wf_scratch | apply wf_codeOld | apply wf_hbm | apply wf_host | apply wf_saves | apply wf_parts | apply Mem.write_wf | simp only [mk_state, mk_core, mk_cluster, mk_mod] | apply And.intro | intro _ | split )
theorem keeps_hostWrite {x0 : Nat} {x1 : Nat} {x2 : Nat} {x3 : State} (h3 : State.memOk x3) :
    State.memOk (hostWrite x0 x1 x2 x3) := by
  unfold hostWrite
  try dsimp only
  with_reducible repeat' (first | assumption | refine ite_state ?_ ?_ | apply keeps_updMod | apply foldl_memOk | apply memOk_getCore | apply memOk_getCluster | apply memOk_getMod | apply memOk_getPart | apply memOk_focusCore | apply wf_regs | apply wf_ra | apply wf_raNone | apply wf_scratch | apply wf_codeOld | apply wf_hbm | apply wf_host | apply wf_saves | apply wf_parts | apply Mem.write_wf | simp only [mk_state, mk_core, mk_cluster, mk_mod] | apply And.intro | intro _ | split )
theorem keeps_registerMove {x0 : Nat} {x1 : Nat} {x2 : Nat} {x3 : Option Nat} {x4 : State} (h4 : State.memOk x4) :
    State.memOk (registerMove x0 x1 x2 x3 x4) := by
  unfold registerMove
  try dsimp only
  with_reducible repeat' (first | assumption | refine ite_state ?_ ?_ | apply keeps_hostWrite | apply keeps_afterHeld | apply keeps_registerWriteMove | apply keeps_tellHost | apply foldl_memOk | apply memOk_getCore | apply memOk_getCluster | apply memOk_getMod | apply memOk_getPart | apply memOk_focusCore | simp only [same_state, same_core, same_cluster, same_die, same_mod] | intro _ | split )
theorem keeps_execRegisterWrite {x0 x1 : Nat} {x2 x3 : Nat} {x4 : State} (h4 : State.memOk x4) :
    ∀ t, (execRegisterWrite x0 x1 x2 x3 x4) = .next t → State.memOk t :=
  next_keeps (keeps_registerMove h4)
theorem keeps_setStandby {x0 x1 : Nat} {x2 : State} (h2 : State.memOk x2) :
    State.memOk (setStandby x0 x1 x2) := by
  unfold setStandby
  with_reducible repeat' (first | assumption | apply keeps_updMod | simp only [same_state, same_core, same_cluster, same_die, same_mod] | intro _)
theorem keeps_fwloadMove {x0 : Nat} {x1 x2 : Bool} {x3 : Nat} {x4 : State} (h4 : State.memOk x4) :
    State.memOk (fwloadMove x0 x1 x2 x3 x4) := by
  unfold fwloadMove
  try simp only [openAny]
  with_reducible repeat' (first
    | assumption | apply keeps_updMod | apply keeps_again | apply keeps_answerDone | apply keeps_refuseOp | apply keeps_unlessPaused
    | apply keeps_setStandby | simp only [same_state, same_core, same_cluster, same_die, same_mod] | intro _ | split)
theorem keeps_execFwload {x0 : Nat} {x1 x2 : Bool} {x3 : Nat} {x4 : State} (h4 : State.memOk x4) :
    ∀ t, (execFwload x0 x1 x2 x3 x4) = .next t → State.memOk t :=
  next_keeps (keeps_fwloadMove h4)
theorem keeps_takeoverMove {x0 : Nat} {x1 : State} (h1 : State.memOk x1) :
    State.memOk (takeoverMove x0 x1) := by
  unfold takeoverMove
  try simp only [openValue]
  with_reducible repeat' (first
    | assumption | apply keeps_updMod | apply keeps_again | simp only [same_state, same_core, same_cluster, same_die, same_mod] | intro _ | split)
theorem keeps_execFirmwareTakeover {x0 : State} (h0 : State.memOk x0) :
    ∀ t, (execFirmwareTakeover x0) = .next t → State.memOk t :=
  next_keeps (keeps_takeoverMove h0)
theorem keeps_haltUpdates {x0 : Nat} {x1 : Nat} {x2 : State} (h2 : State.memOk x2) :
    State.memOk (haltUpdates x0 x1 x2) := by
  unfold haltUpdates
  try dsimp only
  with_reducible repeat' (first | assumption | refine ite_state ?_ ?_ | apply keeps_updDie | apply keeps_updMod | apply foldl_memOk | apply memOk_getCore | apply memOk_getCluster | apply memOk_getMod | apply memOk_getPart | apply memOk_focusCore | simp only [same_state, same_core, same_cluster, same_die, same_mod] | intro _ | split )
theorem keeps_rejoinDie {x0 : Nat} {x1 : Nat} {x2 : Nat} {x3 : List (Nat × Nat)} {x4 : State} (h4 : State.memOk x4) :
    State.memOk (rejoinDie x0 x1 x2 x3 x4) := by
  unfold rejoinDie
  try dsimp only
  with_reducible repeat' (first | assumption | refine ite_state ?_ ?_ | apply keeps_updDie | apply keeps_updMod | apply keeps_haltUpdates | apply foldl_memOk | apply memOk_getCore | apply memOk_getCluster | apply memOk_getMod | apply memOk_getPart | apply memOk_focusCore | simp only [same_state, same_core, same_cluster, same_die, same_mod] | intro _ | split )
theorem keeps_rejoinMove {x0 : Nat} {x1 : Nat} {x2 : Nat} {x3 : List (Nat × Nat)} {x4 : State} (h4 : State.memOk x4) :
    State.memOk (rejoinMove x0 x1 x2 x3 x4) := by
  unfold rejoinMove
  try dsimp only
  with_reducible repeat' (first | assumption | refine ite_state ?_ ?_ | apply keeps_updMod | apply keeps_rejoinDie | apply keeps_again | apply foldl_memOk | apply memOk_getCore | apply memOk_getCluster | apply memOk_getMod | apply memOk_getPart | apply memOk_focusCore | simp only [same_state, same_core, same_cluster, same_die, same_mod] | intro _ | split )
theorem keeps_execDieFirmwareRejoin {x0 x1 x2 : Nat} {x3 : List (Nat × Nat)} {x4 : State} (h4 : State.memOk x4) :
    ∀ t, (execDieFirmwareRejoin x0 x1 x2 x3 x4) = .next t → State.memOk t :=
  next_keeps (keeps_rejoinMove h4)

/-! ### The debug halt (Machine/Halt.lean) -/

theorem keeps_traceHalt {x0 x1 : Nat} {x2 : State} (h2 : State.memOk x2) :
    State.memOk (traceHalt x0 x1 x2) := by
  unfold traceHalt
  with_reducible repeat' (first | assumption | apply keeps_traceCore)
theorem keeps_freezeCores {x0 : Nat} {x1 : Nat} {x2 : State} (h2 : State.memOk x2) :
    State.memOk (freezeCores x0 x1 x2) := by
  unfold freezeCores
  try dsimp only
  with_reducible repeat' (first | assumption | refine ite_state ?_ ?_ | apply keeps_updCore | apply keeps_traceHalt | apply keeps_Core_freeze | apply foldl_memOk | apply memOk_getCore | apply memOk_getCluster | apply memOk_getMod | apply memOk_getPart | apply memOk_focusCore | simp only [same_state, same_core, same_cluster, same_die, same_mod] | intro _ | split )
theorem keeps_freezeJob {x0 : Nat} {x1 : Nat} {x2 : State} (h2 : State.memOk x2) :
    State.memOk (freezeJob x0 x1 x2) := by
  unfold freezeJob
  try dsimp only
  with_reducible repeat' (first | assumption | refine ite_state ?_ ?_ | apply keeps_updCluster | apply keeps_updSlot | apply keeps_freezeCores | apply foldl_memOk | apply memOk_getCore | apply memOk_getCluster | apply memOk_getMod | apply memOk_getPart | apply memOk_focusCore | simp only [same_state, same_core, same_cluster, same_die, same_mod] | intro _ | split )
theorem keeps_waveMove {x0 : Nat} {x1 : Nat} {x2 : State} (h2 : State.memOk x2) :
    State.memOk (waveMove x0 x1 x2) := by
  unfold waveMove
  try dsimp only
  with_reducible repeat' (first | assumption | refine ite_state ?_ ?_ | apply keeps_freezeCores | apply keeps_freezeJob | apply keeps_updSlot | apply keeps_again | apply foldl_memOk | apply memOk_getCore | apply memOk_getCluster | apply memOk_getMod | apply memOk_getPart | apply memOk_focusCore | simp only [same_state, same_core, same_cluster, same_die, same_mod] | intro _ | split )
theorem keeps_execHaltWaveTrigger {x0 x1 : Nat} {x2 : State} (h2 : State.memOk x2) :
    ∀ t, (execHaltWaveTrigger x0 x1 x2) = .next t → State.memOk t :=
  next_keeps (keeps_waveMove h2)
theorem keeps_haltMove {x0 x1 x2 : Nat} {x3 : State} (h3 : State.memOk x3) :
    State.memOk (haltMove x0 x1 x2 x3) := by
  unfold haltMove
  with_reducible repeat' (first
    | assumption | refine ite_state ?_ ?_ | apply keeps_fireWave | apply keeps_answerDone | apply keeps_refuseOp | apply keeps_unlessPaused
    | intro _)
theorem keeps_execHalt {x0 x1 x2 : Nat} {x3 : State} (h3 : State.memOk x3) :
    ∀ t, (execHalt x0 x1 x2 x3) = .next t → State.memOk t :=
  next_keeps (keeps_haltMove h3)
theorem keeps_dbgReadMove {x0 x1 x2 : Nat} {x3 : DbgSource} {x4 : State} (h4 : State.memOk x4) :
    State.memOk (dbgReadMove x0 x1 x2 x3 x4) := by
  unfold dbgReadMove
  with_reducible repeat' (first | assumption | apply keeps_tellHost | apply keeps_refuseOp | apply keeps_unlessPaused | intro _ | split)
theorem keeps_execDbgRead {x0 x1 x2 : Nat} {x3 : DbgSource} {x4 : State} (h4 : State.memOk x4) :
    ∀ t, (execDbgRead x0 x1 x2 x3 x4) = .next t → State.memOk t :=
  next_keeps (keeps_dbgReadMove h4)
theorem keeps_Regs_debugWrite {x0 : Regs} {x1 : DbgTarget} (h0 : Mem.wf (Regs.mem x0) = true) :
    Mem.wf (Regs.mem (Regs.debugWrite x0 x1)) = true := by
  unfold Regs.debugWrite
  split
  · rw [wf_putS]; exact h0
  · split
    · exact h0
    · exact h0
  · exact h0
  · exact wf_putBytes _ _ _ h0
theorem keeps_dbgWriteMove {x0 x1 : Nat} {x2 : DbgTarget} {x3 : State} (h3 : State.memOk x3) :
    State.memOk (dbgWriteMove x0 x1 x2 x3) := by
  unfold dbgWriteMove
  refine keeps_unlessPaused h3 (fun s h => ite_state (keeps_refuseOp h) (keeps_answerDone ?_))
  have hu := keeps_updCore (k := x0) (f := fun c => { c with regs := c.regs.debugWrite x2 }) (fun c hc => ⟨keeps_Regs_debugWrite hc.1, hc.2⟩) h
  split
  · exact keeps_clearMarks hu
  · exact hu
theorem keeps_execDbgWrite {x0 x1 : Nat} {x2 : DbgTarget} {x3 : State} (h3 : State.memOk x3) :
    ∀ t, (execDbgWrite x0 x1 x2 x3) = .next t → State.memOk t :=
  next_keeps (keeps_dbgWriteMove h3)
theorem keeps_coresCycle {x0 : List Nat} {x1 : State} (h1 : State.memOk x1) :
    State.memOk (coresCycle x0 x1) := by
  unfold coresCycle
  try dsimp only
  with_reducible repeat' (first | assumption | refine ite_state ?_ ?_ | apply keeps_fenceMove | apply keeps_unitMove | apply keeps_acqMove | apply keeps_relMove | apply keeps_storePerformMove | apply keeps_resultLandMove | apply keeps_releaseHead | apply keeps_waitaMove | apply keeps_waittMove | apply keeps_waittkMove | apply keeps_tokgetMove | apply foldl_memOk | apply memOk_getCore | apply memOk_getCluster | apply memOk_getMod | apply memOk_getPart | apply memOk_focusCore | simp only [same_state, same_core, same_cluster, same_die, same_mod] | intro _ | split )
theorem keeps_reconCycle {x0 : Nat} {x1 : State} (h1 : State.memOk x1) :
    State.memOk (reconCycle x0 x1) := by
  unfold reconCycle
  try dsimp only
  with_reducible repeat' (first | assumption | refine ite_state ?_ ?_ | apply keeps_reconMove | apply keeps_performDue | apply foldl_memOk | apply memOk_getCore | apply memOk_getCluster | apply memOk_getMod | apply memOk_getPart | apply memOk_focusCore | simp only [same_state, same_core, same_cluster, same_die, same_mod] | intro _ | split )
theorem keeps_stepCores {x0 : Nat} {x1 : Nat} {x2 : List Nat} {x3 : State} (h3 : State.memOk x3) :
    State.memOk (stepCores x0 x1 x2 x3) := by
  unfold stepCores
  try dsimp only
  with_reducible repeat' (first | assumption | refine ite_state ?_ ?_ | apply keeps_updCore | apply keeps_updSlot | apply keeps_Core_thaw | apply keeps_reconCycle | apply keeps_returnMove | apply keeps_coresCycle | apply keeps_issueMove | apply keeps_asyncMove | apply keeps_Core_freeze | apply foldl_memOk | apply memOk_getCore | apply memOk_getCluster | apply memOk_getMod | apply memOk_getPart | apply memOk_focusCore | simp only [same_state, same_core, same_cluster, same_die, same_mod] | intro _ | split )
theorem keeps_reportStep {x0 : Nat} {x1 : Bool} {x2 : State} (h2 : State.memOk x2) :
    State.memOk (reportStep x0 x1 x2) := by
  unfold reportStep
  try dsimp only
  with_reducible repeat' (first | assumption | refine ite_state ?_ ?_ | apply keeps_answerDone | apply keeps_tellHost | apply foldl_memOk | apply memOk_getCore | apply memOk_getCluster | apply memOk_getMod | apply memOk_getPart | apply memOk_focusCore | simp only [same_state, same_core, same_cluster, same_die, same_mod] | intro _ | split )
theorem keeps_stepOnce {x0 : Nat} {x1 : State} (h1 : State.memOk x1) :
    State.memOk (stepOnce x0 x1).1 := by
  unfold stepOnce
  with_reducible repeat' (first | assumption | apply keeps_stepCores)
theorem keeps_stepOnce_eq {x0 : Nat} {x1 t : State} {u : Bool} (e : (stepOnce x0 x1) = (t, u)) (h1 : State.memOk x1) :
    State.memOk t := fst_keeps e (keeps_stepOnce h1)
theorem keeps_putWave {x0 : Nat} {x1 : WaveState} {x2 : State} (h2 : State.memOk x2) :
    State.memOk (putWave x0 x1 x2) := by
  unfold putWave
  with_reducible repeat' (first | assumption | apply keeps_updSlot)
theorem keeps_stepCycleMove {x0 x1 : Nat} {x2 : State} (h2 : State.memOk x2) :
    State.memOk (stepCycleMove x0 x1 x2) := by
  unfold stepCycleMove
  with_reducible repeat' (first
    | assumption | apply keeps_refuseOp | apply keeps_unlessPaused | apply keeps_reportStep | apply keeps_stepOnce | apply keeps_putWave | intro _
    | split)
theorem keeps_execStepCycle {x0 x1 : Nat} {x2 : State} (h2 : State.memOk x2) :
    ∀ t, (execStepCycle x0 x1 x2) = .next t → State.memOk t :=
  next_keeps (keeps_stepCycleMove h2)
theorem keeps_stepBundleMove {x0 x1 : Nat} {x2 : State} (h2 : State.memOk x2) :
    State.memOk (stepBundleMove x0 x1 x2) := by
  unfold stepBundleMove
  try dsimp only
  with_reducible repeat' (first
    | assumption | apply keeps_again | apply keeps_refuseOp | apply keeps_unlessPaused | apply keeps_reportStep | apply keeps_stepOnce
    | apply keeps_putWave | intro _ | split)
theorem keeps_execStepBundle {x0 x1 : Nat} {x2 : State} (h2 : State.memOk x2) :
    ∀ t, (execStepBundle x0 x1 x2) = .next t → State.memOk t :=
  next_keeps (keeps_stepBundleMove h2)
theorem keeps_resumeMove {x0 x1 x2 : Nat} {x3 : State} (h3 : State.memOk x3) :
    State.memOk (resumeMove x0 x1 x2 x3) := by
  unfold resumeMove
  try simp only [openAny]
  with_reducible repeat' (first
    | assumption | apply foldl_memOk | apply keeps_updSlot | apply keeps_answerDone | apply keeps_refuseOp | apply keeps_unlessPaused
    | simp only [same_state, same_core, same_cluster, same_die, same_mod] | intro _ | split)
theorem keeps_execResume {x0 x1 x2 : Nat} {x3 : State} (h3 : State.memOk x3) :
    ∀ t, (execResume x0 x1 x2 x3) = .next t → State.memOk t :=
  next_keeps (keeps_resumeMove h3)
theorem keeps_releaseCore {x0 : Nat} {x1 : State} (h1 : State.memOk x1) :
    State.memOk (releaseCore x0 x1) := by
  unfold releaseCore
  try dsimp only
  with_reducible repeat' (first
    | assumption | apply keeps_updCore | apply keeps_stopLaunch | apply keeps_failLaunch | apply keeps_Core_thaw | apply keeps_retestWait
    | apply keeps_traceHalt | split)
theorem keeps_releaseJob {x0 : Nat} {x1 : Nat} {x2 : State} (h2 : State.memOk x2) :
    State.memOk (releaseJob x0 x1 x2) := by
  unfold releaseJob
  try dsimp only
  with_reducible repeat' (first
    | assumption | apply keeps_releaseCore | apply keeps_updSlot | apply keeps_releaseTicks | apply foldl_memOk
    | simp only [same_state, same_core, same_cluster, same_die, same_mod] | intro _ | split)
theorem keeps_releaseStageMove {x0 : Nat} {x1 : Nat} {x2 : Nat} {x3 : State} (h3 : State.memOk x3) :
    State.memOk (releaseStageMove x0 x1 x2 x3) := by
  unfold releaseStageMove
  try dsimp only
  with_reducible repeat' (first | assumption | refine ite_state ?_ ?_ | apply keeps_releaseJob | apply keeps_updSlot | apply keeps_foldCluster | apply foldl_memOk | apply memOk_getCore | apply memOk_getCluster | apply memOk_getMod | apply memOk_getPart | apply memOk_focusCore | simp only [same_state, same_core, same_cluster, same_die, same_mod] | intro _ | split )
theorem keeps_execResumeReleaseStage {x0 x1 x2 : Nat} {x3 : State} (h3 : State.memOk x3) :
    ∀ t, (execResumeReleaseStage x0 x1 x2 x3) = .next t → State.memOk t :=
  next_keeps (keeps_releaseStageMove h3)

/-! ### Power, clocks and links (Machine/Power.lean) -/

theorem keeps_Module_restarted {x0 : Module} {x1 : Bool} {x2 : Nat} (h0 : Module.memOk x0) :
    Module.memOk (Module.restarted x0 x1 x2) := by
  unfold Module.restarted
  with_reducible repeat' (first
    | assumption | apply wf_hbm | apply wf_host | apply wf_saves | apply wf_parts | apply memOk_modReset | simp only [mk_mod] | apply And.intro)
theorem keeps_dropModule {x0 : Nat} {x1 : State} (h1 : State.memOk x1) :
    State.memOk (dropModule x0 x1) := by
  exact ⟨filter_all h1.1, filter_all h1.2.1, filter_all h1.2.2.1, h1.2.2.2⟩
theorem keeps_drawCopies {x0 : Nat} {x1 : State} (h1 : State.memOk x1) :
    State.memOk (drawCopies x0 x1) := by
  unfold drawCopies
  try simp only [openValue]
  with_reducible repeat' (first
    | assumption | apply keeps_updDie | apply foldl_memOk | simp only [same_state, same_core, same_cluster, same_die, same_mod] | intro _)
theorem keeps_refreshMove {x0 : Nat} {x1 : Nat} {x2 : State} (h2 : State.memOk x2) :
    State.memOk (refreshMove x0 x1 x2) := by
  unfold refreshMove
  try dsimp only
  with_reducible repeat' (first | assumption | refine ite_state ?_ ?_ | apply keeps_openRefresh | apply keeps_endRefresh | apply foldl_memOk | apply memOk_getCore | apply memOk_getCluster | apply memOk_getMod | apply memOk_getPart | apply memOk_focusCore | simp only [same_state, same_core, same_cluster, same_die, same_mod] | intro _ | split )
theorem keeps_execWsRefreshWindow {x0 x1 : Nat} {x2 : State} (h2 : State.memOk x2) :
    ∀ t, (execWsRefreshWindow x0 x1 x2) = .next t → State.memOk t :=
  next_keeps (keeps_refreshMove h2)
theorem keeps_flitMove {x0 x1 : Nat} {x2 : State} (h2 : State.memOk x2) :
    State.memOk (flitMove x0 x1 x2) := by
  have ho := keeps_openValue (x0 := 1) (x1 := 8) h2
  exact ite_state (keeps_updMod (fun c h => h) (keeps_countErr ho)) (keeps_countErr ho)
theorem keeps_execFlitRetry {x0 x1 : Nat} {x2 : State} (h2 : State.memOk x2) :
    ∀ t, (execFlitRetry x0 x1 x2) = .next t → State.memOk t :=
  next_keeps (keeps_flitMove h2)
theorem keeps_linkDownMove {x0 : Nat} {x1 : State} (h1 : State.memOk x1) :
    State.memOk (linkDownMove x0 x1) := by
  unfold linkDownMove
  try dsimp only
  with_reducible repeat' (first | assumption | refine ite_state ?_ ?_ | apply keeps_declareDead | apply foldl_memOk | apply memOk_getCore | apply memOk_getCluster | apply memOk_getMod | apply memOk_getPart | apply memOk_focusCore | simp only [same_state, same_core, same_cluster, same_die, same_mod] | intro _ | split )
theorem keeps_execLinkDownTimeout {x0 x1 : Nat} {x2 : State} (h2 : State.memOk x2) :
    ∀ t, (execLinkDownTimeout x0 x1 x2) = .next t → State.memOk t :=
  next_keeps (keeps_linkDownMove h2)
theorem keeps_execDolselLinkUp {x0 x1 : Nat} {x2 : State} (h2 : State.memOk x2) :
    ∀ t, (execDolselLinkUp x0 x1 x2) = .next t → State.memOk t := by
  intro t ht
  unfold execDolselLinkUp at ht
  injection ht with ht
  rw [← ht]
  with_reducible repeat' (first | assumption | apply keeps_updMod | simp only [same_state, same_core, same_cluster, same_die, same_mod] | intro _)
theorem keeps_Module_remark {x0 : Module} (h0 : Module.memOk x0) :
    Module.memOk (Module.remark x0) := by
  unfold Module.remark
  try dsimp only
  with_reducible repeat' (first | assumption | refine ite_state ?_ ?_ | apply foldl_memOk | apply memOk_getCore | apply memOk_getCluster | apply memOk_getMod | apply memOk_getPart | apply memOk_focusCore | simp only [same_state, same_core, same_cluster, same_die, same_mod] | intro _ | split )
theorem keeps_Module_addErasure {x0 : Nat} {x1 : Nat} {x2 : Module} (h2 : Module.memOk x2) :
    Module.memOk (Module.addErasure x0 x1 x2) := by
  unfold Module.addErasure
  try dsimp only
  with_reducible repeat' (first | assumption | refine ite_state ?_ ?_ | apply keeps_Module_remark | apply foldl_memOk | apply memOk_getCore | apply memOk_getCluster | apply memOk_getMod | apply memOk_getPart | apply memOk_focusCore | simp only [same_state, same_core, same_cluster, same_die, same_mod] | intro _ | split )
theorem keeps_execErasureAdd {x0 : Nat} {x1 : Nat} {x2 : Nat} {x3 : State} (h3 : State.memOk x3) :
    ∀ t, (execErasureAdd x0 x1 x2 x3) = .next t → State.memOk t := by
  intro t ht
  unfold execErasureAdd at ht
  injection ht with ht
  rw [← ht]
  try dsimp only
  with_reducible repeat' (first | assumption | refine ite_state ?_ ?_ | apply keeps_updMod | apply keeps_Module_addErasure | apply foldl_memOk | apply memOk_getCore | apply memOk_getCluster | apply memOk_getMod | apply memOk_getPart | apply memOk_focusCore | simp only [same_state, same_core, same_cluster, same_die, same_mod] | intro _ | split )
theorem keeps_noteCorrection {x0 : Nat} {x1 : Nat} {x2 : Nat} {x3 : Module} (h3 : Module.memOk x3) :
    Module.memOk (noteCorrection x0 x1 x2 x3) := by
  unfold noteCorrection
  try dsimp only
  with_reducible repeat' (first | assumption | refine ite_state ?_ ?_ | apply keeps_Module_addErasure | apply foldl_memOk | apply memOk_getCore | apply memOk_getCluster | apply memOk_getMod | apply memOk_getPart | apply memOk_focusCore | simp only [same_state, same_core, same_cluster, same_die, same_mod] | intro _ | split )
theorem keeps_repairRank {x0 : Nat} {x1 : Nat} {x2 : State} (h2 : State.memOk x2) :
    State.memOk (repairRank x0 x1 x2) := by
  unfold repairRank
  try dsimp only
  with_reducible repeat' (first | assumption | refine ite_state ?_ ?_ | apply keeps_updMod | refine keeps_openValue_eq (by assumption) ?_ | apply keeps_openValue | apply foldl_memOk | apply memOk_getCore | apply memOk_getCluster | apply memOk_getMod | apply memOk_getPart | apply memOk_focusCore | simp only [same_state, same_core, same_cluster, same_die, same_mod] | intro _ | split )
theorem keeps_repairMove {x0 : Nat} {x1 : Nat} {x2 : Nat} {x3 : Bool} {x4 : State} (h4 : State.memOk x4) :
    State.memOk (repairMove x0 x1 x2 x3 x4) := by
  unfold repairMove
  try dsimp only
  with_reducible repeat' (first | assumption | refine ite_state ?_ ?_ | apply keeps_updMod | apply keeps_repairRank | apply foldl_memOk | apply memOk_getCore | apply memOk_getCluster | apply memOk_getMod | apply memOk_getPart | apply memOk_focusCore | simp only [same_state, same_core, same_cluster, same_die, same_mod] | intro _ | split )
theorem keeps_execHbmRepair {x0 x1 x2 : Nat} {x3 : Bool} {x4 : State} (h4 : State.memOk x4) :
    ∀ t, (execHbmRepair x0 x1 x2 x3 x4) = .next t → State.memOk t :=
  next_keeps (keeps_repairMove h4)
theorem keeps_coldResetMove {x0 : Nat} {x1 : Bool} {x2 : Nat} {x3 : State} (h3 : State.memOk x3) :
    State.memOk (coldResetMove x0 x1 x2 x3) := by
  unfold coldResetMove
  try dsimp only
  with_reducible repeat' (first | assumption | refine ite_state ?_ ?_ | apply keeps_updMod | apply keeps_dropModule | apply keeps_Module_restarted | apply keeps_tellHost | apply keeps_openWindows | apply keeps_drawCopies | apply keeps_repairRank | apply foldl_memOk | apply memOk_getCore | apply memOk_getCluster | apply memOk_getMod | apply memOk_getPart | apply memOk_focusCore | simp only [same_state, same_core, same_cluster, same_die, same_mod] | intro _ | split )
theorem keeps_execColdReset {x0 : Nat} {x1 : Bool} {x2 : Nat} {x3 : State} (h3 : State.memOk x3) :
    ∀ t, (execColdReset x0 x1 x2 x3) = .next t → State.memOk t :=
  next_keeps (keeps_coldResetMove h3)
theorem keeps_hitLine {x0 : Nat} {x1 : Nat} {x2 : Nat} {x3 : State} (h3 : State.memOk x3) :
    State.memOk (hitLine x0 x1 x2 x3) := by
  unfold hitLine
  try dsimp only
  with_reducible repeat' (first | assumption | refine ite_state ?_ ?_ | apply keeps_updMod | apply keeps_countErr | apply keeps_noteCorrection | apply foldl_memOk | apply memOk_getCore | apply memOk_getCluster | apply memOk_getMod | apply memOk_getPart | apply memOk_focusCore | simp only [same_state, same_core, same_cluster, same_die, same_mod] | intro _ | split )
theorem keeps_markFold {x0 : Nat} {x1 : Nat} {x2 : State} (h2 : State.memOk x2) :
    State.memOk (markFold x0 x1 x2) := by
  unfold markFold
  try dsimp only
  with_reducible repeat' (first | assumption | refine ite_state ?_ ?_ | apply keeps_updMod | apply foldl_memOk | apply memOk_getCore | apply memOk_getCluster | apply memOk_getMod | apply memOk_getPart | apply memOk_focusCore | simp only [same_state, same_core, same_cluster, same_die, same_mod] | intro _ | split )
theorem keeps_uncorrected {x0 : BitLoc} {x1 : State} (h1 : State.memOk x1) :
    State.memOk (uncorrected x0 x1) := by
  unfold uncorrected
  try dsimp only
  with_reducible repeat' (first | assumption | refine ite_state ?_ ?_ | apply keeps_updCluster | apply keeps_markFold | apply keeps_countErr | apply foldl_memOk | apply memOk_getCore | apply memOk_getCluster | apply memOk_getMod | apply memOk_getPart | apply memOk_focusCore | simp only [same_state, same_core, same_cluster, same_die, same_mod] | intro _ | split )
theorem keeps_softErrorMove {x0 : BitLoc} {x1 : Nat} {x2 : Bool} {x3 : State} (h3 : State.memOk x3) :
    State.memOk (softErrorMove x0 x1 x2 x3) := by
  unfold softErrorMove
  try dsimp only
  with_reducible repeat' (first | assumption | refine ite_state ?_ ?_ | apply keeps_updCore | apply keeps_hitLine | apply keeps_uncorrected | apply keeps_countErr | apply foldl_memOk | apply memOk_getCore | apply memOk_getCluster | apply memOk_getMod | apply memOk_getPart | apply memOk_focusCore | simp only [same_state, same_core, same_cluster, same_die, same_mod] | intro _ | split )
theorem keeps_execSoftError {x0 : BitLoc} {x1 : Nat} {x2 : Bool} {x3 : State} (h3 : State.memOk x3) :
    ∀ t, (execSoftError x0 x1 x2 x3) = .next t → State.memOk t :=
  next_keeps (keeps_softErrorMove h3)
theorem keeps_patrolRead {x0 : BitLoc} {x1 : State} (h1 : State.memOk x1) :
    State.memOk (patrolRead x0 x1) := by
  unfold patrolRead
  try dsimp only
  with_reducible repeat' (first | assumption | refine ite_state ?_ ?_ | apply keeps_updMod | apply keeps_countErr | apply foldl_memOk | apply memOk_getCore | apply memOk_getCluster | apply memOk_getMod | apply memOk_getPart | apply memOk_focusCore | simp only [same_state, same_core, same_cluster, same_die, same_mod] | intro _ | split )
theorem keeps_patrolMove {x0 : BitLoc} {x1 : State} (h1 : State.memOk x1) :
    State.memOk (patrolMove x0 x1) := by
  unfold patrolMove
  try dsimp only
  with_reducible repeat' (first | assumption | refine ite_state ?_ ?_ | apply keeps_patrolRead | refine keeps_openValue_eq (by assumption) ?_ | apply keeps_openValue | apply foldl_memOk | apply memOk_getCore | apply memOk_getCluster | apply memOk_getMod | apply memOk_getPart | apply memOk_focusCore | simp only [same_state, same_core, same_cluster, same_die, same_mod] | intro _ | split )
theorem keeps_execPatrolScrub {x0 : BitLoc} {x1 : State} (h1 : State.memOk x1) :
    ∀ t, (execPatrolScrub x0 x1) = .next t → State.memOk t :=
  next_keeps (keeps_patrolMove h1)
theorem keeps_engineFault {x0 x1 : Nat} {x2 : State} (h2 : State.memOk x2) :
    State.memOk (engineFault x0 x1 x2) := by
  unfold engineFault
  try simp only [openValue]
  with_reducible repeat' (first
    | assumption | apply foldl_memOk | apply keeps_updReq | apply keeps_failReq | apply keeps_failChunk
    | simp only [same_state, same_core, same_cluster, same_die, same_mod] | intro _ | split)
theorem keeps_deviceFaultMove {x0 : FaultPart} {x1 : State} (h1 : State.memOk x1) :
    State.memOk (deviceFaultMove x0 x1) := by
  unfold deviceFaultMove
  try simp only [openValue]
  with_reducible repeat' (first
    | assumption | apply keeps_updDie | apply foldl_memOk | apply keeps_stopLaunch | apply keeps_failLaunch | apply keeps_engineFault
    | simp only [same_state, same_core, same_cluster, same_die, same_mod] | intro _ | split)
theorem keeps_execDeviceFault {x0 : FaultPart} {x1 : State} (h1 : State.memOk x1) :
    ∀ t, (execDeviceFault x0 x1) = .next t → State.memOk t :=
  next_keeps (keeps_deviceFaultMove h1)
theorem keeps_powerHoldMove {x0 : Nat} {x1 : State} (h1 : State.memOk x1) :
    State.memOk (powerHoldMove x0 x1) := by
  unfold powerHoldMove
  with_reducible repeat' (first
    | assumption | apply keeps_updCluster | apply keeps_countMod | simp only [same_state, same_core, same_cluster, same_die, same_mod] | intro _
    | split)
theorem keeps_execPowerHold {x0 : State} (h0 : State.memOk x0) :
    ∀ t, (execPowerHold x0) = .next t → State.memOk t :=
  next_keeps (keeps_powerHoldMove h0)
theorem keeps_loseDie {x0 : Nat} {x1 : State} (h1 : State.memOk x1) :
    State.memOk (loseDie x0 x1) := by
  unfold loseDie
  with_reducible repeat' (first | assumption | apply foldl_memOk | apply keeps_scrubCluster | apply keeps_clearStore | intro _)
theorem keeps_dieOffMove {x0 : Nat} {x1 : State} (h1 : State.memOk x1) :
    State.memOk (dieOffMove x0 x1) := by
  unfold dieOffMove
  with_reducible repeat' (first | assumption | apply keeps_updDie | apply keeps_loseDie | intro _ | split)
theorem keeps_execDieOff {x0 : State} (h0 : State.memOk x0) :
    ∀ t, (execDieOff x0) = .next t → State.memOk t :=
  next_keeps (keeps_dieOffMove h0)
theorem keeps_diePowerUpMove {x0 : Nat} {x1 : State} (h1 : State.memOk x1) :
    State.memOk (diePowerUpMove x0 x1) := by
  unfold diePowerUpMove
  try simp only [openValue]
  with_reducible repeat' (first
    | assumption | apply keeps_updCluster | apply keeps_updDie | apply foldl_memOk | apply keeps_again
    | simp only [same_state, same_core, same_cluster, same_die, same_mod] | intro _ | split)
theorem keeps_execDiePowerUp {x0 : State} (h0 : State.memOk x0) :
    ∀ t, (execDiePowerUp x0) = .next t → State.memOk t :=
  next_keeps (keeps_diePowerUpMove h0)
theorem keeps_standbyMove {x0 : Nat} {x1 : State} (h1 : State.memOk x1) :
    State.memOk (standbyMove x0 x1) := by
  unfold standbyMove
  with_reducible repeat' (first
    | assumption | apply keeps_updMod | apply foldl_memOk | apply keeps_loseDie
    | simp only [same_state, same_core, same_cluster, same_die, same_mod] | intro _ | split)
theorem keeps_execModuleStandby {x0 : State} (h0 : State.memOk x0) :
    ∀ t, (execModuleStandby x0) = .next t → State.memOk t :=
  next_keeps (keeps_standbyMove h0)
theorem keeps_standbyExitMove {x0 : Nat} {x1 : State} (h1 : State.memOk x1) :
    State.memOk (standbyExitMove x0 x1) := by
  unfold standbyExitMove
  try dsimp only
  with_reducible repeat' (first | assumption | refine ite_state ?_ ?_ | apply keeps_updMod | apply keeps_again | apply keeps_openWindows | apply foldl_memOk | apply memOk_getCore | apply memOk_getCluster | apply memOk_getMod | apply memOk_getPart | apply memOk_focusCore | simp only [same_state, same_core, same_cluster, same_die, same_mod] | intro _ | split )
theorem keeps_execModuleStandbyExit {x0 : State} (h0 : State.memOk x0) :
    ∀ t, (execModuleStandbyExit x0) = .next t → State.memOk t :=
  next_keeps (keeps_standbyExitMove h0)

/-! ### The cycle (Machine/Cycle.lean) -/

theorem keeps_Core_newCycle {x0 : Core} (h0 : Core.memOk x0) :
    Core.memOk (Core.newCycle x0) := by
  unfold Core.newCycle
  with_reducible repeat' (first
    | assumption | refine ite_core ?_ ?_ | apply keeps_Core_countNew | simp only [same_state, same_core, same_cluster, same_die, same_mod])
theorem keeps_Cluster_newCycle {x0 : Cluster} (h0 : Cluster.memOk x0) :
    Cluster.memOk (Cluster.newCycle x0) := by
  unfold Cluster.newCycle
  with_reducible repeat' (first | assumption | simp only [same_state, same_core, same_cluster, same_die, same_mod] | split)
theorem keeps_Module_newCycle {x0 : Module} (h0 : Module.memOk x0) :
    Module.memOk (Module.newCycle x0) := by
  unfold Module.newCycle
  with_reducible repeat' (first | assumption | refine ite_mod ?_ ?_ | simp only [same_state, same_core, same_cluster, same_die, same_mod])
theorem keeps_freeMessages {s : State} (h : s.memOk) : (freeMessages s).memOk :=
  by
  refine ⟨h.1, h.2.1, h.2.2.1, fun x hx => ?_⟩
  obtain ⟨y, hy, rfl⟩ := List.mem_map.mp hx
  have hm := h.2.2.2 y hy
  split <;> exact hm
theorem keeps_countHolds {x0 : State} {x1 : State} (h0 : State.memOk x0) (h1 : State.memOk x1) :
    State.memOk (countHolds x0 x1) := by
  unfold countHolds
  try dsimp only
  with_reducible repeat' (first | assumption | refine ite_state ?_ ?_ | apply keeps_countMod | apply foldl_memOk | apply memOk_getCore | apply memOk_getCluster | apply memOk_getMod | apply memOk_getPart | apply memOk_focusCore | simp only [same_state, same_core, same_cluster, same_die, same_mod] | intro _ | split )
theorem keeps_beginCycle {x0 : State} (h0 : State.memOk x0) :
    State.memOk (beginCycle x0) := by
  have hc : ∀ (s : State) (f : Core → Core) (g : Cluster → Cluster) (m : Module → Module) (n : Nat) (ins : List (Nat × Move)), s.memOk → (∀ c : Core, c.memOk → (f c).memOk) →
      (∀ c : Cluster, c.memOk → (g c).memOk) → (∀ c : Module, c.memOk → (m c).memOk) → State.memOk { s with
        cycle := n, cores := s.cores.map (fun x => (x.1, f x.2)), clusters := s.clusters.map (fun x => (x.1, g x.2)),
        mods := s.mods.map (fun x => (x.1, m x.2)), inputs := ins } :=
    fun s f g m n ins h hf hg hm => ⟨map_all (P := Core.memOk) (fun k c h => hf c h) h.1, map_all (P := Cluster.memOk) (fun k c h => hg c h) h.2.1, h.2.2.1,
      map_all (P := Module.memOk) (fun k c h => hm c h) h.2.2.2⟩
  have ha : ∀ (s : State) (a : List Move), s.memOk → State.memOk { freeMessages s with agenda := a } := fun s a h => keeps_freeMessages h
  exact ha _ _ (keeps_countHolds h0 (hc _ _ _ _ _ _ h0 (fun c h => keeps_Core_newCycle h) (fun c h => keeps_Cluster_newCycle h) (fun c h => keeps_Module_newCycle h)))
theorem keeps_Core_placed {x0 : Core} (h0 : Core.memOk x0) :
    Core.memOk (Core.placed x0) := h0
theorem keeps_Cluster_placed {x0 : Cluster} {x1 : List Nat} (h0 : Cluster.memOk x0) :
    Cluster.memOk (Cluster.placed x0 x1) := by
  unfold Cluster.placed
  with_reducible repeat' (first | assumption | apply wf_scratch | apply Mem.write_wf | simp only [mk_cluster] | apply And.intro)
theorem keeps_placeBundle {x0 : State} {x1 x2 : Nat} (h0 : State.memOk x0) :
    State.memOk (placeBundle x0 x1 x2) := by
  unfold placeBundle
  with_reducible repeat' (first
    | assumption | apply keeps_updCore | apply keeps_updCluster | apply keeps_Core_placed | apply keeps_Cluster_placed
    | simp only [same_state, same_core, same_cluster, same_die, same_mod] | intro _)

end Sys2Proof.Machine
end

