-- ==== Sys2Proof/Laws/PerInstr.lean ====
section
/-! SUPPORT. Sys2Proof/Laws/PerInstr.lean: the statements made per instruction (LAWS.json): the words of a well-formed instruction fit
their 32 bits, and its extension the 31 bits below the continuation bit (R52, R54, R57). -/

namespace Sys2Proof.Laws

set_option Elab.async false
set_option linter.unusedSimpArgs false

theorem fmt_code_lt (f : Fmt) : f.code < 8 := by cases f <;> decide
theorem cond_code_lt (c : Cond) : c.code < 8 := by cases c <;> decide
theorem isCmp_code_lt (c : Cond) (h : c.isCmp = true) : c.code < 6 := by cases c <;> first | decide | simp [Cond.isCmp] at h
theorem rmode_code_lt (r : RMode) : r.code < 7 := by cases r <;> decide
theorem wcond_code_lt (c : WCond) : c.code < 4 := by cases c <;> decide
theorem b2n_lt (b : Bool) : b2n b < 2 := by cases b <;> decide
theorem isFloat_code_lt (f : Fmt) (h : f.isFloat = true) : f.code < 3 := by cases f <;> first | decide | simp [Fmt.isFloat] at h

theorem wrap_lt (n : Nat) (x : Int) : wrap n x < 2 ^ n := by
  unfold wrap
  have h : (0 : Int) < ((2 ^ n : Nat) : Int) := by exact_mod_cast Nat.two_pow_pos n
  have h1 := Int.emod_nonneg x (Int.ne_of_gt h)
  have h2 := Int.emod_lt_of_pos x h
  omega

theorem lowW_lt (n : Nat) (x : Int) : lowW n x < 2 ^ n := Nat.mod_lt _ (Nat.two_pow_pos n)
theorem highW_lt (n : Nat) (x : Int) : highW n x < 2 ^ 31 := by
  have h := wrap_lt (31 + n) x
  rw [Nat.pow_add] at h
  exact Nat.div_lt_of_lt_mul (by rw [Nat.mul_comm]; exact h)

theorem vext_lt (e : VExt) (d a b : Nat) (h : e.wf d a b = true) : e.toNat < 128 := by
  simp only [VExt.wf, Bool.and_eq_true, decide_eq_true_eq] at h
  have h1 := b2n_lt e.qa
  have h2 := b2n_lt e.qb
  have h3 := b2n_lt e.qd
  have h4 := b2n_lt e.ke
  unfold VExt.toNat
  omega

/-- The words of a well-formed instruction fit their bits. -/
def EncodeFits.Statement (i : Instr) : Prop := i.wf = true → (encode i).1 < 2 ^ 32 ∧ ∀ e, (encode i).2 = some e → e < 2 ^ 31

theorem EncodeFits.coldReset (m : Nat) (ok : Bool) (hostTime : Nat) : EncodeFits.Statement (.coldReset m ok hostTime) := fun _ => ⟨by simp [encode, encodeXY, encodeC, encodeV, encodeW, encodeMK, encodeL, encodeE], by simp [encode, encodeXY, encodeC, encodeV, encodeW, encodeMK, encodeL, encodeE]⟩
theorem EncodeFits.wsRefreshWindow (d grp : Nat) : EncodeFits.Statement (.wsRefreshWindow d grp) := fun _ => ⟨by simp [encode, encodeXY, encodeC, encodeV, encodeW, encodeMK, encodeL, encodeE], by simp [encode, encodeXY, encodeC, encodeV, encodeW, encodeMK, encodeL, encodeE]⟩
theorem EncodeFits.streamUnitMove (k u : Nat) : EncodeFits.Statement (.streamUnitMove k u) := fun _ => ⟨by simp [encode, encodeXY, encodeC, encodeV, encodeW, encodeMK, encodeL, encodeE], by simp [encode, encodeXY, encodeC, encodeV, encodeW, encodeMK, encodeL, encodeE]⟩
theorem EncodeFits.chunkPerform (c e : Nat) : EncodeFits.Statement (.chunkPerform c e) := fun _ => ⟨by simp [encode, encodeXY, encodeC, encodeV, encodeW, encodeMK, encodeL, encodeE], by simp [encode, encodeXY, encodeC, encodeV, encodeW, encodeMK, encodeL, encodeE]⟩
theorem EncodeFits.requestFinish (c e : Nat) : EncodeFits.Statement (.requestFinish c e) := fun _ => ⟨by simp [encode, encodeXY, encodeC, encodeV, encodeW, encodeMK, encodeL, encodeE], by simp [encode, encodeXY, encodeC, encodeV, encodeW, encodeMK, encodeL, encodeE]⟩
theorem EncodeFits.publishSwap (c b : Nat) : EncodeFits.Statement (.publishSwap c b) := fun _ => ⟨by simp [encode, encodeXY, encodeC, encodeV, encodeW, encodeMK, encodeL, encodeE], by simp [encode, encodeXY, encodeC, encodeV, encodeW, encodeMK, encodeL, encodeE]⟩
theorem EncodeFits.agreementDeadlineExpiry (job ch : Nat) : EncodeFits.Statement (.agreementDeadlineExpiry job ch) := fun _ => ⟨by simp [encode, encodeXY, encodeC, encodeV, encodeW, encodeMK, encodeL, encodeE], by simp [encode, encodeXY, encodeC, encodeV, encodeW, encodeMK, encodeL, encodeE]⟩
theorem EncodeFits.syncReceive (m port : Nat) (x : SyncMsg) : EncodeFits.Statement (.syncReceive m port x) := fun _ => ⟨by simp [encode, encodeXY, encodeC, encodeV, encodeW, encodeMK, encodeL, encodeE], by simp [encode, encodeXY, encodeC, encodeV, encodeW, encodeMK, encodeL, encodeE]⟩
theorem EncodeFits.tmcfgWrite (m v : Nat) : EncodeFits.Statement (.tmcfgWrite m v) := fun _ => ⟨by simp [encode, encodeXY, encodeC, encodeV, encodeW, encodeMK, encodeL, encodeE], by simp [encode, encodeXY, encodeC, encodeV, encodeW, encodeMK, encodeL, encodeE]⟩
theorem EncodeFits.tickFiring (m tg : Nat) : EncodeFits.Statement (.tickFiring m tg) := fun _ => ⟨by simp [encode, encodeXY, encodeC, encodeV, encodeW, encodeMK, encodeL, encodeE], by simp [encode, encodeXY, encodeC, encodeV, encodeW, encodeMK, encodeL, encodeE]⟩
theorem EncodeFits.tokenArrival (m port : Nat) (t : Token) : EncodeFits.Statement (.tokenArrival m port t) := fun _ => ⟨by simp [encode, encodeXY, encodeC, encodeV, encodeW, encodeMK, encodeL, encodeE], by simp [encode, encodeXY, encodeC, encodeV, encodeW, encodeMK, encodeL, encodeE]⟩
theorem EncodeFits.slotClose (m w : Nat) : EncodeFits.Statement (.slotClose m w) := fun _ => ⟨by simp [encode, encodeXY, encodeC, encodeV, encodeW, encodeMK, encodeL, encodeE], by simp [encode, encodeXY, encodeC, encodeV, encodeW, encodeMK, encodeL, encodeE]⟩
theorem EncodeFits.graphRunFinish (c slot : Nat) : EncodeFits.Statement (.graphRunFinish c slot) := fun _ => ⟨by simp [encode, encodeXY, encodeC, encodeV, encodeW, encodeMK, encodeL, encodeE], by simp [encode, encodeXY, encodeC, encodeV, encodeW, encodeMK, encodeL, encodeE]⟩
theorem EncodeFits.queueDoorbell (m q : Nat) : EncodeFits.Statement (.queueDoorbell m q) := fun _ => ⟨by simp [encode, encodeXY, encodeC, encodeV, encodeW, encodeMK, encodeL, encodeE], by simp [encode, encodeXY, encodeC, encodeV, encodeW, encodeMK, encodeL, encodeE]⟩
theorem EncodeFits.queuePollTimer (m q : Nat) : EncodeFits.Statement (.queuePollTimer m q) := fun _ => ⟨by simp [encode, encodeXY, encodeC, encodeV, encodeW, encodeMK, encodeL, encodeE], by simp [encode, encodeXY, encodeC, encodeV, encodeW, encodeMK, encodeL, encodeE]⟩
theorem EncodeFits.packetRead (m q : Nat) : EncodeFits.Statement (.packetRead m q) := fun _ => ⟨by simp [encode, encodeXY, encodeC, encodeV, encodeW, encodeMK, encodeL, encodeE], by simp [encode, encodeXY, encodeC, encodeV, encodeW, encodeMK, encodeL, encodeE]⟩
theorem EncodeFits.queueGo (m caller q : Nat) : EncodeFits.Statement (.queueGo m caller q) := fun _ => ⟨by simp [encode, encodeXY, encodeC, encodeV, encodeW, encodeMK, encodeL, encodeE], by simp [encode, encodeXY, encodeC, encodeV, encodeW, encodeMK, encodeL, encodeE]⟩
theorem EncodeFits.queueErrClear (m caller q : Nat) (err flt : Bool) : EncodeFits.Statement (.queueErrClear m caller q err flt) := fun _ => ⟨by simp [encode, encodeXY, encodeC, encodeV, encodeW, encodeMK, encodeL, encodeE], by simp [encode, encodeXY, encodeC, encodeV, encodeW, encodeMK, encodeL, encodeE]⟩
theorem EncodeFits.queueCompletionAck (m caller q v : Nat) : EncodeFits.Statement (.queueCompletionAck m caller q v) := fun _ => ⟨by simp [encode, encodeXY, encodeC, encodeV, encodeW, encodeMK, encodeL, encodeE], by simp [encode, encodeXY, encodeC, encodeV, encodeW, encodeMK, encodeL, encodeE]⟩
theorem EncodeFits.dependenceTest (m q : Nat) : EncodeFits.Statement (.dependenceTest m q) := fun _ => ⟨by simp [encode, encodeXY, encodeC, encodeV, encodeW, encodeMK, encodeL, encodeE], by simp [encode, encodeXY, encodeC, encodeV, encodeW, encodeMK, encodeL, encodeE]⟩
theorem EncodeFits.jobCreate (m caller job : Nat) (members : List Nat) (root : Nat) (decls : List (List Nat)) : EncodeFits.Statement (.jobCreate m caller job members root decls) := fun _ => ⟨by simp [encode, encodeXY, encodeC, encodeV, encodeW, encodeMK, encodeL, encodeE], by simp [encode, encodeXY, encodeC, encodeV, encodeW, encodeMK, encodeL, encodeE]⟩
theorem EncodeFits.jobRemove (m caller job : Nat) : EncodeFits.Statement (.jobRemove m caller job) := fun _ => ⟨by simp [encode, encodeXY, encodeC, encodeV, encodeW, encodeMK, encodeL, encodeE], by simp [encode, encodeXY, encodeC, encodeV, encodeW, encodeMK, encodeL, encodeE]⟩
theorem EncodeFits.jobShrink (m caller job member : Nat) : EncodeFits.Statement (.jobShrink m caller job member) := fun _ => ⟨by simp [encode, encodeXY, encodeC, encodeV, encodeW, encodeMK, encodeL, encodeE], by simp [encode, encodeXY, encodeC, encodeV, encodeW, encodeMK, encodeL, encodeE]⟩
theorem EncodeFits.tickSet (m caller tg : Nat) (words : List Nat) : EncodeFits.Statement (.tickSet m caller tg words) := fun _ => ⟨by simp [encode, encodeXY, encodeC, encodeV, encodeW, encodeMK, encodeL, encodeE], by simp [encode, encodeXY, encodeC, encodeV, encodeW, encodeMK, encodeL, encodeE]⟩
theorem EncodeFits.winOpen (m caller job c : Nat) (decl : List Nat) : EncodeFits.Statement (.winOpen m caller job c decl) := fun _ => ⟨by simp [encode, encodeXY, encodeC, encodeV, encodeW, encodeMK, encodeL, encodeE], by simp [encode, encodeXY, encodeC, encodeV, encodeW, encodeMK, encodeL, encodeE]⟩
theorem EncodeFits.winClose (m caller w : Nat) : EncodeFits.Statement (.winClose m caller w) := fun _ => ⟨by simp [encode, encodeXY, encodeC, encodeV, encodeW, encodeMK, encodeL, encodeE], by simp [encode, encodeXY, encodeC, encodeV, encodeW, encodeMK, encodeL, encodeE]⟩
theorem EncodeFits.cvAllot (m caller n : Nat) (words : List Nat) : EncodeFits.Statement (.cvAllot m caller n words) := fun _ => ⟨by simp [encode, encodeXY, encodeC, encodeV, encodeW, encodeMK, encodeL, encodeE], by simp [encode, encodeXY, encodeC, encodeV, encodeW, encodeMK, encodeL, encodeE]⟩
theorem EncodeFits.shootdown (m caller job member va bytes : Nat) : EncodeFits.Statement (.shootdown m caller job member va bytes) := fun _ => ⟨by simp [encode, encodeXY, encodeC, encodeV, encodeW, encodeMK, encodeL, encodeE], by simp [encode, encodeXY, encodeC, encodeV, encodeW, encodeMK, encodeL, encodeE]⟩
theorem EncodeFits.pageReady (m caller job member va bytes : Nat) : EncodeFits.Statement (.pageReady m caller job member va bytes) := fun _ => ⟨by simp [encode, encodeXY, encodeC, encodeV, encodeW, encodeMK, encodeL, encodeE], by simp [encode, encodeXY, encodeC, encodeV, encodeW, encodeMK, encodeL, encodeE]⟩
theorem EncodeFits.fabSched (m caller job src dst hops rate : Nat) (ports : List Nat) : EncodeFits.Statement (.fabSched m caller job src dst hops rate ports) := fun _ => ⟨by simp [encode, encodeXY, encodeC, encodeV, encodeW, encodeMK, encodeL, encodeE], by simp [encode, encodeXY, encodeC, encodeV, encodeW, encodeMK, encodeL, encodeE]⟩
theorem EncodeFits.partAssign (c part : Nat) : EncodeFits.Statement (.partAssign c part) := fun _ => ⟨by simp [encode, encodeXY, encodeC, encodeV, encodeW, encodeMK, encodeL, encodeE], by simp [encode, encodeXY, encodeC, encodeV, encodeW, encodeMK, encodeL, encodeE]⟩
theorem EncodeFits.partPreempt (m part : Nat) : EncodeFits.Statement (.partPreempt m part) := fun _ => ⟨by simp [encode, encodeXY, encodeC, encodeV, encodeW, encodeMK, encodeL, encodeE], by simp [encode, encodeXY, encodeC, encodeV, encodeW, encodeMK, encodeL, encodeE]⟩
theorem EncodeFits.partResume (m part : Nat) : EncodeFits.Statement (.partResume m part) := fun _ => ⟨by simp [encode, encodeXY, encodeC, encodeV, encodeW, encodeMK, encodeL, encodeE], by simp [encode, encodeXY, encodeC, encodeV, encodeW, encodeMK, encodeL, encodeE]⟩
theorem EncodeFits.wsownWrite (d part : Nat) : EncodeFits.Statement (.wsownWrite d part) := fun _ => ⟨by simp [encode, encodeXY, encodeC, encodeV, encodeW, encodeMK, encodeL, encodeE], by simp [encode, encodeXY, encodeC, encodeV, encodeW, encodeMK, encodeL, encodeE]⟩
theorem EncodeFits.swapCommand (m caller : Nat) (words : List Nat) : EncodeFits.Statement (.swapCommand m caller words) := fun _ => ⟨by simp [encode, encodeXY, encodeC, encodeV, encodeW, encodeMK, encodeL, encodeE], by simp [encode, encodeXY, encodeC, encodeV, encodeW, encodeMK, encodeL, encodeE]⟩
theorem EncodeFits.halt (m caller job : Nat) : EncodeFits.Statement (.halt m caller job) := fun _ => ⟨by simp [encode, encodeXY, encodeC, encodeV, encodeW, encodeMK, encodeL, encodeE], by simp [encode, encodeXY, encodeC, encodeV, encodeW, encodeMK, encodeL, encodeE]⟩
theorem EncodeFits.haltWaveTrigger (m job : Nat) : EncodeFits.Statement (.haltWaveTrigger m job) := fun _ => ⟨by simp [encode, encodeXY, encodeC, encodeV, encodeW, encodeMK, encodeL, encodeE], by simp [encode, encodeXY, encodeC, encodeV, encodeW, encodeMK, encodeL, encodeE]⟩
theorem EncodeFits.dbgRead (m caller job : Nat) (src : DbgSource) : EncodeFits.Statement (.dbgRead m caller job src) := fun _ => ⟨by simp [encode, encodeXY, encodeC, encodeV, encodeW, encodeMK, encodeL, encodeE], by simp [encode, encodeXY, encodeC, encodeV, encodeW, encodeMK, encodeL, encodeE]⟩
theorem EncodeFits.dbgWrite (k caller : Nat) (t : DbgTarget) : EncodeFits.Statement (.dbgWrite k caller t) := fun _ => ⟨by simp [encode, encodeXY, encodeC, encodeV, encodeW, encodeMK, encodeL, encodeE], by simp [encode, encodeXY, encodeC, encodeV, encodeW, encodeMK, encodeL, encodeE]⟩
theorem EncodeFits.stepCycle (k caller : Nat) : EncodeFits.Statement (.stepCycle k caller) := fun _ => ⟨by simp [encode, encodeXY, encodeC, encodeV, encodeW, encodeMK, encodeL, encodeE], by simp [encode, encodeXY, encodeC, encodeV, encodeW, encodeMK, encodeL, encodeE]⟩
theorem EncodeFits.stepBundle (k caller : Nat) : EncodeFits.Statement (.stepBundle k caller) := fun _ => ⟨by simp [encode, encodeXY, encodeC, encodeV, encodeW, encodeMK, encodeL, encodeE], by simp [encode, encodeXY, encodeC, encodeV, encodeW, encodeMK, encodeL, encodeE]⟩
theorem EncodeFits.resume (m caller job : Nat) : EncodeFits.Statement (.resume m caller job) := fun _ => ⟨by simp [encode, encodeXY, encodeC, encodeV, encodeW, encodeMK, encodeL, encodeE], by simp [encode, encodeXY, encodeC, encodeV, encodeW, encodeMK, encodeL, encodeE]⟩
theorem EncodeFits.resumeReleaseStage (m job stage : Nat) : EncodeFits.Statement (.resumeReleaseStage m job stage) := fun _ => ⟨by simp [encode, encodeXY, encodeC, encodeV, encodeW, encodeMK, encodeL, encodeE], by simp [encode, encodeXY, encodeC, encodeV, encodeW, encodeMK, encodeL, encodeE]⟩
theorem EncodeFits.fwload (m : Nat) (signed accepts : Bool) (version : Nat) : EncodeFits.Statement (.fwload m signed accepts version) := fun _ => ⟨by simp [encode, encodeXY, encodeC, encodeV, encodeW, encodeMK, encodeL, encodeE], by simp [encode, encodeXY, encodeC, encodeV, encodeW, encodeMK, encodeL, encodeE]⟩
theorem EncodeFits.dieFirmwareRejoin (d lo hi : Nat) (neighbours : List (Nat × Nat)) : EncodeFits.Statement (.dieFirmwareRejoin d lo hi neighbours) := fun _ => ⟨by simp [encode, encodeXY, encodeC, encodeV, encodeW, encodeMK, encodeL, encodeE], by simp [encode, encodeXY, encodeC, encodeV, encodeW, encodeMK, encodeL, encodeE]⟩
theorem EncodeFits.registerWrite (m caller off v : Nat) : EncodeFits.Statement (.registerWrite m caller off v) := fun _ => ⟨by simp [encode, encodeXY, encodeC, encodeV, encodeW, encodeMK, encodeL, encodeE], by simp [encode, encodeXY, encodeC, encodeV, encodeW, encodeMK, encodeL, encodeE]⟩
theorem EncodeFits.errorCounterClear (m part : Nat) : EncodeFits.Statement (.errorCounterClear m part) := fun _ => ⟨by simp [encode, encodeXY, encodeC, encodeV, encodeW, encodeMK, encodeL, encodeE], by simp [encode, encodeXY, encodeC, encodeV, encodeW, encodeMK, encodeL, encodeE]⟩
theorem EncodeFits.flitRetry (m port : Nat) : EncodeFits.Statement (.flitRetry m port) := fun _ => ⟨by simp [encode, encodeXY, encodeC, encodeV, encodeW, encodeMK, encodeL, encodeE], by simp [encode, encodeXY, encodeC, encodeV, encodeW, encodeMK, encodeL, encodeE]⟩
theorem EncodeFits.linkDownTimeout (m port : Nat) : EncodeFits.Statement (.linkDownTimeout m port) := fun _ => ⟨by simp [encode, encodeXY, encodeC, encodeV, encodeW, encodeMK, encodeL, encodeE], by simp [encode, encodeXY, encodeC, encodeV, encodeW, encodeMK, encodeL, encodeE]⟩
theorem EncodeFits.erasureAdd (m rank sym : Nat) : EncodeFits.Statement (.erasureAdd m rank sym) := fun _ => ⟨by simp [encode, encodeXY, encodeC, encodeV, encodeW, encodeMK, encodeL, encodeE], by simp [encode, encodeXY, encodeC, encodeV, encodeW, encodeMK, encodeL, encodeE]⟩
theorem EncodeFits.hbmRepair (m rank frame : Nat) (bringUp : Bool) : EncodeFits.Statement (.hbmRepair m rank frame bringUp) := fun _ => ⟨by simp [encode, encodeXY, encodeC, encodeV, encodeW, encodeMK, encodeL, encodeE], by simp [encode, encodeXY, encodeC, encodeV, encodeW, encodeMK, encodeL, encodeE]⟩
theorem EncodeFits.patrolScrub (loc : BitLoc) : EncodeFits.Statement (.patrolScrub loc) := fun _ => ⟨by simp [encode, encodeXY, encodeC, encodeV, encodeW, encodeMK, encodeL, encodeE], by simp [encode, encodeXY, encodeC, encodeV, encodeW, encodeMK, encodeL, encodeE]⟩
theorem EncodeFits.add (g d a b : Nat) : EncodeFits.Statement (.add g d a b) := by
  intro hw
  simp only [Instr.wf, wfS3, wfS2, wfS1, wfP, wfV2, wfV1, wfE1, okView, okXchk, lt, fits, sysExists, sysWritable, Bool.and_eq_true, Bool.or_eq_true, Bool.not_eq_true', decide_eq_true_eq, beq_iff_eq] at hw
  simp only [encode, encodeXY, syl, lay3, reduceCtorEq, Option.some.injEq, forall_eq', false_implies, implies_true, and_true]
  omega
theorem EncodeFits.sub (g d a b : Nat) : EncodeFits.Statement (.sub g d a b) := by
  intro hw
  simp only [Instr.wf, wfS3, wfS2, wfS1, wfP, wfV2, wfV1, wfE1, okView, okXchk, lt, fits, sysExists, sysWritable, Bool.and_eq_true, Bool.or_eq_true, Bool.not_eq_true', decide_eq_true_eq, beq_iff_eq] at hw
  simp only [encode, encodeXY, syl, lay3, reduceCtorEq, Option.some.injEq, forall_eq', false_implies, implies_true, and_true]
  omega
theorem EncodeFits.mul (g d a b : Nat) : EncodeFits.Statement (.mul g d a b) := by
  intro hw
  simp only [Instr.wf, wfS3, wfS2, wfS1, wfP, wfV2, wfV1, wfE1, okView, okXchk, lt, fits, sysExists, sysWritable, Bool.and_eq_true, Bool.or_eq_true, Bool.not_eq_true', decide_eq_true_eq, beq_iff_eq] at hw
  simp only [encode, encodeXY, syl, lay3, reduceCtorEq, Option.some.injEq, forall_eq', false_implies, implies_true, and_true]
  omega
theorem EncodeFits.mulh (g d a b : Nat) : EncodeFits.Statement (.mulh g d a b) := by
  intro hw
  simp only [Instr.wf, wfS3, wfS2, wfS1, wfP, wfV2, wfV1, wfE1, okView, okXchk, lt, fits, sysExists, sysWritable, Bool.and_eq_true, Bool.or_eq_true, Bool.not_eq_true', decide_eq_true_eq, beq_iff_eq] at hw
  simp only [encode, encodeXY, syl, lay3, reduceCtorEq, Option.some.injEq, forall_eq', false_implies, implies_true, and_true]
  omega
theorem EncodeFits.and (g d a b : Nat) : EncodeFits.Statement (.and g d a b) := by
  intro hw
  simp only [Instr.wf, wfS3, wfS2, wfS1, wfP, wfV2, wfV1, wfE1, okView, okXchk, lt, fits, sysExists, sysWritable, Bool.and_eq_true, Bool.or_eq_true, Bool.not_eq_true', decide_eq_true_eq, beq_iff_eq] at hw
  simp only [encode, encodeXY, syl, lay3, reduceCtorEq, Option.some.injEq, forall_eq', false_implies, implies_true, and_true]
  omega
theorem EncodeFits.or (g d a b : Nat) : EncodeFits.Statement (.or g d a b) := by
  intro hw
  simp only [Instr.wf, wfS3, wfS2, wfS1, wfP, wfV2, wfV1, wfE1, okView, okXchk, lt, fits, sysExists, sysWritable, Bool.and_eq_true, Bool.or_eq_true, Bool.not_eq_true', decide_eq_true_eq, beq_iff_eq] at hw
  simp only [encode, encodeXY, syl, lay3, reduceCtorEq, Option.some.injEq, forall_eq', false_implies, implies_true, and_true]
  omega
theorem EncodeFits.xor (g d a b : Nat) : EncodeFits.Statement (.xor g d a b) := by
  intro hw
  simp only [Instr.wf, wfS3, wfS2, wfS1, wfP, wfV2, wfV1, wfE1, okView, okXchk, lt, fits, sysExists, sysWritable, Bool.and_eq_true, Bool.or_eq_true, Bool.not_eq_true', decide_eq_true_eq, beq_iff_eq] at hw
  simp only [encode, encodeXY, syl, lay3, reduceCtorEq, Option.some.injEq, forall_eq', false_implies, implies_true, and_true]
  omega
theorem EncodeFits.shl (g d a b : Nat) : EncodeFits.Statement (.shl g d a b) := by
  intro hw
  simp only [Instr.wf, wfS3, wfS2, wfS1, wfP, wfV2, wfV1, wfE1, okView, okXchk, lt, fits, sysExists, sysWritable, Bool.and_eq_true, Bool.or_eq_true, Bool.not_eq_true', decide_eq_true_eq, beq_iff_eq] at hw
  simp only [encode, encodeXY, syl, lay3, reduceCtorEq, Option.some.injEq, forall_eq', false_implies, implies_true, and_true]
  omega
theorem EncodeFits.shr (g d a b : Nat) : EncodeFits.Statement (.shr g d a b) := by
  intro hw
  simp only [Instr.wf, wfS3, wfS2, wfS1, wfP, wfV2, wfV1, wfE1, okView, okXchk, lt, fits, sysExists, sysWritable, Bool.and_eq_true, Bool.or_eq_true, Bool.not_eq_true', decide_eq_true_eq, beq_iff_eq] at hw
  simp only [encode, encodeXY, syl, lay3, reduceCtorEq, Option.some.injEq, forall_eq', false_implies, implies_true, and_true]
  omega
theorem EncodeFits.sra (g d a b : Nat) : EncodeFits.Statement (.sra g d a b) := by
  intro hw
  simp only [Instr.wf, wfS3, wfS2, wfS1, wfP, wfV2, wfV1, wfE1, okView, okXchk, lt, fits, sysExists, sysWritable, Bool.and_eq_true, Bool.or_eq_true, Bool.not_eq_true', decide_eq_true_eq, beq_iff_eq] at hw
  simp only [encode, encodeXY, syl, lay3, reduceCtorEq, Option.some.injEq, forall_eq', false_implies, implies_true, and_true]
  omega
theorem EncodeFits.min (g d a b : Nat) : EncodeFits.Statement (.min g d a b) := by
  intro hw
  simp only [Instr.wf, wfS3, wfS2, wfS1, wfP, wfV2, wfV1, wfE1, okView, okXchk, lt, fits, sysExists, sysWritable, Bool.and_eq_true, Bool.or_eq_true, Bool.not_eq_true', decide_eq_true_eq, beq_iff_eq] at hw
  simp only [encode, encodeXY, syl, lay3, reduceCtorEq, Option.some.injEq, forall_eq', false_implies, implies_true, and_true]
  omega
theorem EncodeFits.max (g d a b : Nat) : EncodeFits.Statement (.max g d a b) := by
  intro hw
  simp only [Instr.wf, wfS3, wfS2, wfS1, wfP, wfV2, wfV1, wfE1, okView, okXchk, lt, fits, sysExists, sysWritable, Bool.and_eq_true, Bool.or_eq_true, Bool.not_eq_true', decide_eq_true_eq, beq_iff_eq] at hw
  simp only [encode, encodeXY, syl, lay3, reduceCtorEq, Option.some.injEq, forall_eq', false_implies, implies_true, and_true]
  omega
theorem EncodeFits.clz (g d a : Nat) : EncodeFits.Statement (.clz g d a) := by
  intro hw
  simp only [Instr.wf, wfS3, wfS2, wfS1, wfP, wfV2, wfV1, wfE1, okView, okXchk, lt, fits, sysExists, sysWritable, Bool.and_eq_true, Bool.or_eq_true, Bool.not_eq_true', decide_eq_true_eq, beq_iff_eq] at hw
  simp only [encode, encodeXY, syl, lay3, reduceCtorEq, Option.some.injEq, forall_eq', false_implies, implies_true, and_true]
  omega
theorem EncodeFits.popc (g d a : Nat) : EncodeFits.Statement (.popc g d a) := by
  intro hw
  simp only [Instr.wf, wfS3, wfS2, wfS1, wfP, wfV2, wfV1, wfE1, okView, okXchk, lt, fits, sysExists, sysWritable, Bool.and_eq_true, Bool.or_eq_true, Bool.not_eq_true', decide_eq_true_eq, beq_iff_eq] at hw
  simp only [encode, encodeXY, syl, lay3, reduceCtorEq, Option.some.injEq, forall_eq', false_implies, implies_true, and_true]
  omega
theorem EncodeFits.addi (g d a : Nat) (imm : Int) : EncodeFits.Statement (.addi g d a imm) := by
  intro hw
  simp only [Instr.wf, wfS3, wfS2, wfS1, wfP, wfV2, wfV1, wfE1, okView, okXchk, lt, fits, sysExists, sysWritable, Bool.and_eq_true, Bool.or_eq_true, Bool.not_eq_true', decide_eq_true_eq, beq_iff_eq] at hw
  have := wrap_lt 10 imm
  simp only [encode, encodeXY, syl, reduceCtorEq, Option.some.injEq, forall_eq', false_implies, implies_true, and_true]
  omega
theorem EncodeFits.addiWide (g d a : Nat) (imm : Int) : EncodeFits.Statement (.addiWide g d a imm) := by
  intro hw
  simp only [Instr.wf, wfS3, wfS2, wfS1, wfP, wfV2, wfV1, wfE1, okView, okXchk, lt, fits, sysExists, sysWritable, Bool.and_eq_true, Bool.or_eq_true, Bool.not_eq_true', decide_eq_true_eq, beq_iff_eq] at hw
  have := lowW_lt 10 imm
  have := highW_lt 10 imm
  simp only [encode, encodeXY, syl, reduceCtorEq, Option.some.injEq, forall_eq', false_implies, implies_true, and_true]
  omega
theorem EncodeFits.movi (g d : Nat) (imm : Int) : EncodeFits.Statement (.movi g d imm) := by
  intro hw
  simp only [Instr.wf, wfS3, wfS2, wfS1, wfP, wfV2, wfV1, wfE1, okView, okXchk, lt, fits, sysExists, sysWritable, Bool.and_eq_true, Bool.or_eq_true, Bool.not_eq_true', decide_eq_true_eq, beq_iff_eq] at hw
  have := wrap_lt 16 imm
  simp only [encode, encodeXY, syl, reduceCtorEq, Option.some.injEq, forall_eq', false_implies, implies_true, and_true]
  omega
theorem EncodeFits.moviWide (g d : Nat) (imm : Int) : EncodeFits.Statement (.moviWide g d imm) := by
  intro hw
  simp only [Instr.wf, wfS3, wfS2, wfS1, wfP, wfV2, wfV1, wfE1, okView, okXchk, lt, fits, sysExists, sysWritable, Bool.and_eq_true, Bool.or_eq_true, Bool.not_eq_true', decide_eq_true_eq, beq_iff_eq] at hw
  have := lowW_lt 16 imm
  have := highW_lt 16 imm
  simp only [encode, encodeXY, syl, reduceCtorEq, Option.some.injEq, forall_eq', false_implies, implies_true, and_true]
  omega
theorem EncodeFits.movhi (g d imm : Nat) : EncodeFits.Statement (.movhi g d imm) := by
  intro hw
  simp only [Instr.wf, wfS3, wfS2, wfS1, wfP, wfV2, wfV1, wfE1, okView, okXchk, lt, fits, sysExists, sysWritable, Bool.and_eq_true, Bool.or_eq_true, Bool.not_eq_true', decide_eq_true_eq, beq_iff_eq] at hw
  simp only [encode, encodeXY, syl, reduceCtorEq, Option.some.injEq, forall_eq', false_implies, implies_true, and_true]
  omega
theorem EncodeFits.sext (g d a w : Nat) : EncodeFits.Statement (.sext g d a w) := by
  intro hw
  simp only [Instr.wf, wfS3, wfS2, wfS1, wfP, wfV2, wfV1, wfE1, okView, okXchk, lt, fits, sysExists, sysWritable, Bool.and_eq_true, Bool.or_eq_true, Bool.not_eq_true', decide_eq_true_eq, beq_iff_eq] at hw
  simp only [encode, encodeXY, syl, lay3, reduceCtorEq, Option.some.injEq, forall_eq', false_implies, implies_true, and_true]
  omega
theorem EncodeFits.zext (g d a w : Nat) : EncodeFits.Statement (.zext g d a w) := by
  intro hw
  simp only [Instr.wf, wfS3, wfS2, wfS1, wfP, wfV2, wfV1, wfE1, okView, okXchk, lt, fits, sysExists, sysWritable, Bool.and_eq_true, Bool.or_eq_true, Bool.not_eq_true', decide_eq_true_eq, beq_iff_eq] at hw
  simp only [encode, encodeXY, syl, lay3, reduceCtorEq, Option.some.injEq, forall_eq', false_implies, implies_true, and_true]
  omega
theorem EncodeFits.bfx (g d a pos len : Nat) : EncodeFits.Statement (.bfx g d a pos len) := by
  intro hw
  simp only [Instr.wf, wfS3, wfS2, wfS1, wfP, wfV2, wfV1, wfE1, okView, okXchk, lt, fits, sysExists, sysWritable, Bool.and_eq_true, Bool.or_eq_true, Bool.not_eq_true', decide_eq_true_eq, beq_iff_eq] at hw
  simp only [encode, encodeXY, syl, lay3, reduceCtorEq, Option.some.injEq, forall_eq', false_implies, implies_true, and_true]
  omega
theorem EncodeFits.bfi (g d a pos len : Nat) : EncodeFits.Statement (.bfi g d a pos len) := by
  intro hw
  simp only [Instr.wf, wfS3, wfS2, wfS1, wfP, wfV2, wfV1, wfE1, okView, okXchk, lt, fits, sysExists, sysWritable, Bool.and_eq_true, Bool.or_eq_true, Bool.not_eq_true', decide_eq_true_eq, beq_iff_eq] at hw
  simp only [encode, encodeXY, syl, lay3, reduceCtorEq, Option.some.injEq, forall_eq', false_implies, implies_true, and_true]
  omega
theorem EncodeFits.madd (g d a b c : Nat) : EncodeFits.Statement (.madd g d a b c) := by
  intro hw
  simp only [Instr.wf, wfS3, wfS2, wfS1, wfP, wfV2, wfV1, wfE1, okView, okXchk, lt, fits, sysExists, sysWritable, Bool.and_eq_true, Bool.or_eq_true, Bool.not_eq_true', decide_eq_true_eq, beq_iff_eq] at hw
  simp only [encode, encodeXY, syl, lay3, reduceCtorEq, Option.some.injEq, forall_eq', false_implies, implies_true, and_true]
  omega
theorem EncodeFits.sld (g d a sz : Nat) (off : Int) : EncodeFits.Statement (.sld g d a sz off) := by
  intro hw
  simp only [Instr.wf, wfS3, wfS2, wfS1, wfP, wfV2, wfV1, wfE1, okView, okXchk, lt, fits, sysExists, sysWritable, Bool.and_eq_true, Bool.or_eq_true, Bool.not_eq_true', decide_eq_true_eq, beq_iff_eq] at hw
  have := wrap_lt 8 off
  simp only [encode, encodeXY, syl, reduceCtorEq, Option.some.injEq, forall_eq', false_implies, implies_true, and_true]
  omega
theorem EncodeFits.sldWide (g d a sz : Nat) (off : Int) : EncodeFits.Statement (.sldWide g d a sz off) := by
  intro hw
  simp only [Instr.wf, wfS3, wfS2, wfS1, wfP, wfV2, wfV1, wfE1, okView, okXchk, lt, fits, sysExists, sysWritable, Bool.and_eq_true, Bool.or_eq_true, Bool.not_eq_true', decide_eq_true_eq, beq_iff_eq] at hw
  have := lowW_lt 8 off
  have := highW_lt 8 off
  simp only [encode, encodeXY, syl, reduceCtorEq, Option.some.injEq, forall_eq', false_implies, implies_true, and_true]
  omega
theorem EncodeFits.sst (g v a sz : Nat) (off : Int) : EncodeFits.Statement (.sst g v a sz off) := by
  intro hw
  simp only [Instr.wf, wfS3, wfS2, wfS1, wfP, wfV2, wfV1, wfE1, okView, okXchk, lt, fits, sysExists, sysWritable, Bool.and_eq_true, Bool.or_eq_true, Bool.not_eq_true', decide_eq_true_eq, beq_iff_eq] at hw
  have := wrap_lt 8 off
  simp only [encode, encodeXY, syl, reduceCtorEq, Option.some.injEq, forall_eq', false_implies, implies_true, and_true]
  omega
theorem EncodeFits.sstWide (g v a sz : Nat) (off : Int) : EncodeFits.Statement (.sstWide g v a sz off) := by
  intro hw
  simp only [Instr.wf, wfS3, wfS2, wfS1, wfP, wfV2, wfV1, wfE1, okView, okXchk, lt, fits, sysExists, sysWritable, Bool.and_eq_true, Bool.or_eq_true, Bool.not_eq_true', decide_eq_true_eq, beq_iff_eq] at hw
  have := lowW_lt 8 off
  have := highW_lt 8 off
  simp only [encode, encodeXY, syl, reduceCtorEq, Option.some.injEq, forall_eq', false_implies, implies_true, and_true]
  omega
theorem EncodeFits.rdsys (g d n : Nat) : EncodeFits.Statement (.rdsys g d n) := by
  intro hw
  simp only [Instr.wf, wfS3, wfS2, wfS1, wfP, wfV2, wfV1, wfE1, okView, okXchk, lt, fits, sysExists, sysWritable, Bool.and_eq_true, Bool.or_eq_true, Bool.not_eq_true', decide_eq_true_eq, beq_iff_eq] at hw
  simp only [encode, encodeXY, syl, reduceCtorEq, Option.some.injEq, forall_eq', false_implies, implies_true, and_true]
  omega
theorem EncodeFits.wrsys (g a n : Nat) : EncodeFits.Statement (.wrsys g a n) := by
  intro hw
  simp only [Instr.wf, wfS3, wfS2, wfS1, wfP, wfV2, wfV1, wfE1, okView, okXchk, lt, fits, sysExists, sysWritable, Bool.and_eq_true, Bool.or_eq_true, Bool.not_eq_true', decide_eq_true_eq, beq_iff_eq] at hw
  simp only [encode, encodeXY, syl, reduceCtorEq, Option.some.injEq, forall_eq', false_implies, implies_true, and_true]
  omega
theorem EncodeFits.endOp (g : Nat) : EncodeFits.Statement (.endOp g) := by
  intro hw
  simp only [Instr.wf, wfS3, wfS2, wfS1, wfP, wfV2, wfV1, wfE1, okView, okXchk, lt, fits, sysExists, sysWritable, Bool.and_eq_true, Bool.or_eq_true, Bool.not_eq_true', decide_eq_true_eq, beq_iff_eq] at hw
  simp only [encode, encodeXY, syl, reduceCtorEq, Option.some.injEq, forall_eq', false_implies, implies_true, and_true]
  omega
theorem EncodeFits.br (g : Nat) (disp : Int) : EncodeFits.Statement (.br g disp) := by
  intro hw
  simp only [Instr.wf, wfS3, wfS2, wfS1, wfP, wfV2, wfV1, wfE1, okView, okXchk, lt, fits, sysExists, sysWritable, Bool.and_eq_true, Bool.or_eq_true, Bool.not_eq_true', decide_eq_true_eq, beq_iff_eq] at hw
  have := wrap_lt 22 disp
  simp only [encode, encodeXY, syl, reduceCtorEq, Option.some.injEq, forall_eq', false_implies, implies_true, and_true]
  omega
theorem EncodeFits.brWide (g : Nat) (disp : Int) : EncodeFits.Statement (.brWide g disp) := by
  intro hw
  simp only [Instr.wf, wfS3, wfS2, wfS1, wfP, wfV2, wfV1, wfE1, okView, okXchk, lt, fits, sysExists, sysWritable, Bool.and_eq_true, Bool.or_eq_true, Bool.not_eq_true', decide_eq_true_eq, beq_iff_eq] at hw
  have := lowW_lt 22 disp
  have := highW_lt 22 disp
  simp only [encode, encodeXY, syl, reduceCtorEq, Option.some.injEq, forall_eq', false_implies, implies_true, and_true]
  omega
theorem EncodeFits.brr (g a : Nat) : EncodeFits.Statement (.brr g a) := by
  intro hw
  simp only [Instr.wf, wfS3, wfS2, wfS1, wfP, wfV2, wfV1, wfE1, okView, okXchk, lt, fits, sysExists, sysWritable, Bool.and_eq_true, Bool.or_eq_true, Bool.not_eq_true', decide_eq_true_eq, beq_iff_eq] at hw
  simp only [encode, encodeXY, syl, reduceCtorEq, Option.some.injEq, forall_eq', false_implies, implies_true, and_true]
  omega
theorem EncodeFits.call (g d : Nat) (disp : Int) : EncodeFits.Statement (.call g d disp) := by
  intro hw
  simp only [Instr.wf, wfS3, wfS2, wfS1, wfP, wfV2, wfV1, wfE1, okView, okXchk, lt, fits, sysExists, sysWritable, Bool.and_eq_true, Bool.or_eq_true, Bool.not_eq_true', decide_eq_true_eq, beq_iff_eq] at hw
  have := wrap_lt 16 disp
  simp only [encode, encodeXY, syl, reduceCtorEq, Option.some.injEq, forall_eq', false_implies, implies_true, and_true]
  omega
theorem EncodeFits.callWide (g d : Nat) (disp : Int) : EncodeFits.Statement (.callWide g d disp) := by
  intro hw
  simp only [Instr.wf, wfS3, wfS2, wfS1, wfP, wfV2, wfV1, wfE1, okView, okXchk, lt, fits, sysExists, sysWritable, Bool.and_eq_true, Bool.or_eq_true, Bool.not_eq_true', decide_eq_true_eq, beq_iff_eq] at hw
  have := lowW_lt 16 disp
  have := highW_lt 16 disp
  simp only [encode, encodeXY, syl, reduceCtorEq, Option.some.injEq, forall_eq', false_implies, implies_true, and_true]
  omega
theorem EncodeFits.ret (g a : Nat) : EncodeFits.Statement (.ret g a) := by
  intro hw
  simp only [Instr.wf, wfS3, wfS2, wfS1, wfP, wfV2, wfV1, wfE1, okView, okXchk, lt, fits, sysExists, sysWritable, Bool.and_eq_true, Bool.or_eq_true, Bool.not_eq_true', decide_eq_true_eq, beq_iff_eq] at hw
  simp only [encode, encodeXY, syl, reduceCtorEq, Option.some.injEq, forall_eq', false_implies, implies_true, and_true]
  omega
theorem EncodeFits.loop (g a : Nat) (disp : Int) : EncodeFits.Statement (.loop g a disp) := by
  intro hw
  simp only [Instr.wf, wfS3, wfS2, wfS1, wfP, wfV2, wfV1, wfE1, okView, okXchk, lt, fits, sysExists, sysWritable, Bool.and_eq_true, Bool.or_eq_true, Bool.not_eq_true', decide_eq_true_eq, beq_iff_eq] at hw
  have := wrap_lt 16 disp
  simp only [encode, encodeXY, syl, reduceCtorEq, Option.some.injEq, forall_eq', false_implies, implies_true, and_true]
  omega
theorem EncodeFits.loopWide (g a : Nat) (disp : Int) : EncodeFits.Statement (.loopWide g a disp) := by
  intro hw
  simp only [Instr.wf, wfS3, wfS2, wfS1, wfP, wfV2, wfV1, wfE1, okView, okXchk, lt, fits, sysExists, sysWritable, Bool.and_eq_true, Bool.or_eq_true, Bool.not_eq_true', decide_eq_true_eq, beq_iff_eq] at hw
  have := lowW_lt 16 disp
  have := highW_lt 16 disp
  simp only [encode, encodeXY, syl, reduceCtorEq, Option.some.injEq, forall_eq', false_implies, implies_true, and_true]
  omega
theorem EncodeFits.brk (g n : Nat) (disp : Int) : EncodeFits.Statement (.brk g n disp) := by
  intro hw
  simp only [Instr.wf, wfS3, wfS2, wfS1, wfP, wfV2, wfV1, wfE1, okView, okXchk, lt, fits, sysExists, sysWritable, Bool.and_eq_true, Bool.or_eq_true, Bool.not_eq_true', decide_eq_true_eq, beq_iff_eq] at hw
  have := wrap_lt 19 disp
  simp only [encode, encodeXY, syl, reduceCtorEq, Option.some.injEq, forall_eq', false_implies, implies_true, and_true]
  omega
theorem EncodeFits.cmp (g p : Nat) (cond : Cond) (a b : Nat) : EncodeFits.Statement (.cmp g p cond a b) := by
  intro hw
  simp only [Instr.wf, wfS3, wfS2, wfS1, wfP, wfV2, wfV1, wfE1, okView, okXchk, lt, fits, sysExists, sysWritable, Bool.and_eq_true, Bool.or_eq_true, Bool.not_eq_true', decide_eq_true_eq, beq_iff_eq] at hw
  have := cond_code_lt cond
  simp only [encode, encodeXY, encodeC, syl, reduceCtorEq, Option.some.injEq, forall_eq', false_implies, implies_true, and_true]
  omega
theorem EncodeFits.cmpi (g p : Nat) (cond : Cond) (a : Nat) (imm : Int) : EncodeFits.Statement (.cmpi g p cond a imm) := by
  intro hw
  simp only [Instr.wf, wfS3, wfS2, wfS1, wfP, wfV2, wfV1, wfE1, okView, okXchk, lt, fits, sysExists, sysWritable, Bool.and_eq_true, Bool.or_eq_true, Bool.not_eq_true', decide_eq_true_eq, beq_iff_eq] at hw
  have := cond_code_lt cond
  have := wrap_lt 9 imm
  simp only [encode, encodeXY, encodeC, syl, reduceCtorEq, Option.some.injEq, forall_eq', false_implies, implies_true, and_true]
  omega
theorem EncodeFits.cmpiWide (g p : Nat) (cond : Cond) (a : Nat) (imm : Int) : EncodeFits.Statement (.cmpiWide g p cond a imm) := by
  intro hw
  simp only [Instr.wf, wfS3, wfS2, wfS1, wfP, wfV2, wfV1, wfE1, okView, okXchk, lt, fits, sysExists, sysWritable, Bool.and_eq_true, Bool.or_eq_true, Bool.not_eq_true', decide_eq_true_eq, beq_iff_eq] at hw
  have := cond_code_lt cond
  have := lowW_lt 9 imm
  have := highW_lt 9 imm
  simp only [encode, encodeXY, encodeC, syl, reduceCtorEq, Option.some.injEq, forall_eq', false_implies, implies_true, and_true]
  omega
theorem EncodeFits.fcmp (g p : Nat) (cond : Cond) (f : Fmt) (a b : Nat) : EncodeFits.Statement (.fcmp g p cond f a b) := by
  intro hw
  simp only [Instr.wf, wfS3, wfS2, wfS1, wfP, wfV2, wfV1, wfE1, okView, okXchk, lt, fits, sysExists, sysWritable, Bool.and_eq_true, Bool.or_eq_true, Bool.not_eq_true', decide_eq_true_eq, beq_iff_eq] at hw
  have := cond_code_lt cond
  have := fmt_code_lt f
  simp only [encode, encodeXY, encodeC, syl, reduceCtorEq, Option.some.injEq, forall_eq', false_implies, implies_true, and_true]
  omega
theorem EncodeFits.pand (g p a b : Nat) (na nb : Bool) : EncodeFits.Statement (.pand g p a b na nb) := by
  intro hw
  simp only [Instr.wf, wfS3, wfS2, wfS1, wfP, wfV2, wfV1, wfE1, okView, okXchk, lt, fits, sysExists, sysWritable, Bool.and_eq_true, Bool.or_eq_true, Bool.not_eq_true', decide_eq_true_eq, beq_iff_eq] at hw
  have := b2n_lt na
  have := b2n_lt nb
  simp only [encode, encodeXY, encodeC, syl, layCP, reduceCtorEq, Option.some.injEq, forall_eq', false_implies, implies_true, and_true]
  omega
theorem EncodeFits.por (g p a b : Nat) (na nb : Bool) : EncodeFits.Statement (.por g p a b na nb) := by
  intro hw
  simp only [Instr.wf, wfS3, wfS2, wfS1, wfP, wfV2, wfV1, wfE1, okView, okXchk, lt, fits, sysExists, sysWritable, Bool.and_eq_true, Bool.or_eq_true, Bool.not_eq_true', decide_eq_true_eq, beq_iff_eq] at hw
  have := b2n_lt na
  have := b2n_lt nb
  simp only [encode, encodeXY, encodeC, syl, layCP, reduceCtorEq, Option.some.injEq, forall_eq', false_implies, implies_true, and_true]
  omega
theorem EncodeFits.pxor (g p a b : Nat) (na nb : Bool) : EncodeFits.Statement (.pxor g p a b na nb) := by
  intro hw
  simp only [Instr.wf, wfS3, wfS2, wfS1, wfP, wfV2, wfV1, wfE1, okView, okXchk, lt, fits, sysExists, sysWritable, Bool.and_eq_true, Bool.or_eq_true, Bool.not_eq_true', decide_eq_true_eq, beq_iff_eq] at hw
  have := b2n_lt na
  have := b2n_lt nb
  simp only [encode, encodeXY, encodeC, syl, layCP, reduceCtorEq, Option.some.injEq, forall_eq', false_implies, implies_true, and_true]
  omega
theorem EncodeFits.vany (g p km : Nat) : EncodeFits.Statement (.vany g p km) := by
  intro hw
  simp only [Instr.wf, wfS3, wfS2, wfS1, wfP, wfV2, wfV1, wfE1, okView, okXchk, lt, fits, sysExists, sysWritable, Bool.and_eq_true, Bool.or_eq_true, Bool.not_eq_true', decide_eq_true_eq, beq_iff_eq] at hw
  simp only [encode, encodeXY, encodeC, syl, reduceCtorEq, Option.some.injEq, forall_eq', false_implies, implies_true, and_true]
  omega
theorem EncodeFits.vall (g p km : Nat) : EncodeFits.Statement (.vall g p km) := by
  intro hw
  simp only [Instr.wf, wfS3, wfS2, wfS1, wfP, wfV2, wfV1, wfE1, okView, okXchk, lt, fits, sysExists, sysWritable, Bool.and_eq_true, Bool.or_eq_true, Bool.not_eq_true', decide_eq_true_eq, beq_iff_eq] at hw
  simp only [encode, encodeXY, encodeC, syl, reduceCtorEq, Option.some.injEq, forall_eq', false_implies, implies_true, and_true]
  omega
theorem EncodeFits.vadd (g : Nat) (f : Fmt) (d a b : Nat) : EncodeFits.Statement (.vadd g f d a b) := by
  intro hw
  simp only [Instr.wf, wfS3, wfS2, wfS1, wfP, wfV2, wfV1, wfE1, okView, okXchk, lt, fits, sysExists, sysWritable, Bool.and_eq_true, Bool.or_eq_true, Bool.not_eq_true', decide_eq_true_eq, beq_iff_eq] at hw
  have := fmt_code_lt f
  simp only [encode, encodeXY, encodeC, encodeV, syl, layV, reduceCtorEq, Option.some.injEq, forall_eq', false_implies, implies_true, and_true]
  omega
theorem EncodeFits.vaddExt (g : Nat) (f : Fmt) (d a b : Nat) (e : VExt) : EncodeFits.Statement (.vaddExt g f d a b e) := by
  intro hw
  simp only [Instr.wf, wfS3, wfS2, wfS1, wfP, wfV2, wfV1, wfE1, okView, okXchk, lt, fits, sysExists, sysWritable, Bool.and_eq_true, Bool.or_eq_true, Bool.not_eq_true', decide_eq_true_eq, beq_iff_eq] at hw
  have := fmt_code_lt f
  have he := vext_lt e _ _ _ (by first | exact hw.2 | exact hw.1.2 | exact hw.2.1 | exact hw.1.2.1)
  simp only [encode, encodeXY, encodeC, encodeV, syl, layV, reduceCtorEq, Option.some.injEq, forall_eq', false_implies, implies_true, and_true]
  omega
theorem EncodeFits.vsub (g : Nat) (f : Fmt) (d a b : Nat) : EncodeFits.Statement (.vsub g f d a b) := by
  intro hw
  simp only [Instr.wf, wfS3, wfS2, wfS1, wfP, wfV2, wfV1, wfE1, okView, okXchk, lt, fits, sysExists, sysWritable, Bool.and_eq_true, Bool.or_eq_true, Bool.not_eq_true', decide_eq_true_eq, beq_iff_eq] at hw
  have := fmt_code_lt f
  simp only [encode, encodeXY, encodeC, encodeV, syl, layV, reduceCtorEq, Option.some.injEq, forall_eq', false_implies, implies_true, and_true]
  omega
theorem EncodeFits.vsubExt (g : Nat) (f : Fmt) (d a b : Nat) (e : VExt) : EncodeFits.Statement (.vsubExt g f d a b e) := by
  intro hw
  simp only [Instr.wf, wfS3, wfS2, wfS1, wfP, wfV2, wfV1, wfE1, okView, okXchk, lt, fits, sysExists, sysWritable, Bool.and_eq_true, Bool.or_eq_true, Bool.not_eq_true', decide_eq_true_eq, beq_iff_eq] at hw
  have := fmt_code_lt f
  have he := vext_lt e _ _ _ (by first | exact hw.2 | exact hw.1.2 | exact hw.2.1 | exact hw.1.2.1)
  simp only [encode, encodeXY, encodeC, encodeV, syl, layV, reduceCtorEq, Option.some.injEq, forall_eq', false_implies, implies_true, and_true]
  omega
theorem EncodeFits.vmul (g : Nat) (f : Fmt) (d a b : Nat) : EncodeFits.Statement (.vmul g f d a b) := by
  intro hw
  simp only [Instr.wf, wfS3, wfS2, wfS1, wfP, wfV2, wfV1, wfE1, okView, okXchk, lt, fits, sysExists, sysWritable, Bool.and_eq_true, Bool.or_eq_true, Bool.not_eq_true', decide_eq_true_eq, beq_iff_eq] at hw
  have := fmt_code_lt f
  simp only [encode, encodeXY, encodeC, encodeV, syl, layV, reduceCtorEq, Option.some.injEq, forall_eq', false_implies, implies_true, and_true]
  omega
theorem EncodeFits.vmulExt (g : Nat) (f : Fmt) (d a b : Nat) (e : VExt) : EncodeFits.Statement (.vmulExt g f d a b e) := by
  intro hw
  simp only [Instr.wf, wfS3, wfS2, wfS1, wfP, wfV2, wfV1, wfE1, okView, okXchk, lt, fits, sysExists, sysWritable, Bool.and_eq_true, Bool.or_eq_true, Bool.not_eq_true', decide_eq_true_eq, beq_iff_eq] at hw
  have := fmt_code_lt f
  have he := vext_lt e _ _ _ (by first | exact hw.2 | exact hw.1.2 | exact hw.2.1 | exact hw.1.2.1)
  simp only [encode, encodeXY, encodeC, encodeV, syl, layV, reduceCtorEq, Option.some.injEq, forall_eq', false_implies, implies_true, and_true]
  omega
theorem EncodeFits.vmin (g : Nat) (f : Fmt) (d a b : Nat) : EncodeFits.Statement (.vmin g f d a b) := by
  intro hw
  simp only [Instr.wf, wfS3, wfS2, wfS1, wfP, wfV2, wfV1, wfE1, okView, okXchk, lt, fits, sysExists, sysWritable, Bool.and_eq_true, Bool.or_eq_true, Bool.not_eq_true', decide_eq_true_eq, beq_iff_eq] at hw
  have := fmt_code_lt f
  simp only [encode, encodeXY, encodeC, encodeV, syl, layV, reduceCtorEq, Option.some.injEq, forall_eq', false_implies, implies_true, and_true]
  omega
theorem EncodeFits.vminExt (g : Nat) (f : Fmt) (d a b : Nat) (e : VExt) : EncodeFits.Statement (.vminExt g f d a b e) := by
  intro hw
  simp only [Instr.wf, wfS3, wfS2, wfS1, wfP, wfV2, wfV1, wfE1, okView, okXchk, lt, fits, sysExists, sysWritable, Bool.and_eq_true, Bool.or_eq_true, Bool.not_eq_true', decide_eq_true_eq, beq_iff_eq] at hw
  have := fmt_code_lt f
  have he := vext_lt e _ _ _ (by first | exact hw.2 | exact hw.1.2 | exact hw.2.1 | exact hw.1.2.1)
  simp only [encode, encodeXY, encodeC, encodeV, syl, layV, reduceCtorEq, Option.some.injEq, forall_eq', false_implies, implies_true, and_true]
  omega
theorem EncodeFits.vmax (g : Nat) (f : Fmt) (d a b : Nat) : EncodeFits.Statement (.vmax g f d a b) := by
  intro hw
  simp only [Instr.wf, wfS3, wfS2, wfS1, wfP, wfV2, wfV1, wfE1, okView, okXchk, lt, fits, sysExists, sysWritable, Bool.and_eq_true, Bool.or_eq_true, Bool.not_eq_true', decide_eq_true_eq, beq_iff_eq] at hw
  have := fmt_code_lt f
  simp only [encode, encodeXY, encodeC, encodeV, syl, layV, reduceCtorEq, Option.some.injEq, forall_eq', false_implies, implies_true, and_true]
  omega
theorem EncodeFits.vmaxExt (g : Nat) (f : Fmt) (d a b : Nat) (e : VExt) : EncodeFits.Statement (.vmaxExt g f d a b e) := by
  intro hw
  simp only [Instr.wf, wfS3, wfS2, wfS1, wfP, wfV2, wfV1, wfE1, okView, okXchk, lt, fits, sysExists, sysWritable, Bool.and_eq_true, Bool.or_eq_true, Bool.not_eq_true', decide_eq_true_eq, beq_iff_eq] at hw
  have := fmt_code_lt f
  have he := vext_lt e _ _ _ (by first | exact hw.2 | exact hw.1.2 | exact hw.2.1 | exact hw.1.2.1)
  simp only [encode, encodeXY, encodeC, encodeV, syl, layV, reduceCtorEq, Option.some.injEq, forall_eq', false_implies, implies_true, and_true]
  omega
theorem EncodeFits.vand (g : Nat) (f : Fmt) (d a b : Nat) : EncodeFits.Statement (.vand g f d a b) := by
  intro hw
  simp only [Instr.wf, wfS3, wfS2, wfS1, wfP, wfV2, wfV1, wfE1, okView, okXchk, lt, fits, sysExists, sysWritable, Bool.and_eq_true, Bool.or_eq_true, Bool.not_eq_true', decide_eq_true_eq, beq_iff_eq] at hw
  have := fmt_code_lt f
  simp only [encode, encodeXY, encodeC, encodeV, syl, layV, reduceCtorEq, Option.some.injEq, forall_eq', false_implies, implies_true, and_true]
  omega
theorem EncodeFits.vandExt (g : Nat) (f : Fmt) (d a b : Nat) (e : VExt) : EncodeFits.Statement (.vandExt g f d a b e) := by
  intro hw
  simp only [Instr.wf, wfS3, wfS2, wfS1, wfP, wfV2, wfV1, wfE1, okView, okXchk, lt, fits, sysExists, sysWritable, Bool.and_eq_true, Bool.or_eq_true, Bool.not_eq_true', decide_eq_true_eq, beq_iff_eq] at hw
  have := fmt_code_lt f
  have he := vext_lt e _ _ _ (by first | exact hw.2 | exact hw.1.2 | exact hw.2.1 | exact hw.1.2.1)
  simp only [encode, encodeXY, encodeC, encodeV, syl, layV, reduceCtorEq, Option.some.injEq, forall_eq', false_implies, implies_true, and_true]
  omega
theorem EncodeFits.vor (g : Nat) (f : Fmt) (d a b : Nat) : EncodeFits.Statement (.vor g f d a b) := by
  intro hw
  simp only [Instr.wf, wfS3, wfS2, wfS1, wfP, wfV2, wfV1, wfE1, okView, okXchk, lt, fits, sysExists, sysWritable, Bool.and_eq_true, Bool.or_eq_true, Bool.not_eq_true', decide_eq_true_eq, beq_iff_eq] at hw
  have := fmt_code_lt f
  simp only [encode, encodeXY, encodeC, encodeV, syl, layV, reduceCtorEq, Option.some.injEq, forall_eq', false_implies, implies_true, and_true]
  omega
theorem EncodeFits.vorExt (g : Nat) (f : Fmt) (d a b : Nat) (e : VExt) : EncodeFits.Statement (.vorExt g f d a b e) := by
  intro hw
  simp only [Instr.wf, wfS3, wfS2, wfS1, wfP, wfV2, wfV1, wfE1, okView, okXchk, lt, fits, sysExists, sysWritable, Bool.and_eq_true, Bool.or_eq_true, Bool.not_eq_true', decide_eq_true_eq, beq_iff_eq] at hw
  have := fmt_code_lt f
  have he := vext_lt e _ _ _ (by first | exact hw.2 | exact hw.1.2 | exact hw.2.1 | exact hw.1.2.1)
  simp only [encode, encodeXY, encodeC, encodeV, syl, layV, reduceCtorEq, Option.some.injEq, forall_eq', false_implies, implies_true, and_true]
  omega
theorem EncodeFits.vxor (g : Nat) (f : Fmt) (d a b : Nat) : EncodeFits.Statement (.vxor g f d a b) := by
  intro hw
  simp only [Instr.wf, wfS3, wfS2, wfS1, wfP, wfV2, wfV1, wfE1, okView, okXchk, lt, fits, sysExists, sysWritable, Bool.and_eq_true, Bool.or_eq_true, Bool.not_eq_true', decide_eq_true_eq, beq_iff_eq] at hw
  have := fmt_code_lt f
  simp only [encode, encodeXY, encodeC, encodeV, syl, layV, reduceCtorEq, Option.some.injEq, forall_eq', false_implies, implies_true, and_true]
  omega
theorem EncodeFits.vxorExt (g : Nat) (f : Fmt) (d a b : Nat) (e : VExt) : EncodeFits.Statement (.vxorExt g f d a b e) := by
  intro hw
  simp only [Instr.wf, wfS3, wfS2, wfS1, wfP, wfV2, wfV1, wfE1, okView, okXchk, lt, fits, sysExists, sysWritable, Bool.and_eq_true, Bool.or_eq_true, Bool.not_eq_true', decide_eq_true_eq, beq_iff_eq] at hw
  have := fmt_code_lt f
  have he := vext_lt e _ _ _ (by first | exact hw.2 | exact hw.1.2 | exact hw.2.1 | exact hw.1.2.1)
  simp only [encode, encodeXY, encodeC, encodeV, syl, layV, reduceCtorEq, Option.some.injEq, forall_eq', false_implies, implies_true, and_true]
  omega
theorem EncodeFits.vshl (g : Nat) (f : Fmt) (d a b : Nat) : EncodeFits.Statement (.vshl g f d a b) := by
  intro hw
  simp only [Instr.wf, wfS3, wfS2, wfS1, wfP, wfV2, wfV1, wfE1, okView, okXchk, lt, fits, sysExists, sysWritable, Bool.and_eq_true, Bool.or_eq_true, Bool.not_eq_true', decide_eq_true_eq, beq_iff_eq] at hw
  have := fmt_code_lt f
  simp only [encode, encodeXY, encodeC, encodeV, syl, layV, reduceCtorEq, Option.some.injEq, forall_eq', false_implies, implies_true, and_true]
  omega
theorem EncodeFits.vshlExt (g : Nat) (f : Fmt) (d a b : Nat) (e : VExt) : EncodeFits.Statement (.vshlExt g f d a b e) := by
  intro hw
  simp only [Instr.wf, wfS3, wfS2, wfS1, wfP, wfV2, wfV1, wfE1, okView, okXchk, lt, fits, sysExists, sysWritable, Bool.and_eq_true, Bool.or_eq_true, Bool.not_eq_true', decide_eq_true_eq, beq_iff_eq] at hw
  have := fmt_code_lt f
  have he := vext_lt e _ _ _ (by first | exact hw.2 | exact hw.1.2 | exact hw.2.1 | exact hw.1.2.1)
  simp only [encode, encodeXY, encodeC, encodeV, syl, layV, reduceCtorEq, Option.some.injEq, forall_eq', false_implies, implies_true, and_true]
  omega
theorem EncodeFits.vshr (g : Nat) (f : Fmt) (d a b : Nat) : EncodeFits.Statement (.vshr g f d a b) := by
  intro hw
  simp only [Instr.wf, wfS3, wfS2, wfS1, wfP, wfV2, wfV1, wfE1, okView, okXchk, lt, fits, sysExists, sysWritable, Bool.and_eq_true, Bool.or_eq_true, Bool.not_eq_true', decide_eq_true_eq, beq_iff_eq] at hw
  have := fmt_code_lt f
  simp only [encode, encodeXY, encodeC, encodeV, syl, layV, reduceCtorEq, Option.some.injEq, forall_eq', false_implies, implies_true, and_true]
  omega
theorem EncodeFits.vshrExt (g : Nat) (f : Fmt) (d a b : Nat) (e : VExt) : EncodeFits.Statement (.vshrExt g f d a b e) := by
  intro hw
  simp only [Instr.wf, wfS3, wfS2, wfS1, wfP, wfV2, wfV1, wfE1, okView, okXchk, lt, fits, sysExists, sysWritable, Bool.and_eq_true, Bool.or_eq_true, Bool.not_eq_true', decide_eq_true_eq, beq_iff_eq] at hw
  have := fmt_code_lt f
  have he := vext_lt e _ _ _ (by first | exact hw.2 | exact hw.1.2 | exact hw.2.1 | exact hw.1.2.1)
  simp only [encode, encodeXY, encodeC, encodeV, syl, layV, reduceCtorEq, Option.some.injEq, forall_eq', false_implies, implies_true, and_true]
  omega
theorem EncodeFits.vsra (g : Nat) (f : Fmt) (d a b : Nat) : EncodeFits.Statement (.vsra g f d a b) := by
  intro hw
  simp only [Instr.wf, wfS3, wfS2, wfS1, wfP, wfV2, wfV1, wfE1, okView, okXchk, lt, fits, sysExists, sysWritable, Bool.and_eq_true, Bool.or_eq_true, Bool.not_eq_true', decide_eq_true_eq, beq_iff_eq] at hw
  have := fmt_code_lt f
  simp only [encode, encodeXY, encodeC, encodeV, syl, layV, reduceCtorEq, Option.some.injEq, forall_eq', false_implies, implies_true, and_true]
  omega
theorem EncodeFits.vsraExt (g : Nat) (f : Fmt) (d a b : Nat) (e : VExt) : EncodeFits.Statement (.vsraExt g f d a b e) := by
  intro hw
  simp only [Instr.wf, wfS3, wfS2, wfS1, wfP, wfV2, wfV1, wfE1, okView, okXchk, lt, fits, sysExists, sysWritable, Bool.and_eq_true, Bool.or_eq_true, Bool.not_eq_true', decide_eq_true_eq, beq_iff_eq] at hw
  have := fmt_code_lt f
  have he := vext_lt e _ _ _ (by first | exact hw.2 | exact hw.1.2 | exact hw.2.1 | exact hw.1.2.1)
  simp only [encode, encodeXY, encodeC, encodeV, syl, layV, reduceCtorEq, Option.some.injEq, forall_eq', false_implies, implies_true, and_true]
  omega
theorem EncodeFits.vfma (g : Nat) (f : Fmt) (d a b : Nat) : EncodeFits.Statement (.vfma g f d a b) := by
  intro hw
  simp only [Instr.wf, wfS3, wfS2, wfS1, wfP, wfV2, wfV1, wfE1, okView, okXchk, lt, fits, sysExists, sysWritable, Bool.and_eq_true, Bool.or_eq_true, Bool.not_eq_true', decide_eq_true_eq, beq_iff_eq] at hw
  have := fmt_code_lt f
  simp only [encode, encodeXY, encodeC, encodeV, syl, layV, reduceCtorEq, Option.some.injEq, forall_eq', false_implies, implies_true, and_true]
  omega
theorem EncodeFits.vfmaExt (g : Nat) (f : Fmt) (d a b : Nat) (e : VExt) : EncodeFits.Statement (.vfmaExt g f d a b e) := by
  intro hw
  simp only [Instr.wf, wfS3, wfS2, wfS1, wfP, wfV2, wfV1, wfE1, okView, okXchk, lt, fits, sysExists, sysWritable, Bool.and_eq_true, Bool.or_eq_true, Bool.not_eq_true', decide_eq_true_eq, beq_iff_eq] at hw
  have := fmt_code_lt f
  have he := vext_lt e _ _ _ (by first | exact hw.2 | exact hw.1.2 | exact hw.2.1 | exact hw.1.2.1)
  simp only [encode, encodeXY, encodeC, encodeV, syl, layV, reduceCtorEq, Option.some.injEq, forall_eq', false_implies, implies_true, and_true]
  omega
theorem EncodeFits.vfms (g : Nat) (f : Fmt) (d a b : Nat) : EncodeFits.Statement (.vfms g f d a b) := by
  intro hw
  simp only [Instr.wf, wfS3, wfS2, wfS1, wfP, wfV2, wfV1, wfE1, okView, okXchk, lt, fits, sysExists, sysWritable, Bool.and_eq_true, Bool.or_eq_true, Bool.not_eq_true', decide_eq_true_eq, beq_iff_eq] at hw
  have := fmt_code_lt f
  simp only [encode, encodeXY, encodeC, encodeV, syl, layV, reduceCtorEq, Option.some.injEq, forall_eq', false_implies, implies_true, and_true]
  omega
theorem EncodeFits.vfmsExt (g : Nat) (f : Fmt) (d a b : Nat) (e : VExt) : EncodeFits.Statement (.vfmsExt g f d a b e) := by
  intro hw
  simp only [Instr.wf, wfS3, wfS2, wfS1, wfP, wfV2, wfV1, wfE1, okView, okXchk, lt, fits, sysExists, sysWritable, Bool.and_eq_true, Bool.or_eq_true, Bool.not_eq_true', decide_eq_true_eq, beq_iff_eq] at hw
  have := fmt_code_lt f
  have he := vext_lt e _ _ _ (by first | exact hw.2 | exact hw.1.2 | exact hw.2.1 | exact hw.1.2.1)
  simp only [encode, encodeXY, encodeC, encodeV, syl, layV, reduceCtorEq, Option.some.injEq, forall_eq', false_implies, implies_true, and_true]
  omega
theorem EncodeFits.vperm (g : Nat) (f : Fmt) (d a b : Nat) : EncodeFits.Statement (.vperm g f d a b) := by
  intro hw
  simp only [Instr.wf, wfS3, wfS2, wfS1, wfP, wfV2, wfV1, wfE1, okView, okXchk, lt, fits, sysExists, sysWritable, Bool.and_eq_true, Bool.or_eq_true, Bool.not_eq_true', decide_eq_true_eq, beq_iff_eq] at hw
  have := fmt_code_lt f
  simp only [encode, encodeXY, encodeC, encodeV, syl, layV, reduceCtorEq, Option.some.injEq, forall_eq', false_implies, implies_true, and_true]
  omega
theorem EncodeFits.vpermExt (g : Nat) (f : Fmt) (d a b : Nat) (e : VExt) : EncodeFits.Statement (.vpermExt g f d a b e) := by
  intro hw
  simp only [Instr.wf, wfS3, wfS2, wfS1, wfP, wfV2, wfV1, wfE1, okView, okXchk, lt, fits, sysExists, sysWritable, Bool.and_eq_true, Bool.or_eq_true, Bool.not_eq_true', decide_eq_true_eq, beq_iff_eq] at hw
  have := fmt_code_lt f
  have he := vext_lt e _ _ _ (by first | exact hw.2 | exact hw.1.2 | exact hw.2.1 | exact hw.1.2.1)
  simp only [encode, encodeXY, encodeC, encodeV, syl, layV, reduceCtorEq, Option.some.injEq, forall_eq', false_implies, implies_true, and_true]
  omega
theorem EncodeFits.vslide (g : Nat) (f : Fmt) (d a b : Nat) (e : VExt) (n : Nat) : EncodeFits.Statement (.vslide g f d a b e n) := by
  intro hw
  simp only [Instr.wf, wfS3, wfS2, wfS1, wfP, wfV2, wfV1, wfE1, okView, okXchk, lt, fits, sysExists, sysWritable, Bool.and_eq_true, Bool.or_eq_true, Bool.not_eq_true', decide_eq_true_eq, beq_iff_eq] at hw
  have := fmt_code_lt f
  have he := vext_lt e _ _ _ (by first | exact hw.2 | exact hw.1.2 | exact hw.2.1 | exact hw.1.2.1)
  simp only [encode, encodeXY, encodeC, encodeV, syl, layV, reduceCtorEq, Option.some.injEq, forall_eq', false_implies, implies_true, and_true]
  omega
theorem EncodeFits.vabs (g : Nat) (f : Fmt) (d a : Nat) : EncodeFits.Statement (.vabs g f d a) := by
  intro hw
  simp only [Instr.wf, wfS3, wfS2, wfS1, wfP, wfV2, wfV1, wfE1, okView, okXchk, lt, fits, sysExists, sysWritable, Bool.and_eq_true, Bool.or_eq_true, Bool.not_eq_true', decide_eq_true_eq, beq_iff_eq] at hw
  have := fmt_code_lt f
  simp only [encode, encodeXY, encodeC, encodeV, encodeW, syl, layV, reduceCtorEq, Option.some.injEq, forall_eq', false_implies, implies_true, and_true]
  omega
theorem EncodeFits.vabsExt (g : Nat) (f : Fmt) (d a : Nat) (e : VExt) : EncodeFits.Statement (.vabsExt g f d a e) := by
  intro hw
  simp only [Instr.wf, wfS3, wfS2, wfS1, wfP, wfV2, wfV1, wfE1, okView, okXchk, lt, fits, sysExists, sysWritable, Bool.and_eq_true, Bool.or_eq_true, Bool.not_eq_true', decide_eq_true_eq, beq_iff_eq] at hw
  have := fmt_code_lt f
  have he := vext_lt e _ _ _ (by first | exact hw.2 | exact hw.1.2 | exact hw.2.1 | exact hw.1.2.1)
  simp only [encode, encodeXY, encodeC, encodeV, encodeW, syl, layV, reduceCtorEq, Option.some.injEq, forall_eq', false_implies, implies_true, and_true]
  omega
theorem EncodeFits.vneg (g : Nat) (f : Fmt) (d a : Nat) : EncodeFits.Statement (.vneg g f d a) := by
  intro hw
  simp only [Instr.wf, wfS3, wfS2, wfS1, wfP, wfV2, wfV1, wfE1, okView, okXchk, lt, fits, sysExists, sysWritable, Bool.and_eq_true, Bool.or_eq_true, Bool.not_eq_true', decide_eq_true_eq, beq_iff_eq] at hw
  have := fmt_code_lt f
  simp only [encode, encodeXY, encodeC, encodeV, encodeW, syl, layV, reduceCtorEq, Option.some.injEq, forall_eq', false_implies, implies_true, and_true]
  omega
theorem EncodeFits.vnegExt (g : Nat) (f : Fmt) (d a : Nat) (e : VExt) : EncodeFits.Statement (.vnegExt g f d a e) := by
  intro hw
  simp only [Instr.wf, wfS3, wfS2, wfS1, wfP, wfV2, wfV1, wfE1, okView, okXchk, lt, fits, sysExists, sysWritable, Bool.and_eq_true, Bool.or_eq_true, Bool.not_eq_true', decide_eq_true_eq, beq_iff_eq] at hw
  have := fmt_code_lt f
  have he := vext_lt e _ _ _ (by first | exact hw.2 | exact hw.1.2 | exact hw.2.1 | exact hw.1.2.1)
  simp only [encode, encodeXY, encodeC, encodeV, encodeW, syl, layV, reduceCtorEq, Option.some.injEq, forall_eq', false_implies, implies_true, and_true]
  omega
theorem EncodeFits.vmov (g d a : Nat) : EncodeFits.Statement (.vmov g d a) := by
  intro hw
  simp only [Instr.wf, wfS3, wfS2, wfS1, wfP, wfV2, wfV1, wfE1, okView, okXchk, lt, fits, sysExists, sysWritable, Bool.and_eq_true, Bool.or_eq_true, Bool.not_eq_true', decide_eq_true_eq, beq_iff_eq] at hw
  simp only [encode, encodeXY, encodeC, encodeV, encodeW, syl, layV, Fmt.code, reduceCtorEq, Option.some.injEq, forall_eq', false_implies, implies_true, and_true]
  omega
theorem EncodeFits.vmovExt (g d a : Nat) (e : VExt) : EncodeFits.Statement (.vmovExt g d a e) := by
  intro hw
  simp only [Instr.wf, wfS3, wfS2, wfS1, wfP, wfV2, wfV1, wfE1, okView, okXchk, lt, fits, sysExists, sysWritable, Bool.and_eq_true, Bool.or_eq_true, Bool.not_eq_true', decide_eq_true_eq, beq_iff_eq] at hw
  have he := vext_lt e _ _ _ (by first | exact hw.2 | exact hw.1.2 | exact hw.2.1 | exact hw.1.2.1)
  simp only [encode, encodeXY, encodeC, encodeV, encodeW, syl, layV, Fmt.code, reduceCtorEq, Option.some.injEq, forall_eq', false_implies, implies_true, and_true]
  omega
theorem EncodeFits.vexp2 (g : Nat) (f : Fmt) (d a : Nat) : EncodeFits.Statement (.vexp2 g f d a) := by
  intro hw
  simp only [Instr.wf, wfS3, wfS2, wfS1, wfP, wfV2, wfV1, wfE1, okView, okXchk, lt, fits, sysExists, sysWritable, Bool.and_eq_true, Bool.or_eq_true, Bool.not_eq_true', decide_eq_true_eq, beq_iff_eq] at hw
  have := fmt_code_lt f
  simp only [encode, encodeXY, encodeC, encodeV, encodeW, syl, layV, reduceCtorEq, Option.some.injEq, forall_eq', false_implies, implies_true, and_true]
  omega
theorem EncodeFits.vexp2Ext (g : Nat) (f : Fmt) (d a : Nat) (e : VExt) : EncodeFits.Statement (.vexp2Ext g f d a e) := by
  intro hw
  simp only [Instr.wf, wfS3, wfS2, wfS1, wfP, wfV2, wfV1, wfE1, okView, okXchk, lt, fits, sysExists, sysWritable, Bool.and_eq_true, Bool.or_eq_true, Bool.not_eq_true', decide_eq_true_eq, beq_iff_eq] at hw
  have := fmt_code_lt f
  have he := vext_lt e _ _ _ (by first | exact hw.2 | exact hw.1.2 | exact hw.2.1 | exact hw.1.2.1)
  simp only [encode, encodeXY, encodeC, encodeV, encodeW, syl, layV, reduceCtorEq, Option.some.injEq, forall_eq', false_implies, implies_true, and_true]
  omega
theorem EncodeFits.vlog2 (g : Nat) (f : Fmt) (d a : Nat) : EncodeFits.Statement (.vlog2 g f d a) := by
  intro hw
  simp only [Instr.wf, wfS3, wfS2, wfS1, wfP, wfV2, wfV1, wfE1, okView, okXchk, lt, fits, sysExists, sysWritable, Bool.and_eq_true, Bool.or_eq_true, Bool.not_eq_true', decide_eq_true_eq, beq_iff_eq] at hw
  have := fmt_code_lt f
  simp only [encode, encodeXY, encodeC, encodeV, encodeW, syl, layV, reduceCtorEq, Option.some.injEq, forall_eq', false_implies, implies_true, and_true]
  omega
theorem EncodeFits.vlog2Ext (g : Nat) (f : Fmt) (d a : Nat) (e : VExt) : EncodeFits.Statement (.vlog2Ext g f d a e) := by
  intro hw
  simp only [Instr.wf, wfS3, wfS2, wfS1, wfP, wfV2, wfV1, wfE1, okView, okXchk, lt, fits, sysExists, sysWritable, Bool.and_eq_true, Bool.or_eq_true, Bool.not_eq_true', decide_eq_true_eq, beq_iff_eq] at hw
  have := fmt_code_lt f
  have he := vext_lt e _ _ _ (by first | exact hw.2 | exact hw.1.2 | exact hw.2.1 | exact hw.1.2.1)
  simp only [encode, encodeXY, encodeC, encodeV, encodeW, syl, layV, reduceCtorEq, Option.some.injEq, forall_eq', false_implies, implies_true, and_true]
  omega
theorem EncodeFits.vrcp (g : Nat) (f : Fmt) (d a : Nat) : EncodeFits.Statement (.vrcp g f d a) := by
  intro hw
  simp only [Instr.wf, wfS3, wfS2, wfS1, wfP, wfV2, wfV1, wfE1, okView, okXchk, lt, fits, sysExists, sysWritable, Bool.and_eq_true, Bool.or_eq_true, Bool.not_eq_true', decide_eq_true_eq, beq_iff_eq] at hw
  have := fmt_code_lt f
  simp only [encode, encodeXY, encodeC, encodeV, encodeW, syl, layV, reduceCtorEq, Option.some.injEq, forall_eq', false_implies, implies_true, and_true]
  omega
theorem EncodeFits.vrcpExt (g : Nat) (f : Fmt) (d a : Nat) (e : VExt) : EncodeFits.Statement (.vrcpExt g f d a e) := by
  intro hw
  simp only [Instr.wf, wfS3, wfS2, wfS1, wfP, wfV2, wfV1, wfE1, okView, okXchk, lt, fits, sysExists, sysWritable, Bool.and_eq_true, Bool.or_eq_true, Bool.not_eq_true', decide_eq_true_eq, beq_iff_eq] at hw
  have := fmt_code_lt f
  have he := vext_lt e _ _ _ (by first | exact hw.2 | exact hw.1.2 | exact hw.2.1 | exact hw.1.2.1)
  simp only [encode, encodeXY, encodeC, encodeV, encodeW, syl, layV, reduceCtorEq, Option.some.injEq, forall_eq', false_implies, implies_true, and_true]
  omega
theorem EncodeFits.vrsq (g : Nat) (f : Fmt) (d a : Nat) : EncodeFits.Statement (.vrsq g f d a) := by
  intro hw
  simp only [Instr.wf, wfS3, wfS2, wfS1, wfP, wfV2, wfV1, wfE1, okView, okXchk, lt, fits, sysExists, sysWritable, Bool.and_eq_true, Bool.or_eq_true, Bool.not_eq_true', decide_eq_true_eq, beq_iff_eq] at hw
  have := fmt_code_lt f
  simp only [encode, encodeXY, encodeC, encodeV, encodeW, syl, layV, reduceCtorEq, Option.some.injEq, forall_eq', false_implies, implies_true, and_true]
  omega
theorem EncodeFits.vrsqExt (g : Nat) (f : Fmt) (d a : Nat) (e : VExt) : EncodeFits.Statement (.vrsqExt g f d a e) := by
  intro hw
  simp only [Instr.wf, wfS3, wfS2, wfS1, wfP, wfV2, wfV1, wfE1, okView, okXchk, lt, fits, sysExists, sysWritable, Bool.and_eq_true, Bool.or_eq_true, Bool.not_eq_true', decide_eq_true_eq, beq_iff_eq] at hw
  have := fmt_code_lt f
  have he := vext_lt e _ _ _ (by first | exact hw.2 | exact hw.1.2 | exact hw.2.1 | exact hw.1.2.1)
  simp only [encode, encodeXY, encodeC, encodeV, encodeW, syl, layV, reduceCtorEq, Option.some.injEq, forall_eq', false_implies, implies_true, and_true]
  omega
theorem EncodeFits.vtanh (g : Nat) (f : Fmt) (d a : Nat) : EncodeFits.Statement (.vtanh g f d a) := by
  intro hw
  simp only [Instr.wf, wfS3, wfS2, wfS1, wfP, wfV2, wfV1, wfE1, okView, okXchk, lt, fits, sysExists, sysWritable, Bool.and_eq_true, Bool.or_eq_true, Bool.not_eq_true', decide_eq_true_eq, beq_iff_eq] at hw
  have := fmt_code_lt f
  simp only [encode, encodeXY, encodeC, encodeV, encodeW, syl, layV, reduceCtorEq, Option.some.injEq, forall_eq', false_implies, implies_true, and_true]
  omega
theorem EncodeFits.vtanhExt (g : Nat) (f : Fmt) (d a : Nat) (e : VExt) : EncodeFits.Statement (.vtanhExt g f d a e) := by
  intro hw
  simp only [Instr.wf, wfS3, wfS2, wfS1, wfP, wfV2, wfV1, wfE1, okView, okXchk, lt, fits, sysExists, sysWritable, Bool.and_eq_true, Bool.or_eq_true, Bool.not_eq_true', decide_eq_true_eq, beq_iff_eq] at hw
  have := fmt_code_lt f
  have he := vext_lt e _ _ _ (by first | exact hw.2 | exact hw.1.2 | exact hw.2.1 | exact hw.1.2.1)
  simp only [encode, encodeXY, encodeC, encodeV, encodeW, syl, layV, reduceCtorEq, Option.some.injEq, forall_eq', false_implies, implies_true, and_true]
  omega
theorem EncodeFits.vsum (g : Nat) (f : Fmt) (d a : Nat) : EncodeFits.Statement (.vsum g f d a) := by
  intro hw
  simp only [Instr.wf, wfS3, wfS2, wfS1, wfP, wfV2, wfV1, wfE1, okView, okXchk, lt, fits, sysExists, sysWritable, Bool.and_eq_true, Bool.or_eq_true, Bool.not_eq_true', decide_eq_true_eq, beq_iff_eq] at hw
  have := fmt_code_lt f
  simp only [encode, encodeXY, encodeC, encodeV, encodeW, syl, layV, reduceCtorEq, Option.some.injEq, forall_eq', false_implies, implies_true, and_true]
  omega
theorem EncodeFits.vsumExt (g : Nat) (f : Fmt) (d a : Nat) (e : VExt) : EncodeFits.Statement (.vsumExt g f d a e) := by
  intro hw
  simp only [Instr.wf, wfS3, wfS2, wfS1, wfP, wfV2, wfV1, wfE1, okView, okXchk, lt, fits, sysExists, sysWritable, Bool.and_eq_true, Bool.or_eq_true, Bool.not_eq_true', decide_eq_true_eq, beq_iff_eq] at hw
  have := fmt_code_lt f
  have he := vext_lt e _ _ _ (by first | exact hw.2 | exact hw.1.2 | exact hw.2.1 | exact hw.1.2.1)
  simp only [encode, encodeXY, encodeC, encodeV, encodeW, syl, layV, reduceCtorEq, Option.some.injEq, forall_eq', false_implies, implies_true, and_true]
  omega
theorem EncodeFits.vmaxr (g : Nat) (f : Fmt) (d a : Nat) : EncodeFits.Statement (.vmaxr g f d a) := by
  intro hw
  simp only [Instr.wf, wfS3, wfS2, wfS1, wfP, wfV2, wfV1, wfE1, okView, okXchk, lt, fits, sysExists, sysWritable, Bool.and_eq_true, Bool.or_eq_true, Bool.not_eq_true', decide_eq_true_eq, beq_iff_eq] at hw
  have := fmt_code_lt f
  simp only [encode, encodeXY, encodeC, encodeV, encodeW, syl, layV, reduceCtorEq, Option.some.injEq, forall_eq', false_implies, implies_true, and_true]
  omega
theorem EncodeFits.vmaxrExt (g : Nat) (f : Fmt) (d a : Nat) (e : VExt) : EncodeFits.Statement (.vmaxrExt g f d a e) := by
  intro hw
  simp only [Instr.wf, wfS3, wfS2, wfS1, wfP, wfV2, wfV1, wfE1, okView, okXchk, lt, fits, sysExists, sysWritable, Bool.and_eq_true, Bool.or_eq_true, Bool.not_eq_true', decide_eq_true_eq, beq_iff_eq] at hw
  have := fmt_code_lt f
  have he := vext_lt e _ _ _ (by first | exact hw.2 | exact hw.1.2 | exact hw.2.1 | exact hw.1.2.1)
  simp only [encode, encodeXY, encodeC, encodeV, encodeW, syl, layV, reduceCtorEq, Option.some.injEq, forall_eq', false_implies, implies_true, and_true]
  omega
theorem EncodeFits.vcvt (g : Nat) (f : Fmt) (d a : Nat) (sf : Fmt) (rm : RMode) : EncodeFits.Statement (.vcvt g f d a sf rm) := by
  intro hw
  simp only [Instr.wf, wfS3, wfS2, wfS1, wfP, wfV2, wfV1, wfE1, okView, okXchk, lt, fits, sysExists, sysWritable, Bool.and_eq_true, Bool.or_eq_true, Bool.not_eq_true', decide_eq_true_eq, beq_iff_eq] at hw
  have := fmt_code_lt f
  have := fmt_code_lt sf
  have := rmode_code_lt rm
  simp only [encode, encodeXY, encodeC, encodeV, encodeW, syl, reduceCtorEq, Option.some.injEq, forall_eq', false_implies, implies_true, and_true]
  omega
theorem EncodeFits.vcvtExt (g : Nat) (f : Fmt) (d a : Nat) (sf : Fmt) (rm : RMode) (e : VExt) : EncodeFits.Statement (.vcvtExt g f d a sf rm e) := by
  intro hw
  simp only [Instr.wf, wfS3, wfS2, wfS1, wfP, wfV2, wfV1, wfE1, okView, okXchk, lt, fits, sysExists, sysWritable, Bool.and_eq_true, Bool.or_eq_true, Bool.not_eq_true', decide_eq_true_eq, beq_iff_eq] at hw
  have := fmt_code_lt f
  have := fmt_code_lt sf
  have := rmode_code_lt rm
  have he := vext_lt e _ _ _ (by first | exact hw.2 | exact hw.1.2 | exact hw.2.1 | exact hw.1.2.1)
  simp only [encode, encodeXY, encodeC, encodeV, encodeW, syl, reduceCtorEq, Option.some.injEq, forall_eq', false_implies, implies_true, and_true]
  omega
theorem EncodeFits.vsel (g : Nat) (f : Fmt) (d a b km : Nat) : EncodeFits.Statement (.vsel g f d a b km) := by
  intro hw
  simp only [Instr.wf, wfS3, wfS2, wfS1, wfP, wfV2, wfV1, wfE1, okView, okXchk, lt, fits, sysExists, sysWritable, Bool.and_eq_true, Bool.or_eq_true, Bool.not_eq_true', decide_eq_true_eq, beq_iff_eq] at hw
  have := fmt_code_lt f
  simp only [encode, encodeXY, encodeC, encodeV, encodeW, syl, reduceCtorEq, Option.some.injEq, forall_eq', false_implies, implies_true, and_true]
  omega
theorem EncodeFits.vselExt (g : Nat) (f : Fmt) (d a b km : Nat) (e : VExt) : EncodeFits.Statement (.vselExt g f d a b km e) := by
  intro hw
  simp only [Instr.wf, wfS3, wfS2, wfS1, wfP, wfV2, wfV1, wfE1, okView, okXchk, lt, fits, sysExists, sysWritable, Bool.and_eq_true, Bool.or_eq_true, Bool.not_eq_true', decide_eq_true_eq, beq_iff_eq] at hw
  have := fmt_code_lt f
  have he := vext_lt e _ _ _ (by first | exact hw.2 | exact hw.1.2 | exact hw.2.1 | exact hw.1.2.1)
  simp only [encode, encodeXY, encodeC, encodeV, encodeW, syl, reduceCtorEq, Option.some.injEq, forall_eq', false_implies, implies_true, and_true]
  omega
theorem EncodeFits.vcmp (g : Nat) (f : Fmt) (kd : Nat) (cond : Cond) (a b : Nat) : EncodeFits.Statement (.vcmp g f kd cond a b) := by
  intro hw
  simp only [Instr.wf, wfS3, wfS2, wfS1, wfP, wfV2, wfV1, wfE1, okView, okXchk, lt, fits, sysExists, sysWritable, Bool.and_eq_true, Bool.or_eq_true, Bool.not_eq_true', decide_eq_true_eq, beq_iff_eq] at hw
  have := fmt_code_lt f
  have := cond_code_lt cond
  simp only [encode, encodeXY, encodeC, encodeV, encodeW, syl, reduceCtorEq, Option.some.injEq, forall_eq', false_implies, implies_true, and_true]
  omega
theorem EncodeFits.vcmpExt (g : Nat) (f : Fmt) (kd : Nat) (cond : Cond) (a b : Nat) (e : VExt) : EncodeFits.Statement (.vcmpExt g f kd cond a b e) := by
  intro hw
  simp only [Instr.wf, wfS3, wfS2, wfS1, wfP, wfV2, wfV1, wfE1, okView, okXchk, lt, fits, sysExists, sysWritable, Bool.and_eq_true, Bool.or_eq_true, Bool.not_eq_true', decide_eq_true_eq, beq_iff_eq] at hw
  have := fmt_code_lt f
  have := cond_code_lt cond
  have he := vext_lt e _ _ _ (by first | exact hw.2 | exact hw.1.2 | exact hw.2.1 | exact hw.1.2.1)
  simp only [encode, encodeXY, encodeC, encodeV, encodeW, syl, reduceCtorEq, Option.some.injEq, forall_eq', false_implies, implies_true, and_true]
  omega
theorem EncodeFits.vsplat (g : Nat) (f : Fmt) (d a : Nat) : EncodeFits.Statement (.vsplat g f d a) := by
  intro hw
  simp only [Instr.wf, wfS3, wfS2, wfS1, wfP, wfV2, wfV1, wfE1, okView, okXchk, lt, fits, sysExists, sysWritable, Bool.and_eq_true, Bool.or_eq_true, Bool.not_eq_true', decide_eq_true_eq, beq_iff_eq] at hw
  have := fmt_code_lt f
  simp only [encode, encodeXY, encodeC, encodeV, encodeW, syl, reduceCtorEq, Option.some.injEq, forall_eq', false_implies, implies_true, and_true]
  omega
theorem EncodeFits.mpush (g kr : Nat) (s : Bool) (src : Nat) : EncodeFits.Statement (.mpush g kr s src) := by
  intro hw
  simp only [Instr.wf, wfS3, wfS2, wfS1, wfP, wfV2, wfV1, wfE1, okView, okXchk, lt, fits, sysExists, sysWritable, Bool.and_eq_true, Bool.or_eq_true, Bool.not_eq_true', decide_eq_true_eq, beq_iff_eq] at hw
  have := b2n_lt s
  simp only [encode, encodeXY, encodeC, encodeV, encodeW, encodeMK, syl, reduceCtorEq, Option.some.injEq, forall_eq', false_implies, implies_true, and_true]
  omega
theorem EncodeFits.mfeed (g : Nat) (s : Bool) (src ad row : Nat) : EncodeFits.Statement (.mfeed g s src ad row) := by
  intro hw
  simp only [Instr.wf, wfS3, wfS2, wfS1, wfP, wfV2, wfV1, wfE1, okView, okXchk, lt, fits, sysExists, sysWritable, Bool.and_eq_true, Bool.or_eq_true, Bool.not_eq_true', decide_eq_true_eq, beq_iff_eq] at hw
  have := b2n_lt s
  simp only [encode, encodeXY, encodeC, encodeV, encodeW, encodeMK, syl, reduceCtorEq, Option.some.injEq, forall_eq', false_implies, implies_true, and_true]
  omega
theorem EncodeFits.mshiftDown (g n : Nat) : EncodeFits.Statement (.mshiftDown g n) := by
  intro hw
  simp only [Instr.wf, wfS3, wfS2, wfS1, wfP, wfV2, wfV1, wfE1, okView, okXchk, lt, fits, sysExists, sysWritable, Bool.and_eq_true, Bool.or_eq_true, Bool.not_eq_true', decide_eq_true_eq, beq_iff_eq] at hw
  simp only [encode, encodeXY, encodeC, encodeV, encodeW, encodeMK, syl, reduceCtorEq, Option.some.injEq, forall_eq', false_implies, implies_true, and_true]
  omega
theorem EncodeFits.mshiftAcross (g n : Nat) : EncodeFits.Statement (.mshiftAcross g n) := by
  intro hw
  simp only [Instr.wf, wfS3, wfS2, wfS1, wfP, wfV2, wfV1, wfE1, okView, okXchk, lt, fits, sysExists, sysWritable, Bool.and_eq_true, Bool.or_eq_true, Bool.not_eq_true', decide_eq_true_eq, beq_iff_eq] at hw
  simp only [encode, encodeXY, encodeC, encodeV, encodeW, encodeMK, syl, reduceCtorEq, Option.some.injEq, forall_eq', false_implies, implies_true, and_true]
  omega
theorem EncodeFits.mdrain (g : Nat) (f : Fmt) (td trow ad arow : Nat) : EncodeFits.Statement (.mdrain g f td trow ad arow) := by
  intro hw
  simp only [Instr.wf, wfS3, wfS2, wfS1, wfP, wfV2, wfV1, wfE1, okView, okXchk, lt, fits, sysExists, sysWritable, Bool.and_eq_true, Bool.or_eq_true, Bool.not_eq_true', decide_eq_true_eq, beq_iff_eq] at hw
  have := fmt_code_lt f
  simp only [encode, encodeXY, encodeC, encodeV, encodeW, encodeMK, syl, reduceCtorEq, Option.some.injEq, forall_eq', false_implies, implies_true, and_true]
  omega
theorem EncodeFits.mzero (g ad arow : Nat) : EncodeFits.Statement (.mzero g ad arow) := by
  intro hw
  simp only [Instr.wf, wfS3, wfS2, wfS1, wfP, wfV2, wfV1, wfE1, okView, okXchk, lt, fits, sysExists, sysWritable, Bool.and_eq_true, Bool.or_eq_true, Bool.not_eq_true', decide_eq_true_eq, beq_iff_eq] at hw
  simp only [encode, encodeXY, encodeC, encodeV, encodeW, encodeMK, syl, reduceCtorEq, Option.some.injEq, forall_eq', false_implies, implies_true, and_true]
  omega
theorem EncodeFits.kset (g : Nat) (edgeB : Bool) (l col : Nat) (sc : Int) : EncodeFits.Statement (.kset g edgeB l col sc) := by
  intro hw
  simp only [Instr.wf, wfS3, wfS2, wfS1, wfP, wfV2, wfV1, wfE1, okView, okXchk, lt, fits, sysExists, sysWritable, Bool.and_eq_true, Bool.or_eq_true, Bool.not_eq_true', decide_eq_true_eq, beq_iff_eq] at hw
  have := b2n_lt edgeB
  have := wrap_lt 8 sc
  simp only [encode, encodeXY, encodeC, encodeV, encodeW, encodeMK, syl, reduceCtorEq, Option.some.injEq, forall_eq', false_implies, implies_true, and_true]
  omega
theorem EncodeFits.kld (g : Nat) (edgeB : Bool) (l a : Nat) : EncodeFits.Statement (.kld g edgeB l a) := by
  intro hw
  simp only [Instr.wf, wfS3, wfS2, wfS1, wfP, wfV2, wfV1, wfE1, okView, okXchk, lt, fits, sysExists, sysWritable, Bool.and_eq_true, Bool.or_eq_true, Bool.not_eq_true', decide_eq_true_eq, beq_iff_eq] at hw
  have := b2n_lt edgeB
  simp only [encode, encodeXY, encodeC, encodeV, encodeW, encodeMK, syl, reduceCtorEq, Option.some.injEq, forall_eq', false_implies, implies_true, and_true]
  omega
theorem EncodeFits.vwset (g cls idx a : Nat) : EncodeFits.Statement (.vwset g cls idx a) := by
  intro hw
  simp only [Instr.wf, wfS3, wfS2, wfS1, wfP, wfV2, wfV1, wfE1, okView, okXchk, lt, fits, sysExists, sysWritable, Bool.and_eq_true, Bool.or_eq_true, Bool.not_eq_true', decide_eq_true_eq, beq_iff_eq] at hw
  simp only [encode, encodeXY, encodeC, encodeV, encodeW, encodeMK, encodeL, syl, layLV, reduceCtorEq, Option.some.injEq, forall_eq', false_implies, implies_true, and_true]
  omega
theorem EncodeFits.vwclr (g cls idx : Nat) : EncodeFits.Statement (.vwclr g cls idx) := by
  intro hw
  simp only [Instr.wf, wfS3, wfS2, wfS1, wfP, wfV2, wfV1, wfE1, okView, okXchk, lt, fits, sysExists, sysWritable, Bool.and_eq_true, Bool.or_eq_true, Bool.not_eq_true', decide_eq_true_eq, beq_iff_eq] at hw
  simp only [encode, encodeXY, encodeC, encodeV, encodeW, encodeMK, encodeL, syl, layLV, reduceCtorEq, Option.some.injEq, forall_eq', false_implies, implies_true, and_true]
  omega
theorem EncodeFits.vwget (g cls idx d w : Nat) : EncodeFits.Statement (.vwget g cls idx d w) := by
  intro hw
  simp only [Instr.wf, wfS3, wfS2, wfS1, wfP, wfV2, wfV1, wfE1, okView, okXchk, lt, fits, sysExists, sysWritable, Bool.and_eq_true, Bool.or_eq_true, Bool.not_eq_true', decide_eq_true_eq, beq_iff_eq] at hw
  simp only [encode, encodeXY, encodeC, encodeV, encodeW, encodeMK, encodeL, syl, layLV, reduceCtorEq, Option.some.injEq, forall_eq', false_implies, implies_true, and_true]
  omega
theorem EncodeFits.vld (g : Nat) (f : Fmt) (d a : Nat) (off : Int) : EncodeFits.Statement (.vld g f d a off) := by
  intro hw
  simp only [Instr.wf, wfS3, wfS2, wfS1, wfP, wfV2, wfV1, wfE1, okView, okXchk, lt, fits, sysExists, sysWritable, Bool.and_eq_true, Bool.or_eq_true, Bool.not_eq_true', decide_eq_true_eq, beq_iff_eq] at hw
  have := fmt_code_lt f
  have := wrap_lt 8 off
  simp only [encode, encodeXY, encodeC, encodeV, encodeW, encodeMK, encodeL, syl, layLM, reduceCtorEq, Option.some.injEq, forall_eq', false_implies, implies_true, and_true]
  omega
theorem EncodeFits.vldWide (g : Nat) (f : Fmt) (d a : Nat) (off : Int) : EncodeFits.Statement (.vldWide g f d a off) := by
  intro hw
  simp only [Instr.wf, wfS3, wfS2, wfS1, wfP, wfV2, wfV1, wfE1, okView, okXchk, lt, fits, sysExists, sysWritable, Bool.and_eq_true, Bool.or_eq_true, Bool.not_eq_true', decide_eq_true_eq, beq_iff_eq] at hw
  have := fmt_code_lt f
  have := lowW_lt 8 off
  have := highW_lt 8 off
  simp only [encode, encodeXY, encodeC, encodeV, encodeW, encodeMK, encodeL, syl, layLM, reduceCtorEq, Option.some.injEq, forall_eq', false_implies, implies_true, and_true]
  omega
theorem EncodeFits.vst (g : Nat) (f : Fmt) (v a : Nat) (off : Int) : EncodeFits.Statement (.vst g f v a off) := by
  intro hw
  simp only [Instr.wf, wfS3, wfS2, wfS1, wfP, wfV2, wfV1, wfE1, okView, okXchk, lt, fits, sysExists, sysWritable, Bool.and_eq_true, Bool.or_eq_true, Bool.not_eq_true', decide_eq_true_eq, beq_iff_eq] at hw
  have := fmt_code_lt f
  have := wrap_lt 8 off
  simp only [encode, encodeXY, encodeC, encodeV, encodeW, encodeMK, encodeL, syl, layLM, reduceCtorEq, Option.some.injEq, forall_eq', false_implies, implies_true, and_true]
  omega
theorem EncodeFits.vstWide (g : Nat) (f : Fmt) (v a : Nat) (off : Int) : EncodeFits.Statement (.vstWide g f v a off) := by
  intro hw
  simp only [Instr.wf, wfS3, wfS2, wfS1, wfP, wfV2, wfV1, wfE1, okView, okXchk, lt, fits, sysExists, sysWritable, Bool.and_eq_true, Bool.or_eq_true, Bool.not_eq_true', decide_eq_true_eq, beq_iff_eq] at hw
  have := fmt_code_lt f
  have := lowW_lt 8 off
  have := highW_lt 8 off
  simp only [encode, encodeXY, encodeC, encodeV, encodeW, encodeMK, encodeL, syl, layLM, reduceCtorEq, Option.some.injEq, forall_eq', false_implies, implies_true, and_true]
  omega
theorem EncodeFits.tsr (g : Nat) (f : Fmt) (v t : Nat) (col : Bool) (i : Nat) : EncodeFits.Statement (.tsr g f v t col i) := by
  intro hw
  simp only [Instr.wf, wfS3, wfS2, wfS1, wfP, wfV2, wfV1, wfE1, okView, okXchk, lt, fits, sysExists, sysWritable, Bool.and_eq_true, Bool.or_eq_true, Bool.not_eq_true', decide_eq_true_eq, beq_iff_eq] at hw
  have := fmt_code_lt f
  have := b2n_lt col
  simp only [encode, encodeXY, encodeC, encodeV, encodeW, encodeMK, encodeL, syl, layLT, reduceCtorEq, Option.some.injEq, forall_eq', false_implies, implies_true, and_true]
  omega
theorem EncodeFits.tsw (g : Nat) (f : Fmt) (v t : Nat) (col : Bool) (i : Nat) : EncodeFits.Statement (.tsw g f v t col i) := by
  intro hw
  simp only [Instr.wf, wfS3, wfS2, wfS1, wfP, wfV2, wfV1, wfE1, okView, okXchk, lt, fits, sysExists, sysWritable, Bool.and_eq_true, Bool.or_eq_true, Bool.not_eq_true', decide_eq_true_eq, beq_iff_eq] at hw
  have := fmt_code_lt f
  have := b2n_lt col
  simp only [encode, encodeXY, encodeC, encodeV, encodeW, encodeMK, encodeL, syl, layLT, reduceCtorEq, Option.some.injEq, forall_eq', false_implies, implies_true, and_true]
  omega
theorem EncodeFits.wsld (g : Nat) (f : Fmt) (d a : Nat) (off : Int) : EncodeFits.Statement (.wsld g f d a off) := by
  intro hw
  simp only [Instr.wf, wfS3, wfS2, wfS1, wfP, wfV2, wfV1, wfE1, okView, okXchk, lt, fits, sysExists, sysWritable, Bool.and_eq_true, Bool.or_eq_true, Bool.not_eq_true', decide_eq_true_eq, beq_iff_eq] at hw
  have := fmt_code_lt f
  have := wrap_lt 8 off
  simp only [encode, encodeXY, encodeC, encodeV, encodeW, encodeMK, encodeL, syl, layLM, reduceCtorEq, Option.some.injEq, forall_eq', false_implies, implies_true, and_true]
  omega
theorem EncodeFits.wsldWide (g : Nat) (f : Fmt) (d a : Nat) (off : Int) : EncodeFits.Statement (.wsldWide g f d a off) := by
  intro hw
  simp only [Instr.wf, wfS3, wfS2, wfS1, wfP, wfV2, wfV1, wfE1, okView, okXchk, lt, fits, sysExists, sysWritable, Bool.and_eq_true, Bool.or_eq_true, Bool.not_eq_true', decide_eq_true_eq, beq_iff_eq] at hw
  have := fmt_code_lt f
  have := lowW_lt 8 off
  have := highW_lt 8 off
  simp only [encode, encodeXY, encodeC, encodeV, encodeW, encodeMK, encodeL, syl, layLM, reduceCtorEq, Option.some.injEq, forall_eq', false_implies, implies_true, and_true]
  omega
theorem EncodeFits.qbind (g q a : Nat) (write : Bool) (u : Nat) : EncodeFits.Statement (.qbind g q a write u) := by
  intro hw
  simp only [Instr.wf, wfS3, wfS2, wfS1, wfP, wfV2, wfV1, wfE1, okView, okXchk, lt, fits, sysExists, sysWritable, Bool.and_eq_true, Bool.or_eq_true, Bool.not_eq_true', decide_eq_true_eq, beq_iff_eq] at hw
  have := b2n_lt write
  simp only [encode, encodeXY, encodeC, encodeV, encodeW, encodeMK, encodeL, syl, reduceCtorEq, Option.some.injEq, forall_eq', false_implies, implies_true, and_true]
  omega
theorem EncodeFits.qbindNone (g q : Nat) (write : Bool) (u : Nat) : EncodeFits.Statement (.qbindNone g q write u) := by
  intro hw
  simp only [Instr.wf, wfS3, wfS2, wfS1, wfP, wfV2, wfV1, wfE1, okView, okXchk, lt, fits, sysExists, sysWritable, Bool.and_eq_true, Bool.or_eq_true, Bool.not_eq_true', decide_eq_true_eq, beq_iff_eq] at hw
  have := b2n_lt write
  simp only [encode, encodeXY, encodeC, encodeV, encodeW, encodeMK, encodeL, syl, reduceCtorEq, Option.some.injEq, forall_eq', false_implies, implies_true, and_true]
  omega
theorem EncodeFits.qadv (g q n : Nat) : EncodeFits.Statement (.qadv g q n) := by
  intro hw
  simp only [Instr.wf, wfS3, wfS2, wfS1, wfP, wfV2, wfV1, wfE1, okView, okXchk, lt, fits, sysExists, sysWritable, Bool.and_eq_true, Bool.or_eq_true, Bool.not_eq_true', decide_eq_true_eq, beq_iff_eq] at hw
  simp only [encode, encodeXY, encodeC, encodeV, encodeW, encodeMK, encodeL, syl, reduceCtorEq, Option.some.injEq, forall_eq', false_implies, implies_true, and_true]
  omega
theorem EncodeFits.amoAdd (g : Nat) (f : Fmt) (d a b : Nat) (w : Bool) : EncodeFits.Statement (.amoAdd g f d a b w) := by
  intro hw
  simp only [Instr.wf, wfS3, wfS2, wfS1, wfP, wfV2, wfV1, wfE1, okView, okXchk, lt, fits, sysExists, sysWritable, Bool.and_eq_true, Bool.or_eq_true, Bool.not_eq_true', decide_eq_true_eq, beq_iff_eq] at hw
  have := fmt_code_lt f
  have := b2n_lt w
  simp only [encode, encodeXY, encodeC, encodeV, encodeW, encodeMK, encodeL, syl, layLO, reduceCtorEq, Option.some.injEq, forall_eq', false_implies, implies_true, and_true]
  omega
theorem EncodeFits.amoMin (g : Nat) (f : Fmt) (d a b : Nat) (w : Bool) : EncodeFits.Statement (.amoMin g f d a b w) := by
  intro hw
  simp only [Instr.wf, wfS3, wfS2, wfS1, wfP, wfV2, wfV1, wfE1, okView, okXchk, lt, fits, sysExists, sysWritable, Bool.and_eq_true, Bool.or_eq_true, Bool.not_eq_true', decide_eq_true_eq, beq_iff_eq] at hw
  have := fmt_code_lt f
  have := b2n_lt w
  simp only [encode, encodeXY, encodeC, encodeV, encodeW, encodeMK, encodeL, syl, layLO, reduceCtorEq, Option.some.injEq, forall_eq', false_implies, implies_true, and_true]
  omega
theorem EncodeFits.amoMax (g : Nat) (f : Fmt) (d a b : Nat) (w : Bool) : EncodeFits.Statement (.amoMax g f d a b w) := by
  intro hw
  simp only [Instr.wf, wfS3, wfS2, wfS1, wfP, wfV2, wfV1, wfE1, okView, okXchk, lt, fits, sysExists, sysWritable, Bool.and_eq_true, Bool.or_eq_true, Bool.not_eq_true', decide_eq_true_eq, beq_iff_eq] at hw
  have := fmt_code_lt f
  have := b2n_lt w
  simp only [encode, encodeXY, encodeC, encodeV, encodeW, encodeMK, encodeL, syl, layLO, reduceCtorEq, Option.some.injEq, forall_eq', false_implies, implies_true, and_true]
  omega
theorem EncodeFits.amoSwap (g : Nat) (f : Fmt) (d a b : Nat) (w : Bool) : EncodeFits.Statement (.amoSwap g f d a b w) := by
  intro hw
  simp only [Instr.wf, wfS3, wfS2, wfS1, wfP, wfV2, wfV1, wfE1, okView, okXchk, lt, fits, sysExists, sysWritable, Bool.and_eq_true, Bool.or_eq_true, Bool.not_eq_true', decide_eq_true_eq, beq_iff_eq] at hw
  have := fmt_code_lt f
  have := b2n_lt w
  simp only [encode, encodeXY, encodeC, encodeV, encodeW, encodeMK, encodeL, syl, layLO, reduceCtorEq, Option.some.injEq, forall_eq', false_implies, implies_true, and_true]
  omega
theorem EncodeFits.amoCas (g : Nat) (f : Fmt) (d a b c : Nat) (w : Bool) : EncodeFits.Statement (.amoCas g f d a b c w) := by
  intro hw
  simp only [Instr.wf, wfS3, wfS2, wfS1, wfP, wfV2, wfV1, wfE1, okView, okXchk, lt, fits, sysExists, sysWritable, Bool.and_eq_true, Bool.or_eq_true, Bool.not_eq_true', decide_eq_true_eq, beq_iff_eq] at hw
  have := fmt_code_lt f
  have := b2n_lt w
  simp only [encode, encodeXY, encodeC, encodeV, encodeW, encodeMK, encodeL, syl, layLO, reduceCtorEq, Option.some.injEq, forall_eq', false_implies, implies_true, and_true]
  omega
theorem EncodeFits.vmovPop (g v q : Nat) : EncodeFits.Statement (.vmovPop g v q) := by
  intro hw
  simp only [Instr.wf, wfS3, wfS2, wfS1, wfP, wfV2, wfV1, wfE1, okView, okXchk, lt, fits, sysExists, sysWritable, Bool.and_eq_true, Bool.or_eq_true, Bool.not_eq_true', decide_eq_true_eq, beq_iff_eq] at hw
  simp only [encode, encodeXY, encodeC, encodeV, encodeW, encodeMK, encodeL, syl, reduceCtorEq, Option.some.injEq, forall_eq', false_implies, implies_true, and_true]
  omega
theorem EncodeFits.vmovPush (g v q : Nat) : EncodeFits.Statement (.vmovPush g v q) := by
  intro hw
  simp only [Instr.wf, wfS3, wfS2, wfS1, wfP, wfV2, wfV1, wfE1, okView, okXchk, lt, fits, sysExists, sysWritable, Bool.and_eq_true, Bool.or_eq_true, Bool.not_eq_true', decide_eq_true_eq, beq_iff_eq] at hw
  simp only [encode, encodeXY, encodeC, encodeV, encodeW, encodeMK, encodeL, syl, reduceCtorEq, Option.some.injEq, forall_eq', false_implies, implies_true, and_true]
  omega
theorem EncodeFits.cpy (g a d : Nat) : EncodeFits.Statement (.cpy g a d) := by
  intro hw
  simp only [Instr.wf, wfS3, wfS2, wfS1, wfP, wfV2, wfV1, wfE1, okView, okXchk, lt, fits, sysExists, sysWritable, Bool.and_eq_true, Bool.or_eq_true, Bool.not_eq_true', decide_eq_true_eq, beq_iff_eq] at hw
  simp only [encode, encodeXY, encodeC, encodeV, encodeW, encodeMK, encodeL, encodeE, syl, lay3, reduceCtorEq, Option.some.injEq, forall_eq', false_implies, implies_true, and_true]
  omega
theorem EncodeFits.cpyw (g a b c : Nat) : EncodeFits.Statement (.cpyw g a b c) := by
  intro hw
  simp only [Instr.wf, wfS3, wfS2, wfS1, wfP, wfV2, wfV1, wfE1, okView, okXchk, lt, fits, sysExists, sysWritable, Bool.and_eq_true, Bool.or_eq_true, Bool.not_eq_true', decide_eq_true_eq, beq_iff_eq] at hw
  simp only [encode, encodeXY, encodeC, encodeV, encodeW, encodeMK, encodeL, encodeE, syl, lay3, reduceCtorEq, Option.some.injEq, forall_eq', false_implies, implies_true, and_true]
  omega
theorem EncodeFits.pub (g b : Nat) : EncodeFits.Statement (.pub g b) := by
  intro hw
  simp only [Instr.wf, wfS3, wfS2, wfS1, wfP, wfV2, wfV1, wfE1, okView, okXchk, lt, fits, sysExists, sysWritable, Bool.and_eq_true, Bool.or_eq_true, Bool.not_eq_true', decide_eq_true_eq, beq_iff_eq] at hw
  simp only [encode, encodeXY, encodeC, encodeV, encodeW, encodeMK, encodeL, encodeE, syl, lay3, reduceCtorEq, Option.some.injEq, forall_eq', false_implies, implies_true, and_true]
  omega
theorem EncodeFits.acq (g b : Nat) : EncodeFits.Statement (.acq g b) := by
  intro hw
  simp only [Instr.wf, wfS3, wfS2, wfS1, wfP, wfV2, wfV1, wfE1, okView, okXchk, lt, fits, sysExists, sysWritable, Bool.and_eq_true, Bool.or_eq_true, Bool.not_eq_true', decide_eq_true_eq, beq_iff_eq] at hw
  simp only [encode, encodeXY, encodeC, encodeV, encodeW, encodeMK, encodeL, encodeE, syl, lay3, reduceCtorEq, Option.some.injEq, forall_eq', false_implies, implies_true, and_true]
  omega
theorem EncodeFits.rel (g b : Nat) : EncodeFits.Statement (.rel g b) := by
  intro hw
  simp only [Instr.wf, wfS3, wfS2, wfS1, wfP, wfV2, wfV1, wfE1, okView, okXchk, lt, fits, sysExists, sysWritable, Bool.and_eq_true, Bool.or_eq_true, Bool.not_eq_true', decide_eq_true_eq, beq_iff_eq] at hw
  simp only [encode, encodeXY, encodeC, encodeV, encodeW, encodeMK, encodeL, encodeE, syl, lay3, reduceCtorEq, Option.some.injEq, forall_eq', false_implies, implies_true, and_true]
  omega
theorem EncodeFits.fenceCore (g : Nat) : EncodeFits.Statement (.fenceCore g) := by
  intro hw
  simp only [Instr.wf, wfS3, wfS2, wfS1, wfP, wfV2, wfV1, wfE1, okView, okXchk, lt, fits, sysExists, sysWritable, Bool.and_eq_true, Bool.or_eq_true, Bool.not_eq_true', decide_eq_true_eq, beq_iff_eq] at hw
  simp only [encode, encodeXY, encodeC, encodeV, encodeW, encodeMK, encodeL, encodeE, syl, reduceCtorEq, Option.some.injEq, forall_eq', false_implies, implies_true, and_true]
  omega
theorem EncodeFits.fenceCluster (g : Nat) : EncodeFits.Statement (.fenceCluster g) := by
  intro hw
  simp only [Instr.wf, wfS3, wfS2, wfS1, wfP, wfV2, wfV1, wfE1, okView, okXchk, lt, fits, sysExists, sysWritable, Bool.and_eq_true, Bool.or_eq_true, Bool.not_eq_true', decide_eq_true_eq, beq_iff_eq] at hw
  simp only [encode, encodeXY, encodeC, encodeV, encodeW, encodeMK, encodeL, encodeE, syl, reduceCtorEq, Option.some.injEq, forall_eq', false_implies, implies_true, and_true]
  omega
theorem EncodeFits.fenceModule (g : Nat) : EncodeFits.Statement (.fenceModule g) := by
  intro hw
  simp only [Instr.wf, wfS3, wfS2, wfS1, wfP, wfV2, wfV1, wfE1, okView, okXchk, lt, fits, sysExists, sysWritable, Bool.and_eq_true, Bool.or_eq_true, Bool.not_eq_true', decide_eq_true_eq, beq_iff_eq] at hw
  simp only [encode, encodeXY, encodeC, encodeV, encodeW, encodeMK, encodeL, encodeE, syl, reduceCtorEq, Option.some.injEq, forall_eq', false_implies, implies_true, and_true]
  omega
theorem EncodeFits.waita (g a b : Nat) (cond : WCond) (w : Bool) : EncodeFits.Statement (.waita g a b cond w) := by
  intro hw
  simp only [Instr.wf, wfS3, wfS2, wfS1, wfP, wfV2, wfV1, wfE1, okView, okXchk, lt, fits, sysExists, sysWritable, Bool.and_eq_true, Bool.or_eq_true, Bool.not_eq_true', decide_eq_true_eq, beq_iff_eq] at hw
  have := wcond_code_lt cond
  have := b2n_lt w
  simp only [encode, encodeXY, encodeC, encodeV, encodeW, encodeMK, encodeL, encodeE, syl, reduceCtorEq, Option.some.injEq, forall_eq', false_implies, implies_true, and_true]
  omega
theorem EncodeFits.gemv (g a d : Nat) : EncodeFits.Statement (.gemv g a d) := by
  intro hw
  simp only [Instr.wf, wfS3, wfS2, wfS1, wfP, wfV2, wfV1, wfE1, okView, okXchk, lt, fits, sysExists, sysWritable, Bool.and_eq_true, Bool.or_eq_true, Bool.not_eq_true', decide_eq_true_eq, beq_iff_eq] at hw
  simp only [encode, encodeXY, encodeC, encodeV, encodeW, encodeMK, encodeL, encodeE, syl, lay3, reduceCtorEq, Option.some.injEq, forall_eq', false_implies, implies_true, and_true]
  omega
theorem EncodeFits.cgload (g a slot : Nat) : EncodeFits.Statement (.cgload g a slot) := by
  intro hw
  simp only [Instr.wf, wfS3, wfS2, wfS1, wfP, wfV2, wfV1, wfE1, okView, okXchk, lt, fits, sysExists, sysWritable, Bool.and_eq_true, Bool.or_eq_true, Bool.not_eq_true', decide_eq_true_eq, beq_iff_eq] at hw
  simp only [encode, encodeXY, encodeC, encodeV, encodeW, encodeMK, encodeL, encodeE, syl, reduceCtorEq, Option.some.injEq, forall_eq', false_implies, implies_true, and_true]
  omega
theorem EncodeFits.cgrun (g slot a : Nat) : EncodeFits.Statement (.cgrun g slot a) := by
  intro hw
  simp only [Instr.wf, wfS3, wfS2, wfS1, wfP, wfV2, wfV1, wfE1, okView, okXchk, lt, fits, sysExists, sysWritable, Bool.and_eq_true, Bool.or_eq_true, Bool.not_eq_true', decide_eq_true_eq, beq_iff_eq] at hw
  simp only [encode, encodeXY, encodeC, encodeV, encodeW, encodeMK, encodeL, encodeE, syl, reduceCtorEq, Option.some.injEq, forall_eq', false_implies, implies_true, and_true]
  omega
theorem EncodeFits.abr (g ch p : Nat) (h : Bool) (disp : Int) : EncodeFits.Statement (.abr g ch p h disp) := by
  intro hw
  simp only [Instr.wf, wfS3, wfS2, wfS1, wfP, wfV2, wfV1, wfE1, okView, okXchk, lt, fits, sysExists, sysWritable, Bool.and_eq_true, Bool.or_eq_true, Bool.not_eq_true', decide_eq_true_eq, beq_iff_eq] at hw
  have := b2n_lt h
  have := wrap_lt 14 disp
  simp only [encode, encodeXY, encodeC, encodeV, encodeW, encodeMK, encodeL, encodeE, syl, reduceCtorEq, Option.some.injEq, forall_eq', false_implies, implies_true, and_true]
  omega
theorem EncodeFits.abrWide (g ch p : Nat) (h : Bool) (disp : Int) : EncodeFits.Statement (.abrWide g ch p h disp) := by
  intro hw
  simp only [Instr.wf, wfS3, wfS2, wfS1, wfP, wfV2, wfV1, wfE1, okView, okXchk, lt, fits, sysExists, sysWritable, Bool.and_eq_true, Bool.or_eq_true, Bool.not_eq_true', decide_eq_true_eq, beq_iff_eq] at hw
  have := b2n_lt h
  have := lowW_lt 14 disp
  have := highW_lt 14 disp
  simp only [encode, encodeXY, encodeC, encodeV, encodeW, encodeMK, encodeL, encodeE, syl, reduceCtorEq, Option.some.injEq, forall_eq', false_implies, implies_true, and_true]
  omega
theorem EncodeFits.agreeAnd (g ch x : Nat) : EncodeFits.Statement (.agreeAnd g ch x) := by
  intro hw
  simp only [Instr.wf, wfS3, wfS2, wfS1, wfP, wfV2, wfV1, wfE1, okView, okXchk, lt, fits, sysExists, sysWritable, Bool.and_eq_true, Bool.or_eq_true, Bool.not_eq_true', decide_eq_true_eq, beq_iff_eq] at hw
  simp only [encode, encodeXY, encodeC, encodeV, encodeW, encodeMK, encodeL, encodeE, syl, reduceCtorEq, Option.some.injEq, forall_eq', false_implies, implies_true, and_true]
  omega
theorem EncodeFits.agreeOr (g ch x : Nat) : EncodeFits.Statement (.agreeOr g ch x) := by
  intro hw
  simp only [Instr.wf, wfS3, wfS2, wfS1, wfP, wfV2, wfV1, wfE1, okView, okXchk, lt, fits, sysExists, sysWritable, Bool.and_eq_true, Bool.or_eq_true, Bool.not_eq_true', decide_eq_true_eq, beq_iff_eq] at hw
  simp only [encode, encodeXY, encodeC, encodeV, encodeW, encodeMK, encodeL, encodeE, syl, reduceCtorEq, Option.some.injEq, forall_eq', false_implies, implies_true, and_true]
  omega
theorem EncodeFits.agreeMin (g ch x : Nat) : EncodeFits.Statement (.agreeMin g ch x) := by
  intro hw
  simp only [Instr.wf, wfS3, wfS2, wfS1, wfP, wfV2, wfV1, wfE1, okView, okXchk, lt, fits, sysExists, sysWritable, Bool.and_eq_true, Bool.or_eq_true, Bool.not_eq_true', decide_eq_true_eq, beq_iff_eq] at hw
  simp only [encode, encodeXY, encodeC, encodeV, encodeW, encodeMK, encodeL, encodeE, syl, reduceCtorEq, Option.some.injEq, forall_eq', false_implies, implies_true, and_true]
  omega
theorem EncodeFits.agreeMax (g ch x : Nat) : EncodeFits.Statement (.agreeMax g ch x) := by
  intro hw
  simp only [Instr.wf, wfS3, wfS2, wfS1, wfP, wfV2, wfV1, wfE1, okView, okXchk, lt, fits, sysExists, sysWritable, Bool.and_eq_true, Bool.or_eq_true, Bool.not_eq_true', decide_eq_true_eq, beq_iff_eq] at hw
  simp only [encode, encodeXY, encodeC, encodeV, encodeW, encodeMK, encodeL, encodeE, syl, reduceCtorEq, Option.some.injEq, forall_eq', false_implies, implies_true, and_true]
  omega
theorem EncodeFits.agreeSum (g ch x : Nat) : EncodeFits.Statement (.agreeSum g ch x) := by
  intro hw
  simp only [Instr.wf, wfS3, wfS2, wfS1, wfP, wfV2, wfV1, wfE1, okView, okXchk, lt, fits, sysExists, sysWritable, Bool.and_eq_true, Bool.or_eq_true, Bool.not_eq_true', decide_eq_true_eq, beq_iff_eq] at hw
  simp only [encode, encodeXY, encodeC, encodeV, encodeW, encodeMK, encodeL, encodeE, syl, reduceCtorEq, Option.some.injEq, forall_eq', false_implies, implies_true, and_true]
  omega
theorem EncodeFits.acall (g d ch : Nat) : EncodeFits.Statement (.acall g d ch) := by
  intro hw
  simp only [Instr.wf, wfS3, wfS2, wfS1, wfP, wfV2, wfV1, wfE1, okView, okXchk, lt, fits, sysExists, sysWritable, Bool.and_eq_true, Bool.or_eq_true, Bool.not_eq_true', decide_eq_true_eq, beq_iff_eq] at hw
  simp only [encode, encodeXY, encodeC, encodeV, encodeW, encodeMK, encodeL, encodeE, syl, reduceCtorEq, Option.some.injEq, forall_eq', false_implies, implies_true, and_true]
  omega
theorem EncodeFits.xchk (g cls idx : Nat) : EncodeFits.Statement (.xchk g cls idx) := by
  intro hw
  simp only [Instr.wf, wfS3, wfS2, wfS1, wfP, wfV2, wfV1, wfE1, okView, okXchk, lt, fits, sysExists, sysWritable, Bool.and_eq_true, Bool.or_eq_true, Bool.not_eq_true', decide_eq_true_eq, beq_iff_eq] at hw
  simp only [encode, encodeXY, encodeC, encodeV, encodeW, encodeMK, encodeL, encodeE, syl, reduceCtorEq, Option.some.injEq, forall_eq', false_implies, implies_true, and_true]
  omega
theorem EncodeFits.tnow (g d : Nat) : EncodeFits.Statement (.tnow g d) := by
  intro hw
  simp only [Instr.wf, wfS3, wfS2, wfS1, wfP, wfV2, wfV1, wfE1, okView, okXchk, lt, fits, sysExists, sysWritable, Bool.and_eq_true, Bool.or_eq_true, Bool.not_eq_true', decide_eq_true_eq, beq_iff_eq] at hw
  simp only [encode, encodeXY, encodeC, encodeV, encodeW, encodeMK, encodeL, encodeE, syl, reduceCtorEq, Option.some.injEq, forall_eq', false_implies, implies_true, and_true]
  omega
theorem EncodeFits.waitt (g a : Nat) : EncodeFits.Statement (.waitt g a) := by
  intro hw
  simp only [Instr.wf, wfS3, wfS2, wfS1, wfP, wfV2, wfV1, wfE1, okView, okXchk, lt, fits, sysExists, sysWritable, Bool.and_eq_true, Bool.or_eq_true, Bool.not_eq_true', decide_eq_true_eq, beq_iff_eq] at hw
  simp only [encode, encodeXY, encodeC, encodeV, encodeW, encodeMK, encodeL, encodeE, syl, reduceCtorEq, Option.some.injEq, forall_eq', false_implies, implies_true, and_true]
  omega
theorem EncodeFits.waittk (g tg : Nat) : EncodeFits.Statement (.waittk g tg) := by
  intro hw
  simp only [Instr.wf, wfS3, wfS2, wfS1, wfP, wfV2, wfV1, wfE1, okView, okXchk, lt, fits, sysExists, sysWritable, Bool.and_eq_true, Bool.or_eq_true, Bool.not_eq_true', decide_eq_true_eq, beq_iff_eq] at hw
  simp only [encode, encodeXY, encodeC, encodeV, encodeW, encodeMK, encodeL, encodeE, syl, reduceCtorEq, Option.some.injEq, forall_eq', false_implies, implies_true, and_true]
  omega
theorem EncodeFits.tokget (g d w a : Nat) : EncodeFits.Statement (.tokget g d w a) := by
  intro hw
  simp only [Instr.wf, wfS3, wfS2, wfS1, wfP, wfV2, wfV1, wfE1, okView, okXchk, lt, fits, sysExists, sysWritable, Bool.and_eq_true, Bool.or_eq_true, Bool.not_eq_true', decide_eq_true_eq, beq_iff_eq] at hw
  simp only [encode, encodeXY, encodeC, encodeV, encodeW, encodeMK, encodeL, encodeE, syl, lay3, reduceCtorEq, Option.some.injEq, forall_eq', false_implies, implies_true, and_true]
  omega
theorem EncodeFits.tokrel (g w a : Nat) : EncodeFits.Statement (.tokrel g w a) := by
  intro hw
  simp only [Instr.wf, wfS3, wfS2, wfS1, wfP, wfV2, wfV1, wfE1, okView, okXchk, lt, fits, sysExists, sysWritable, Bool.and_eq_true, Bool.or_eq_true, Bool.not_eq_true', decide_eq_true_eq, beq_iff_eq] at hw
  simp only [encode, encodeXY, encodeC, encodeV, encodeW, encodeMK, encodeL, encodeE, syl, lay3, reduceCtorEq, Option.some.injEq, forall_eq', false_implies, implies_true, and_true]
  omega
theorem EncodeFits.cvget (g d : Nat) : EncodeFits.Statement (.cvget g d) := by
  intro hw
  simp only [Instr.wf, wfS3, wfS2, wfS1, wfP, wfV2, wfV1, wfE1, okView, okXchk, lt, fits, sysExists, sysWritable, Bool.and_eq_true, Bool.or_eq_true, Bool.not_eq_true', decide_eq_true_eq, beq_iff_eq] at hw
  simp only [encode, encodeXY, encodeC, encodeV, encodeW, encodeMK, encodeL, encodeE, syl, reduceCtorEq, Option.some.injEq, forall_eq', false_implies, implies_true, and_true]
  omega
theorem EncodeFits.cvsample (g a : Nat) : EncodeFits.Statement (.cvsample g a) := by
  intro hw
  simp only [Instr.wf, wfS3, wfS2, wfS1, wfP, wfV2, wfV1, wfE1, okView, okXchk, lt, fits, sysExists, sysWritable, Bool.and_eq_true, Bool.or_eq_true, Bool.not_eq_true', decide_eq_true_eq, beq_iff_eq] at hw
  simp only [encode, encodeXY, encodeC, encodeV, encodeW, encodeMK, encodeL, encodeE, syl, reduceCtorEq, Option.some.injEq, forall_eq', false_implies, implies_true, and_true]
  omega
theorem EncodeFits.live (g a : Nat) : EncodeFits.Statement (.live g a) := by
  intro hw
  simp only [Instr.wf, wfS3, wfS2, wfS1, wfP, wfV2, wfV1, wfE1, okView, okXchk, lt, fits, sysExists, sysWritable, Bool.and_eq_true, Bool.or_eq_true, Bool.not_eq_true', decide_eq_true_eq, beq_iff_eq] at hw
  simp only [encode, encodeXY, encodeC, encodeV, encodeW, encodeMK, encodeL, encodeE, syl, reduceCtorEq, Option.some.injEq, forall_eq', false_implies, implies_true, and_true]
  omega
theorem EncodeFits.trap (g code : Nat) : EncodeFits.Statement (.trap g code) := by
  intro hw
  simp only [Instr.wf, wfS3, wfS2, wfS1, wfP, wfV2, wfV1, wfE1, okView, okXchk, lt, fits, sysExists, sysWritable, Bool.and_eq_true, Bool.or_eq_true, Bool.not_eq_true', decide_eq_true_eq, beq_iff_eq] at hw
  simp only [encode, encodeXY, encodeC, encodeV, encodeW, encodeMK, encodeL, encodeE, syl, reduceCtorEq, Option.some.injEq, forall_eq', false_implies, implies_true, and_true]
  omega
theorem EncodeFits.rte (g : Nat) : EncodeFits.Statement (.rte g) := by
  intro hw
  simp only [Instr.wf, wfS3, wfS2, wfS1, wfP, wfV2, wfV1, wfE1, okView, okXchk, lt, fits, sysExists, sysWritable, Bool.and_eq_true, Bool.or_eq_true, Bool.not_eq_true', decide_eq_true_eq, beq_iff_eq] at hw
  simp only [encode, encodeXY, encodeC, encodeV, encodeW, encodeMK, encodeL, encodeE, syl, reduceCtorEq, Option.some.injEq, forall_eq', false_implies, implies_true, and_true]
  omega
theorem EncodeFits.brkp (g code : Nat) : EncodeFits.Statement (.brkp g code) := by
  intro hw
  simp only [Instr.wf, wfS3, wfS2, wfS1, wfP, wfV2, wfV1, wfE1, okView, okXchk, lt, fits, sysExists, sysWritable, Bool.and_eq_true, Bool.or_eq_true, Bool.not_eq_true', decide_eq_true_eq, beq_iff_eq] at hw
  simp only [encode, encodeXY, encodeC, encodeV, encodeW, encodeMK, encodeL, encodeE, syl, reduceCtorEq, Option.some.injEq, forall_eq', false_implies, implies_true, and_true]
  omega
theorem EncodeFits.ctopen (g a : Nat) : EncodeFits.Statement (.ctopen g a) := by
  intro hw
  simp only [Instr.wf, wfS3, wfS2, wfS1, wfP, wfV2, wfV1, wfE1, okView, okXchk, lt, fits, sysExists, sysWritable, Bool.and_eq_true, Bool.or_eq_true, Bool.not_eq_true', decide_eq_true_eq, beq_iff_eq] at hw
  simp only [encode, encodeXY, encodeC, encodeV, encodeW, encodeMK, encodeL, encodeE, syl, reduceCtorEq, Option.some.injEq, forall_eq', false_implies, implies_true, and_true]
  omega
theorem EncodeFits.ctclose (g : Nat) : EncodeFits.Statement (.ctclose g) := by
  intro hw
  simp only [Instr.wf, wfS3, wfS2, wfS1, wfP, wfV2, wfV1, wfE1, okView, okXchk, lt, fits, sysExists, sysWritable, Bool.and_eq_true, Bool.or_eq_true, Bool.not_eq_true', decide_eq_true_eq, beq_iff_eq] at hw
  simp only [encode, encodeXY, encodeC, encodeV, encodeW, encodeMK, encodeL, encodeE, syl, reduceCtorEq, Option.some.injEq, forall_eq', false_implies, implies_true, and_true]
  omega
theorem EncodeFits.sysYield (g a : Nat) : EncodeFits.Statement (.sysYield g a) := by
  intro hw
  simp only [Instr.wf, wfS3, wfS2, wfS1, wfP, wfV2, wfV1, wfE1, okView, okXchk, lt, fits, sysExists, sysWritable, Bool.and_eq_true, Bool.or_eq_true, Bool.not_eq_true', decide_eq_true_eq, beq_iff_eq] at hw
  simp only [encode, encodeXY, encodeC, encodeV, encodeW, encodeMK, encodeL, encodeE, syl, reduceCtorEq, Option.some.injEq, forall_eq', false_implies, implies_true, and_true]
  omega
theorem EncodeFits.sysSubmit (g a : Nat) : EncodeFits.Statement (.sysSubmit g a) := by
  intro hw
  simp only [Instr.wf, wfS3, wfS2, wfS1, wfP, wfV2, wfV1, wfE1, okView, okXchk, lt, fits, sysExists, sysWritable, Bool.and_eq_true, Bool.or_eq_true, Bool.not_eq_true', decide_eq_true_eq, beq_iff_eq] at hw
  simp only [encode, encodeXY, encodeC, encodeV, encodeW, encodeMK, encodeL, encodeE, syl, reduceCtorEq, Option.some.injEq, forall_eq', false_implies, implies_true, and_true]
  omega
theorem EncodeFits.sysNotify (g a : Nat) : EncodeFits.Statement (.sysNotify g a) := by
  intro hw
  simp only [Instr.wf, wfS3, wfS2, wfS1, wfP, wfV2, wfV1, wfE1, okView, okXchk, lt, fits, sysExists, sysWritable, Bool.and_eq_true, Bool.or_eq_true, Bool.not_eq_true', decide_eq_true_eq, beq_iff_eq] at hw
  simp only [encode, encodeXY, encodeC, encodeV, encodeW, encodeMK, encodeL, encodeE, syl, reduceCtorEq, Option.some.injEq, forall_eq', false_implies, implies_true, and_true]
  omega
theorem EncodeFits.announceReceive (m : Nat) (x : PortAnnounce) : EncodeFits.Statement (.announceReceive m x) := fun _ => ⟨by simp [encode, encodeXY, encodeC, encodeV, encodeW, encodeMK, encodeL, encodeE], by simp [encode, encodeXY, encodeC, encodeV, encodeW, encodeMK, encodeL, encodeE]⟩
theorem EncodeFits.peerDelayMessage (m port : Nat) (msg : PeerMsg) : EncodeFits.Statement (.peerDelayMessage m port msg) := fun _ => ⟨by simp [encode, encodeXY, encodeC, encodeV, encodeW, encodeMK, encodeL, encodeE], by simp [encode, encodeXY, encodeC, encodeV, encodeW, encodeMK, encodeL, encodeE]⟩
theorem EncodeFits.dolselLinkUp (m port : Nat) : EncodeFits.Statement (.dolselLinkUp m port) := fun _ => ⟨by simp [encode, encodeXY, encodeC, encodeV, encodeW, encodeMK, encodeL, encodeE], by simp [encode, encodeXY, encodeC, encodeV, encodeW, encodeMK, encodeL, encodeE]⟩
theorem EncodeFits.softError (loc : BitLoc) (b : Nat) (second : Bool) : EncodeFits.Statement (.softError loc b second) := fun _ => ⟨by simp [encode, encodeXY, encodeC, encodeV, encodeW, encodeMK, encodeL, encodeE], by simp [encode, encodeXY, encodeC, encodeV, encodeW, encodeMK, encodeL, encodeE]⟩
theorem EncodeFits.deviceFault (part : FaultPart) : EncodeFits.Statement (.deviceFault part) := fun _ => ⟨by simp [encode, encodeXY, encodeC, encodeV, encodeW, encodeMK, encodeL, encodeE], by simp [encode, encodeXY, encodeC, encodeV, encodeW, encodeMK, encodeL, encodeE]⟩
theorem EncodeFits.issueBundle : EncodeFits.Statement (.issueBundle) := fun _ => ⟨by simp [encode, encodeXY, encodeC, encodeV, encodeW, encodeMK, encodeL, encodeE], by simp [encode, encodeXY, encodeC, encodeV, encodeW, encodeMK, encodeL, encodeE]⟩
theorem EncodeFits.fetchBlockFill : EncodeFits.Statement (.fetchBlockFill) := fun _ => ⟨by simp [encode, encodeXY, encodeC, encodeV, encodeW, encodeMK, encodeL, encodeE], by simp [encode, encodeXY, encodeC, encodeV, encodeW, encodeMK, encodeL, encodeE]⟩
theorem EncodeFits.broadcastGroupReturn : EncodeFits.Statement (.broadcastGroupReturn) := fun _ => ⟨by simp [encode, encodeXY, encodeC, encodeV, encodeW, encodeMK, encodeL, encodeE], by simp [encode, encodeXY, encodeC, encodeV, encodeW, encodeMK, encodeL, encodeE]⟩
theorem EncodeFits.resultLand : EncodeFits.Statement (.resultLand) := fun _ => ⟨by simp [encode, encodeXY, encodeC, encodeV, encodeW, encodeMK, encodeL, encodeE], by simp [encode, encodeXY, encodeC, encodeV, encodeW, encodeMK, encodeL, encodeE]⟩
theorem EncodeFits.storePerform : EncodeFits.Statement (.storePerform) := fun _ => ⟨by simp [encode, encodeXY, encodeC, encodeV, encodeW, encodeMK, encodeL, encodeE], by simp [encode, encodeXY, encodeC, encodeV, encodeW, encodeMK, encodeL, encodeE]⟩
theorem EncodeFits.stallWatchdogExpiry : EncodeFits.Statement (.stallWatchdogExpiry) := fun _ => ⟨by simp [encode, encodeXY, encodeC, encodeV, encodeW, encodeMK, encodeL, encodeE], by simp [encode, encodeXY, encodeC, encodeV, encodeW, encodeMK, encodeL, encodeE]⟩
theorem EncodeFits.asyncTrap : EncodeFits.Statement (.asyncTrap) := fun _ => ⟨by simp [encode, encodeXY, encodeC, encodeV, encodeW, encodeMK, encodeL, encodeE], by simp [encode, encodeXY, encodeC, encodeV, encodeW, encodeMK, encodeL, encodeE]⟩
theorem EncodeFits.sequencerRetire : EncodeFits.Statement (.sequencerRetire) := fun _ => ⟨by simp [encode, encodeXY, encodeC, encodeV, encodeW, encodeMK, encodeL, encodeE], by simp [encode, encodeXY, encodeC, encodeV, encodeW, encodeMK, encodeL, encodeE]⟩
theorem EncodeFits.waitaWake : EncodeFits.Statement (.waitaWake) := fun _ => ⟨by simp [encode, encodeXY, encodeC, encodeV, encodeW, encodeMK, encodeL, encodeE], by simp [encode, encodeXY, encodeC, encodeV, encodeW, encodeMK, encodeL, encodeE]⟩
theorem EncodeFits.waittWake : EncodeFits.Statement (.waittWake) := fun _ => ⟨by simp [encode, encodeXY, encodeC, encodeV, encodeW, encodeMK, encodeL, encodeE], by simp [encode, encodeXY, encodeC, encodeV, encodeW, encodeMK, encodeL, encodeE]⟩
theorem EncodeFits.waittkWake : EncodeFits.Statement (.waittkWake) := fun _ => ⟨by simp [encode, encodeXY, encodeC, encodeV, encodeW, encodeMK, encodeL, encodeE], by simp [encode, encodeXY, encodeC, encodeV, encodeW, encodeMK, encodeL, encodeE]⟩
theorem EncodeFits.acqAttempt : EncodeFits.Statement (.acqAttempt) := fun _ => ⟨by simp [encode, encodeXY, encodeC, encodeV, encodeW, encodeMK, encodeL, encodeE], by simp [encode, encodeXY, encodeC, encodeV, encodeW, encodeMK, encodeL, encodeE]⟩
theorem EncodeFits.windowChunkArrival : EncodeFits.Statement (.windowChunkArrival) := fun _ => ⟨by simp [encode, encodeXY, encodeC, encodeV, encodeW, encodeMK, encodeL, encodeE], by simp [encode, encodeXY, encodeC, encodeV, encodeW, encodeMK, encodeL, encodeE]⟩
theorem EncodeFits.remoteAtomicPerform : EncodeFits.Statement (.remoteAtomicPerform) := fun _ => ⟨by simp [encode, encodeXY, encodeC, encodeV, encodeW, encodeMK, encodeL, encodeE], by simp [encode, encodeXY, encodeC, encodeV, encodeW, encodeMK, encodeL, encodeE]⟩
theorem EncodeFits.relComplete : EncodeFits.Statement (.relComplete) := fun _ => ⟨by simp [encode, encodeXY, encodeC, encodeV, encodeW, encodeMK, encodeL, encodeE], by simp [encode, encodeXY, encodeC, encodeV, encodeW, encodeMK, encodeL, encodeE]⟩
theorem EncodeFits.fenceComplete : EncodeFits.Statement (.fenceComplete) := fun _ => ⟨by simp [encode, encodeXY, encodeC, encodeV, encodeW, encodeMK, encodeL, encodeE], by simp [encode, encodeXY, encodeC, encodeV, encodeW, encodeMK, encodeL, encodeE]⟩
theorem EncodeFits.bidArrival : EncodeFits.Statement (.bidArrival) := fun _ => ⟨by simp [encode, encodeXY, encodeC, encodeV, encodeW, encodeMK, encodeL, encodeE], by simp [encode, encodeXY, encodeC, encodeV, encodeW, encodeMK, encodeL, encodeE]⟩
theorem EncodeFits.callDelivery : EncodeFits.Statement (.callDelivery) := fun _ => ⟨by simp [encode, encodeXY, encodeC, encodeV, encodeW, encodeMK, encodeL, encodeE], by simp [encode, encodeXY, encodeC, encodeV, encodeW, encodeMK, encodeL, encodeE]⟩
theorem EncodeFits.kittyRelease : EncodeFits.Statement (.kittyRelease) := fun _ => ⟨by simp [encode, encodeXY, encodeC, encodeV, encodeW, encodeMK, encodeL, encodeE], by simp [encode, encodeXY, encodeC, encodeV, encodeW, encodeMK, encodeL, encodeE]⟩
theorem EncodeFits.memberDeath : EncodeFits.Statement (.memberDeath) := fun _ => ⟨by simp [encode, encodeXY, encodeC, encodeV, encodeW, encodeMK, encodeL, encodeE], by simp [encode, encodeXY, encodeC, encodeV, encodeW, encodeMK, encodeL, encodeE]⟩
theorem EncodeFits.announceReceiptTimeout : EncodeFits.Statement (.announceReceiptTimeout) := fun _ => ⟨by simp [encode, encodeXY, encodeC, encodeV, encodeW, encodeMK, encodeL, encodeE], by simp [encode, encodeXY, encodeC, encodeV, encodeW, encodeMK, encodeL, encodeE]⟩
theorem EncodeFits.offsetBoundExpiry : EncodeFits.Statement (.offsetBoundExpiry) := fun _ => ⟨by simp [encode, encodeXY, encodeC, encodeV, encodeW, encodeMK, encodeL, encodeE], by simp [encode, encodeXY, encodeC, encodeV, encodeW, encodeMK, encodeL, encodeE]⟩
theorem EncodeFits.holdoverExpiry : EncodeFits.Statement (.holdoverExpiry) := fun _ => ⟨by simp [encode, encodeXY, encodeC, encodeV, encodeW, encodeMK, encodeL, encodeE], by simp [encode, encodeXY, encodeC, encodeV, encodeW, encodeMK, encodeL, encodeE]⟩
theorem EncodeFits.reconstructionPhase : EncodeFits.Statement (.reconstructionPhase) := fun _ => ⟨by simp [encode, encodeXY, encodeC, encodeV, encodeW, encodeMK, encodeL, encodeE], by simp [encode, encodeXY, encodeC, encodeV, encodeW, encodeMK, encodeL, encodeE]⟩
theorem EncodeFits.graphSignalArrival : EncodeFits.Statement (.graphSignalArrival) := fun _ => ⟨by simp [encode, encodeXY, encodeC, encodeV, encodeW, encodeMK, encodeL, encodeE], by simp [encode, encodeXY, encodeC, encodeV, encodeW, encodeMK, encodeL, encodeE]⟩
theorem EncodeFits.signalRetry : EncodeFits.Statement (.signalRetry) := fun _ => ⟨by simp [encode, encodeXY, encodeC, encodeV, encodeW, encodeMK, encodeL, encodeE], by simp [encode, encodeXY, encodeC, encodeV, encodeW, encodeMK, encodeL, encodeE]⟩
theorem EncodeFits.foldContributionArrival : EncodeFits.Statement (.foldContributionArrival) := fun _ => ⟨by simp [encode, encodeXY, encodeC, encodeV, encodeW, encodeMK, encodeL, encodeE], by simp [encode, encodeXY, encodeC, encodeV, encodeW, encodeMK, encodeL, encodeE]⟩
theorem EncodeFits.launchDecision : EncodeFits.Statement (.launchDecision) := fun _ => ⟨by simp [encode, encodeXY, encodeC, encodeV, encodeW, encodeMK, encodeL, encodeE], by simp [encode, encodeXY, encodeC, encodeV, encodeW, encodeMK, encodeL, encodeE]⟩
theorem EncodeFits.launchLoading : EncodeFits.Statement (.launchLoading) := fun _ => ⟨by simp [encode, encodeXY, encodeC, encodeV, encodeW, encodeMK, encodeL, encodeE], by simp [encode, encodeXY, encodeC, encodeV, encodeW, encodeMK, encodeL, encodeE]⟩
theorem EncodeFits.weightStoreWriteLaunch : EncodeFits.Statement (.weightStoreWriteLaunch) := fun _ => ⟨by simp [encode, encodeXY, encodeC, encodeV, encodeW, encodeMK, encodeL, encodeE], by simp [encode, encodeXY, encodeC, encodeV, encodeW, encodeMK, encodeL, encodeE]⟩
theorem EncodeFits.launchComplete : EncodeFits.Statement (.launchComplete) := fun _ => ⟨by simp [encode, encodeXY, encodeC, encodeV, encodeW, encodeMK, encodeL, encodeE], by simp [encode, encodeXY, encodeC, encodeV, encodeW, encodeMK, encodeL, encodeE]⟩
theorem EncodeFits.launchWatchdogExpiry : EncodeFits.Statement (.launchWatchdogExpiry) := fun _ => ⟨by simp [encode, encodeXY, encodeC, encodeV, encodeW, encodeMK, encodeL, encodeE], by simp [encode, encodeXY, encodeC, encodeV, encodeW, encodeMK, encodeL, encodeE]⟩
theorem EncodeFits.taskSave : EncodeFits.Statement (.taskSave) := fun _ => ⟨by simp [encode, encodeXY, encodeC, encodeV, encodeW, encodeMK, encodeL, encodeE], by simp [encode, encodeXY, encodeC, encodeV, encodeW, encodeMK, encodeL, encodeE]⟩
theorem EncodeFits.wholeContextSave : EncodeFits.Statement (.wholeContextSave) := fun _ => ⟨by simp [encode, encodeXY, encodeC, encodeV, encodeW, encodeMK, encodeL, encodeE], by simp [encode, encodeXY, encodeC, encodeV, encodeW, encodeMK, encodeL, encodeE]⟩
theorem EncodeFits.taskRestore : EncodeFits.Statement (.taskRestore) := fun _ => ⟨by simp [encode, encodeXY, encodeC, encodeV, encodeW, encodeMK, encodeL, encodeE], by simp [encode, encodeXY, encodeC, encodeV, encodeW, encodeMK, encodeL, encodeE]⟩
theorem EncodeFits.weightStoreScrubDone : EncodeFits.Statement (.weightStoreScrubDone) := fun _ => ⟨by simp [encode, encodeXY, encodeC, encodeV, encodeW, encodeMK, encodeL, encodeE], by simp [encode, encodeXY, encodeC, encodeV, encodeW, encodeMK, encodeL, encodeE]⟩
theorem EncodeFits.firmwareTakeover : EncodeFits.Statement (.firmwareTakeover) := fun _ => ⟨by simp [encode, encodeXY, encodeC, encodeV, encodeW, encodeMK, encodeL, encodeE], by simp [encode, encodeXY, encodeC, encodeV, encodeW, encodeMK, encodeL, encodeE]⟩
theorem EncodeFits.powerHold : EncodeFits.Statement (.powerHold) := fun _ => ⟨by simp [encode, encodeXY, encodeC, encodeV, encodeW, encodeMK, encodeL, encodeE], by simp [encode, encodeXY, encodeC, encodeV, encodeW, encodeMK, encodeL, encodeE]⟩
theorem EncodeFits.dieOff : EncodeFits.Statement (.dieOff) := fun _ => ⟨by simp [encode, encodeXY, encodeC, encodeV, encodeW, encodeMK, encodeL, encodeE], by simp [encode, encodeXY, encodeC, encodeV, encodeW, encodeMK, encodeL, encodeE]⟩
theorem EncodeFits.moduleStandby : EncodeFits.Statement (.moduleStandby) := fun _ => ⟨by simp [encode, encodeXY, encodeC, encodeV, encodeW, encodeMK, encodeL, encodeE], by simp [encode, encodeXY, encodeC, encodeV, encodeW, encodeMK, encodeL, encodeE]⟩
theorem EncodeFits.syncInterval : EncodeFits.Statement (.syncInterval) := fun _ => ⟨by simp [encode, encodeXY, encodeC, encodeV, encodeW, encodeMK, encodeL, encodeE], by simp [encode, encodeXY, encodeC, encodeV, encodeW, encodeMK, encodeL, encodeE]⟩
theorem EncodeFits.clusterScrubDone : EncodeFits.Statement (.clusterScrubDone) := fun _ => ⟨by simp [encode, encodeXY, encodeC, encodeV, encodeW, encodeMK, encodeL, encodeE], by simp [encode, encodeXY, encodeC, encodeV, encodeW, encodeMK, encodeL, encodeE]⟩
theorem EncodeFits.diePowerUp : EncodeFits.Statement (.diePowerUp) := fun _ => ⟨by simp [encode, encodeXY, encodeC, encodeV, encodeW, encodeMK, encodeL, encodeE], by simp [encode, encodeXY, encodeC, encodeV, encodeW, encodeMK, encodeL, encodeE]⟩
theorem EncodeFits.moduleStandbyExit : EncodeFits.Statement (.moduleStandbyExit) := fun _ => ⟨by simp [encode, encodeXY, encodeC, encodeV, encodeW, encodeMK, encodeL, encodeE], by simp [encode, encodeXY, encodeC, encodeV, encodeW, encodeMK, encodeL, encodeE]⟩
theorem EncodeFits.accessArrival : EncodeFits.Statement (.accessArrival) := fun _ => ⟨by simp [encode, encodeXY, encodeC, encodeV, encodeW, encodeMK, encodeL, encodeE], by simp [encode, encodeXY, encodeC, encodeV, encodeW, encodeMK, encodeL, encodeE]⟩
theorem EncodeFits.graphOperationComplete : EncodeFits.Statement (.graphOperationComplete) := fun _ => ⟨by simp [encode, encodeXY, encodeC, encodeV, encodeW, encodeMK, encodeL, encodeE], by simp [encode, encodeXY, encodeC, encodeV, encodeW, encodeMK, encodeL, encodeE]⟩
theorem EncodeFits.tokgetResult : EncodeFits.Statement (.tokgetResult) := fun _ => ⟨by simp [encode, encodeXY, encodeC, encodeV, encodeW, encodeMK, encodeL, encodeE], by simp [encode, encodeXY, encodeC, encodeV, encodeW, encodeMK, encodeL, encodeE]⟩
theorem EncodeFits.abandonHoldoffExpiry : EncodeFits.Statement (.abandonHoldoffExpiry) := fun _ => ⟨by simp [encode, encodeXY, encodeC, encodeV, encodeW, encodeMK, encodeL, encodeE], by simp [encode, encodeXY, encodeC, encodeV, encodeW, encodeMK, encodeL, encodeE]⟩

end Sys2Proof.Laws
end

