-- ==== Sys2Proof/Laws/Syllables.lean ====
section
/-! SUPPORT. Sys2Proof/Laws/Syllables.lean: what every syllable has in common: it acts under its guard (R59), its control forms under the lead of a
broadcast group (R39), and the forms that end no run-ahead stall in it (R252); and a slot runs a syllable as `exec` does. -/

namespace Sys2Proof.Machine

set_option Elab.async false
set_option linter.unusedSimpArgs false

/-- A core that follows no lead acts under its own guard (R39). -/
theorem control_own {g : Nat} {s : State} {k : State → State} (h : s.focus.follow = none) : controlForm g s k = guarded g s k := by
  rw [controlForm, h]
@[inherit_doc control_own] theorem call_own {g d : Nat} {disp : Int} {s : State} (h : s.focus.follow = none) :
    callForm g d disp s = guarded g s fun s =>
      postS 1 d (BitVec.ofNat 64 (s.focus.addr + s.focus.len)) none (setCtl (.jump (wrap 32 (dispTarget s disp)) 1 false) s) := by
  simp only [callForm, h]
  rfl

/-- Every syllable is a guarded form (R59); a control form is one where the core does not follow a lead (R39). -/
theorem exec_guarded {i : Instr} {g : Nat} (hg : guardOf i = some g) :
    ∃ k, ∀ s, (isControl i = true → s.focus.follow = none) → exec i s = .next (guarded g s k) := by
  cases i
  all_goals first
    | (exfalso; cases hg; done)
    | (obtain rfl := Option.some.inj hg; exact ⟨_, fun s _ => rfl⟩)
    | (obtain rfl := Option.some.inj hg
       first
       | exact ⟨_, fun s h => congrArg Host.Outcome.next (control_own (h rfl))⟩
       | exact ⟨_, fun s h => congrArg Host.Outcome.next (call_own (h rfl))⟩)

/-- A syllable that waits for the call in run-ahead stalls its bundle there (R252). -/
theorem exec_waits {i : Instr} {g : Nat} (hg : guardOf i = some g) (hw : waitsForCall i = true) {s : State} (hr : inRa s = true)
    (hf : isControl i = true → s.focus.follow = none) (h1 : (focusCore s).regs.tagP g = none) (h2 : (focusCore s).regs.getP g = true) :
    exec i s = .next (stallOn false 5 s) := by
  have on : ∀ k, guarded g s k = k s := fun k => by simp [guarded, h1, h2]
  have nr : ∀ k, notInRa s k = stallOn false 5 s := fun k => by simp [notInRa, hr]
  cases i
  all_goals first
    | (exfalso; cases hg; done)
    | (exfalso; cases hw; done)
    | (obtain rfl := Option.some.inj hg
       exact (congrArg Host.Outcome.next (on (fun s => notInRa s _))).trans (congrArg Host.Outcome.next (nr _)))
    | (obtain rfl := Option.some.inj hg
       refine congrArg Host.Outcome.next ?_
       first
       | exact (control_own (hf rfl)).trans ((on _).trans (nr _))
       | (refine (on _).trans ?_; simp [destReady, orStream, hr]))

/-- A slot runs a syllable as `exec` does: every instruction with a guard is one. -/
theorem slotExec_eq {i : Instr} {g : Nat} (hg : guardOf i = some g) (s : State) : slotExec i s = exec i s := by
  cases i
  all_goals first
    | (exfalso; cases hg; done)
    | rfl

end Sys2Proof.Machine
end

