-- ==== Sys2Proof/Tests/Slice0.lean ====
section
/-! SUPPORT. Sys2Proof/Tests/Slice0.lean: the model's own tests: an ill-formed term for each check of WellFormed; words written out from the encodings
of the spec; single steps whose results the spec's text gives; and, for each statement with hypotheses, a state and operands that meet them. -/

namespace Sys2Proof.Tests

set_option Elab.async false
set_option linter.unusedSimpArgs false

open Sys2Proof.Machine Sys2Proof.Claims

/-! ### Small states -/

/-- A view of whole vectors at an address of the register space. -/
def view (base : Nat) : View := ⟨base, 0, true, 1, 128, .f32, 512⟩

/-- A core that runs, with vector views v0 to v2 over the first three lines, a tile view t0 and an accumulator view a0, s2 = 5 and s3 = an address
of the scratchpad. -/
def core : Core :=
  { Core.reset with
    seq := .running, pc := 0x1000000, tvec := 0x1000400
    regs := { Core.reset.regs with s := [(2, 5), (3, 0x1000100)], p := [(2, true)] }
    views := [(0, view 0), (1, view 512), (2, view 1024), (32, ⟨0x1000, 1, true, 1, 3, .bf16, 1⟩), (48, ⟨0x200000, 2, true, 3, 0, .f32, 0⟩)] }

/-- The core with s3 set. -/
def withS3 (v : DWord) : Core := { core with regs := { core.regs with s := [(2, 5), (3, v)] } }

/-- A stream register q1 that reads, with an entry that can be popped, and one that writes. -/
def pattern : Pattern := ⟨0x1000200, 512, [4], [512]⟩
@[inherit_doc pattern] def reading : Core := { core with streams := [(1, some ⟨0, false, pattern, 1, 1, 0, [⟨0, List.replicate 512 0, .ready 0⟩], 0⟩)] }
@[inherit_doc pattern] def writing : Core := { core with streams := [(1, some ⟨0, true, pattern, 0, 0, 0, [], 0⟩)] }

/-- The core as core 0 of the machine in cycle 100, its bundle at 0x1000000. -/
def on (c : Core) : State :=
  { State.reset with cores := [(0, c)], cycle := 100, focus := { Focus.idleAt 0 with addr := 0x1000000, len := 8 } }

/-- The machine with cluster 0 of its own. -/
def inCluster (cl : Cluster) (s : State) : State := { s with clusters := [(0, cl)] }

/-- A cluster with words at 0x1000100. -/
def holding (ws : List Nat) : Cluster := { Cluster.reset with scratch := Mem.write [] 0x1000100 (ws.flatMap (leBytes 4)) }

theorem openView {s : State} {n : Nat} {f : Fmt} (h : (viewOf (focusCore s) 0 n).cfg = true)
    (e : errorIn s s.focus.core (viewOf (focusCore s) 0 n).base (vecBytes f) = none) : SourceOpen s (⟨false, n⟩, f) := ⟨h, e⟩

/-- A run-ahead. -/
def ahead : RunAhead := runAheadOf 0 true 0 0 false 0 0 0

/-- A tag. -/
def tag : Poison := ⟨0x10, 3⟩

/-! ### Witnesses: the hypotheses of the statements can be met -/

theorem witness_ScalarRegisterForms : srForm (.add 0 4 2 3) = some ⟨0, 4, 1, [2, 3], fun xs => BitVec.ofNat 64 ((at_ xs 0).toNat + (at_ xs 1).toNat)⟩ ∧
    Enabled (on core) 0 ∧ fld (2 ^ 26 + 12 * 16 + 2 ^ 8) 31 26 = 1 ∧ fld (2 ^ 26 + 12 * 16 + 2 ^ 8) 7 4 = 12 ∧ fld (2 ^ 26 + 12 * 16 + 2 ^ 8) 13 8 ≠ 0 := by
  refine ⟨rfl, ?_, ?_, ?_, ?_⟩ <;> decide
theorem witness_ScalarImmediateForms : (Instr.movi 2 4 (-1)).wf = true ∧ (immForm (.movi 2 4 (-1))).isSome = true ∧ Enabled (on core) 2 := by decide
theorem witness_CompareForms : (pairForm (.cmp 0 1 .lt 2 3)).isSome = true ∧ Enabled (on core) 0 := by decide
theorem witness_VectorForms : (Instr.vadd 0 .f32 2 0 1).wf = true ∧
    (vecForms (.vadd 0 .f32 2 0 1)).map (fun p => (p.g, p.dst, p.srcs)) = some (0, ⟨false, 2⟩, [(⟨false, 0⟩, .f32), (⟨false, 1⟩, .f32)]) ∧
    Enabled (on core) 0 ∧ DestOpen (on core) ⟨false, 2⟩ ∧ SourceOpen (on core) (⟨false, 0⟩, .f32) ∧ SourceOpen (on core) (⟨false, 1⟩, .f32) :=
  ⟨by decide, rfl, by decide, show (viewOf _ 0 2).cfg = true by decide, openView (by decide) (by decide), openView (by decide) (by decide)⟩
theorem witness_VectorForms_stream : (vecForms (.vmovPop 0 2 1)).map (fun p => (p.g, p.dst, p.srcs)) = some (0, ⟨false, 2⟩, [(⟨true, 1⟩, .n32)]) ∧
    Enabled (on reading) 0 ∧ DestOpen (on reading) ⟨false, 2⟩ ∧ SourceOpen (on reading) (⟨true, 1⟩, .n32) ∧ DestOpen (on writing) ⟨true, 1⟩ :=
  ⟨rfl, by decide, show (viewOf _ 0 2).cfg = true by decide, ⟨List.replicate 512 0, rfl, List.length_replicate⟩, show _ ∧ _ by decide⟩
theorem witness_VectorOtherForms : (vecForms (.vadd 0 .f32 2 0 9)).isSome = true ∧ Enabled (on core) 0 ∧ inRa (on core) = false ∧
    (viewOf (focusCore (on core)) 0 9).cfg = false ∧ (Instr.vcmp 0 .i32 1 .lt 0 1).wf = true ∧ (vcmpParts (.vcmp 0 .i32 1 .lt 0 1)).isSome = true ∧
    SourceOpen (on core) (⟨false, 0⟩, .i32) ∧ SourceOpen (on core) (⟨false, 1⟩, .i32) ∧ (viewOf (focusCore (on core)) 0 0).cfg = true :=
  ⟨rfl, by decide, by decide, by decide, by decide, rfl, openView (by decide) (by decide), openView (by decide) (by decide), by decide⟩
theorem witness_GuardForms : guardOf (.add 1 4 2 3) = some 1 ∧ (focusCore (on core)).regs.tagP 1 = none ∧ (focusCore (on core)).regs.getP 1 = false ∧
    (let c := { core with regs := { core.regs with pTag := [(3, some tag)] } }
     guardOf (.add 3 4 2 3) = some 3 ∧ (focusCore (on c)).regs.tagP 3 = some tag ∧ inRa (on c) = false ∧ inRa (on { c with ra := some ahead }) = true) := by decide
theorem witness_RunAheadStalls : guardOf (.wrsys 0 2 0x034) = some 0 ∧ Enabled (on { core with ra := some ahead }) 0 ∧
    waitsForCall (.wrsys 0 2 0x034) = true ∧ inRa (on { core with ra := some ahead }) = true := by decide
theorem witness_ScalarMemoryForms : Enabled (on core) 0 ∧ Reaches (on core) 3 (addrOf (on core) 3 + 8) 8 8 ownFiles ∧
    errorIn (on core) 0 0x1000108 8 = none ∧ Calm (on core) ∧ ¬ Calm (on { core with ra := some ahead }) ∧
    (let c := { core with regs := { core.regs with s := [(2, 5), (3, 0x100)], sTag := [(4, some tag)] } }
     Reaches (on c) 3 (addrOf (on c) 3) 8 8 ownFiles ∧ tagOfS (on c) 4 = some tag ∧ tagOfS (on c) 2 = none) := by decide
theorem witness_AddressFaults : Enabled (on core) 0 ∧ inRa (on core) = false ∧ tagOfS (on core) 3 = none ∧ tagOfS (on core) 2 = none ∧
    (addrOf (on core) 3 + 4) % 8 ≠ 0 ∧
    (let at_ := fun v => on { core with regs := { core.regs with s := [(3, v)] } }
     2 ^ 32 ≤ (srcS (at_ (2 ^ 32)) 3).toNat ∧ addrOf (at_ 0x7FFFFFF8) 3 < 0x80000000 ∧ 0x40000000 < addrOf (at_ 0x7FFFFFF8) 3 + 8 ∧
     ¬ (0 ≤ addrOf (at_ 0x380000) 3 ∧ ownFiles (addrOf (at_ 0x380000) 3).toNat 8 = true)) ∧
    (let b : Binding := ⟨true, false, false, false, 0, 0x1000000, 512, 0x1000200, 0⟩
     let s := { on { core with regs := { core.regs with s := [(3, 0x1000200)] } } with clusters := [(0, { Cluster.reset with bindings := [b] })] }
     touchesAlt (itsCluster s) (addrOf s 3).toNat 8 = true ∧ addrOf s 3 % 8 = 0) := by decide
theorem witness_SystemRegisters : Enabled (on core) 0 ∧ inRa (on core) = false := by decide
theorem witness_TransferForms : (on core).focus.follow = none ∧ Enabled (on core) 0 ∧ inRa (on core) = false ∧ tagOfS (on core) 3 = none ∧
    isControl (.br 0 4) = true ∧ ({ on core with focus := { (on core).focus with follow := some .endd } } : State).focus.follow = some .endd ∧
    (focusCore (on core)).loops.length < 1 ∧ 1 ≤ (focusCore (on { core with loops := [⟨2, 0, 0⟩] })).loops.length ∧
    (let at_ := fun (v : DWord) => on { core with regs := { core.regs with s := [(3, v)] } }
     2 ^ 32 ≤ (srcS (at_ (2 ^ 32)) 3).toNat ∧ (srcS (at_ (2 ^ 32 - 1)) 3).toNat < 2 ^ 32 ∧ 0 < (srcS (at_ (2 ^ 32 - 1)) 3).toNat ∧ (srcS (at_ 0) 3).toNat = 0) ∧
    ((0x1000000 : Int) + 4 * 1 < 0x1000000 + 8) ∧ ((0x1000000 : Int) + 8 ≤ 0x1000000 + 4 * 2) ∧
    (focusCore (on { core with loops := List.replicate 6 ⟨2, 0, 0⟩ })).loops.length = 6 ∧ inScratch 0x1000008 4 = true ∧
    Mem.read (itsCluster (on core)).codeOld 0x1000008 4 = readScratch (itsCluster (on core)) 0x1000008 4 := by decide
theorem witness_MatrixForms : Enabled (on core) 0 ∧ inRa (on core) = false ∧ SourceOpen (on core) (⟨false, 0⟩, .ln6) ∧
    sourceTag (on core) (⟨false, 0⟩, .ln6) = none ∧ (viewOf (focusCore (on core)) 2 0).cfg = true ∧ (viewOf (focusCore (on core)) 2 0).rows = 3 ∧
    DrainOpen (on core) .bf16 0 1 0 3 ∧ (focusCore (on core)).regs.tagMem (rowAt (on core) 0 3) 512 = none ∧
    (focusCore (on { core with regs := { core.regs with mTag := [(65584, some tag)] } })).regs.tagMem (rowAt (on core) 0 3) 512 = some tag ∧
    (let c := { core with mtol := 256, regs := { core.regs with chk := [(3, ⟨0, 0, 0, 0, false, true⟩)] } }
     let col := Tbl.get .clean (focusCore (on c)).regs.chk (rowAt (on c) 0 3 / 512 - 4096)
     (bit (focusCore (on c)).mtol 8 && !col.unchk) = true ∧ col.taint = true) :=
  ⟨by decide, by decide, openView (by decide) (by decide), by decide, by decide, by decide, by decide, by decide, by decide, by decide⟩
theorem witness_LatchForms : Enabled (on core) 0 ∧ inRa (on core) = false ∧ Reaches (on core) 3 (addrOf (on core) 3) 64 64 descFiles ∧
    ¬ (addrOf (on core) 3).toNat < 0x380000 ∧ errorIn (on core) 0 0x1000100 64 = none ∧
    Reaches (on (withS3 0x1FFFFF)) 3 (addrOf (on (withS3 0x1FFFFF)) 3) 1 1 descFiles ∧ descTag (on core) (addrOf (on core) 3) 64 = none ∧
    descTag (on (withS3 0x1FFFFF)) (addrOf (on (withS3 0x1FFFFF)) 3) 1 = none := by decide
/-- The core with s3 naming bytes of the register space whose granule is tagged. -/
def taggedBlock : Core := { withS3 0x100 with regs := { (withS3 0x100).regs with mTag := [(8, some tag)] } }
theorem witness_tagged_block : let s := on taggedBlock
    Enabled s 0 ∧ Calm s ∧ Reaches s 3 (addrOf s 3) 16 16 descFiles ∧ Reaches s 3 (addrOf s 3) 64 64 descFiles ∧ errorIn s 0 0x100 64 = none ∧
    descTag s (addrOf s 3) 16 = some tag ∧ descTag s (addrOf s 3) 64 = some tag := by decide
theorem witness_Descriptors :
    viewOfWords 1 0x10001000 (0x01030001) 1 0 = some ⟨0x1000, 1, true, 1, 3, .bf16, 1⟩ ∧ viewOfWords 1 0x10001000 0x01030001 0 0 = none ∧
    viewOfWords 0 (0x380000 - 512) 0 0 0 = some ⟨0x37FE00, 0, true, 0, 0, .f32, 0⟩ ∧ viewOfWords 0 0x380000 0 0 0 = none := by decide
theorem witness_ViewForms : Enabled (on core) 0 ∧ inRa (on core) = false ∧ Reaches (on core) 3 (addrOf (on core) 3) 16 16 descFiles ∧
    errorIn (on core) 0 0x1000100 16 = none ∧ descTag (on core) (addrOf (on core) 3) 16 = none ∧
    (let v := viewOf (focusCore (on core)) 0 0; v.cfg = true ∧ v.base + v.extent ≤ 0x380000 ∧ 0 < v.extent) ∧
    (viewOf (focusCore (on core)) 0 31).cfg = false := by decide
theorem witness_VectorMemoryForms : Enabled (on core) 0 ∧ inRa (on core) = false ∧ (viewOf (focusCore (on core)) 0 0).cfg = true ∧
    Reaches (on core) 3 (addrOf (on core) 3 + 32) 512 32 ownFiles ∧ errorIn (on core) 0 0x1000120 512 = none ∧ Calm (on core) ∧
    (viewOf (focusCore (on core)) 0 9).cfg = false ∧ ¬ Calm (on { core with ra := some ahead }) ∧
    Reaches (on (withS3 0x37FE00)) 3 (addrOf (on (withS3 0x37FE00)) 3) 512 32 ownFiles ∧
    (focusCore (on { core with regs := { core.regs with mTag := [(0, some tag)] } })).regs.tagMem 0 512 = some tag ∧
    (let s := fun (o : Nat) (r : Tbl Nat) => { on (withS3 0x40000000) with dies := [(0, { Die.reset with owner := o, refresh := r })], clusters := [(0, { Cluster.reset with part := 2 })] }
     Reaches (s 2 []) 3 (addrOf (s 2 []) 3) 512 32 weightOnly ∧ (getDie (s 2 []) 0).owner ≠ 0 ∧ (getDie (s 2 []) 0).owner = (itsCluster (s 2 [])).part ∧
     (getDie (s 0 []) 0).owner = 0 ∧ (getDie (s 3 []) 0).owner ≠ (itsCluster (s 3 [])).part ∧ errorIn (s 2 []) 0 0x40000000 512 = none ∧
     inRefresh (s 2 []) 0 0x40000000 512 = false ∧ inRefresh (s 2 [(0, 1000)]) 0 0x40000000 512 = true ∧ inRefresh (s 2 [(0, 52)]) 0 0x40000000 512 = false) := by decide
theorem witness_TileSlices : Enabled (on core) 0 ∧ inRa (on core) = false ∧ (viewOf (focusCore (on core)) 0 0).cfg = true ∧
    (viewOf (focusCore (on core)) 1 0).cfg = true ∧ SliceFits (viewOf (focusCore (on core)) 1 0) .bf16 false 1 true ∧
    SliceFits (viewOf (focusCore (on core)) 1 0) .bf16 true 3 true ∧
    (∀ x ∈ (sliceReq (viewOf (focusCore (on core)) 1 0) .bf16 true 3).src, errorIn (on core) 0 x.1 x.2 = none) ∧
    (viewOf (focusCore (on core)) 1 9).cfg = false ∧
    (viewOf (focusCore (on core)) 1 0).base + 32 * (viewOf (focusCore (on core)) 1 0).pitch * (1 + 128) + 512 ≤ 0x380000 := by decide
/-- The words of a pattern of one dimension, at BASE 0x1000200. -/
def patternWords : List Nat := [0x1000200, 15 + 0x10000, 3, 512, 0, 0, 0, 0, 0, 0, 0, 0, 0, 0, 0, 0]
theorem witness_StreamSyllables_bind : let s := inCluster (holding patternWords) (on core)
    Enabled s 0 ∧ Calm s ∧ Reaches s 3 (addrOf s 3) 64 64 descFiles ∧ errorIn s 0 0x1000100 64 = none ∧ descTag s (addrOf s 3) 64 = none ∧
    PatternOk (fun i => (descriptorAt s (addrOf s 3) 64).getD i 0) ∧ scratchOnly 0x1000200 1 = true ∧
    (servedBy (focusCore s) 0 1).length < 4 ∧ unwritten (focusCore s) 1 = false := by decide
theorem witness_StreamSyllables_refuse : ¬ PatternOk (fun i => patternWords.set 14 1 |>.getD i 0) ∧
    ¬ (∀ st ∈ servedBy (focusCore (on writing)) 0 2, st.write = false) ∧ streamOf (focusCore (on core)) 1 = none ∧
    (streamOf (focusCore (on reading)) 1).isSome = true ∧ Calm (on reading) ∧
    unwritten { core with streams := [(1, some ⟨0, true, pattern, 1, 0, 1, [⟨0, [], .filled 0⟩], 0⟩)] } 1 = true := by decide
theorem witness_StreamSyllables_push : Enabled (on writing) 0 ∧ DestOpen (on writing) ⟨true, 1⟩ ∧ (viewOf (focusCore (on writing)) 0 9).cfg = false ∧
    (viewOf (focusCore (on writing)) 0 0).cfg = true ∧ errorIn (on writing) 0 0 512 = none ∧ (focusCore (on writing)).regs.tagMem 0 512 = none ∧
    (focusCore (on { writing with regs := { core.regs with mTag := [(0, some tag)] } })).regs.tagMem 0 512 = some tag :=
  ⟨by decide, show _ ∧ _ by decide, by decide, by decide, by decide, by decide, by decide⟩
theorem witness_AtomicForms : (amoParts (.amoCas 0 .i32 4 3 2 5 true)).isSome = true ∧ Enabled (on core) 0 ∧ Calm (on core) ∧
    firstTag [tagOfS (on core) 3, tagOfS (on core) 2, tagOfS (on core) 5] = none ∧ Reaches (on core) 3 (addrOf (on core) 3) 8 8 scratchOnly ∧
    errorIn (on core) 0 0x1000100 8 = none ∧
    firstTag [tagOfS (on { core with regs := { core.regs with sTag := [(3, some tag)] } }) 3, none] = some tag := by decide
/-- A copy of 32 bytes of the scratchpad from 0x1000200 to 0x1000400, and a `gemv` of one segment and one row. -/
def copyWords : List Nat := [0x200000, 31, 0, 0, 0x1000200, 0, 0x1000400, 0] ++ List.replicate 24 0
@[inherit_doc copyWords] def gemvWords : List Nat := [0, 0, 0x2000, 0, 96, 0, 0, 4, 0x1000200, 0x1000400, 0x1000600, 0, 0, 0, 0, 0]
theorem witness_CopyAndBindingForms : let s := inCluster (holding copyWords) (on core)
    Enabled s 0 ∧ QueueOpen s ∧ Reaches s 3 (addrOf s 3) 128 128 descFiles ∧ errorIn s 0 0x1000100 128 = none ∧
    descTag s (addrOf s 3) 128 = none ∧ copyFaults (itsCluster s) (descriptorAt s (addrOf s 3) 128) = [] ∧
    ¬ 0x40000000 ≤ (descriptorAt s (addrOf s 3) 128).getD 4 0 + 2 ^ 32 * (descriptorAt s (addrOf s 3) 128).getD 5 0 ∧ Reaches s 3 (addrOf s 3) 8 8 scratchOnly ∧ tagOfS s 2 = none ∧ inRa s = false ∧
    bindingAt s 0 = none ∧ Calm s := by decide
theorem witness_CopyAndBindingForms_gemv : let s := inCluster (holding gemvWords) (on core)
    Reaches s 3 (addrOf s 3) 64 64 descFiles ∧ errorIn s 0 0x1000100 64 = none ∧ descTag s (addrOf s 3) 64 = none ∧ gemvFaults (itsCluster s) (descriptorAt s (addrOf s 3) 64) = [] := by decide
/-- A buffer pair, and an exclusive bound range. -/
def pairBinding : Binding := ⟨true, false, false, false, 0, 0x1000000, 512, 0x1000200, 0⟩
@[inherit_doc pairBinding] def lockBinding : Binding := ⟨false, false, true, false, 0, 0x1000000, 512, 0, 0x1000800⟩
theorem witness_CopyAndBindingForms_bind : let s := inCluster { Cluster.reset with bindings := [pairBinding, lockBinding] } (on core)
    bindingAt s 0 = some pairBinding ∧ bindingAt s 1 = some lockBinding ∧ lockBinding.sync ≠ 0 ∧ 1 ∉ (focusCore s).heldBind ∧
    holds (focusCore s) 1 = false ∧ Calm s ∧ holds { core with heldBind := [1] } 1 = true ∧ ¬ Calm (on { core with ra := some ahead }) := by decide
theorem witness_WaitForms : Enabled (on core) 0 ∧ Calm (on core) ∧ Reaches (on core) 3 (addrOf (on core) 3) 8 8 scratchOnly ∧ tagOfS (on core) 2 = none ∧
    firstTag [tagOfS (on { core with regs := { core.regs with sTag := [(3, some tag)] } }) 3, none] = some tag := by decide
theorem witness_GraphForms : Enabled (on core) 0 ∧ Calm (on core) ∧ runs (on core) 0 1 = false ∧ Reaches (on core) 3 (addrOf (on core) 3) 64 64 descFiles ∧
    Reaches (on core) 3 (addrOf (on core) 3) 32 32 descFiles ∧ Tbl.get none (itsCluster (on core)).graphs 1 = none ∧ tagOfS (on core) 3 = none := by decide
/-- Job 1 on module 0, with one declared channel whose trick gathers. -/
def jobOne : Job := { id := 1, members := [0], roots := [(0, some 0)], part := [(0, 2)], decls := [⟨0, 0, 0, false, 0, 0, 100⟩],
                      chans := [(0, { Channel.fresh with gather := true })], dead := [] }
/-- A cluster that runs a launch of job 1 for partition 2. -/
def running : Cluster := { Cluster.reset with ctx := { Ctx.none with job := 1, uid := 1, nmembers := 1, nranks := 8, ncl := 1 }, task := .running, part := 2 }
/-- Core 0 enrolled on channel 0, in job 1. -/
def enrolled : State := { inCluster running (on { core with chans := [(0, { Chan.zero with enr := true })] }) with jobs := [jobOne] }
theorem witness_AgreementSyllables : (bidParts (.agreeMin 0 0 2)).isSome = true ∧ Enabled enrolled 0 ∧ inRa enrolled = false ∧ tagOfS enrolled 2 = none ∧
    getJob enrolled (itsCluster enrolled).ctx.job = some jobOne ∧ (declOf jobOne 0).isSome = true ∧ declOf jobOne 7 = none ∧
    (let x := chanOf (focusCore enrolled) 0; x.failed = false ∧ x.enr = true) ∧ (channelOf jobOne 0).failed = false ∧
    (channelOf jobOne 0).gather = true ∧ getJob (on core) (itsCluster (on core)).ctx.job = none := by decide
theorem witness_AgreementSyllables_check : Enabled (on core) 0 ∧ inRa (on core) = false ∧ tagOfS (on core) 2 = none ∧
    (viewOf (focusCore (on core)) 0 9).cfg = false ∧ (let v := viewOf (focusCore (on core)) 1 0; v.cfg = true ∧ (focusCore (on core)).regs.tagMem v.base v.extent = none) ∧
    (let s := on { core with regs := { core.regs with sTag := [(4, some tag)], mTag := [(0, some tag)] } }
     tagOfS s 4 = some tag ∧ tag.cause ≠ 0x30 ∧ tag.cause ≠ 0x31 ∧
     (let v := viewOf (focusCore s) 0 0; (focusCore s).regs.tagMem v.base v.extent = some tag)) := by decide
/-- Window 0 of module 0, open for job 1 on cluster 0. -/
def window : Window :=
  { job := 1, cluster := 0, pol := 0, nopen := 1, ncache := 1, z := 1, depth := 2, origin := 0, period := 1000, guard := 10, cbase := 0,
    sbase := 0, sinkva := 0, h0 := 0, h := 3, rel := none, slots := [], missing := [], pres := 0, subst := 0, miss := 0, late := 0, early := 0, dup := 0, stale := 0,
    badst := 0, ovr := 0, maps := [] }
/-- A generator of job 1. -/
def tick : Tick := { Tick.reset with en := true, part := 2, job := 1, period := 1000, k := 1 }
/-- Module 0 with them. -/
def timed : State := { enrolled with mods := [(0, { Module.reset with windows := [(0, some window)], ticks := [(0, tick)] })] }
theorem witness_TimeAndCoverageForms_time : Enabled timed 0 ∧ inRa timed = false ∧ tagOfS timed 3 = none ∧ timeHere timed < (srcS timed 3).toNat ∧
    (srcS timed 0).toNat ≤ timeHere timed ∧ (tickAt timed 0 0).en = true ∧ (tickAt timed 0 0).part = (itsCluster timed).part ∧
    (tickAt timed 0 0).job = (itsCluster timed).ctx.job ∧ (tickAt timed 0 1).en = false ∧ (tickAt timed 0 0).last = none ∧
    (∃ f, ({ tick with last := some 1 } : Tick).last = some f ∧ timeHere timed < f) := by
  refine ⟨?_, ?_, ?_, ?_, ?_, ?_, ?_, ?_, ?_, ?_, 1, ?_⟩ <;> decide
theorem witness_TimeAndCoverageForms_token : windowOpen timed 0 window ∧ (∀ x, ¬ windowOpen timed 1 x) ∧
    (let n := fun v : Int => (srcS { timed with cores := [(0, withS3 (BitVec.ofInt 64 v))] } 3).toInt
     n (-1) < window.h0 ∧ window.h0 ≤ n 0 ∧ n 0 < window.h - window.depth ∧ window.h - window.depth ≤ n 1 ∧
     n 3 ≤ window.h + window.nopen - 1 ∧ window.h + window.nopen - 1 < n 4) :=
  ⟨by decide, fun x h => (by simpa using (show (none : Option Window) = some x from h.1)), by decide⟩
/-- A coverage descriptor of a grid of 2 by 1 blocks. -/
def cover : CvDesc := ⟨1, 0, 0, 0, .f32, true, false, 0, 0, 0⟩
theorem witness_TimeAndCoverageForms_coverage :
    (let s := inCluster { running with cv := some cover } (on core)
     Enabled s 0 ∧ (itsCluster s).cv = some cover ∧ (shareEntry cover 0 8 0 0).isSome = true ∧ shareEntry cover 0 8 2 0 = none) ∧
    inRa (on core) = false ∧ (itsCluster (on core)).cv = none ∧ tagOfS (on core) 3 = none ∧ (itsCluster (on core)).ctx.cvctl = none ∧
    (let s := inCluster { running with ctx := { running.ctx with cvctl := some 0 } } (on (withS3 0x13F800000))
     (itsCluster s).ctx.cvctl = some 0 ∧ (unpack .f32 ((srcS s 3).toNat % 2 ^ 32)).finite = true ∧
     (unpack .f32 ((srcS s 3).toNat % 2 ^ 32)).lt (.fin false 0 0) = false ∧ (srcS s 3).toNat / 2 ^ 32 ≠ 0) := by decide
theorem witness_SystemForms : Enabled (on core) 0 ∧ Calm (on core) ∧ (focusCore (on core)).handler = false ∧
    (focusCore (on { core with handler := true })).handler = true ∧ tagOfS (on core) 3 = none ∧
    (focusCore (on { core with regions := List.replicate 7 (0, 0) })).regions.length = 7 ∧ (focusCore (on core)).regions = [] ∧
    scratchOnly (srcS (on core) 3).toNat 4 = true ∧ (srcS (on core) 3).toNat % 4 = 0 ∧ (srcS (on core) 2).toNat % 4 ≠ 0 ∧
    Reaches (on core) 3 (addrOf (on core) 3) 64 64 descFiles ∧ (srcS (on core) 3).toNat < 2 ^ 38 ∧ errorIn (on core) 0 0x1000100 64 = none ∧
    (Tbl.get .reset (getMod (on core) 0).queues 0).part = (itsCluster (on core)).part ∧
    devicePackets (Tbl.get .reset (getMod (on core) 0).queues 0) < 8 ∧
    8 ≤ devicePackets { Queue.reset with pkts := List.replicate 8 ⟨[], true, false⟩ } ∧ touchesAlt (itsCluster (on core)) 0x1000100 64 = false ∧
    ({ (on core).focus with land := some true, loopBottom := true } : Focus).land = some true ∧ (itsCluster (on core)).preempt = false ∧
    (let l : Launch := ⟨2, 0, [], [], .ready, 0, [], 0, 0, none, 0, 0, 0, 0, 0, 0, 0, 0, false, false⟩
     let s := { inCluster { running with part := 0 } (on core) with mods := [(0, { Module.reset with launches := [l] })] }
     l.state = .ready ∧ (itsCluster s).task = .running ∧ (itsCluster s).preempt = false ∧ (itsCluster s).holdoff ≤ timeOf s 0) := by decide
/-- Module 0 as a function of the module after reset, with job 1 of partition 2 on it. -/
def withMod (f : Module → Module) : State := { timed with mods := [(0, f { Module.reset with windows := [(0, some window)], ticks := [(0, tick)] })] }
/-- Module 0 with PTP on and its time unit set. -/
def ptp (f : TimeUnit → TimeUnit) : State := withMod fun x => { x with time := f { x.time with tmcfg := 3, tmport := 1, now := 19 * 10 ^ 9 * 10 ^ 12 } }

/-- An Announce of grandmaster 7 at port 0. -/
def announced : Announce := ⟨0, 128, 0, 128, 7, 0, 7, none⟩
theorem witness_TimeUnitEvents_announce : let s := fun c => ptp fun t => { t with tmcfg := c, heard := [(0, (10 ^ 12 - 10 ^ 9, none))], records := [(0, announced)] }
    PortOn (s 1) 0 0 ∧ announced.domain = (unitOf (s 1) 0).tmcfg / 2 ^ 8 % 256 ∧ announced.steps < 255 ∧ announced.from_ ≠ some 0 ∧
    Tbl.set (unitOf (s 1) 0).records 0 announced = [(0, announced)] ∧ (Tbl.get (0, none) (unitOf (s 1) 0).heard 0).1 ≤ nowOf (s 1) 0 ∧
    nowOf (s 1) 0 ≤ (Tbl.get (0, none) (unitOf (s 1) 0).heard 0).1 + 8 * 10 ^ 9 ∧ (unitOf (s 1) 0).tmcfg / 2 % 2 ≠ 1 ∧ PortOn (s 3) 0 0 ∧ (unitOf (s 3) 0).tmcfg / 2 % 2 = 1 ∧
    (unitOf (s 3) 0).tmcfg / 2 ^ 24 % 256 < announced.prio1 ∧ PortOn (s 7) 0 32 ∧ Beats announced { announced with prio1 := 129, gm := 8 } ∧
    ¬ Beats { announced with prio1 := 129, gm := 8 } announced ∧ Beats announced { announced with steps := 1 } ∧ ¬ Beats { announced with steps := 1 } announced ∧
    Tbl.get (0, none) (ptp id |> unitOf <| 0).heard 0 = (0, none) := by decide
/-- A grandmaster-capable module of priority 0 beats an Announce of one step, whatever its identity. -/
theorem witness_TimeUnitEvents_leads (q g : Nat) : Beats ⟨0, 0, q, 128, g, 0, g, some 0⟩ { announced with steps := 1 } := by
  unfold Beats; split
  · exact .inl Nat.zero_lt_one
  · exact .inl (show 0 < 128 from Nat.zero_lt_succ _)
theorem witness_TimeUnitEvents_sync : let s := fun d => ptp fun t => { t with master := .grandmaster, disc := d, mport := 0 }
    PortOn (s .acquiring) 0 0 ∧ (unitOf (s .acquiring) 0).master = .grandmaster ∧ (unitOf (s .acquiring) 0).mport = 0 ∧ (unitOf (s .acquiring) 0).disc = .acquiring ∧
    (unitOf (s .locked) 0).disc = .locked ∧ (unitOf (s .locked) 0).now = (unitOf (s .locked) 0).now ∧ grandRate 8 (s .locked) 0 = 0 := by decide
theorem witness_TimeUnitEvents : (let s := ptp fun t => { t with master := .grandmaster, disc := .acquiring }
     ptpOn s 0 ∧ s.place = 0 ∧ (unitOf s 0).master ≠ .none ∧ (unitOf s 0).master ≠ .self ∧ (unitOf s 0).disc = .acquiring) ∧
    (let s := ptp fun t => { t with master := .grandmaster, disc := .locked, offset := 8 }
     s.place = 0 ∧ (unitOf s 0).disc = .locked ∧ (unitOf s 0).master ≠ .self ∧ 20 * 10 ^ 9 ≤ ((unitOf s 0).offset + 2) * 10 ^ 9 + 2 * (nowOf s 0 - (unitOf s 0).lastSync)) ∧
    (let s := ptp fun t => { t with disc := .holdover }
     (unitOf s 0).disc = .holdover ∧ (unitOf s 0).heldSince + (unitOf s 0).tmcfg / 2 ^ 40 % 2 ^ 16 * 10 ^ 9 ≤ nowOf s 0) ∧
    (let s := ptp fun t => { t with master := .self, disc := .locked }
     ptpOn s 0 ∧ (unitOf s 0).master = .self ∧ (unitOf s 0).lastSent + 10 ^ 9 / 2 ^ ((unitOf s 0).tmcfg / 2 ^ 16 % 8) ≤ nowOf s 0 ∧ (unitOf s 0).disc = .locked) := by decide

/-- The words of a generator of job 1, partition 2, KIND 10, period 1,000 ns. -/
def tickWords : List Nat := [5 + 2 * 2 ^ 16 + 2 ^ 32, 1000, 0, 0, 0]
/-- Module time 1,500 ns. -/
def at1500 (f : Tick → Tick) : State := withMod fun x => { x with time := { x.time with now := 19 * 10 ^ 9 * 1500 }, ticks := [(0, f tick)], fwPause := 0 }
theorem witness_TickEvents_set : Serving (at1500 id) 0 ∧ Allowed 2 2 ∧ ¬ Allowed 3 2 ∧ tickWords.getD 0 0 / 2 ^ 16 % 256 = 2 ∧ tickWords.getD 0 0 % 2 = 1 ∧
    tickWords.getD 0 0 / 2 % 4 ≠ 3 ∧ 1000 ≤ tickWords.getD 1 0 % 2 ^ 32 ∧ (tickAt (at1500 id) 0 1).part = 0 ∧ (tickAt (at1500 id) 0 1).en = false := by decide
theorem witness_TickEvents_fire : let s := at1500 fun t => { t with kind := 2 }
    let t := tickAt s 0 0
    t.en = true ∧ ¬ Halted s 0 t.job ∧ t.phase + t.k * t.period ≤ nowOf s 0 ∧ nowOf s 0 < t.phase + (t.k + 1) * t.period ∧ t.gate = false ∧
      (getCore s 0).wait ≠ .waittk 0 0 none ∧ s.cores.map Prod.fst = [0] ∧ t.kind = 2 := by decide
theorem witness_TickEvents_fire_word : let s := at1500 fun t => { t with kind := 0, waddr := 0x1000000, wcl := 95 }
    let t := tickAt s 0 0
    t.kind = 0 ∧ t.waddr % 8 = 0 ∧ scratchOnly t.waddr 8 = true ∧ t.wcl < 96 ∧ t.phase + t.k * t.period ≤ nowOf s 0 ∧ t.gate = false := by decide
theorem witness_TickEvents_wake : let s := { at1500 (fun t => { t with kind := 2 }) with cores := [(0, { core with wait := .waittk 0 999 none })] }
    0 ∈ s.cores.map Prod.fst ∧ (getCore s 0).wait = .waittk 0 999 none ∧ 999 < (tickAt s 0 0).phase + (tickAt s 0 0).k * (tickAt s 0 0).period := by decide

/-- A window of one open slot, two cached slots, payloads of 32 bytes, depth 16, period 1,000 ns, and its sink page's tables in HBM. -/
def winWords : List Nat := [0x01000000, 0x40000, 0, 0, 1000, 10, 0x1000000, 0x1000800, 0, 0, 0, 0, 0, 0, 0, 0]
@[inherit_doc winWords] def tables : Mem :=
  Mem.write (Mem.write (Mem.write (Mem.write [] 0x10000 (leBytes 8 0x11001)) 0x11000 (leBytes 8 0x12001)) 0x12000 (leBytes 8 0x13001)) 0x13000 (leBytes 8 0x20000F)
@[inherit_doc winWords] def paged : State :=
  { withMod (fun x => { x with hbm := tables, frames := [(32, ⟨2, 0, false⟩)], windows := [], fwPause := 0 }) with jobs := [{ jobOne with roots := [(0, some 0x10000)] }] }
theorem witness_TokenWindowEvents_open : Serving paged 0 ∧ jobOn paged 0 1 = true ∧ Allowed 2 (partOfJob paged 0 1) ∧
    (getCluster paged 0).part = partOfJob paged 0 1 ∧ windowBad winWords = false ∧ windowAt paged 0 (winWords.getD 0 0 % 64) = none ∧
    windowBad (winWords.set 4 999) = true ∧ windowBad (winWords.set 4 1000) = false := by decide
theorem witness_TokenWindowEvents_sink : sinkMaps paged 0 1 2 1 0 [] = some [⟨true, 0, 2097152, 0, 0x200000, 1, 0⟩] ∧
    ∀ g ∈ sinkFrames [⟨true, 0, 2097152, 0, 0x200000, 1, 0⟩], (frameAt paged g.1 g.2).pin < 65535 := by decide +kernel
theorem witness_TokenWindowEvents_shut : Serving timed 0 ∧ windowAt timed 0 1 = none ∧ windowAt timed 0 0 = some window ∧ Allowed 2 (partOfJob timed 0 window.job) := by decide
/-- A token of 32 bytes for window 0, stamped with a time in ns. -/
def token (t : Nat) : Token :=
  { dmember := 0, job := 1, win := 0, zlen := 32, rsv := 0, sec := 0, nsec := t, payload := List.replicate 32 7 }
/-- Window 0 with payloads of 32 bytes, its head slot 3 open and free, slot 2 closed. -/
def receiving (st : SlotStatus) : State :=
  withMod fun x => { x with windows := [(0, some { window with z := 32, slots := [⟨2, true, st, none⟩, ⟨3, true, .open_, none⟩] })] }
theorem witness_TokenWindowEvents_token : let s := receiving .missing
    let w := { window with z := 32, slots := [⟨2, true, .missing, none⟩, ⟨3, true, .open_, none⟩] }
    getJob s (token 0).job = some jobOne ∧ memberOf jobOne 0 = (token 0).dmember ∧ ¬ Halted s 0 1 ∧ windowAt s 0 (token 0).win = some w ∧ w.job = 1 ∧
    (token 0).zlen = w.z ∧ (token 0).rsv = 0 ∧ (token 0).payload.length = w.z ∧ (token (10 ^ 9)).nsec = 10 ^ 9 ∧
    (let x := fun t : Nat => (((t : Nat) : Int) - w.origin) / w.period
     w.h + w.nopen - 1 < x 4000 ∧ w.h ≤ x 3999 ∧ x 3999 ≤ w.h + w.nopen - 1 ∧ (w.slot 3).isSome = true ∧ x 2999 < w.h ∧ max w.h0 (w.h - w.depth) ≤ x 2999 ∧
     x 999 < max w.h0 (w.h - w.depth) ∧ (w.slot 2).isSome = true) ∧ 0 < w.nopen := by decide
theorem witness_TokenWindowEvents_close : let s := { receiving .missing with mods := [(0, { getMod (receiving .missing) 0 with time := { (getMod (receiving .missing) 0).time with now := 19 * 10 ^ 9 * 4010 } })] }
    let w := { window with z := 32, slots := [⟨2, true, .missing, none⟩, ⟨3, true, .open_, none⟩] }
    windowAt s 0 0 = some w ∧ closesAt w w.h ≤ nowOf s 0 ∧ w.slot w.h = some ⟨3, true, .open_, none⟩ ∧ 0 < w.depth ∧ 0 < w.nopen ∧ w.pol < 3 := by decide

theorem witness_CoreEvents : (coreHere (on core)).stepT = none ∧ (coreHere (on core)).wait = .none ∧ Unswapped (on core) 0 ∧
    (coreHere (on { core with pend := [⟨100, 99, 1, false, .sreg 4 7 none⟩] })).pend = [⟨100, 99, 1, false, .sreg 4 7 none⟩] ∧
    (coreHere (on { core with stores := [⟨100, 97, 1, .bytes 0x1000000 [1]⟩] })).stores = [⟨100, 97, 1, .bytes 0x1000000 [1]⟩] ∧
    (let c := { core with stores := [⟨100, 97, 1, .amo 0 false 0x1000000 4 1 0 4⟩], pend := [⟨105, 97, 1, false, .amoS 4 none⟩] }
     (coreHere (on c)).stores = [⟨100, 97, 1, .amo 0 false 0x1000000 4 1 0 4⟩] ∧ (coreHere (on c)).pend = [⟨97 + 8, 97, 1, false, .amoS 4 none⟩]) ∧
    (coreHere (on core)).wait = .none := by decide
theorem witness_CoreEvents_unit : let st : Stream := ⟨0, false, pattern, 1, 1, 0, [⟨0, List.replicate 512 0, .ready 0⟩], 0⟩
    Going (on reading) 0 ∧ chooseReg (unitRegs (getCore (on reading) 0) 0) = some (1, st) ∧ streamOf (getCore (on reading) 0) 1 = some st ∧
      (st.slots.filter (SEntry.occupied 100)).length < 4 ∧ entryOutside (on reading) 0 st.pat st.pos = false ∧
      errorIn (on reading) 0 (st.pat.addr st.pos).toNat st.pat.len = none := ⟨by decide, rfl, rfl, by decide, by decide, by decide⟩
theorem witness_CoreEvents_full : let e : SEntry := ⟨0, [], .ready 0⟩
    let st : Stream := ⟨0, false, { pattern with cnt := [8] }, 4, 4, 0, [e, e, e, e], 0⟩
    let c := { core with streams := [(1, some st)] }
    chooseReg (unitRegs c 0) = some (1, st) ∧ 4 ≤ (st.slots.filter (SEntry.occupied 100)).length := by decide
theorem witness_CoreEvents_write : let st : Stream := ⟨0, true, pattern, 1, 0, 1, [⟨0, List.replicate 512 0, .filled 97⟩], 0⟩
    let c := { core with streams := [(1, some st)] }
    chooseReg (unitRegs c 0) = some (1, st) ∧ (st.slots.find? SEntry.live).map (fun e => e.st) = some (.filled 97) ∧ Unswapped (on c) 0 := ⟨rfl, by decide, by decide⟩
theorem witness_CoreEvents_kitty : let s := on { core with kitty := [.pub 0, .rel 1], kittyFrom := 100 }
    (coreHere s).kitty = .pub 0 :: [.rel 1] ∧ (coreHere s).kittyFrom ≤ s.cycle ∧ (coreHere s).ra = none ∧ Going s s.place ∧ (getCluster s 0).pubs = [] ∧
      (∀ x ∈ [(0x1000000, [1]), (0x1000100, [2])], 0x380000 < x.1 + x.2.length) ∧ (∀ x ∈ [(0x37FFFF, [1])], x.1 + x.2.length ≤ 0x380000) ∧
      queued (getCluster s 0) 0 < 16 := by decide
theorem witness_CoreEvents_rel : let s := inCluster { Cluster.reset with bindings := [pairBinding, lockBinding] } (on { core with rels := [⟨1, 99, some 100⟩] })
    (coreHere s).rels = [⟨1, 99, some 100⟩] ∧ s.cycle = 100 ∧ (getCluster s 0).bindings[1]? = some lockBinding ∧ lockBinding.virt = false ∧ (coreHere s).wait = .none ∧
      storesBefore (coreHere s) 99 = false ∧ requestsBefore s 0 99 lockBinding = false ∧ Unswapped s 0 ∧ (99 : Nat) < 100 := by decide
theorem witness_WakeEvents : let s := fun w : Wait => inCluster { Cluster.reset with bindings := [lockBinding] } (on { core with wait := w })
    Going (s .none) 0 ∧ leNat (readScratch (itsScratch (s .none)) 0x1000000 8) = 0 ∧ (coreHere (s (.waita 0x1000000 8 .ge 0 0 100 none))).wait = .waita 0x1000000 8 .ge 0 0 100 none ∧
    0 ≤ dieTime (s .none) 0 ∧ dieTime (s .none) 0 < 100 ∧ (coreHere (s (.waitt 0 none))).wait = .waitt 0 none ∧ (coreHere (s (.waittk 0 0 (some 100)))).wait = .waittk 0 0 (some 100) ∧
    (coreHere (s (.acq 0 (some 100)))).wait = .acq 0 (some 100) ∧ (getCluster (s .none) 0).bindings[0]? = some lockBinding ∧ lockBinding.virt = false ∧
    Unswapped (s .none) 0 ∧ syncWord (s .none) 0 lockBinding / 2 ^ 32 % 2 ^ 19 = 0 ∧ fenceDone (s (.fence 0 99)) 0 0 99 = true ∧
    (coreHere (s (.tokget 0 4 3 7 99 100 300 0 none [] []))).wait = .tokget 0 4 3 7 99 100 300 0 none [] [] ∧ (99 : Nat) < (s .none).cycle := by decide
theorem witness_WakeEvents_sample : let s := { timed with cores := [(0, { core with wait := .tokget 0 4 3 7 100 101 300 0 none [] [] })] }
    Going s s.place ∧ (coreHere s).wait = .tokget 0 4 3 7 100 101 300 0 none [] [] ∧ s.cycle = 100 ∧ (getCluster s 0).due = [] ∧ windowFor s 0 0 = some window ∧
    window.h - window.depth ≤ 3 := by decide
theorem witness_WakeEvents_held : let s := inCluster { holding [1, 5] with bindings := [{ lockBinding with sync := 0x1000100 }] } (on { core with wait := .acq 0 (some 100) })
    syncWord s 0 { lockBinding with sync := 0x1000100 } / 2 ^ 32 % 2 ^ 19 ≠ 0 := by decide
theorem witness_TrapAndUnwind : TrapOpen (on core) 0 ∧ (getCore (on { core with handler := true }) 0).handler = true ∧ (getCore (on { core with tvec := 0 }) 0).tvec = 0 ∧
    (getCore (on { core with regions := [(0x1000800, 0)] }) 0).regions = [(0x1000800, 0)] ∧ (getCore (on core) 0).handler = false ∧
    (getCore (on core) 0).regions = [] := by decide
theorem witness_SequencerEvents : let wd := on { core with wd := 2 ^ 26 }
    let asy := on { core with async := [(0x21, 0)] }
    2 ^ (getCluster wd 0).ctx.wdog ≤ (coreHere wd).wd ∧ (coreHere wd).ra = none ∧ TrapOpen wd 0 ∧ (coreHere asy).async = [(0x21, 0)] ∧ (coreHere asy).seq = .running ∧
    (coreHere asy).wait = .none ∧ (coreHere asy).nextIssue ≤ asy.cycle ∧ (coreHere asy).ra = none ∧ (coreHere asy).replay = none ∧ Going asy 0 ∧ TrapOpen asy 0 ∧
    (let c := coreHere (on { core with seq := .ending }); c.seq = .ending ∧ c.pend = [] ∧ c.stores = [] ∧ c.kitty = [] ∧ c.rels = [] ∧ c.wait.awaits = false) ∧
    (∀ x ∈ reading.streams, ∀ st, x.2 = some st → st.write = false) ∧ (∀ x ∈ writing.streams, ∀ st, x.2 = some st → ∀ e ∈ st.slots, e.live = false) ∧
    (coreHere (on { core with seq := .ending, rels := [⟨1, 99, none⟩] })).rels ≠ [] ∧
    (let s := inCluster { Cluster.reset with stopped := true } (on core); (getCluster s 0).stopped = true ∧ ∀ r, r < 8 → mayReturn s (8 * 0 + r) = true) ∧
    mayReturn (on { core with handler := true }) 0 = false ∧ (getCluster (on core) 0).stopped = false := by
  simp only [reading, writing, List.mem_singleton, forall_eq, Option.some.injEq, forall_eq', List.not_mem_nil, false_implies, implies_true, true_and]
  decide
/-- The machine of job 1 with items in flight, numbered 0. -/
def flying (k : FKind) (s : State) : State := { s with flights := [⟨0, 99, false, k⟩] }
theorem arrived (k : FKind) (s : State) (h : s.place = 0) (c : s.cycle = 100) : Arrived (flying k s) k := ⟨99, false, by simp [flying, h], by simp [flying, c]⟩
/-- Job 1 with a channel on which core 0 has a place. -/
def jobTwo (late : Nat) (gather : Bool) : Job :=
  { jobOne with decls := [⟨0, 0, late, false, 1, 0, 100⟩]
                chans := [(0, { Channel.fresh with gather := gather, t0 := 0, places := [⟨0, 0, false, 0, 1, false, some 0⟩] })] }
/-- Job 1 at module time 1,000 ns. -/
def dealt (late : Nat) (gather : Bool) : State := { withMod (fun x => { x with time := { x.time with now := 19 * 10 ^ 9 * 1000 } }) with jobs := [jobTwo late gather] }

theorem witness_AgreementEvents_bid : let s := flying (.bid 1 0 0 1 false 0 0 1 900) (dealt 0 false)
    Arrived s (.bid 1 0 0 1 false 0 0 1 900) ∧ getJob s 1 = some (jobTwo 0 false) ∧ (declOf (jobTwo 0 false) 0).isSome = true ∧
    ¬ Halted s (rootModule (jobTwo 0 false)) 1 ∧ (channelOf (jobTwo 0 false) 0).failed = false ∧ memberOf (jobTwo 0 false) 0 ∉ (jobTwo 0 false).dead ∧
    (∃ p ∈ (channelOf (jobTwo 0 false) 0).places, p.core = 0 ∧ p.uid = 1 ∧ p.finished = false) ∧ (channelOf (jobTwo 0 false) 0).n = 0 ∧
    (channelOf (jobTwo 0 false) 0).gather = false :=
  ⟨arrived _ _ rfl rfl, rfl, rfl, by decide, by decide, by decide, by decide, by decide, by decide⟩
theorem witness_AgreementEvents_deadline : getJob (dealt 1 true) 1 = some (jobTwo 1 true) ∧ (declOf (jobTwo 1 true) 0).map (fun d => (d.late, d.deadline)) = some (1, 100) ∧
    (declOf (jobTwo 2 true) 0).map (fun d => d.late) = some 2 ∧
    (let c := channelOf (jobTwo 1 true) 0
     let slot := jobSlot (dealt 1 true) (rootModule (jobTwo 1 true)) 1
     c.gather = true ∧ slot.stopped = false ∧ c.t0 + 100 + (slot.total - c.frozen0) ≤ nowOf (dealt 1 true) 0) := by decide
theorem witness_AgreementEvents_call : let s := flying (.call 1 0 0 1 5 0) { enrolled with cores := [(0, { core with ra := some { ahead with issued := 96 } })] }
    Arrived s (.call 1 0 0 1 5 0) ∧ (getCluster s 0).ctx.uid = 1 ∧ callsHeld s 0 1 = false ∧ (getCore s 0).seq = .running ∧ (getCore s 0).ra = some { ahead with issued := 96 } ∧
    (getCluster s 0).ctx.bcast = false ∧ 96 + 4 ≤ s.cycle ∧ s.cycle < 97 + 4 ∧ ahead.guess < 2 ^ 16 ∧ (getCore (flying (.call 1 0 0 1 5 0) enrolled) 0).ra = none :=
  ⟨arrived _ _ rfl rfl, by decide, by decide, by decide, by decide, by decide, by decide, by decide, by decide, by decide⟩

/-- A copy operation of counter 0 and threshold 1, and a fold of member 0. -/
def copyOp : GOp := ⟨3, 0, 0, 0, 1, 0, false, false, 0, 0, 1, 1, 0, 0, 0, 31, 0, 0⟩
@[inherit_doc copyOp] def foldOp : GOp := { copyOp with kind := 2 }
/-- A run 5 of an image of one operation in slot 1. -/
def graphOf (o : GOp) (st : OpState) : GSlot :=
  { ops := [o], ncnt := 1, run := 5, active := true, counters := [0], states := [st], bases := [(false, 0x1000000)], recAddr := 0x1000000, cwaddr := 0x1000100, cwval := 1,
    irq := 0, irqen := false, core := 0, failed := none, dead := false, moved := false, sig := 0, applied := [], finishing := false }
/-- Cluster 0 with the graph. -/
def graphed (o : GOp) (st : OpState) : State := inCluster { running with graphs := [(1, some (graphOf o st))] } enrolled
/-- A signal and a contribution for a run of slot 1. -/
def signalTo (run : Nat) : Signal := ⟨1, 0, 1, run, 0, 1, (0, 0, 64)⟩
@[inherit_doc signalTo] def partTo (run : Nat) : Contribution := ⟨1, 0, 1, run, 0, 0, [1], (0, 0, 64)⟩

theorem arrivedFree (k : FKind) (s : State) (h : s.place = 0) (c : s.cycle = 100) : ArrivedFree (flying k s) k := ⟨99, by simp [flying, h], by simp [flying, c]⟩
/-- The halt wave holds what arrives for job 1. -/
def waveHeld (s : State) : State := { s with mods := [(0, { getMod s 0 with slots := [(0, { JobSlot.reset with used := true, job := 1, stopped := true })] })] }
theorem witness_GraphEvents_signal : let s := fun run => flying (.signal 0 (signalTo run)) (graphed copyOp .armed)
    ArrivedFree (s 5) (.signal 0 (signalTo 5)) ∧ runVs (landed (s 5)) 0 1 0 1 5 = (some 0, .eq) ∧ slotAt (s 5) 0 1 = some (graphOf copyOp .armed) ∧
    runVs (landed (s 4)) 0 1 0 1 4 = (some 0, .lt) ∧ runVs (landed (s 6)) 0 1 0 1 6 = (some 0, .gt) ∧ (getMod (s 6) 0).signals.length < 64 ∧
    (let x := { graphOf copyOp .armed with counters := [1] }
     x.failed = none ∧ x.active = true ∧ x.reached 0 1 = [0] ∧ x.op 0 = some copyOp ∧ copyOp.kind = 3 ∧ memberLives (s 5) 1 copyOp.mem = true ∧ 0 < x.states.length) ∧
    receiversHeld (s 5) 0 1 = false ∧ receiversHeld (waveHeld (s 5)) 0 1 = true ∧ ({ graphOf copyOp .armed with active := false } : GSlot).active = false :=
  ⟨arrivedFree _ _ rfl rfl, by decide, by decide, by decide, by decide, by decide, by decide, by decide, by decide, rfl⟩
theorem witness_GraphEvents_full : let g := signalTo 6
    let s := fun held => { graphed copyOp .armed with flights := [⟨0, 99, held, .signal 0 g⟩], mods := [(0, { Module.reset with signals := List.replicate 64 g })] }
    ArrivedFree (s false) (.signal 0 g) ∧ receiversHeld (s false) 0 1 = false ∧ runVs (landed (s false)) 0 1 0 1 6 = (some 0, .gt) ∧ 64 ≤ (getMod (s false) 0).signals.length ∧
    (s true).flights.find? (fun f => f.id == (s true).place) = some ⟨(s true).place, 99, true, .signal 0 g⟩ ∧ 99 ≤ (s true).cycle :=
  ⟨⟨99, rfl, by decide⟩, by decide, by decide, by decide, rfl, by decide⟩
theorem witness_GraphEvents_bare : (graphOf copyOp .completed).stateOf 0 ≠ .armed ∧ copyOp.cnt = 0 ∧ ¬ 1 < copyOp.thr := by decide
theorem witness_GraphEvents_contribution : let s := fun run => flying (.contribution 0 (partTo run)) (graphed foldOp .armed)
    ArrivedFree (s 5) (.contribution 0 (partTo 5)) ∧ runVs (landed (s 5)) 0 1 0 1 5 = (some 0, .eq) ∧ slotAt (s 5) 0 1 = some (graphOf foldOp .armed) ∧
    (graphOf foldOp .armed).op 0 = some foldOp ∧ foldOp.kind = 2 ∧ recvReq (s 5) 0 1 0 = none ∧ (graphOf foldOp .completed).stateOf 0 = .completed ∧
    runVs (landed (s 4)) 0 1 0 1 4 = (some 0, .lt) ∧ runVs (landed (s 6)) 0 1 0 1 6 = (some 0, .gt) ∧ (getMod (s 6) 0).contribs.length + (getMod (s 6) 0).partials.length < 192 ∧
    receiversHeld (s 5) 0 1 = false ∧ foldHeld (s 5) 0 (partTo 5) 0 = false ∧ receiversHeld (waveHeld (s 5)) 0 1 = true ∧
    (graphOf copyOp .armed).op 0 = some copyOp ∧ copyOp.kind ≠ 2 ∧ (graphOf copyOp .armed).op 1 = none :=
  ⟨arrivedFree _ _ rfl rfl, by decide, by decide, by decide, by decide, by decide, by decide, by decide, by decide, by decide, by decide, by decide, by decide, by decide,
    by decide, by decide⟩
theorem witness_GraphEvents_chunk : let k : FKind := .fold 0 { partTo 5 with bs := [] } 2 0 [1] 0 0
    let s := flying k (graphed foldOp .armed)
    ArrivedFree s k ∧ receiversHeld s 0 1 = false ∧ foldHeld s 0 { partTo 5 with bs := [] } 2 = false ∧ (getMod s 0).partials = [] ∧ [1].length < 2 ∧
    (let z := { flying k (graphed foldOp .armed) with mods := [(0, { Module.reset with contribs := List.replicate 192 (partTo 6) })] }
     foldHeld z 0 { partTo 6 with bs := [] } 2 = true) :=
  ⟨arrivedFree _ _ rfl rfl, by decide, by decide, by decide, by decide, by decide +kernel⟩
theorem witness_GraphEvents_complete : let s := flying (.graphDone 0 1 0 0) (graphed copyOp .fired)
    Arrived s (.graphDone 0 1 0 0) ∧ receiversHeld s 0 1 = false ∧ receiversHeld (waveHeld s) 0 1 = true ∧ slotAt s 0 1 = some (graphOf copyOp .fired) ∧
    (graphOf copyOp .fired).stateOf 0 ≠ .completed ∧ (getMod s 0).contribs = [] ∧ copyOp.ien = false :=
  ⟨arrived _ _ rfl rfl, by decide, by decide, by decide, by decide, by decide, by decide⟩
theorem witness_GraphEvents_finish : let x := graphOf copyOp .completed
    slotAt (graphed copyOp .completed) 0 1 = some x ∧ x.active = true ∧ x.finishing = false ∧
    (∀ st ∈ x.states, st = .completed ∨ (x.failed ≠ none ∧ st = .armed)) ∧
    (let y := { graphOf copyOp .armed with failed := some (0, 1) }; ∀ st ∈ y.states, st = .completed ∨ (y.failed ≠ none ∧ st = .armed)) ∧
    runOver (graphed copyOp .fired) 0 1 (graphOf copyOp .fired) = false := by decide

/-- Module 0 with a ring of 16 packets of 64 bytes at virtual address 0, a launch packet of job 1 at its start, and its queue 0. -/
def packet (seq : Nat) (f : List Nat → List Nat) : List Nat :=
  let ws := f ([seq, 0, 0, 0, 1, 1, 0, 0, 0, 0, 0x300000, 0, 0, 0, 0, 0])
  let chk := ((List.range 14).map fun i => ws.getD (i + 2) 0 * 2 ^ (i + 2) % 2 ^ 32 + ws.getD (i + 2) 0 / 2 ^ (30 - i)).sum % 2 ^ 32
  (ws.set 1 chk).set 0 (seq + Nat.xor (chk / 2 ^ 16) (chk % 2 ^ 16) * 2 ^ 16)
@[inherit_doc packet] def queue (f : Queue → Queue) : Queue := f { Queue.reset with qbase := 0, qlog := 4, qroot := 0x10000, go := true, en := true, part := 2 }
@[inherit_doc packet] def ringed (ws : List Nat) (q : Queue) (f : Module → Module) : State :=
  { withMod (fun x => f { x with hbm := Mem.write tables 0x200000 (ws.flatMap (leBytes 4)), queues := [(0, q)], frames := [(32, ⟨2, 0, false⟩)], fwPause := 0, windows := [] }) with
      jobs := [{ jobOne with roots := [(0, some 0x10000)] }] }
theorem witness_QueueEvents : let s := ringed (packet 1 id) (queue id) id
    let q := queueAt s 0 0
    q.go = true ∧ q.pause = false ∧ (q.qpos + 2 ^ 32 - q.qcack % 2 ^ 32) % 2 ^ 32 < 2 ^ q.qlog ∧ (getMod s 0).fwPause ≤ nowOf s 0 ∧
    ringPlace (getMod s 0) q (q.qbase + 64 * (q.qpos % 2 ^ q.qlog)) 64 = .inr 0x200000 ∧
    (wordsOf 16 (physRead (getMod s 0) 0x200000 64)).getD 0 0 % 65536 = q.qpos / 2 ^ q.qlog % 65535 + 1 ∧ sealed (wordsOf 16 (physRead (getMod s 0) 0x200000 64)) ∧
    hbmMarked (getMod s 0) 0x200000 64 = false ∧ q.retries = 0 ∧ q.poll ≤ nowOf s 0 ∧ Allowed 2 q.part := by decide +kernel
theorem witness_QueueEvents_torn : let s := ringed ((packet 1 id).set 7 1) (queue fun q => { q with retries := 16 }) id
    (wordsOf 16 (physRead (getMod s 0) 0x200000 64)).getD 0 0 % 65536 = 1 ∧ ¬ sealed (wordsOf 16 (physRead (getMod s 0) 0x200000 64)) ∧
    0 < (queueAt s 0 0).retries ∧ 16 ≤ (queueAt s 0 0).retries := by decide +kernel
theorem witness_QueueEvents_absent : let s := ringed (packet 2 id) (queue id) id
    (wordsOf 16 (physRead (getMod s 0) 0x200000 64)).getD 0 0 % 65536 ≠ 1 ∧
    ringPlace (getMod s 0) (queue fun q => { q with qbase := 0x200000 }) 0x200000 64 = .inl true ∧ (queue fun q => { q with go := false }).go = false := by decide +kernel

/-- A launch of job 1 from queue 0 with its packet, in a state. -/
def launch (st : LState) (ws : List Nat) : Launch := ⟨1, 0, ws, [0x1000000, 0xFF1A0801, 0, 0, 0, 0, 0, 0], st, 0, [0], 0, 0, none, 0, 0, 0, 0, 0, 0, 0, 0, false, false⟩
/-- A template at 0x300000: entry 0x1000000, one cluster, eight ranks, all dies, watchdog 26. -/
def launching (st : LState) (ws : List Nat) (f : Module → Module) : State :=
  ringed (packet 1 id) (queue fun q => { q with pkts := [⟨ws, false, false⟩] }) fun x =>
    f { x with hbm := Mem.write x.hbm 0x300000 ([0x1000000, 0x1AFF0801, 0, 0, 0, 0, 0, 0].flatMap (leBytes 4)), launches := [launch st ws] }
theorem witness_LaunchEvents_head : let s := launching .waiting (packet 1 id) id
    (queueAt s 0 0).en = true ∧ headLaunch (getMod s 0) 0 = some (launch .waiting (packet 1 id)) ∧ (launch .waiting []).depTest ≤ nowOf s 0 ∧
    (getMod s 0).launches.filter (fun x => x.uid == 1) = [launch .waiting (packet 1 id)] ∧ depOf (getMod s 0) 0 (packet 1 id) = .met ∧
    depwMet (getMod s 0) (packet 1 id) = true ∧ pktKind (packet 1 id) = 0 ∧
    (templateAt (getMod s 0) 0x300000).map templateBad = some false ∧ pktTmpl (packet 1 id) = 0x300000 ∧ templateAt (getMod s 0) 0x300001 = none := by decide +kernel
/-- A packet that depends on launch 9 of its job, and one that waits for a word of HBM. -/
def dependent : List Nat := packet 1 fun ws => (ws.set 4 (1 + 2 ^ 20)).set 6 9
@[inherit_doc dependent] def awaiting : List Nat := packet 1 fun ws => ((ws.set 4 (1 + 2 ^ 21)).set 7 1).set 8 0x400000
theorem witness_LaunchEvents_dependence : depOf (getMod (launching .waiting dependent fun x => { x with recent := [(1, 9, 4)] }) 0) 0 dependent = .failed ∧
    depOf (getMod (launching .waiting dependent fun x => { x with launches := x.launches ++ [{ launch .running (packet 1 fun ws => ws.set 5 9) with uid := 2 }] }) 0) 0 dependent = .pending ∧
    depOf (getMod (launching .waiting awaiting id) 0) 0 awaiting = .met ∧ depwMet (getMod (launching .waiting awaiting id) 0) awaiting = false ∧
    headLaunch (getMod (ringed [] (queue id) id) 0) 0 = none ∧ (queueAt (ringed [] (queue id) id) 0 0).pkts = [] ∧
    packetBad (ringed [] (queue id) id) 0 2 (packet 1 fun ws => ws.set 13 1) = true ∧ packetBad (ringed [] (queue id) id) 0 2 dependent = false ∧
    depOf (getMod (ringed [] (queue id) id) 0) 0 dependent = .unknown ∧ headLaunch (getMod (launching .waiting dependent id) 0) 0 = some (launch .waiting dependent) ∧
    ({ launch .waiting dependent with depMet := true, wordMet := true } : Launch).wordMet = true := by decide +kernel
/-- A machine whose cluster 0 is free and of partition 2, with a READY launch. -/
def deciding (part : Nat) : State := { launching .ready (packet 1 id) (fun x => { x with launches := [{ launch .ready (packet 1 id) with tmpl := [0x1000000, 0x1AFF0801, 0, 0, 0, 0, 0, 0] }] }) with
  clusters := [(0, { Cluster.reset with part := part })] }
theorem witness_LaunchEvents_decision : let s := deciding 2
    (sortBy (candBefore (getMod s 0)) (candidates s 0)).map (fun x => (x.l.uid, x.saved)) = [(1, none)] ∧ (freeClusters s 0 2 0xFF 0).length = 1 ∧
    (match sortBy (candBefore (getMod s 0)) (candidates s 0) with
      | x :: xs => decide (keptDies (onMod s 0 fun y => { y with reserved := y.reserved.filter fun r => (x :: xs).any fun z => z.key == r }) 0 (x :: xs) x = 0)
      | [] => false) = true ∧
    (partClusters (deciding 3) 0 2 0xFF).length < 1 ∧ candidates (withMod id) 0 = [] := by decide +kernel
theorem witness_LaunchEvents_loading : let l := { launch .loading (packet 1 id) with tmpl := [0x1000000, 0x1AFF0801, 0, 0, 0, 0, 0, 0] }
    let s := inCluster { running with task := .loading } (launching .loading (packet 1 id) fun x => { x with launches := [l] })
    ((getMod s 0).launches.find? fun l => l.uid == (getCluster s 0).ctx.uid && l.state == .loading) = some l ∧ loadingBad s 0 l = false ∧ l.clusters.Nodup ∧
    loadingBad s 0 { l with tmpl := [0x1000000, 0x1AFF0801, 0, 0, 1, 1, 0, 0] } = true := by decide +kernel
/-- A packet that writes 32 bytes from 0x300000 into the weight store of die 0. -/
def writing32 : List Nat := packet 1 fun ws => (((ws.set 4 (1 + 2 ^ 18)).set 2 32).set 3 1).set 12 0x40000000
theorem witness_LaunchEvents_write : let s := fun st => launching st writing32 id
    (getMod (s .ready) 0).launches = [launch .ready writing32] ∧ pktKind writing32 = 1 ∧ (queueAt (s .ready) 0 0).en = true ∧
    writeDies 0 (launch .ready writing32) = [0] ∧ (∀ d ∈ [0], dieOpen (s .ready) d = true) ∧ dieIdle { s .ready with clusters := [] } 0 = true ∧
    (launch .running writing32).depTest ≤ (s .running).cycle ∧ pktArg writing32 % 2 ^ 32 = 32 ∧ hasTarget (pktTmpl writing32) 32 = true ∧
    hbmMarked (getMod (s .running) 0) (pktTmpl writing32) 32 = false := by decide +kernel
/-- Module 0 with one launch, cluster 0 with its task, cores 0 to 7 in a state of their sequencers. -/
def tasked (st : LState) (task : TaskState) (f : Core → Core) (g : Module → Module) (h : Cluster → Cluster) : State :=
  { launching st (packet 1 id) (fun x => g { x with queues := [(0, queue fun q => { q with pause := true })] }) with
    clusters := [(0, h { running with task := task })]
    cores := (List.range 8).map fun r => (r, f core) }
theorem witness_TaskEvents_complete : let s := tasked .running .running (fun c => { c with seq := .retired }) id id
    (getMod s 0).launches = [launch .running (packet 1 id)] ∧ pktKind (packet 1 id) = 0 ∧ ¬ Halted s 0 (launch .running (packet 1 id)).job ∧
    taskOver s 0 1 = true ∧ (getCluster s 0).failedCopy = false ∧ (getMod s 0).queues.map Prod.fst = [0] ∧ (queueAt s 0 0).pause = true := by decide +kernel
theorem witness_TaskEvents_record : let q := queue fun q => { q with comps := [(0, [0, 0, 0, 1, 1, 0, 0])], qcbase := 0x1000 }
    let s := ringed [] q id
    (getMod s 0).launches = [] ∧ (getMod s 0).queues = [(0, queueAt s 0 0)] ∧ (queueAt s 0 0).comps = [(0, [0, 0, 0, 1, 1, 0, 0])] ∧ q.pause = false ∧
    (q.qcpos + 2 ^ 32 - q.qcack % 2 ^ 32) % 2 ^ 32 < 2 ^ q.qlog ∧ ringPlace (getMod s 0) q (q.qcbase + 32 * (q.qcpos % 2 ^ q.qlog)) 32 = .inr 0x201000 := by decide +kernel
theorem witness_TaskEvents_watchdog : let s := tasked .running .running id (fun x => { x with time := { x.time with now := 19 * 10 ^ 9 * 2 ^ 34 } }) id
    watchdogOver s 0 (launch .running (packet 1 id)) = true ∧ (getCluster s 0).task = .running ∧ (getCluster s 0).ctx.uid = 1 := by decide +kernel
/-- Cluster 0 before block b of the reconstruction of a grid of two blocks of one element, the second off the lattice of code 8. -/
def rebuilding (sen : Bool) (b : Nat) (at_ : Option Nat) : State :=
  tasked .recon .recon (fun c => { c with seq := .retired }) id fun x =>
    { x with ctx := { x.ctx with code := 8 }, cv := some ⟨1, 0, 0, 0, .f32, false, sen, 0x1000000, 4, 0⟩, recon := b, reconAt := at_ }
theorem witness_TaskEvents_recon : let s := rebuilding false 0 (some 100)
    let d : CvDesc := ⟨1, 0, 0, 0, .f32, false, false, 0x1000000, 4, 0⟩
    (getCluster s 0).cv = some d ∧ (getCluster s 0).task = .recon ∧ (1 : Nat) < (d.gx + 1) * (d.gy + 1) ∧ coresOver s 0 = true ∧ enginesHeld s 0 = false ∧
    (getCluster s 0).due = [] ∧ (∃ l ∈ (getMod s 0).launches, l.uid = 1 ∧ l.state = .recon) ∧ (getCluster s 0).reconAt = some 100 ∧ s.cycle = 100 ∧
    (getCluster (rebuilding false 0 none) 0).reconAt = none ∧ copyFailed s 0 1 = false ∧
    classOf d 8 0 (skipIndex d 8 0) = .kept ∧ classOf d 8 1 (skipIndex d 8 1) = .skipped ∧ classOf { d with sen := true } 8 1 (skipIndex d 8 1) = .sampled ∧
    (∀ n ∈ reconSources d 8 1 ++ [1], blockMarked s 0 d n = false) ∧
    (∃ n ∈ reconSources d 8 1, blockMarked { s with marks := [(2, 0, 0x1000000)] } 0 d n = true) := by decide +kernel
/-- A partition with four frames of 2^20 bytes, of which the first is used. -/
def frames4 : Part := { Part.reset with frbase := 0x800000, frsize := 20, nframes := 4, used := [0] }
theorem witness_TaskEvents_save : let s := tasked .running .landing (fun c => { c with seq := .landed, liveAddr := some 0x1000000 }) (fun x => { x with parts := [(2, frames4)] }) id
    enginesHeld s 0 = false ∧ allLanded s 0 = true ∧ requestsOver s 0 = true ∧ firedOver s 0 = true ∧ dueOver s 0 = true ∧ liveBad (liveWords s 0) = false ∧
    freeFrame frames4 (saveSize s 0) = some 1 ∧ freeFrame Part.reset (saveSize s 0) = none ∧ frames4.preempted = false ∧ frames4.act = false ∧
    (let p := fun n => partOf (tasked .running .landing (fun c => { c with seq := .landed, liveAddr := some 0x1000000 }) (fun x =>
       { x with parts := [(2, { frames4 with act := true, frame := 1, uid := 1, size := 8192, offset := n, used := [1, 0] })] }) id) 0
     (p 0).act = true ∧ (p 0).dir = false ∧ (p 0).lcl = 0 % 96 ∧ (p 0).uid = running.ctx.uid ∧ (p 0).due ≤ s.cycle ∧ (p 0).offset + 4096 < (p 0).size ∧
     (p 4096).size ≤ (p 4096).offset + 4096) := by decide +kernel
/-- R352: a save of a frame of 8,192 bytes takes two chunks; with the first, OFFSET is 4,096 and the task is still on its cluster. -/
theorem test_saveEngine_chunk :
    let s := tasked .running .landing (fun c => { c with seq := .landed, liveAddr := some 0x1000000 })
      (fun x => { x with parts := [(2, { frames4 with act := true, frame := 1, uid := 1, size := 8192, used := [1, 0] })] }) id
    let t := taskSaveMove 0 s
    t.cycle = 100 ∧ (partOf t 0).offset = 4096 ∧ (getCluster t 0).task = .landing := by decide +kernel
/-- R374: the bytes of a loop-back entry. -/
theorem test_trace_bytes : Trace.bytes ⟨3, 0x123456, 0x1000000, 0x40⟩ = [3, 0x56, 0x34, 0x12, 0, 0, 0, 1, 0x40, 0, 0, 0, 0, 0, 0, 0] := by decide
theorem witness_TaskEvents_whole : let s := tasked .running .running id (fun x => { x with parts := [(2, { frames4 with preempted := true })] }) id
    let z := tasked .running .saving (fun c => { c with seq := .landed }) (fun x => { x with parts := [(2, { frames4 with preempted := true })] }) id
    hyperWanted s 0 = true ∧ taskLives s 0 = true ∧ callsOver s 0 = true ∧ landingOver s 0 = true ∧ enginesHeld s 0 = false ∧
    hyperWanted z 0 = true ∧ coresQuiet z 0 = true ∧ requestsOver z 0 = true ∧ firedOver z 0 = true ∧ dueOver z 0 = true := by decide +kernel
/-- A saved task of cluster 0. -/
def saved : Saved := ⟨1, 0, 2, 1, false, false, [(0, core)], [], running, 0, 49408, []⟩
theorem witness_TaskEvents_restore : let p := { frames4 with act := true, dir := true, lcl := 0, uid := saved.uid, size := saved.size, offset := 49152 }
    let s := tasked .running .restoring id (fun x => { x with saves := [saved], parts := [(2, p)] }) id
    savedOn s 0 (getCluster s 0).ctx.uid = some saved ∧ saved.ranges = [] ∧ (saved.cores.map Prod.fst).Nodup ∧ s.place = 0 ∧
    partOf s 0 = p ∧ saved.part = 2 ∧ p.preempted = false ∧ p.due ≤ s.cycle ∧ p.size ≤ p.offset + 4096 ∧ { p with preempted := true }.preempted = true := by decide +kernel
theorem witness_TaskEvents_other : let s := withMod fun x => { x with time := { x.time with now := 19 * 10 ^ 9 * 1000 }, fwPause := 0 }
    Serving s 0 ∧ (getMod s 0).saves = [] ∧ (∀ i, i < 96 → (getCluster s (96 * 0 + i)).task ≠ .saving) ∧
    (let c := inCluster { running with holdoff := 1000 } s; (getCluster c 0).holdoff ≠ 0 ∧ (getCluster c 0).holdoff ≤ nowOf c 0) ∧
    (let c := inCluster { running with holdoff := 1001 } s; nowOf c 0 < (getCluster c 0).holdoff) ∧
    (CvCtl.reset.write [1, 2 * 2 ^ 16, 0, 0]).part = 2 ∧ Allowed 2 2 ∧ ¬ Allowed 3 2 ∧ (CvCtl.reset.write [1, 0, 0, 0]).valid = true ∧
    (CvCtl.reset.write [1, 0, 1, 0]).en = true ∧ (CvCtl.reset.write [1, 0, 1, 0]).valid = false := by decide

/-- A request of a copy, its chunk, and cluster 0 of the running task with them. -/
def request (src dst : Side) : Req :=
  { tag := 7, core := 0, issued := 90, kind := .copy, src := src, dst := dst, len := 32, cnt := [], sstr := [], dstr := [], shd := false, pub := false, bind := 0, cw := none }
@[inherit_doc request] def queuedReq (src dst : Side) (next active done : Nat) : QReq :=
  { id := 3, uid := 1, r := request src dst, next := next, active := active, done := done, status := 0, paused := none, pins := [], published := false, cwSent := false,
    cwDone := false, bounded := false, acc := [], maps := [] }
@[inherit_doc request] def chunk (buf : Option (List Nat)) (maps : List PageMap) : Chunk :=
  { id := 4, home := 0, req := 3, src := 0x1000000, dst := 0x1000100, len := 32, off := 0, buf := buf, flight := false, maps := maps }
@[inherit_doc request] def copying (q : QReq) (h : Option Chunk) : State := inCluster { running with queues := [(0, [q])], chunks := [(0, h)] } timed
def inside : Side := .local_ 0x1000000
def write_ : DueWrite := ⟨0, 1, 0, 0x1000000, [1], false, .nothing⟩
theorem witness_EngineEvents_due : let s := inCluster { running with due := [write_] } timed
    enginesHeld s 0 = false ∧ write_ ∈ (getCluster s 0).due ∧ write_.engine = 0 ∧ (∀ x ∈ (getCluster s 0).due, x.engine = 0 → x = write_) ∧ Unswapped s 0 := by decide
theorem witness_EngineEvents_start : let q := queuedReq inside inside 0 0 0
    let s := copying q none
    EngineFree s 0 0 ∧ handNow s 0 0 = none ∧ (queueOf (getCluster s 0) 0).find? (startable s 0) = some q ∧ onlyReq s 0 0 q := by decide
theorem witness_EngineEvents_move : let q := queuedReq inside inside 1 1 0
    let s := fun b => copying q (some (chunk b []))
    EngineFree (s none) 0 0 ∧ handNow (s none) 0 0 = some (chunk none []) ∧ reqNow (s none) 0 0 3 = some q ∧ inScratch 0x1000000 32 = true ∧
    isMarked (s none) 2 0 0x1000000 32 = false ∧ Unswapped (s none) 0 ∧ Mem.wf (getCluster (s none) 0).scratch = true ∧
    (let h := chunk (some (List.replicate 16 1)) []; h.off + 16 < h.len) ∧ (let h := chunk (some (List.replicate 32 1)) []; h.len ≤ h.off + 32) ∧
    onlyReq (s (some (List.replicate 32 1))) 0 0 q := by decide
/-- The page of virtual address 0 of module 0, readable and writable. -/
def pages : List PageMap := [⟨false, 0x1000000, 65536, 0, 0x200000, 1, 0⟩, ⟨true, 0x1000000, 65536, 0, 0x210000, 1, 0⟩]
theorem witness_EngineEvents_send : let q := queuedReq (.virt 0 0x1000000) (.virt 0 0x1000100) 1 1 0
    let s := fun b => copying q (some (chunk b pages))
    EngineFree (s none) 0 0 ∧ wholeChunk (s none) 0 (queuedReq (.virt 0 0x1000000) inside 1 1 0) = false ∧ mapOf pages false (0x1000000 % 2 ^ 57) = some (0, 0x200000) ∧
    mapOf pages true (0x1000100 % 2 ^ 57) = some (0, 0x210100) ∧ wholeChunk (s none) 0 q = false ∧
    (let w := queuedReq (.virt 0 0x1000000) (.window 1 9 0) 1 1 0
     wholeChunk (copying w none) 0 w = true) := by decide
theorem witness_EngineEvents_arrive : let h := chunk (some [1]) []
    let s := fun k => flying k (copying (queuedReq inside inside 1 1 0) (some h))
    handNow (s (.access 0 0x300000 (.write [1]) 0 0)) 0 0 = some h ∧ accessHeld (s (.access 0 0x300000 (.write [1]) 0 0)) 0 0 0 = false ∧
    swapOver (getMod timed 0) 0x300000 = none ∧ ArrivedFree (s (.access 0 0x300000 (.write [1]) 0 0)) (.access 0 0x300000 (.write [1]) 0 0) ∧ h.off + 1 < h.len ∧
    hbmMarked (getMod timed 0) 0x300000 32 = false ∧ hbmMarked { getMod timed 0 with marks := [0x300000 / 64] } 0x300000 32 = true ∧ isHost 0x300000 = false ∧
    (getCluster timed 0).bindings = [] :=
  ⟨by decide, by decide, by decide, ⟨99, by decide, by decide⟩, by decide, by decide, by decide, by decide, by decide⟩
theorem witness_EngineEvents_atomic : let q := { queuedReq inside (.virt 0 0) 1 1 0 with r := { request inside (.virt 0 0) with kind := .atomic 4 false 8 5 6 } }
    let s := flying (.atomic 0 0x300000 0 0 3) (copying q (some (chunk none [])))
    ArrivedFree s (.atomic 0 0x300000 0 0 3) ∧ accessHeld s 0 0 0 = false ∧ reqNow s 0 0 3 = some q ∧ q.r.kind = .atomic 4 false 8 5 6 :=
  ⟨⟨99, by decide, by decide⟩, by decide, by decide, rfl⟩
theorem witness_EngineEvents_window : let k : FKind := .window 0 1 9 0 [1] false 0 0
    let s := flying k (inCluster { running with bindings := [{ lockBinding with win := true, wkey := 9 }], queues := [(0, [queuedReq inside inside 1 1 0])], chunks := [(0, some (chunk none []))] } timed)
    ArrivedFree s k ∧ receiversHeld s 0 1 = false ∧ windowCluster s 0 1 9 = some (0, 0) ∧ 0 + 1 ≤ lockBinding.size ∧ windowCluster s 0 1 8 = none ∧
    windowSaved s 0 1 8 = false ∧ handNow s 0 0 = some (chunk none []) :=
  ⟨⟨99, by decide, by decide⟩, by decide, by decide, by decide, by decide, by decide, by decide⟩
theorem witness_EngineEvents_finish : let q := queuedReq inside inside 1 0 1
    q.total ≤ q.done ∧ (queuedReq inside inside 1 1 0).done < (queuedReq inside inside 1 1 0).total ∧ q.r.pub = false ∧ q.r.cw = none ∧ q.pins = [] ∧ q.cwSent = false ∧
    queueOf (getCluster (copying q none) 0) 0 = [q] ∧ (getCluster (copying q none) 0).backlog = [] ∧ enginesHeld (copying q none) 0 = false ∧
    (getCore (copying q none) 0).seq = .running ∧ ({ q with status := 3 } : QReq).status ≠ 0 ∧ q.active = 0 ∧
    (let w := { q with r := { q.r with cw := some (0x1000200, 5) } }; w.r.cw = some (0x1000200, 5) ∧ w.cwSent = false) ∧
    (let p := { q with r := { q.r with pub := true } }
     p.r.pub = true ∧ p.published = false ∧ publishTarget (copying p none) 0 p = some (0, 0) ∧ (getCluster (copying p none) 0).pubs = []) := by decide
theorem witness_EngineEvents_publish : let p : PubOp := ⟨0, 100, 5, 0, none, false⟩
    let s := { inCluster { running with pubs := [p], bindings := [pairBinding] } timed with cores := [(0, { core with wait := .pub 0 })] }
    (getCluster s 0).pubs = [p] ∧ p.from_ ≤ s.cycle ∧ filled s 0 p = true ∧ (getCore s 0).wait = .pub 0 ∧ s.cycle < 101 := by decide

theorem witness_PageEvents_shoot : Serving paged 0 ∧ Manages paged 0 2 1 ∧ ¬ Manages paged 0 3 1 ∧ (getMod paged 0).shoots = [] ∧ translatedBy paged 1 0 0 65536 = [] := by decide
theorem witness_PageEvents_ready : let f : PFault := ⟨0, 0, false, false⟩
    let q := { queuedReq (.virt 0 0) inside 0 0 0 with paused := some f }
    let s := inCluster { running with queues := [(0, [q])] } paged
    Serving s 0 ∧ Manages s 0 2 1 ∧ s.clusters = [(0, getCluster s 0)] ∧ (getCluster s 0).queues = [(0, [q])] ∧ q.uid = (getCluster s 0).ctx.uid ∧
    (getCluster s 0).wholeSave = false ∧ meets 0 65536 0 65536 = true ∧ (getMod s 0).saves = [] ∧ spaceOf s 1 0 = some (0, 0x10000) ∧
    walkFrom (getMod s 0) 4 0x10000 0 = .leaf 0x13000 0x200000 2097152 true true false ∧ walkFrom (getMod s 0) 4 0x10000 0x200000 = .absent := by decide +kernel
/-- An exchange of two granules of job 1. -/
def swapWords : List Nat := [1, 0, 0x200000, 0, 0x210000, 0, 0x13000, 0, 0x13008, 0, 0, 0, 0x200000, 0, 0, 0]
theorem witness_PageEvents_swap : Serving paged 0 ∧ paged.place < 2 ^ 32 ∧ Allowed 2 (partOfJob paged 0 (swapCmdOf swapWords).job) ∧
    ¬ Allowed 3 (partOfJob paged 0 (swapCmdOf swapWords).job) ∧ swapInvalid paged 0 swapWords = false ∧ swapInvalid paged 0 (swapWords.set 1 1) = true ∧
    freeSwap (getMod paged 0) = some 0 ∧ (swapCmdOf swapWords).granules = [32, 33] ∧ (∀ g ∈ [32, 33], (frameAt paged 0 g).pin = 0 ∧ (frameAt paged 0 g).swap = false) ∧
    freeSwap { getMod paged 0 with swaps := (List.range 4).map fun e => (e, some ⟨[], 0, []⟩) } = none ∧ jobOn paged 0 (swapCmdOf swapWords).job = true ∧
    (let s := fun f => onMod paged 0 fun x => { x with frames := [(33, f)] }
     (frameAt (s ⟨2, 1, false⟩) 0 33).pin ≠ 0 ∧ (frameAt (s ⟨2, 0, true⟩) 0 33).pin = 0 ∧ (frameAt (s ⟨2, 0, true⟩) 0 33).swap = true) := by decide

theorem witness_JobEvents_create : Serving timed 0 ∧ (0x10000 % 4096 = 0) ∧ 0 ∈ [0, 1] ∧ [0, 1].eraseDups.length = [0, 1].length ∧ getJob timed 5 = none ∧
    declsBad [] = false ∧ slotFor (getMod timed 0) 5 = some 0 ∧ getJob timed 1 = some jobOne ∧ jobOne.members ≠ [0, 1] ∧ anyRequest timed 0 1 = false ∧
    jobOn timed 0 1 = true ∧ Manages timed 0 2 1 ∧ ¬ Manages timed 0 3 1 := by decide
theorem witness_JobEvents_declared : declsBad [[2 ^ 16 + 16, 0, 100, 0]] = false ∧ declOfWords [2 ^ 16 + 16, 0, 100, 0] = ⟨0, 0, 1, false, 1, 0, 100⟩ ∧
    slotFor { getMod timed 0 with slots := (List.range 16).map fun n => (n, { JobSlot.reset with used := true }) } 5 = none := by decide
theorem witness_JobEvents_remove : let l := { launch .waiting (packet 1 id) with words := packet 1 id }
    let s := launching .waiting (packet 1 id) id
    Manages s 0 2 1 ∧ (getMod s 0).launches = [l] ∧ l.job = 1 ∧ l.state = .waiting := by decide
theorem witness_JobEvents_shrink : let d : Decl := ⟨0, 0, 0, true, 0, 0, 100⟩
    let j := { jobOne with decls := [d], chans := [], members := [0, 1] }
    let s := { timed with jobs := [j], clusters := [] }
    Serving s 0 ∧ getJob s 1 = some j ∧ Manages s 0 2 1 ∧ 1 < j.members.length ∧ 1 ∉ j.dead ∧ (channelOf j d.ch).gather = false ∧
    (let k := { j with decls := [] }; s.place ∈ k.members ∧ memberOf k s.place ∉ k.dead) := by decide
theorem witness_JobEvents_path : let fab := ((getMod timed 0).fab.filter fun f => !(f.1 == 1 && f.2.1 == 0 && f.2.2.1 == 0)) ++ [(1, 0, 0, 1, 400, [3])]
    (∀ p ∈ [3], ((fab.filter fun f => f.2.2.2.2.2.contains p).map fun f => f.2.2.2.2.1).sum ≤ 400) ∧ Manages timed 0 2 1 ∧ 0 < jobOne.members.length := by decide
theorem witness_JobEvents_scrub : let s := fun n => { timed with clusters := [(0, { Cluster.reset with scrub := some n, newPart := 3 })] }
    (getCluster (s 0) 0).scrub = some 0 ∧ 0 ≤ nowOf (s 0) 0 ∧ (getCluster (s 1) 0).scrub = some 1 ∧ nowOf (s 1) 0 < 1 ∧ Serving timed 0 ∧ (getCluster timed 1).scrub = none ∧ (getDie timed 0).power ≠ .off ∧ (getCluster timed 1).task = .none ∧
    launchesOn timed 1 = [] ∧ dieIdle timed 1 = true ∧ (getDie timed 1).writing = false ∧ dieIdle timed 0 = false ∧
    (let d := fun n => { timed with dies := [(0, { Die.reset with scrub := some n })] }
     (getDie (d 0) 0).scrub = some 0 ∧ 0 ≤ nowOf (d 0) 0 ∧ (getDie (d 1) 0).scrub = some 1 ∧ nowOf (d 1) 0 < 1) := by decide

theorem witness_RegisterEvents : (getMod timed 0).up = true ∧ (getMod { timed with mods := [(0, { Module.reset with up := false })] } 0).up = false ∧
    (queueAt timed 0 63).part = 0 ∧ Allowed 0 (queueAt timed 0 63).part ∧ (queueAt timed 0 63).go = false ∧ ¬ Allowed 3 (queueAt timed 0 63).part ∧
    (queueAt (ringed [] (queue id) id) 0 0).go = true ∧ Allowed 2 (getCluster timed (96 * 0 + 0)).part := by decide
theorem witness_RegisterEvents_firmware : let at_ := fun n => withMod fun x => { x with sbst := n, fwPause := 0 }
    Serving (at_ 0) 0 ∧ (getMod (at_ 1) 0).sbst = 1 ∧ (getMod (at_ 3) 0).sbst = 3 ∧ (getMod (at_ 4) 0).sbst = 4 ∧ (∀ q ∈ (getMod (at_ 3) 0).queues, q.2.retries = 0) ∧
    (getMod (at_ 3) 0).shoots = [] ∧ dieIdle timed 0 = false ∧ dieIdle timed 7 = true := by decide

theorem witness_ErrorEvents : (errorOwner timed (.regspace 0 0)).2.1 = 2 ∧ (errorOwner timed (.weight 0 0x40000000)).2.1 = 0 ∧ wordOf (.scratch 0 0x1000000) ≠ none ∧
    0x300000 / 64 ∉ (getMod timed 0).marks ∧ (frameOf paged 0 0x200000).owner = 2 ∧ Tbl.get [] (getMod timed 0).erasures 3 = [] ∧
    (frameOf timed 0 0x200000).pin = 0 ∧ (frameOf timed 0 0x200000).swap = false ∧ handNow timed 0 0 = none := by decide
theorem witness_ErrorEvents_link : let s := { withMod (fun x => { x with down := (List.range 32).map fun p => (p, 0), time := { x.time with now := 19 * 10 ^ 9 * 10000 } }) with
      jobs := [{ jobOne with decls := [] }], clusters := [] }
    (∀ p, p < 32 → ∃ x ∈ (getMod s 0).down, x.1 = p) ∧ (∀ x ∈ (getMod s 0).down, x.2 + 10000 ≤ nowOf s 0) ∧ 0 ∈ jobOne.members ∧ memberOf jobOne 0 ∉ jobOne.dead ∧
    (let z := withMod fun x => { x with down := (List.range 31).map fun p => (p, 0) }
     ¬ ∀ p, p < 32 → ∃ x ∈ (getMod z 0).down, x.1 = p) ∧ ∀ x ∈ (getMod timed 0).down, x.1 ≠ 3 := by decide
theorem witness_ErrorEvents_die : let s := tasked .running .running id id id
    let l := launch .running (packet 1 id)
    (getMod s 0).launches = [l] ∧ l.status = 0 ∧ 0 / 12 = 0 ∧ (getCluster s 0).ctx.uid = l.uid ∧ (getCluster s 0).task ≠ .none := by decide
theorem witness_ErrorEvents_refresh : let s := fun r n => { withMod (fun x => { x with time := { x.time with now := 19 * 10 ^ 9 * n } }) with dies := [(0, { Die.reset with refresh := r })] }
    let age := fun (s : State) (g : Nat) => (dieTime s 0 + 64000 - ((getMod s 0).cfg.wsPhase + 4000 * g) % 64000) % 64000
    (getDie (s [] 0) 0).refresh = [] ∧ age (s [] 0) 0 < 800 ∧ 800 ≤ age (s [] 800) 0 ∧ (getDie (s [(3, 1)] 0) 0).refresh = [(3, 1)] ∧ dieTime (s [(3, 1)] 0) 0 < 1 ∧
    dieTime (s [(3, 0)] 0) 0 = 0 ∧ 800 ≤ age (s [(3, 0)] 0) 3 := by decide

theorem witness_PowerEvents : (let x := getCluster timed 0; x.hold ≠ timed.cycle ∧ x.hold ≠ timed.cycle + 1 ∧ x.lastWake = 0) ∧
    (getCluster { timed with clusters := [(0, { running with hold := 101 })] } 0).hold = timed.cycle + 1 ∧
    (∀ i, i < 12 → (getCluster { timed with place := 1 } (12 * 1 + i)).part = 0 ∧ (getCluster timed (12 * 1 + i)).task = .none) ∧ (getCluster timed 0).task ≠ .none ∧
    (let d := fun at_ => getDie { at1500 id with dies := [(0, { Die.reset with power := .off, powerAt := at_ })] } 0
     (d 0).power = .off ∧ (d 0).powerAt = 0 ∧ nowOf (at1500 id) 0 < (d 1501).powerAt ∧ (d 1500).powerAt ≠ 0 ∧ (d 1500).powerAt ≤ nowOf (at1500 id) 0) ∧
    (getMod (withMod fun x => { x with standby := true, exitAt := 0 }) 0).standby = true ∧ (getMod timed 0).standby = false ∧
    (getMod timed 1).launches = [] ∧ ∀ i, i < 96 → (getCluster timed (96 * 1 + i)).task = .none := by decide
theorem witness_PowerEvents_exit : (let x := getMod (withMod fun x => { x with standby := true, exitAt := 1500, time := { x.time with now := 19 * 10 ^ 9 * 1500 } }) 0
      x.standby = true ∧ x.exitAt ≠ 0 ∧ x.exitAt ≤ x.time.now / (19 * 10 ^ 9) ∧ x.time.now / (19 * 10 ^ 9) < 1501) := by decide

/-- Job 1 in slot 5 of module 0, in a state of the halt wave. -/
def halting (st : WaveState) (f : JobSlot → JobSlot) : State :=
  withMod fun x => { x with slots := [(5, f { JobSlot.reset with used := true, job := 1, state := st })], fwPause := 0 }
theorem witness_HaltEvents : let s := halting .running id
    Serving s 0 ∧ Manages s 0 2 1 ∧ ¬ Manages s 0 3 1 ∧ getJob s 1 = some jobOne ∧ jobOne.members = [0] ∧ slotOf (getMod s 0) 1 = 5 ∧ (jobSlot s 0 1).state = .running ∧ (jobSlot s 0 1).incoming = none ∧
    (jobSlot (halting .running fun x => { x with incoming := some .zero }) 0 1).incoming = some .zero ∧
    slotOf (getMod (halting .running fun x => { x with incoming := some .zero }) 0) 1 < 16 := by decide
/-- R368: a member that the freeze signal has not reached runs on, with the record on its way; a further trigger raises its COUNT. -/
theorem test_wave_incoming : let r : CauseRec := { CauseRec.zero with cause := 0x51, member := 3 }
    let x := acceptOn r 7 JobSlot.reset
    x.state = .running ∧ (acceptOn r 9 x).takeWave.state = .freezing ∧ (acceptOn r 9 x).takeWave.causeRec.count = 1 ∧ x.takeWave.causeRec = r := by decide
theorem witness_HaltEvents_wave : let s := fun c => { halting .freezing (fun x => { x with stopped := true }) with cores := (List.range 8).map fun r => (r, c) }
    slotOf (getMod (s core) 0) 1 < 16 ∧ (jobSlot (s core) 0 1).state = .freezing ∧ (jobSlot (s core) 0 1).stopped = true ∧ (jobSlot (s core) 0 1).incoming = none ∧ (jobSlot (halting .freezing id) 0 1).incoming = none ∧
    allStopped (s { core with frozen := true }) 0 1 = true ∧ allStopped (s core) 0 1 = false ∧ 0 ∈ jobCores (s core) 0 1 ∧ (getCore (s core) 0).frozen = false ∧
    drainsLine (s core) (jobSlot (s core) 0 1) 0 = false ∧ (jobSlot (halting .freezing id) 0 1).stopped = false ∧ 0 ∈ jobCores (halting .freezing id) 0 1 ∧
    (let z := s { core with frozen := true, stores := [⟨0, 0, 0, .bytes 0 []⟩] }
     allStopped z 0 1 = false ∧ ∀ k ∈ jobCores z 0 1, (getCore z k).frozen = true) := by decide
theorem witness_HaltEvents_debug : let s := halting .frozen fun x => { x with stopped := true }
    Serving s 0 ∧ Manages s 0 2 1 ∧ (jobSlot s 0 1).state = .frozen ∧ ofJob s 0 1 (.scalar 0 3) = true ∧ ofJob s 0 1 (.scalar 768 3) = false ∧
    (getCluster s 0).task ≠ .none ∧ (getCluster s 0).ctx.job = 1 ∧ mayStep s 0 2 = true ∧ mayStep s 0 3 = false ∧ s.place ≤ 2 ^ 32 ∧ jobOne.dead = [] := by decide
theorem witness_HaltEvents_resume : let s := fun n => halting .resuming fun x => { x with stopped := true, stage := n }
    slotOf (getMod (s 0) 0) 1 < 16 ∧ (jobSlot (s 0) 0 1).state = .resuming ∧ (jobSlot (s 1) 0 1).stage = 1 ∧ (jobSlot (s 0) 0 1).q + 500 * 0 ≤ nowOf (s 0) 0 ∧
    (jobSlot (halting .resuming fun x => { x with q := 1 }) 0 1).q = 1 ∧ nowOf (s 0) 0 < 1 ∧ (jobSlot (s 3) 0 1).stage = 3 ∧ (jobSlot (s 3) 0 1).pending = none := by decide
theorem witness_HaltEvents_last : let s := { (withMod fun x => { x with
      slots := [(5, { JobSlot.reset with used := true, job := 1, state := .resuming, stopped := true, stage := 3 })], time := { x.time with now := 19 * 10 ^ 9 * 1000 }, ticks := [] }) with
        cores := [(0, { core with frozen := true })] }
    slotOf (getMod s 0) 1 < 16 ∧ (jobSlot s 0 1).state = .resuming ∧ (jobSlot s 0 1).stage = 3 ∧ (jobSlot s 0 1).q + 1000 ≤ nowOf s 0 ∧ (jobSlot s 0 1).pending = none ∧
    (∀ g, g < 16 → (tickAt s 0 g).en = false) ∧ jobCores { s with clusters := [] } 0 1 = [] ∧
    jobCores { s with clusters := [(0, { running with ctx := { running.ctx with nranks := 1 } })] } 0 1 = [0] ∧ (getCore s 0).frozen = true ∧ (getCore s 0).wait = .none ∧
    (getCore s 0).fatalCause = none ∧ (getCore s 0).stepT = none := by decide
/-- Core 0 about to issue the words at 0x1000000, which are in its fetch cache, in a cluster and a machine as given. -/
def issuingIn (cl : Cluster) (js : List Job) (c : Core) (ws : List Nat) : State :=
  let m := Mem.write [] 0x1000000 (ws.flatMap (leBytes 4))
  { inCluster { cl with scratch := m, codeOld := m } (on { c with fcache := blocksOf 0x1000000 (4 * ws.length) }) with agenda := [⟨0, .issueBundle⟩], jobs := js }
@[inherit_doc issuingIn] def issuing (c : Core) (ws : List Nat) : State := issuingIn Cluster.reset [] c ws
/-- The bundle of R64's first words: two moves; one syllable that raises a fault; one that stalls in run-ahead. -/
def twoMoves : List Nat := [0xBC000000, 0x24100050, 0x24200070]
@[inherit_doc twoMoves] def leaving : List Nat := bundleOf .X (.brk 0 1 0)
@[inherit_doc twoMoves] def stalling : List Nat := bundleOf .X (.wrsys 0 2 0x034)
/-- The words of a bundle of one E syllable, in a bundle that ends a loop body or not. -/
def bundleE (bottom : Bool) (i : Instr) : List Nat := (bundleOf .E i).set 0 ((bundleOf .E i).getD 0 0 + if bottom then 256 else 0)
/-- The state after the slots of a bundle of one syllable. -/
def afterOne (s : State) (h : Nat) (sl : Slot) (i : Instr) : State := ran (actOrder [(sl, i)]) (startOf s 0 h)
theorem witness_IssueBundle : let s := issuing core twoMoves
    IssuesNow s 0 ∧ BundleAt s 0 0xBC000000 [(.X, .movi 0 1 5), (.Y, .movi 0 2 7)] ∧
    (let u := ran (actOrder [(.X, .movi 0 1 5), (.Y, .movi 0 2 7)]) (startOf s 0 0xBC000000)
     u.focus.stall = none ∧ roomFor (getCore u 0) u.focus = true ∧ u.focus.deferred = [] ∧ u.focus.events = [] ∧ u.focus.ectl = .none ∧ u.focus.wait.awaits = false ∧
      (getCore u 0).replay = none) ∧ Instr.placeOk .issueBundle 0 = true := by
  refine ⟨by decide, ⟨by decide, by decide, by decide, by decide, by decide, by decide, by decide, by decide, rfl⟩, ?_, ?_⟩ <;> decide
theorem witness_IssueBundle_fault : let s := issuing core leaving
    IssuesNow s 0 ∧ BundleAt s 0 (leaving.getD 0 0) [(.X, .brk 0 1 0)] ∧
    (let u := afterOne s (leaving.getD 0 0) .X (.brk 0 1 0)
     u.focus.stall = none ∧ roomFor (getCore u 0) u.focus = true ∧ u.focus.deferred = [] ∧ u.focus.events = [(Slot.X.num, 0x13, 4, false)] ∧
      u.focus.ectl = .none ∧ u.focus.wait = .none ∧ (getCore u 0).handler = false ∧ (getCore u 0).tvec ≠ 0) := by
  refine ⟨by decide, ⟨by decide, by decide, by decide, by decide, by decide, by decide, by decide, by decide, rfl⟩, ?_⟩
  decide
theorem witness_IssueBundle_stall : let s := fun r => issuing { core with ra := some r } stalling
    IssuesNow (s ahead) 0 ∧ BundleAt (s ahead) 0 (stalling.getD 0 0) [(.X, .wrsys 0 2 0x034)] ∧
    (afterOne (s ahead) (stalling.getD 0 0) .X (.wrsys 0 2 0x034)).focus.stall.isSome = true ∧
    (let z := issuing { core with ra := some { ahead with jbytes := 32768 } } (bundleOf .X (.movi 0 1 5))
     let u := afterOne z ((bundleOf .X (.movi 0 1 5)).getD 0 0) .X (.movi 0 1 5)
     u.focus.stall = none ∧ roomFor (getCore u 0) u.focus = false) := by
  refine ⟨by decide, ⟨by decide, by decide, by decide, by decide, by decide, by decide, by decide, by decide, rfl⟩, ?_, ?_⟩ <;> decide
theorem witness_IssueBundle_arm : let s := issuingIn running [jobTwo 0 false] { core with chans := [(0, { Chan.zero with enr := true })] } (bundleE false (.abr 0 0 0 false 4))
    let i : Instr := .abr 0 0 0 false 4
    IssuesNow s 0 ∧ BundleAt s 0 ((bundleE false i).getD 0 0) [(.E, i)] ∧
    (let u := afterOne s ((bundleE false i).getD 0 0) .E i
     u.focus.stall = none ∧ roomFor (getCore u 0) u.focus = true ∧ u.focus.deferred = [] ∧ u.focus.events = [] ∧ u.focus.ectl = .arm 0x1000010) := by
  refine ⟨by decide, ⟨by decide, by decide, by decide, by decide, by decide, by decide, by decide, by decide, rfl⟩, ?_⟩
  decide
theorem witness_IssueBundle_call : let s := issuingIn running [jobTwo 0 true] { core with chans := [(0, { Chan.zero with enr := true })] } (bundleE false (.abr 0 0 0 false 4))
    let i : Instr := .abr 0 0 0 false 4
    IssuesNow s 0 ∧ BundleAt s 0 ((bundleE false i).getD 0 0) [(.E, i)] ∧
    (let u := afterOne s ((bundleE false i).getD 0 0) .E i
     u.focus.stall = none ∧ roomFor (getCore u 0) u.focus = true ∧ u.focus.deferred = [] ∧ u.focus.events = [] ∧
     u.focus.ectl = .call (runAheadOf 0 false 0 0 false 0x1000000 0x1000010 0) false) := by
  refine ⟨by decide, ⟨by decide, by decide, by decide, by decide, by decide, by decide, by decide, by decide, rfl⟩, ?_⟩
  decide
theorem witness_IssueBundle_rte : let s := issuing { core with handler := true } (bundleE false (.rte 0))
    IssuesNow s 0 ∧ BundleAt s 0 ((bundleE false (.rte 0)).getD 0 0) [(.E, .rte 0)] ∧
    (let u := afterOne s ((bundleE false (.rte 0)).getD 0 0) .E (.rte 0)
     u.focus.stall = none ∧ roomFor (getCore u 0) u.focus = true ∧ u.focus.deferred = [] ∧ u.focus.events = [] ∧ u.focus.ectl = .rte ∧ u.focus.ctl = .seq) := by
  refine ⟨by decide, ⟨by decide, by decide, by decide, by decide, by decide, by decide, by decide, by decide, rfl⟩, ?_⟩
  decide
theorem witness_IssueBundle_landing : let s := issuingIn { running with preempt := true } [] core (bundleE true (.live 0 3))
    IssuesNow s 0 ∧ BundleAt s 0 ((bundleE true (.live 0 3)).getD 0 0) [(.E, .live 0 3)] ∧
    (let u := afterOne s ((bundleE true (.live 0 3)).getD 0 0) .E (.live 0 3)
     u.focus.stall = none ∧ roomFor (getCore u 0) u.focus = true ∧ u.focus.deferred = [] ∧ u.focus.events = [] ∧ u.focus.ectl = .landing 0x1000100) := by
  refine ⟨by decide, ⟨by decide, by decide, by decide, by decide, by decide, by decide, by decide, by decide, rfl⟩, ?_⟩
  decide
theorem witness_IssueBundle_deferred : let s := issuing { core with regs := { core.regs with sTag := [(2, some tag)] } } stalling
    IssuesNow s 0 ∧ BundleAt s 0 (stalling.getD 0 0) [(.X, .wrsys 0 2 0x034)] ∧
    (let u := afterOne s (stalling.getD 0 0) .X (.wrsys 0 2 0x034)
     u.focus.stall = none ∧ roomFor (getCore u 0) u.focus = true ∧ u.focus.deferred = [tag] ∧ tag.cause = 0x10 ∧ (getCore s 0).handler = false ∧ (getCore s 0).tvec ≠ 0) := by
  refine ⟨by decide, ⟨by decide, by decide, by decide, by decide, by decide, by decide, by decide, by decide, rfl⟩, ?_⟩
  decide
theorem witness_IssueBundle_misaligned : let s := issuing { core with pc := 0x1000002 } twoMoves
    IssuesNow s 0 ∧ TrapOpen s 0 ∧ (getCore s 0).ra = none ∧ inScratch (getCore s 0).pc 4 = true ∧ (getCore s 0).pc % 4 ≠ 0 := by decide
theorem witness_StepRunsMove : (issuing core twoMoves).agenda = ⟨0, .issueBundle⟩ :: [] ∧ Instr.wf .issueBundle = true ∧ Instr.placeOk .issueBundle 0 = true ∧
    (Instr.wf .issueBundle && Instr.placeOk .issueBundle (768 * 512)) = false ∧ (on core).agenda = [] := by decide
theorem witness_Landing : (7 : Nat) < 8 ∧ (Regs.clean.land Regs.clean (.pair 7 true none)).getP 14 = true ∧ (Regs.clean.land Regs.clean (.pair 7 true none)).getP 15 = false ∧
    (Regs.clean.land Regs.clean (.sreg 63 9 (some tag))).getS 63 = 0 ∧ (Regs.clean.land Regs.clean (.sreg 63 9 (some tag))).tagS 63 = some tag := by decide
theorem witness_DecodeOfEncode : (Instr.movi 15 63 (-32768)).wf = true ∧ Slot.X ∈ (Instr.movi 15 63 (-32768)).slots ∧ Slot.Y ∈ (Instr.movi 15 63 32767).slots := by decide
theorem witness_EncodeOfDecode : 0x24100050 < 2 ^ 32 ∧ decodeSyl .X 0x24100050 none = .ok (.movi 0 1 5) := ⟨by decide, rfl⟩
theorem witness_DecodeChecks : (0xBC000000 / 2 ^ 28 % 16 = 11) ∧ (0xBC000000 / 2 ^ 8 % 4 < 2) ∧ (0xBC000000 % 16 = 0) ∧
    (∀ sl ∈ Slot.all, hasExt 0xBC000000 sl = true → hasSlot 0xBC000000 sl = true) ∧ namesClash (takeSyls 0xBC000000 Slot.all [0x24100050, 0x24200070]) = false ∧
    namesClash (takeSyls 0xBC000000 Slot.all [0x24100050, 0x24100070]) = true ∧ ¬ 0xAC000000 / 2 ^ 28 % 16 = 11 ∧ ¬ 0xBC000001 % 16 = 0 ∧
    (∃ sl ∈ Slot.all, hasExt 0xB8008000 sl = true ∧ hasSlot 0xB8008000 sl = false) := by decide
theorem witness_NoSyllableIsAHeader : 44 ≤ 0xB0000000 / 2 ^ 26 % 64 ∧ 0xBFFFFFFF / 2 ^ 26 % 64 ≤ 47 ∧
    decodeBundle 0xBC000000 false [0x24100050, 0x24200070] = .ok [(.X, .movi 0 1 5), (.Y, .movi 0 2 7)] := ⟨by decide, by decide, rfl⟩
theorem witness_StepKeepsMemory : (issuing core twoMoves).memOk ∧ ∃ t, step (issuing core twoMoves) = .next t := by
  refine ⟨⟨fun x hx => ?_, fun x hx => ?_, fun x hx => (by cases hx), fun x hx => (by cases hx)⟩, _, rfl⟩
  · cases List.mem_singleton.mp hx; exact ⟨by decide, fun r h => nomatch h⟩
  · cases List.mem_singleton.mp hx; exact ⟨by decide, by decide⟩

/-! ### Witnesses of the clauses that name more than one unit -/

theorem witness_SystemRegisters_read : (let x := { Ctx.none with bcast := true, skew := [0, 1, 2, 3, 4, 5, 6, 15] }
     x.bcast = true ∧ x.skew = [0, 1, 2, 3, 4, 5, 6, 15] ∧ ∀ y ∈ x.skew, y < 16) ∧ Ctx.none.bcast = false ∧
    (let c := { core with loops := [⟨2, 0, 0⟩, ⟨7, 0, 0⟩] }; c.loops.reverse[0]? = some ⟨7, 0, 0⟩ ∧ c.loops.length ≤ 2) := by decide

theorem witness_MatrixForms_faults : (viewOf (focusCore (on core)) 0 9).cfg = false ∧ (∃ bs, popStat (on reading) 1 = .entry bs false) ∧
    (viewOf (focusCore (on core)) 2 9).cfg = false ∧ (viewOf (focusCore (on core)) 2 0).rows < 4 ∧
    sourceTag (on { core with regs := { core.regs with mTag := [(0, some tag)] } }) (⟨false, 0⟩, .ln6) = some tag ∧
    (viewOf (focusCore (on core)) 1 0).tfmt ≠ .f32 ∧ (viewOf (focusCore (on core)) 1 0).rows < 2 ∧ (viewOf (focusCore (on core)) 1 0).cfg = true :=
  ⟨by decide, ⟨List.replicate 512 0, rfl⟩, by decide, by decide, by decide, by decide, by decide, by decide⟩
/-- An accumulator row of zeros whose check values are P and W, with checks on and a tolerance of 2^-2 of the greatest. -/
def weighed (cor : Bool) (p w : Nat) : Compared × Nat :=
  let c := { core with mtol := 2 + 256 + (if cor then 512 else 0), regs := { core.regs with chk := [(3, ⟨p, 0, w, 0, false, false⟩)] } }
  (comparedOf (on c) (rowAt (on c) 0 3) (Tbl.get .clean c.regs.chk 3), c.mtol)
theorem witness_MatrixForms_compare : (let x := (weighed true 0x3F800000 0x40400000).1
     x.cp = 0x3F800000 ∧ x.cw = 0x40400000 ∧ x.eP = 0xBF800000 ∧ x.eW = 0xC0400000 ∧ locate (unpack .f32 x.eW) (unpack .f32 x.eP) = 2 ∧
       (((unpack .f32 x.cp).abs.scale (-2)).lt (unpack .f32 x.eP).abs = true) ∧
       ((((unpack .f32 x.cp).abs.scale (-2)).scale 6).lt ((unpack .f32 x.eW).add ((FVal.fin false 3 0).mul (unpack .f32 x.eP)).neg).abs = false)) ∧
    bit (weighed true 0 0).2 9 = true ∧ bit (weighed false 0 0).2 9 = false ∧
    (let x := (weighed true 0 0).1
     (unpack .f32 x.eP).abs.lt (unpack .f32 x.eP).abs = false ∧ (unpack .f32 x.dp).finite = true ∧ (unpack .f32 x.dw).finite = true) ∧
    (unpack .f32 (weighed true 0x7F800000 0).1.cp).finite = false := by decide +kernel
/-- A tile of four columns of LN6 that ends with the register space. -/
def lastTile : View := ⟨0x37FFC0, 1, true, 1, 3, .ln6, 1⟩
theorem witness_TileSlices_gather : lastTile.cols < 128 ∧ (lastTile.cols + 1) % 4 = 0 ∧ SliceFits lastTile .ln6 false 1 false ∧ SliceFits lastTile .ln6 true 3 false ∧
    lastTile.base + 32 * lastTile.pitch * lastTile.rows + rowBytes .ln6 (lastTile.cols + 1) ≤ 0x380000 := by decide
theorem witness_AgreementSyllables_alone : let s := { inCluster running (on { core with chans := [(0, { Chan.zero with enr := true })] }) with jobs := [jobTwo 0 false] }
    let c := channelOf (jobTwo 0 false) 0
    let x := chanOf (focusCore s) 0
    Enabled s 0 ∧ inRa s = false ∧ getJob s (itsCluster s).ctx.job = some (jobTwo 0 false) ∧ (declOf (jobTwo 0 false) 0).map (fun d => d.npm) = some 1 ∧ x.enr = true ∧ x.seq = c.n ∧
    x.failed = false ∧ c.failed = false ∧ c.gather = false ∧ (itsCluster s).ctx.member ∉ (jobTwo 0 false).dead ∧ emptyPlaces (jobTwo 0 false) 1 c = [] ∧
    (∀ y ∈ expectedIn (jobTwo 0 false) c c.n, y.core = s.focus.core ∧ y.uid = (itsCluster s).ctx.uid ∧ y.finished = false) := by decide
theorem witness_AgreementSyllables_join : PlaceFree { Channel.fresh with gather := true } 0 1 0 ∧
    (∀ n, ¬ PlaceFree { Channel.fresh with places := [⟨0, 0, false, 8, 1, false, some 0⟩] } 0 1 n) ∧
    PlaceFree { Channel.fresh with places := [⟨0, 0, true, 8, 1, false, some 0⟩] } 0 1 0 := by
  refine ⟨⟨Nat.zero_lt_one, ?_⟩, fun n h => ?_, Nat.zero_lt_one, ?_⟩
  · rw [if_pos ⟨0, Nat.zero_lt_one, fun p h => nomatch h⟩]
    exact ⟨fun p h => (nomatch h), fun k h => absurd h (Nat.not_lt_zero k)⟩
  · obtain ⟨h, h'⟩ := h
    obtain rfl : n = 0 := by omega
    split at h'
    · exact h'.1 _ (List.mem_singleton.mpr rfl) rfl rfl
    · obtain ⟨⟨p, hp, _, _, hf⟩, _⟩ := h'
      cases List.mem_singleton.mp hp; exact nomatch hf
  · rw [if_neg (fun ⟨k, hk, he⟩ => he _ (List.mem_singleton.mpr rfl) rfl (show 0 = k by omega))]
    exact ⟨⟨_, List.mem_singleton.mpr rfl, rfl, rfl, rfl⟩, fun k h => absurd h (Nat.not_lt_zero k)⟩
theorem witness_TrapAndUnwind_regions : let c := { core with regions := [(0x1000800, 0)] }
    c.landedRegions = [(0x1000800, 0)] ∧ (∀ p ∈ c.pend, ∀ rs, p.eff ≠ .regions rs) ∧
    { c with pend := [⟨101, 100, 8, false, .regions [(0x1000900, 1), (0x1000800, 0)]⟩] }.landedRegions = [(0x1000900, 1), (0x1000800, 0)] ∧
    (fixRows c.regs c.regs 0 [⟨101, 100, 1, false, .sreg 4 1 none⟩]).length = 1 :=
  ⟨rfl, fun _ h => (nomatch h), rfl, rfl⟩
theorem witness_WakeEvents_fence : fenceDone (on core) 0 2 100 = true ∧
    fenceDone (on { core with stores := [⟨103, 99, 1, .bytes 0x1000000 [1]⟩] }) 0 0 100 = false := by decide
theorem witness_WakeEvents_written : let s := on { core with wait := .waita 0x1000000 8 .ge 1 0 99 none }
    (getCore s 0).wait = .waita 0x1000000 8 .ge 1 0 99 none ∧ meets 0x1000000 1 0x1000000 8 = true ∧ (99 : Nat) < s.cycle ∧
    1 ≤ leNat (readScratch (getCluster (scratchWrite 0 false 0x1000000 [1] s) 0) 0x1000000 8) ∧ meets 0x1000008 1 0x1000000 8 = false := by decide
theorem witness_WakeEvents_due : let s := { inCluster { running with due := [⟨0, 2, 0, window.cbase, [1], false, .nothing⟩] } timed with
      cores := [(0, { core with wait := .tokget 0 4 3 7 100 101 300 0 none [] [] })] }
    windowFor s 0 0 = some window ∧ payloadDue s 0 window 3 = true ∧ (100 : Nat) < 300 ∧ s.cycle = 100 := by decide
theorem witness_GraphEvents_beyond : let s := fun g => flying (.signal 0 g) (graphed copyOp .armed)
    let g := { signalTo 5 with cnt := 1 }
    ArrivedFree (s g) (.signal 0 g) ∧ receiversHeld (s g) 0 1 = false ∧ runVs (landed (s g)) 0 1 0 1 5 = (some 0, .eq) ∧ slotAt (s g) 0 1 = some (graphOf copyOp .armed) ∧
    guestSave (s g) 0 = false ∧ (graphOf copyOp .armed).ncnt ≤ g.cnt ∧ (signalTo 5).cnt < (graphOf copyOp .armed).ncnt ∧
    signalBad (landed (s (signalTo 5))) 0 1 copyOp = false ∧
    (let z := onMod (s (signalTo 5)) 0 fun x => { x with parts := [(2, { Part.reset with act := true, uid := 1, lcl := 0 })] }
     guestSave z 0 = true) ∧ deadHere (s g) 1 0 = false :=
  ⟨arrivedFree _ _ rfl rfl, by decide, by decide, by decide, by decide, by decide, by decide, by decide, by decide, by decide⟩
theorem witness_QueueEvents_malformed : let s := ringed (packet 1 id) (queue fun q => { q with qbase := 0x400000, qcack := 2 }) fun x =>
      { x with hbm := Mem.write x.hbm 0x13010 (leBytes 8 (2 ^ 63 + 3)) }
    (getMod s 0).up = true ∧ (getMod s 0).fwHeld = [] ∧ ((queueAt s 0 0).qpos + 2 ^ 32 - (queueAt s 0 0).qcack % 2 ^ 32) % 2 ^ 32 ≥ 2 ^ 31 ∧
    ringPlace (getMod s 0) (queueAt s 0 0) 0x400000 64 = .inl false := by decide +kernel
theorem witness_LaunchEvents_gone : let s := ringed (packet 1 id) (queue fun q => { q with pkts := [⟨packet 1 id, false, true⟩] }) id
    let t := ringed (packet 1 id) (queue fun q => { q with pkts := [⟨packet 1 fun ws => ws.set 13 1, false, false⟩] }) id
    (queueAt s 0 0).pkts = ⟨packet 1 id, false, true⟩ :: [] ∧ headLaunch (getMod s 0) 0 = none ∧ (queueAt s 0 0).en = true ∧
    (queueAt t 0 0).pkts = ⟨packet 1 fun ws => ws.set 13 1, false, false⟩ :: [] ∧ packetBad t 0 2 (packet 1 fun ws => ws.set 13 1) = true := by decide +kernel
theorem witness_LaunchEvents_owner : let s := { launching .ready writing32 id with dies := [(0, { Die.reset with owner := 2 })] }
    writeBad s 0 2 writing32 = false ∧ writeBad s 0 3 writing32 = true ∧ (queueAt s 0 0).part = 2 := by decide +kernel
theorem witness_TaskEvents_clear : let s := tasked .running .running id (fun x => { x with parts := [(2, frames4)] }) id
    (∀ x ∈ (getMod s 0).parts, x.2.act = true → x.2.dir = false → x.2.uid ≠ 1) ∧ (getMod s 0).faultWait = [] ∧ (getCore s 0).seq = .running ∧
    (∀ k ∈ usedCores s 0, liveError s k = none) ∧ saved.cl.graphs = [] ∧ saved.cl.recon = 0 ∧ (∀ l ∈ (getMod s 0).launches, l.uid = saved.uid → l.state ≠ .failing) ∧
    reconDue s 0 = false ∧ (∀ x ∈ (getCluster s 0).due, x.cls ≠ 4) ∧ ({ s with place := 1 } : State).place ≠ 0 ∧ s.place = 0 := by decide +kernel
theorem witness_EngineEvents_whole : let q := queuedReq (.virt 0 0x1000000) (.window 1 9 0) 1 1 0
    let h := chunk (some [1]) pages
    let s := copying q (some h)
    EngineFree s 0 0 ∧ handNow s 0 0 = some h ∧ reqNow s 0 0 3 = some q ∧ wholeChunk s 0 q = true ∧ h.off + (h.buf.getD []).length < h.len ∧
    mapOf h.maps false ((h.src + (h.off + (h.buf.getD []).length)) % 2 ^ 57) = some (0, 0x200001) := by decide
theorem witness_EngineEvents_windowed : let x := { lockBinding with win := true, wkey := 9 }
    let s := fun c => flying (.window 0 1 9 0 [1] false c 3) (inCluster { running with bindings := [x] } timed)
    (∀ c, c = 0 ∨ c = 1 → ArrivedFree (s c) (.window 0 1 9 0 [1] false c 3) ∧ windowCluster (s c) 0 1 9 = some (0, 0) ∧ (getCluster (s c) 0).bindings[0]? = some x) ∧
    receiversHeld (s 0) 0 1 = false ∧ 0 + 1 ≤ x.size := by
  refine ⟨?_, by decide, by decide⟩
  rintro c (rfl | rfl) <;> exact ⟨⟨99, by decide, by decide⟩, by decide, by decide⟩
/-- Module 1 of job 1 without a link. -/
def severed : State := { paged with mods := paged.mods ++ [(1, { Module.reset with down := (List.range 32).map fun p => (p, 0) })] }
theorem witness_PageEvents_cut : noPath severed 0 1 = true ∧ noPath severed 0 0 = false ∧ guestSave paged 0 = false ∧ baseOpen paged 0 0 = true ∧
    baseOpen (onMod paged 0 fun x => { x with updating := some (2 ^ 16) }) 0 0 = false := by decide
theorem witness_JobEvents_barred : (let s := withMod fun x => { x with updating := some 0 }
     (getMod s (0 / 12 / 8)).updating = some (0 / 12) ∧ Serving s 0) ∧ (getMod timed 0).updating = none ∧ (getMod timed 0).fwHeld = [] ∧
    (getMod { timed with mods := [(0, { Module.reset with up := false })] } 0).up = false ∧
    slotFor (getMod timed 0) 5 = some 0 := by decide
theorem witness_RegisterEvents_takeover : let s := fun f => withMod fun x => f { x with sbst := 3, fwPause := 0 }
    quiescent (s id) 0 = true ∧ quiescent (s fun x => { x with swaps := [(0, some ⟨[], 0, []⟩)] }) 0 = false ∧
    quiescent { s id with agenda := [⟨2 ^ 32, .partAssign 0 3⟩] } 0 = false ∧ (getMod timed 0).up = true ∧ (getMod timed 0).standby = false := by decide
theorem witness_RegisterEvents_rejoin : let s := fun f => withMod fun x => f { x with ioLo := 1, ioHi := 3 }
    (getMod (s id) 0).updHalted = false ∧ (getMod (s fun x => { x with updHalted := true }) 0).updHalted = true ∧ (getMod (s id) 0).updating = none ∧
    (getMod (s fun x => { x with updating := some 7 }) 0).updating ≠ none ∧ (getMod (s id) 0).sbst = 0 ∧ max 2 (getMod (s id) 0).ioLo ≤ min 4 (getMod (s id) 0).ioHi ∧
    ¬ max 4 (getMod (s id) 0).ioLo ≤ min 5 (getMod (s id) 0).ioHi ∧ (∀ n ∈ [(1, 2)], max 2 n.1 ≤ min 4 n.2) ∧ dieIdle (s id) 7 = true ∧
    (getDie (s id) 7).writing = false ∧ (∀ v ∈ (getMod (s id) 0).saves, v.cluster / 12 ≠ 7) ∧ dieIdle (s id) 0 = false := by decide
theorem witness_ErrorEvents_symbols : (let d := fun (e syms : List Nat) (sym : Nat) =>
      let t := (sym :: syms).eraseDups
      8 < 2 * (t.filter fun y => !e.contains y).length + e.length
    ¬ d [] [1, 2, 3] 4 ∧ d [] [1, 2, 3, 4] 5 ∧ d [1, 2, 3, 4, 5, 6] [7] 8 ∧ ¬ d [1, 2, 3, 4, 5, 6] [] 7 ∧ ¬ d [1] [7, 8] 9) ∧
    (let x := { getMod timed 0 with corrected := List.replicate 63 (0, 4, 0) }
     (x.corrected.filter fun y => decide (nowOf timed 0 ≤ y.2.2 + 10 ^ 12) && y.1 == 0 && y.2.1 == 4).length = 63 ∧ (Tbl.get [] x.erasures 0).length < 16) ∧
    (getMod timed 0).corrected = [] ∧ 0x300000 / 64 ∉ (getMod timed 0).marks ∧ (frameOf timed 0 0x300000).owner = 0 ∧ (frameOf paged 0 0x200000).owner ≠ 0 ∧
    0x300000 / 64 ∈ ({ getMod timed 0 with marks := [0x300000 / 64] } : Module).marks := by decide +kernel
theorem witness_ErrorEvents_places : wordOf (.fcache 0 0x1000000) ≠ none ∧ 0x1000000 / 512 ∈ ({ core with fcache := [0x1000000 / 512] } : Core).fcache ∧
    (errorOwner timed (.fcache 0 0x1000000)).2.1 = 0 ∧
    (let s := onMod timed 0 fun x => { x with contribs := [partTo 5] }; (getMod s 0).contribs = [partTo 5] ∧ (getMod s 0).partials = []) ∧
    nowOf timed 0 / 2 ^ 46 = (nowOf timed 0 + 1) / 2 ^ 46 ∧
    (let s := withMod fun x => { x with time := { x.time with now := 19 * 10 ^ 9 * (2 ^ 46 - 1) } }
     nowOf s 0 / 2 ^ 46 ≠ (nowOf s 0 + 1) / 2 ^ 46) ∧
    isMarked { timed with marks := [(3, 0, 0x40000000)] } 3 0 (0x40000000 + 0 / 8 * 8) 8 = true := by decide +kernel
theorem witness_ErrorEvents_repair : let es := [1, 2, 3, 4, 5, 6, 7]
    let s := fun (v : List Nat) => withMod fun x => { x with erasures := [(3, es)], vacated := v }
    6 < (Tbl.get [] (getMod (s [1]) 0).erasures 3).length ∧ (frameOf (s [1]) 0 65536).pin = 0 ∧ (frameOf (s [1]) 0 65536).swap = false ∧
    65536 / 65536 ∈ (getMod (s [1]) 0).vacated ∧ 65536 / 65536 ∉ (getMod (s []) 0).vacated ∧
    (let z := onMod (s []) 0 fun x => { x with up := false }; (getMod z 0).up = false ∧ 6 < (Tbl.get [] (getMod z 0).erasures 3).length) := by decide
theorem witness_PowerEvents_update : (let s := withMod fun x => { x with updating := some 0 }
     (getMod s (0 / 8)).updating = some 0) ∧ (getMod timed 0).updating ≠ some 0 ∧ (getCluster { timed with place := 1 } 12).scrub = none ∧
    (getDie timed 1).writing = false ∧ (getMod timed 0).repaired = [] := by decide
theorem witness_HaltEvents_stages : let s := fun n q => halting .resuming fun x => { x with stopped := true, stage := n, q := q }
    (jobSlot (s 2 0) 0 1).state = .resuming ∧ (jobSlot (s 2 0) 0 1).stage = 2 ∧ (jobSlot (s 2 0) 0 1).q + 1000 ≤ nowOf (at1500 id) 0 ∧
    (∀ c ∈ jobClusters (s 1 0) 0 1, (getCluster (s 1 0) c).graphs = []) ∧ (jobSlot (s 2 1) 0 1).stage ≠ 1 ∧
    (∀ x, x ∈ ({ core with held := [(1, ⟨101, 100, 1, false, .sreg 4 1 none⟩)] } : Core).held → x.1 = 1) := by decide
theorem witness_IssueBundle_end : let s := issuing { core with handler := true } (bundleE false (.rte 0))
    let u := afterOne s ((bundleE false (.rte 0)).getD 0 0) .E (.rte 0)
    (nextPos u.focus.addr 8 u.focus.loopBottom (getCore u 0).loops u.focus.ctl).ends = false ∧ (getCore u 0).replay = none ∧ u.focus.deferred = [] ∧ u.focus.events = [] := by decide
theorem witness_DecodeChecks_reason : let ss := takeSyls 0xBC000000 Slot.all [0xB0000000, 0x24200070]
    namesClash ss = false ∧ ss.map (fun r => decodeRaw r) = [.error 8, .ok (.movi 0 2 7)] ∧ (48 ≤ 0xC0000000 / 2 ^ 26 % 64) ∧
    (0xBC000000 / 2 ^ 8 % 4 = 1 → ∀ r ∈ ss, rawControl r = false) := ⟨by decide, rfl, by decide, by decide⟩

/-! ### An ill-formed term for each check of WellFormed -/

theorem smoke_places : (Instr.coldReset 512 true 0).wf = false ∧ (Instr.wsRefreshWindow 4096 0).wf = false ∧ (Instr.wsRefreshWindow 0 16).wf = false ∧
    (Instr.streamUnitMove 393216 0).wf = false ∧ (Instr.streamUnitMove 0 4).wf = false ∧ (Instr.chunkPerform 49152 0).wf = false ∧ (Instr.chunkPerform 0 4).wf = false ∧
    (Instr.publishSwap 0 64).wf = false ∧ (Instr.agreementDeadlineExpiry 65536 0).wf = false ∧ (Instr.agreementDeadlineExpiry 0 8).wf = false ∧
    (Instr.tmcfgWrite 0 (2 ^ 64)).wf = false ∧ (Instr.tickFiring 0 16).wf = false ∧ (Instr.slotClose 0 64).wf = false ∧ (Instr.graphRunFinish 0 16).wf = false ∧
    (Instr.queueDoorbell 0 64).wf = false ∧ (Instr.queueGo 0 256 0).wf = false ∧ (Instr.queueCompletionAck 0 0 0 (2 ^ 32)).wf = false := by decide
theorem smoke_operations : (Instr.jobCreate 0 0 0 [] 0 []).wf = false ∧ (Instr.jobCreate 0 0 0 [512] 0 []).wf = false ∧ (Instr.jobCreate 0 0 0 [0] (2 ^ 52) []).wf = false ∧
    (Instr.jobCreate 0 0 0 [0] 0 [[0]]).wf = false ∧ (Instr.jobShrink 0 0 0 512).wf = false ∧ (Instr.tickSet 0 0 0 [0]).wf = false ∧ (Instr.winOpen 0 0 0 96 (List.replicate 16 0)).wf = false ∧
    (Instr.winClose 0 0 64).wf = false ∧ (Instr.cvAllot 0 0 16 [0, 0, 0, 0]).wf = false ∧ (Instr.shootdown 0 0 0 0 (2 ^ 57) 1).wf = false ∧
    (Instr.pageReady 0 0 0 512 0 0).wf = false ∧ (Instr.fabSched 0 0 0 0 0 5 0 []).wf = false ∧ (Instr.fabSched 0 0 0 0 0 0 401 []).wf = false ∧
    (Instr.fabSched 0 0 0 0 0 0 0 [32]).wf = false ∧ (Instr.partAssign 0 256).wf = false ∧ (Instr.swapCommand 0 0 []).wf = false ∧ (Instr.halt 0 0 65536).wf = false ∧
    (Instr.resumeReleaseStage 0 0 4).wf = false ∧ (Instr.fwload 0 true true 65536).wf = false ∧ (Instr.dieFirmwareRejoin 0 2 1 []).wf = false ∧
    (Instr.registerWrite 0 0 (2 ^ 32 + 2 ^ 51) (some 0)).wf = false ∧ (Instr.flitRetry 0 32).wf = false ∧ (Instr.erasureAdd 0 0 72).wf = false ∧ (Instr.hbmRepair 0 0 (2 ^ 52) true).wf = false ∧
    (Instr.peerDelayMessage 0 33 .delayReq).wf = false ∧ (Instr.registerWrite 0 0 0 (some (2 ^ 64))).wf = false ∧ (Instr.syncReceive 0 33 ⟨none, 0, 0⟩).wf = false ∧
    (Instr.syncReceive 0 0 ⟨some 512, 0, 0⟩).wf = false ∧ (Instr.syncReceive 0 0 ⟨none, 0, 8⟩).wf = false ∧ (Instr.announceReceive 0 ⟨33, announced⟩).wf = false ∧
    (Instr.announceReceive 0 ⟨0, { announced with from_ := some 512 }⟩).wf = false := by decide
theorem smoke_parts : (BitLoc.regspace 0 0x380000).wf = false ∧ (BitLoc.scratch 0 0x800000).wf = false ∧ (BitLoc.weight 0 0x40000000).wf = false ∧
    (BitLoc.hbm 0 0xC000000000).wf = false ∧ (BitLoc.array 0 128 0).wf = false ∧ (BitLoc.array 0 0 64).wf = false ∧
    (BitLoc.fcache 0 0x80000000).wf = false ∧ (BitLoc.tlb 0 4 0).wf = false ∧ (BitLoc.fold 512 0).wf = false ∧ (BitLoc.ioSram 512).wf = false ∧ (Instr.softError (.hbm 0 0) 16 true).wf = false ∧ (DbgTarget.scalar 64 0).wf = false ∧
    (DbgTarget.pred 16 true).wf = false ∧ (DbgTarget.mask 8 0).wf = false ∧ (DbgTarget.bytes 0x380000 [0]).wf = false ∧ (FaultPart.engine 0 4).wf = false ∧
    (FaultPart.die 4096).wf = false ∧ (Instr.softError (.array 0 0 0) 8 true).wf = false ∧ (Instr.tokenArrival 0 0 { token 0 with win := 64 }).wf = false := by decide
theorem smoke_scalar : (Instr.add 16 0 0 0).wf = false ∧ (Instr.add 0 64 0 0).wf = false ∧ (Instr.add 0 0 64 0).wf = false ∧ (Instr.add 0 0 0 64).wf = false ∧
    (Instr.clz 0 64 0).wf = false ∧ (Instr.addi 0 0 0 512).wf = false ∧ (Instr.addi 0 0 0 (-513)).wf = false ∧ (Instr.addiWide 0 0 0 (2 ^ 40)).wf = false ∧
    (Instr.movi 0 0 32768).wf = false ∧ (Instr.moviWide 0 0 (2 ^ 46)).wf = false ∧ (Instr.movhi 0 0 65536).wf = false ∧ (Instr.sext 0 0 0 0).wf = false ∧
    (Instr.zext 0 0 0 65).wf = false ∧ (Instr.bfx 0 0 0 0 0).wf = false ∧ (Instr.bfi 0 0 0 1 64).wf = false ∧ (Instr.madd 0 0 0 0 64).wf = false ∧
    (Instr.sld 0 0 0 3 0).wf = false ∧ (Instr.sst 0 0 0 0 128).wf = false ∧ (Instr.sldWide 0 0 0 0 (2 ^ 38)).wf = false ∧ (Instr.rdsys 0 0 0x00B).wf = false ∧
    (Instr.wrsys 0 0 0x030).wf = false := by decide
theorem smoke_control : (Instr.endOp 16).wf = false ∧ (Instr.br 0 (2 ^ 21)).wf = false ∧ (Instr.brWide 0 (2 ^ 52)).wf = false ∧ (Instr.brr 0 64).wf = false ∧
    (Instr.call 0 0 32768).wf = false ∧ (Instr.loop 0 0 0).wf = false ∧ (Instr.loopWide 0 0 (2 ^ 46)).wf = false ∧ (Instr.loopWide 0 0 0).wf = false ∧ (Instr.brk 0 0 0).wf = false ∧
    (Instr.brk 0 7 0).wf = false ∧ (Instr.brk 0 1 (2 ^ 18)).wf = false := by decide
theorem smoke_compare : (Instr.cmp 0 0 .eq 0 0).wf = false ∧ (Instr.cmp 0 8 .eq 0 0).wf = false ∧ (Instr.cmp 0 1 .unord 0 0).wf = false ∧ (Instr.cmpi 0 1 .eq 0 256).wf = false ∧
    (Instr.cmpiWide 0 1 .eq 0 (2 ^ 39)).wf = false ∧ (Instr.fcmp 0 1 .eq .i32 0 0).wf = false ∧ (Instr.pand 0 1 16 0 false false).wf = false ∧ (Instr.vany 0 1 8).wf = false := by decide
theorem smoke_vector : (Instr.vadd 0 .f32 32 0 0).wf = false ∧ (Instr.vadd 0 .ln6 0 0 0).wf = false ∧ (Instr.vand 0 .f32 0 0 0).wf = false ∧ (Instr.vfma 0 .i32 0 0 0).wf = false ∧
    (Instr.vaddExt 0 .f32 0 16 0 { VExt.none with qa := true }).wf = false ∧ (Instr.vaddExt 0 .f32 0 0 0 { VExt.none with km := 1 }).wf = false ∧
    (Instr.vaddExt 0 .f32 0 0 0 { VExt.none with ke := true, km := 8 }).wf = false ∧ (Instr.vfmaExt 0 .f32 0 0 0 { VExt.none with qd := true }).wf = false ∧
    (Instr.vabsExt 0 .f32 0 0 { VExt.none with qb := true }).wf = false ∧ (Instr.vslide 0 .f32 0 0 0 VExt.none 128).wf = false ∧ (Instr.vsum 0 .i8 0 0).wf = false ∧
    (Instr.vexp2 0 .n8 0 0).wf = false ∧ (Instr.vcvtExt 0 .f32 0 0 .f32 .rne { VExt.none with ke := true }).wf = false ∧ (Instr.vsel 0 .f32 0 0 0 8).wf = false ∧
    (Instr.vcmp 0 .i32 0 .unord 0 0).wf = false ∧ (Instr.vcmp 0 .f32 8 .eq 0 0).wf = false ∧ (Instr.vsplat 0 .f32 0 64).wf = false := by decide
theorem smoke_matrix : (Instr.mpush 0 128 false 0).wf = false ∧ (Instr.mpush 0 0 true 16).wf = false ∧ (Instr.mfeed 0 false 0 16 0).wf = false ∧ (Instr.mfeed 0 false 0 0 512).wf = false ∧
    (Instr.mshiftDown 0 0).wf = false ∧ (Instr.mshiftAcross 0 64).wf = false ∧ (Instr.mdrain 0 .i32 0 0 0 0).wf = false ∧ (Instr.mzero 0 0 512).wf = false ∧
    (Instr.kset 0 true 4 0 0).wf = false ∧ (Instr.kset 0 false 0 1 0).wf = false ∧ (Instr.kset 0 true 0 0 128).wf = false ∧ (Instr.kld 0 true 4 0).wf = false := by decide
theorem smoke_memory : (Instr.vwset 0 1 16 0).wf = false ∧ (Instr.vwset 0 3 0 0).wf = false ∧ (Instr.vwget 0 0 0 0 4).wf = false ∧ (Instr.vld 0 .f32 0 0 128).wf = false ∧
    (Instr.vldWide 0 .f32 0 0 (2 ^ 38)).wf = false ∧ (Instr.tsr 0 .f32 0 16 false 0).wf = false ∧ (Instr.tsw 0 .f32 0 0 false 512).wf = false ∧
    (Instr.qbind 0 0 0 false 0).wf = false ∧ (Instr.qbind 0 16 1 false 0).wf = false ∧ (Instr.qbindNone 0 0 false 4).wf = false ∧ (Instr.qadv 0 0 0).wf = false ∧
    (Instr.amoAdd 0 .f32 0 0 0 false).wf = false ∧ (Instr.amoCas 0 .i32 0 0 0 64 false).wf = false ∧ (Instr.vmovPush 0 0 16).wf = false := by decide
theorem smoke_system : (Instr.cpy 0 64 0).wf = false ∧ (Instr.pub 0 64).wf = false ∧ (Instr.waita 0 0 64 .eq false).wf = false ∧ (Instr.cgload 0 0 16).wf = false ∧
    (Instr.abr 0 8 0 false 0).wf = false ∧ (Instr.abr 0 0 0 false 8192).wf = false ∧ (Instr.abrWide 0 0 0 false (2 ^ 44)).wf = false ∧ (Instr.agreeSum 0 0 64).wf = false ∧
    (Instr.acall 0 0 8).wf = false ∧ (Instr.xchk 0 2 16).wf = false ∧ (Instr.waittk 0 16).wf = false ∧ (Instr.tokget 0 0 64 0).wf = false ∧ (Instr.trap 0 65536).wf = false ∧
    (Instr.rte 16).wf = false := by decide
theorem smoke_placeOk : Instr.placeOk .issueBundle 393216 = false ∧ Instr.placeOk .taskSave 49152 = false ∧ Instr.placeOk .dieOff 4096 = false ∧ Instr.placeOk .launchDecision 512 = false := by decide

/-! ### Words written out from the encodings of the spec -/

theorem test_decode_xy : decodeSyl .X 0x24100050 none = .ok (.movi 0 1 5) ∧ decodeSyl .Y 0x04304200 none = .ok (.add 0 3 1 2) ∧ decodeSyl .X 0x0440C320 none = .ok (.mul 0 4 3 3) ∧
    decodeSyl .X 0xC0000000 none = .ok (.endOp 0) := ⟨rfl, rfl, rfl, rfl⟩
theorem test_decode_c : decodeSyl .C 0b00000101000001100010000100000001 none = .ok (.cmp 1 2 .lt 3 4) := rfl
theorem test_decode_v : decodeSyl .V 0b00000100000011000010001000000000 none = .ok (.vadd 0 .f32 3 1 2) := rfl
theorem test_decode_w : decodeSyl .W 0b00001100100001000100000010000000 none = .ok (.vcvt 0 .bf16 1 2 .f32 .rz) := rfl
theorem test_decode_m : decodeSyl .M 0b00001011100001000010000001110000 none = .ok (.mfeed 0 false 2 1 7) := rfl
theorem test_decode_k : decodeSyl .K 0b00000100011000010111111101000000 none = .ok (.kset 0 true 2 5 (-3)) := rfl
theorem test_decode_l : decodeSyl .L 0b00010000000100000110000000100000 none = .ok (.vld 0 .f32 4 6 2) := rfl
theorem test_decode_e : decodeSyl .E 0b01110000001100100100000000000000 none = .ok (.tokrel 0 3 9) := rfl
-- R64, R248: `agree` names its sx as a destination, so that `movi s12, 5` beside it is a clash of names.
theorem test_agree_clash : namesClash [(.X, (encode (.movi 0 12 5)).1, none), (.E, (encode (.agreeSum 0 1 12)).1, none)] = true ∧
    namesClash [(.X, (encode (.movi 0 13 5)).1, none), (.E, (encode (.agreeSum 0 1 12)).1, none)] = false := by decide
theorem test_decode_unassigned : decodeSyl .X 0xB0000000 none = .error 8 ∧ decodeSyl .Y 0xC0000000 none = .error 8 := ⟨rfl, rfl⟩

/-! ### Single steps -/

/-- What the core of the focus holds as pending results after an instruction. -/
def pends (i : Instr) (s : State) : List Eff := match exec i s with | .next t => (focusCore t).pend.map fun p => p.eff | _ => []
/-- The faults of the bundle after an instruction. -/
def faults (i : Instr) (s : State) : List (Nat × Nat × Nat) := match exec i s with | .next t => t.focus.faults | _ => []

-- R107: `add` is taken modulo 2^64, `sra` copies the top bit, `mulh` is the high half of the signed product, `clz` of 0 is 64.
theorem test_add_wraps : pends (.add 0 4 2 3) (on { core with regs := { core.regs with s := [(2, 5), (3, 0xFFFFFFFFFFFFFFFF)] } }) = [.sreg 4 4 none] := by decide
theorem test_sra_sign : pends (.sra 0 4 3 2) (on { core with regs := { core.regs with s := [(2, 65), (3, 0x8000000000000000)] } }) = [.sreg 4 0xC000000000000000 none] := by decide
theorem test_mulh_signed : pends (.mulh 0 4 3 3) (on { core with regs := { core.regs with s := [(3, 0xFFFFFFFFFFFFFFFF)] } }) = [.sreg 4 0 none] := by decide
theorem test_clz_zero : pends (.clz 0 4 9) (on core) = [.sreg 4 64 none] := by decide
-- R108: `movhi` keeps the low 48 bits of its destination.
theorem test_movhi : pends (.movhi 0 2 0xABCD) (on core) = [.sreg 2 0xABCD000000000005 none] := by decide
-- R103: a write to s0 leaves it 0.
theorem test_s0 : ((core.regs.land core.regs (.sreg 0 9 none)).getS 0) = 0 := by decide
-- R114: an unsigned and a signed compare of −1 and 5 differ.
theorem test_cmp_signed : pends (.cmp 0 1 .lt 3 2) (on (withS3 0xFFFFFFFFFFFFFFFF)) = [.pair 1 true none] ∧
    pends (.cmp 0 1 .c4 3 2) (on (withS3 0xFFFFFFFFFFFFFFFF)) = [.pair 1 false none] := by decide
-- R109: a store of one byte keeps the low byte; R20: a misaligned one faults with detail 3.
theorem test_sst_low : pends (.sst 0 3 2 0 0) (on { core with regs := { core.regs with s := [(2, 0x40), (3, 0x1234)] } }) = [.bytes [(0x40, [0x34])] none (some 100)] := by decide
theorem test_sst_misaligned : faults (.sst 0 2 3 1 0) (on (withS3 0x1000102)) = [(0, 0x10, 3)] := by decide
-- R120: a loop count of 2^32 faults with detail 2.
theorem test_loop_count : faults (.loop 0 3 4) (on (withS3 0x100000000)) = [(0, 0x13, 2)] := by decide
-- R133: a row outside its accumulator view faults with detail 6.
theorem test_mzero_row : faults (.mzero 0 0 4) (on core) = [(0, 0x11, 6)] ∧ pends (.mzero 0 0 3) (on core) = [.mzero 0x200600] := by decide
-- R146: an unconfigured view faults with detail 1.
theorem test_view_fault : faults (.vadd 0 .f32 2 0 9) (on core) = [(0, 0x11, 1)] := by decide
-- R247: an undeclared channel faults with detail 1.
theorem test_agree_undeclared : faults (.agreeAnd 0 7 2) enrolled = [(0, 0x16, 1)] := by decide
-- R362: `rte` outside a handler faults with detail 3.
theorem test_rte_outside : faults (.rte 0) (on core) = [(0, 0x1C, 3)] := by decide
-- R95: 1.0 and 1.0 add to 2.0 in each lane; R115: FP16 NaN compares unordered.
theorem test_fadd : fadd .f32 0x3F800000 0x3F800000 = 0x40000000 ∧ fadd .bf16 0x3F80 0x4000 = 0x4040 ∧ (unpack .f16 0x7E00).cmp .unord (unpack .f16 0) = true := by decide
-- R357: a trap saves its cause and the address of the bundle, and goes to the vector from T + 4 on.
theorem test_trap : let d := getCore (takeTrap 0 0x1000020 100 0 0x40 7 (on core)) 0
    d.trapcause = 0x40 ∧ d.trapdetail = 7 ∧ d.trapaddr = 0x1000020 ∧ d.pc = 0x1000400 ∧ d.handler = true ∧ d.nextIssue = 104 := by decide
-- R362: the return goes back to the trapped bundle under its mask.
theorem test_return : let d := Core.returnTrap { core with trapaddr := 0x1000020, trapmask := 3, handler := true } 100
    d.pc = 0x1000020 ∧ d.replay = some 3 := by decide
-- R58: a step of the bundle of two moves leaves both pending and the position after them.
theorem test_step_bundle : (match step (issuing core twoMoves) with
    | .next t => (getCore t 0).pc == 0x100000C && (getCore t 0).sched == 1 && (getCore t 0).pend.map (fun p => p.eff) == [.sreg 1 5 none, .sreg 2 7 none]
    | _ => false) = true := by decide

end Sys2Proof.Tests
end

section
/-! SUPPORT. Tables, folds, open values, and the model's operations in the words of the statements. -/

namespace Sys2Proof.Machine

open Sys2Proof.Claims

/-! ### Tables and folds -/

/-- A filter on keys leaves the keys that pass it as they read, and the others unlisted. -/
theorem Tbl.get_filter_key {α : Type} (d : α) (p : Nat → Bool) (t : Tbl α) (k : Nat) :
    Tbl.get d (t.filter fun x => p x.1) k = if p k then Tbl.get d t k else d := by
  induction t with
  | nil => simp
  | cons x t ih =>
    obtain ⟨j, v⟩ := x
    by_cases hj : p j = true
    · rw [List.filter_cons_of_pos (by simpa using hj)]
      simp only [Tbl.get]
      by_cases hk : j = k
      · subst hk; simp [hj]
      · simp [hk, ih]
    · rw [List.filter_cons_of_neg (by simpa using hj), ih]
      by_cases hk : j = k
      · subst hk; simp [hj]
      · simp [Tbl.get, hk]

/-- A key that does not read as the default is listed. -/
theorem Tbl.mem_keys_of_get_ne {α : Type} {d : α} {t : Tbl α} {k : Nat} (h : Tbl.get d t k ≠ d) : k ∈ t.map Prod.fst := by
  induction t with
  | nil => exact absurd rfl h
  | cons x t ih =>
    obtain ⟨j, v⟩ := x
    by_cases hk : j = k
    · simp [hk]
    · rw [Tbl.get, if_neg hk] at h
      exact List.mem_cons_of_mem _ (ih h)

/-- What a step establishes from a property that every step keeps, and every step keeps, holds at the end of a fold through that step. -/
theorem foldl_establishes {α β : Type} {R P : β → Prop} {f : β → α → β} {xs : List α} {a : α} {b : β} (ha : a ∈ xs)
    (hR : ∀ b x, R b → R (f b x)) (hP : ∀ b x, P b → P (f b x)) (hset : ∀ b, R b → P (f b a)) (h : R b) : P (xs.foldl f b) := by
  induction xs generalizing b with
  | nil => simp at ha
  | cons x xs ih =>
    rcases List.mem_cons.mp ha with rfl | ha
    · rw [List.foldl_cons]; exact foldl_keeps hP (hset b h)
    · exact ih ha (hR b x h)

/-- A fold whose steps change what is read by one idempotent function, or not at all, changes it so if one of its steps does. -/
theorem read_foldl {α β γ : Type} (read : β → γ) {f : β → α → β} (hit : α → Prop) [DecidablePred hit] (g : γ → γ) (hg : ∀ x, g (g x) = g x)
    (hf : ∀ b a, read (f b a) = if hit a then g (read b) else read b) (xs : List α) (b : β) :
    read (xs.foldl f b) = if ∃ a ∈ xs, hit a then g (read b) else read b := by
  induction xs generalizing b with
  | nil => simp
  | cons x xs ih =>
    rw [List.foldl_cons, ih, hf]
    by_cases hx : hit x <;> by_cases hr : ∃ a ∈ xs, hit a <;> simp [hx, hr, hg]

/-- Equivalent conditions choose alike. -/
theorem ite_of_iff {α : Type} {b c : Prop} [Decidable b] [Decidable c] {x y u v : α} (h : b ↔ c) (hx : x = u) (hy : y = v) :
    (if b then x else y) = if c then u else v := by
  subst hx hy
  simp only [h]

/-! ### Open values (log 9) -/

theorem le_openValue (lo hi : Nat) (s : State) : lo ≤ (openValue lo hi s).1 := Nat.le_add_right ..
theorem openValue_le {lo hi : Nat} (h : lo ≤ hi) (s : State) : (openValue lo hi s).1 ≤ hi := by
  have : Config.freeNat s.free % (hi - lo + 1) < hi - lo + 1 := Nat.mod_lt _ (by omega)
  simp only [openValue, Config.freeIn]; omega

/-! ### The statements' words for the model's operations -/

theorem timeOf_eq (s : State) (m : Nat) : timeOf s m = nowOf s m := rfl
theorem mayCall_iff {caller part : Nat} : mayCall caller part = true ↔ Allowed caller part := by simp [mayCall]
theorem not_mayCall {caller part : Nat} (h : ¬ Allowed caller part) : mayCall caller part = false := by
  rw [← Bool.not_eq_true, mayCall_iff]; exact h
theorem refused_refuseOp (m : Nat) (s : State) : Refused m s (refuseOp m s) := ⟨_, Nat.succ_ne_zero _, rfl⟩

end Sys2Proof.Machine
end

section
/-! SUPPORT. O44: scrubs, cold reset, power holds, dies and standby (R8, R350, R395, R402 to R404). -/

namespace Sys2Proof.Machine

open Sys2Proof.Claims

/-! ### Scrubs (R350, R351, R403) -/

theorem getCluster_scrubCluster (s : State) (c d : Nat) :
    getCluster (scrubCluster c s) d = if d = c then (getCluster s d).scrubbed else getCluster s d := by
  have cores : ∀ s : State, ((List.range 8).foldl (fun s r => setCore s (8 * c + r) .reset) s).clusters = s.clusters := fun s =>
    foldl_keeps (P := fun t : State => t.clusters = s.clusters) (fun _ _ h => h) rfl
  simp only [scrubCluster, getCluster, cores]
  split
  · next h => subst h; exact getCluster_updCluster ..
  · next h => exact getCluster_updCluster_ne _ _ h

theorem getCore_scrubCluster (s : State) (c k : Nat) : getCore (scrubCluster c s) k = if k / 8 = c then .reset else getCore s k := by
  have := read_foldl (fun s => getCore s k) (f := fun s r => setCore s (8 * c + r) .reset) (fun r => k = 8 * c + r) (fun _ => .reset) (fun _ => rfl)
    (fun t r => Tbl.get_set ..) (List.range 8) (updCluster s c Cluster.scrubbed)
  refine this.trans (ite_of_iff ⟨fun ⟨r, hr, hk⟩ => ?_, fun hk => ⟨k % 8, ?_, ?_⟩⟩ rfl rfl)
  · have := List.mem_range.mp hr; omega
  · exact List.mem_range.mpr (by omega)
  · omega

/-- What a scrub of a cluster leaves as it was: all but cores, clusters and marks. -/
theorem scrubCluster_frame (s : State) (c : Nat) :
    scrubCluster c s = { s with cores := (scrubCluster c s).cores, clusters := (scrubCluster c s).clusters, marks := (scrubCluster c s).marks } := by
  have := foldl_keeps (P := fun t : State => t = { s with cores := t.cores, clusters := t.clusters, marks := t.marks })
    (f := fun s r => setCore s (8 * c + r) .reset) (xs := List.range 8) (b := updCluster s c Cluster.scrubbed) (fun t r h => by simp only [setCore]; rw [h]) rfl
  simp only [scrubCluster]; rw [this]

@[simp] theorem scrubCluster_dies (s : State) (c : Nat) : (scrubCluster c s).dies = s.dies := by rw [scrubCluster_frame]
@[simp] theorem scrubCluster_mods (s : State) (c : Nat) : (scrubCluster c s).mods = s.mods := by rw [scrubCluster_frame]
@[simp] theorem scrubCluster_cycle (s : State) (c : Nat) : (scrubCluster c s).cycle = s.cycle := by rw [scrubCluster_frame]

@[simp] theorem clearStore_cores (s : State) (d : Nat) : (clearStore d s).cores = s.cores := rfl
@[simp] theorem clearStore_clusters (s : State) (d : Nat) : (clearStore d s).clusters = s.clusters := rfl
@[simp] theorem clearStore_mods (s : State) (d : Nat) : (clearStore d s).mods = s.mods := rfl
@[simp] theorem clearStore_cycle (s : State) (d : Nat) : (clearStore d s).cycle = s.cycle := rfl
theorem getDie_clearStore (s : State) (d e : Nat) :
    getDie (clearStore d s) e = if e = d then { getDie s e with weights := [] } else getDie s e := by
  have h : getDie (clearStore d s) e = getDie (updDie s d fun x => { x with weights := [] }) e := rfl
  rw [h]
  split
  · next h => subst h; exact getDie_updDie ..
  · next h => exact getDie_updDie_ne _ _ h

theorem mem_dieClusters {c d : Nat} : c ∈ dieClusters d ↔ c / 12 = d := by
  simp only [dieClusters, List.mem_map, List.mem_range]
  exact ⟨fun ⟨i, hi, h⟩ => by omega, fun h => ⟨c % 12, by omega, by omega⟩⟩

theorem getCluster_loseDie (s : State) (d c : Nat) :
    getCluster (loseDie d s) c = if c / 12 = d then (getCluster s c).scrubbed else getCluster s c := by
  have := read_foldl (fun s => getCluster s c) (f := fun s e => scrubCluster e s) (c = ·) Cluster.scrubbed (fun _ => rfl)
    (fun t e => getCluster_scrubCluster t e c) (dieClusters d) s
  simpa only [loseDie, getCluster, clearStore_clusters, mem_dieClusters, exists_eq_right'] using this

theorem getCore_loseDie (s : State) (d k : Nat) : getCore (loseDie d s) k = if k / 96 = d then .reset else getCore s k := by
  have := read_foldl (fun s => getCore s k) (f := fun s e => scrubCluster e s) (k / 8 = ·) (fun _ => .reset) (fun _ => rfl)
    (fun t e => getCore_scrubCluster t e k) (dieClusters d) s
  simpa only [loseDie, getCore, clearStore_cores, mem_dieClusters, exists_eq_right', Nat.div_div_eq_div_mul] using this

theorem getDie_loseDie (s : State) (d e : Nat) : getDie (loseDie d s) e = if e = d then { getDie s e with weights := [] } else getDie s e := by
  have : ((dieClusters d).foldl (fun s c => scrubCluster c s) s).dies = s.dies :=
    foldl_keeps (P := fun t : State => t.dies = s.dies) (fun t c h => (scrubCluster_dies t c).trans h) rfl
  rw [loseDie, getDie_clearStore]; simp only [getDie, this]

@[simp] theorem loseDie_mods (s : State) (d : Nat) : (loseDie d s).mods = s.mods := by
  rw [loseDie, clearStore_mods]
  exact foldl_keeps (P := fun t : State => t.mods = s.mods) (fun t c h => (scrubCluster_mods t c).trans h) rfl
@[simp] theorem loseDie_cycle (s : State) (d : Nat) : (loseDie d s).cycle = s.cycle := by
  rw [loseDie, clearStore_cycle]
  exact foldl_keeps (P := fun t : State => t.cycle = s.cycle) (fun t c h => (scrubCluster_cycle t c).trans h) rfl

/-! ### What changes dies alone -/

/-- t is s with nothing changed but its dies and the count of open values. -/
def DiesOnly (s t : State) : Prop := ∃ ds n, t = { s with dies := ds, free := n }

theorem DiesOnly.refl (s : State) : DiesOnly s s := ⟨s.dies, s.free, rfl⟩
theorem DiesOnly.trans {s t u : State} : DiesOnly s t → DiesOnly t u → DiesOnly s u := by
  rintro ⟨_, _, rfl⟩ ⟨ds, n, rfl⟩; exact ⟨ds, n, rfl⟩
theorem DiesOnly.foldl {α : Type} {f : State → α → State} (h : ∀ s a, DiesOnly s (f s a)) (xs : List α) (s : State) : DiesOnly s (xs.foldl f s) :=
  foldl_keeps (P := DiesOnly s) (fun t a ht => ht.trans (h t a)) (.refl s)
theorem diesOnly_updDie (s : State) (d : Nat) (f : Die → Die) : DiesOnly s (updDie s d f) := ⟨_, s.free, rfl⟩

/-- What dies alone change reads otherwise as before. -/
theorem DiesOnly.reads {s t : State} (h : DiesOnly s t) : t.cores = s.cores ∧ t.clusters = s.clusters ∧ t.mods = s.mods ∧ t.hostMsgs = s.hostMsgs ∧
    t.cycle = s.cycle ∧ t.jobs = s.jobs := by obtain ⟨_, _, rfl⟩ := h; simp

/-- t is s but for the refresh windows of its dies (R198). -/
def RefreshOnly (s t : State) : Prop := DiesOnly s t ∧ ∀ d, ∃ r, getDie t d = { getDie s d with refresh := r }

theorem RefreshOnly.refl (s : State) : RefreshOnly s s := ⟨.refl s, fun d => ⟨(getDie s d).refresh, rfl⟩⟩
theorem RefreshOnly.trans {s t u : State} (h : RefreshOnly s t) (k : RefreshOnly t u) : RefreshOnly s u :=
  ⟨h.1.trans k.1, fun d => by
    obtain ⟨r, hr⟩ := h.2 d
    obtain ⟨q, hq⟩ := k.2 d
    exact ⟨q, by rw [hq, hr]⟩⟩

theorem RefreshOnly.copyOff {s t : State} (h : RefreshOnly s t) (d : Nat) : (getDie t d).copyOff = (getDie s d).copyOff := by
  obtain ⟨r, hr⟩ := h.2 d
  rw [hr]

theorem refreshOnly_updDie (s : State) (e : Nat) (f : Die → Die) (hf : ∀ x, ∃ r, f x = { x with refresh := r }) : RefreshOnly s (updDie s e f) :=
  ⟨diesOnly_updDie s e f, fun d => by
    by_cases hd : d = e
    · subst hd; rw [getDie_updDie]; exact hf _
    · rw [getDie_updDie_ne _ _ hd]; exact ⟨(getDie s d).refresh, rfl⟩⟩

theorem refreshOnly_openRefresh (d g : Nat) (s : State) : RefreshOnly s (openRefresh d g s) := by
  have ends : RefreshOnly s (endRefresh d s) := refreshOnly_updDie _ _ _ fun _ => ⟨_, rfl⟩
  unfold openRefresh
  dsimp only
  split
  · exact ends.trans (refreshOnly_updDie _ _ _ fun _ => ⟨_, rfl⟩)
  · exact ends

theorem refreshOnly_openWindows (m : Nat) (s : State) : RefreshOnly s (openWindows m s) :=
  foldl_keeps (P := RefreshOnly s) (fun t _ h => h.trans (refreshOnly_openRefresh _ _ t)) (.refl s)

/-! ### Bring-up (R8, R266, R395, R402) -/

theorem diesOnly_drawCopies (m : Nat) (s : State) : DiesOnly s (drawCopies m s) :=
  DiesOnly.foldl (fun s _ => ⟨_, s.free + 1, rfl⟩) _ s

/-- A copy of module time within 1 ns of the master copy, by its offset (R265). -/
abbrev NearMaster (x : Int) : Prop := x = -1 ∨ x = 0 ∨ x = 1

theorem nearMaster_drawCopies (m : Nat) (s : State) {i : Nat} (hi : i < 8) : NearMaster (getDie (drawCopies m s) (8 * m + i)).copyOff := by
  have drawn : ∀ t : State, NearMaster (((openValue 0 2 t).1 : Int) - 1) := fun t => by
    have := openValue_le (Nat.zero_le 2) t
    omega
  refine foldl_establishes (R := fun _ => True) (P := fun t => NearMaster (getDie t (8 * m + i)).copyOff) (List.mem_range.mpr hi)
    (fun _ _ _ => trivial) (fun t j ht => ?_) (fun t _ => ?_) trivial
  · dsimp only
    by_cases hj : i = j
    · subst hj; rw [getDie_updDie]; exact drawn t
    · rw [getDie_updDie_ne _ _ (by omega)]; exact ht
  · dsimp only
    rw [getDie_updDie]; exact drawn t

/-- What a repair of a rank leaves of its module: all but that rank's erasure table and the list of repaired ranks (R395). -/
theorem getMod_repairRank (m r : Nat) (s : State) : getMod (repairRank m r s) m =
    let md := getMod s m
    let t := Tbl.get [] md.erasures r
    { md with erasures := Tbl.set md.erasures r (t.drop (openValue 1 t.length s).1),
              repaired := if md.repaired.contains r then md.repaired else md.repaired ++ [r] } := getMod_updMod ..

/-- The erasure table of a rank (R395). -/
abbrev erasuresOf (s : State) (m r : Nat) : List Nat := Tbl.get [] (getMod s m).erasures r

theorem erasuresOf_repairRank (m a r : Nat) (s : State) : erasuresOf (repairRank m a s) m r =
    if r = a then (erasuresOf s m a).drop (openValue 1 (erasuresOf s m a).length s).1
    else erasuresOf s m r := by
  rw [erasuresOf, getMod_repairRank]; exact Tbl.get_set ..

theorem mem_repaired_repairRank {m a r : Nat} {s : State} :
    r ∈ (getMod (repairRank m a s) m).repaired ↔ r = a ∨ r ∈ (getMod s m).repaired := by
  rw [getMod_repairRank]
  dsimp only
  split
  · next h =>
    have : a ∈ (getMod s m).repaired := by simpa using h
    exact ⟨.inr, fun h => h.elim (· ▸ this) id⟩
  · simp [or_comm]

/-- The repairs of ranks of a module, one after another. -/
def repairRanks (m : Nat) (ranks : List Nat) (s : State) : State := ranks.foldl (fun s r => repairRank m r s) s

/-- Repairs change one module and the count of open values. -/
theorem repairRanks_reads (m : Nat) (ranks : List Nat) (s : State) : let t := repairRanks m ranks s
    t.cores = s.cores ∧ t.clusters = s.clusters ∧ t.dies = s.dies ∧ t.jobs = s.jobs ∧ t.hostMsgs = s.hostMsgs ∧ ∀ n, n ≠ m → getMod t n = getMod s n := by
  refine foldl_keeps (P := fun t : State => t.cores = s.cores ∧ t.clusters = s.clusters ∧ t.dies = s.dies ∧ t.jobs = s.jobs ∧ t.hostMsgs = s.hostMsgs ∧
    ∀ n, n ≠ m → getMod t n = getMod s n) (fun t r h => ?_) ⟨rfl, rfl, rfl, rfl, rfl, fun _ _ => rfl⟩
  obtain ⟨hc, hl, hd, hj, hh, hm⟩ := h
  exact ⟨hc, hl, hd, hj, hh, fun n hn => (getMod_updMod_ne _ _ hn).trans (hm n hn)⟩

/-- Repairs leave of their module all but its erasure tables and the list of repaired ranks. -/
theorem getMod_repairRanks (m : Nat) (ranks : List Nat) (s : State) :
    ∃ es rp, getMod (repairRanks m ranks s) m = { getMod s m with erasures := es, repaired := rp } :=
  foldl_keeps (P := fun t => ∃ es rp, getMod t m = { getMod s m with erasures := es, repaired := rp })
    (fun t r ⟨es, rp, h⟩ => ⟨_, _, by rw [getMod_repairRank, h]⟩) ⟨_, _, rfl⟩

/-- A repaired rank stays so. -/
theorem mem_repaired_repairRanks {m r : Nat} (ranks : List Nat) {s : State} (h : r ∈ (getMod s m).repaired) :
    r ∈ (getMod (repairRanks m ranks s) m).repaired :=
  foldl_keeps (P := fun t => r ∈ (getMod t m).repaired) (fun _ _ ht => mem_repaired_repairRank.mpr (.inr ht)) h

/-- A rank that no repair names keeps its erasure table. -/
theorem erasuresOf_repairRanks_of_not_mem (m : Nat) {ranks : List Nat} {r : Nat} (s : State) (hr : r ∉ ranks) :
    erasuresOf (repairRanks m ranks s) m r = erasuresOf s m r :=
  List.foldlRecOn (motive := fun t => erasuresOf t m r = erasuresOf s m r) ranks _ rfl fun t ht a ha => by
    have hne : r ≠ a := fun h => hr (h ▸ ha)
    rw [erasuresOf_repairRank, if_neg hne]; exact ht

/-- xs is es without k or more of its first entries. -/
def DropsFrom (k : Nat) (es xs : List Nat) : Prop := ∃ n, k ≤ n ∧ n ≤ es.length ∧ xs = es.drop n

theorem DropsFrom.drop {j k n : Nat} {es xs : List Nat} (h : DropsFrom k es xs) (hn : j ≤ k + n) (he : j ≤ es.length) :
    DropsFrom j es (xs.drop n) := by
  obtain ⟨i, hki, hi, rfl⟩ := h
  rw [List.drop_drop]
  rcases Nat.le_total (i + n) es.length with hl | hl
  · exact ⟨i + n, by omega, hl, rfl⟩
  · exact ⟨es.length, he, Nat.le_refl _, by rw [List.drop_length, List.drop_eq_nil_of_le hl]⟩

/-- A rank with entries that a repair names is repaired: one or more of its entries, the first ones, are gone. -/
theorem erasuresOf_repairRanks_of_mem (m : Nat) {ranks : List Nat} {r : Nat} (s : State) (hr : r ∈ ranks) (hne : erasuresOf s m r ≠ []) :
    r ∈ (getMod (repairRanks m ranks s) m).repaired ∧
      DropsFrom 1 (erasuresOf s m r) (erasuresOf (repairRanks m ranks s) m r) := by
  have pos := List.length_pos_iff.mpr hne
  have kept : ∀ k t a, k ≤ 1 → DropsFrom k (erasuresOf s m r) (erasuresOf t m r) →
      DropsFrom k (erasuresOf s m r) (erasuresOf (repairRank m a t) m r) := fun k t a hk h => by
    rw [erasuresOf_repairRank]
    split
    · next ha => subst ha; exact h.drop (Nat.le_add_right ..) (by omega)
    · exact h
  refine foldl_establishes (R := fun t => DropsFrom 0 (erasuresOf s m r) (erasuresOf t m r))
    (P := fun t => r ∈ (getMod t m).repaired ∧ DropsFrom 1 (erasuresOf s m r) (erasuresOf t m r)) hr
    (fun t a h => kept 0 t a (by omega) h) (fun t a h => ⟨mem_repaired_repairRank.mpr (.inr h.1), kept 1 t a (by omega) h.2⟩)
    (fun t h => ⟨mem_repaired_repairRank.mpr (.inl rfl), ?_⟩) ⟨0, Nat.le_refl _, Nat.zero_le _, rfl⟩
  rw [erasuresOf_repairRank, if_pos rfl]
  exact h.drop (Nat.zero_add _ ▸ le_openValue ..) pos

/-! ### What a cold reset drops (R402) -/

theorem getCore_dropModule (m : Nat) (s : State) (k : Nat) : getCore (dropModule m s) k = if modOf k = m then .reset else getCore s k := by
  refine (Tbl.get_filter_key _ (fun k => modOf k != m) _ _).trans ?_
  by_cases h : modOf k = m <;> simp [h, getCore]

theorem getCluster_dropModule_of_mem (m : Nat) (s : State) {c : Nat} (h : c / 96 = m) : getCluster (dropModule m s) c = .reset := by
  refine (Tbl.get_filter_key _ (fun c => c / 96 != m) _ _).trans ?_
  simp [h]

theorem getDie_dropModule_of_mem (m : Nat) (s : State) {d : Nat} (h : d / 8 = m) : getDie (dropModule m s) d = .reset := by
  refine (Tbl.get_filter_key _ (fun d => d / 8 != m) _ _).trans ?_
  simp [h]

/-- No job has a root on a module that has been dropped (R221, R402). -/
theorem jobOn_dropModule (m : Nat) (s : State) (j : Nat) : jobOn (dropModule m s) m j = false := by
  unfold jobOn
  cases h : getJob (dropModule m s) j with
  | none => rfl
  | some x =>
    have hx := List.mem_of_find?_eq_some h
    obtain ⟨y, -, rfl⟩ := List.mem_map.mp (List.mem_filter.mp hx).1
    have hm : memberOf { y with roots := if y.members.contains m then Tbl.set y.roots (memberOf y m) none else y.roots } m = memberOf y m := rfl
    dsimp only
    rw [hm]
    cases hc : y.members.contains m with
    | false => simp
    | true => simp

/-- The module dropped and restarted, before its repairs. -/
def restart (m : Nat) (ok : Bool) (now : Nat) (s : State) : State := updMod (dropModule m s) m fun md => md.restarted ok now

/-- The ranks of a module that are marked for repair (R395). -/
def markedRanks (md : Module) : List Nat := (md.erasures.map Prod.fst).filter (needsRepair md)

theorem mem_markedRanks {md : Module} {r : Nat} : r ∈ markedRanks md ↔ 6 < (Tbl.get [] md.erasures r).length := by
  simp only [markedRanks, List.mem_filter, needsRepair, decide_eq_true_eq, and_iff_right_iff_imp]
  intro h
  exact Tbl.mem_keys_of_get_ne (List.length_pos_iff.mp (by omega))

theorem getMod_restart (m now : Nat) (ok : Bool) (s : State) : getMod (restart m ok now s) m = (getMod s m).restarted ok now := getMod_updMod ..

theorem getMod_restart_ne {m n : Nat} (now : Nat) (ok : Bool) (s : State) (h : n ≠ m) : getMod (restart m ok now s) n = getMod s n :=
  (getMod_updMod_ne (dropModule m s) _ h).trans rfl

/-- A cold reset whose records fail stops before anything is repaired, and the host hears of it (R402). -/
theorem coldResetMove_failed (m now : Nat) (s : State) : coldResetMove m false now s = tellHost (.bootFailed m) (restart m false now s) := rfl

/-- The module restarted, its marked ranks repaired. -/
def restartRepaired (m now : Nat) (s : State) : State := repairRanks m (markedRanks (getMod (restart m true now s) m)) (restart m true now s)

/-- A cold reset repairs the marked ranks, draws the dies' copies of module time and opens their refresh windows. -/
theorem coldResetMove_ok (m now : Nat) (s : State) : coldResetMove m true now s =
    openWindows m (drawCopies m (restartRepaired m now s)) := rfl

/-- What a cold reset leaves of a module besides its erasure tables: the host's memory and the records (R8, R402). -/
theorem restarted_reads {md x : Module} {ok : Bool} {now : Nat} (h : ∃ es rp, x = { md.restarted ok now with erasures := es, repaired := rp }) :
    x.up = ok ∧ x.host = md.host ∧ x.hbm = [] ∧ x.cfg = md.cfg ∧ x.launches = [] ∧ x.queues = [] ∧
      x.time.now = now * (19 * 10 ^ 9) ∧ x.time.tmcfg = md.cfg.tmcfg ∧ x.limit = md.cfg.limit ∧ x.wlog = md.cfg.wlog := by
  obtain ⟨es, rp, rfl⟩ := h
  exact ⟨rfl, rfl, rfl, rfl, rfl, rfl, rfl, rfl, rfl, rfl⟩

/-- What holds wherever cores, clusters, jobs and the other modules are those that a drop of module m leaves (R402). -/
theorem dropped_reads {m : Nat} {s t : State} (hc : t.cores = (dropModule m s).cores) (hl : t.clusters = (dropModule m s).clusters)
    (hj : t.jobs = (dropModule m s).jobs) :
    (∀ k, modOf k = m → getCore t k = .reset) ∧ (∀ c, c / 96 = m → getCluster t c = .reset) ∧ (∀ k, modOf k ≠ m → getCore t k = getCore s k) ∧
      ∀ j, jobOn t m j = false := by
  have core : ∀ k, getCore t k = getCore (dropModule m s) k := fun k => by rw [getCore, hc]; rfl
  have cluster : ∀ c, getCluster t c = getCluster (dropModule m s) c := fun c => by rw [getCluster, hl]; rfl
  have job : ∀ j, jobOn t m j = jobOn (dropModule m s) m j := fun j => by rw [jobOn, getJob, hj]; rfl
  refine ⟨fun k hk => ?_, fun c h => ?_, fun k hk => ?_, fun j => ?_⟩
  · rw [core, getCore_dropModule, if_pos hk]
  · rw [cluster, getCluster_dropModule_of_mem m s h]
  · rw [core, getCore_dropModule, if_neg hk]
  · rw [job, jobOn_dropModule]

theorem coldReset_failed_reads (m now : Nat) (s : State) : let t := coldResetMove m false now s
    getMod t m = (getMod s m).restarted false now ∧ t.cores = (dropModule m s).cores ∧ t.clusters = (dropModule m s).clusters ∧
      t.jobs = (dropModule m s).jobs ∧ t.dies = (dropModule m s).dies ∧ t.hostMsgs = s.hostMsgs ++ [.bootFailed m] ∧
      ∀ n, n ≠ m → getMod t n = getMod s n := by
  rw [coldResetMove_failed]
  exact ⟨getMod_restart m now false s, rfl, rfl, rfl, rfl, rfl, fun n hn => getMod_restart_ne now false s hn⟩

/-- The state of a completed cold reset, the dies apart. -/
theorem coldResetMove_ok_diesOnly (m now : Nat) (s : State) :
    DiesOnly (restartRepaired m now s) (coldResetMove m true now s) := by
  rw [coldResetMove_ok]
  exact (diesOnly_drawCopies m _).trans (refreshOnly_openWindows m _).1

theorem nearMaster_coldReset (m now : Nat) (s : State) {i : Nat} (hi : i < 8) : NearMaster (getDie (coldResetMove m true now s) (8 * m + i)).copyOff := by
  rw [coldResetMove_ok, (refreshOnly_openWindows m (drawCopies m (restartRepaired m now s))).copyOff]
  exact nearMaster_drawCopies m _ hi

theorem getMod_coldReset_ok (m now n : Nat) (s : State) : getMod (coldResetMove m true now s) n = getMod (restartRepaired m now s) n := by
  obtain ⟨-, -, hm, -, hy, -⟩ := (coldResetMove_ok_diesOnly m now s).reads
  rw [getMod, hm, hy]; rfl

/-- The module, its ranks repaired, after a completed cold reset (R8, R395, R402). -/
theorem coldReset_ok_module (m now : Nat) (s : State) : let x := getMod (coldResetMove m true now s) m
    let old := getMod s m
    (∃ es rp, x = { old.restarted true now with erasures := es, repaired := rp }) ∧ (∀ r ∈ old.repaired, r ∈ x.repaired) ∧
      ∀ r, let es := Tbl.get [] old.erasures r
        (es.length ≤ 6 → Tbl.get [] x.erasures r = es) ∧
        (6 < es.length → r ∈ x.repaired ∧ ∃ n, 1 ≤ n ∧ n ≤ es.length ∧ Tbl.get [] x.erasures r = es.drop n) := by
  have marked : ∀ r, r ∈ markedRanks (getMod (restart m true now s) m) ↔ 6 < (Tbl.get [] (getMod s m).erasures r).length := fun r => by
    rw [mem_markedRanks, getMod_restart]; rfl
  have was : ∀ r, erasuresOf (restart m true now s) m r = Tbl.get [] (getMod s m).erasures r := fun r => by rw [erasuresOf, getMod_restart]; rfl
  dsimp only
  rw [getMod_coldReset_ok]
  refine ⟨?_, fun r hr => ?_, fun r => ⟨fun h => ?_, fun h => ?_⟩⟩
  · obtain ⟨es, rp, h⟩ := getMod_repairRanks m (markedRanks (getMod (restart m true now s) m)) (restart m true now s)
    exact ⟨es, rp, by rw [restartRepaired, h, getMod_restart]⟩
  · refine mem_repaired_repairRanks _ ?_
    rw [getMod_restart]; exact hr
  · rw [← was r]
    exact erasuresOf_repairRanks_of_not_mem m _ fun hr => by have := (marked r).mp hr; omega
  · have := erasuresOf_repairRanks_of_mem m (restart m true now s) ((marked r).mpr h) (by rw [was r]; exact List.length_pos_iff.mp (by omega))
    rw [was r] at this
    exact this

theorem coldReset_ok_reads (m now : Nat) (s : State) : let t := coldResetMove m true now s
    t.cores = (dropModule m s).cores ∧ t.clusters = (dropModule m s).clusters ∧ t.jobs = (dropModule m s).jobs ∧ t.hostMsgs = s.hostMsgs ∧
      ∀ n, n ≠ m → getMod t n = getMod s n := by
  obtain ⟨hc, hl, -, hh, -, hj⟩ := (coldResetMove_ok_diesOnly m now s).reads
  obtain ⟨rc, rl, -, rj, rh, rm⟩ := repairRanks_reads m (markedRanks (getMod (restart m true now s) m)) (restart m true now s)
  refine ⟨hc.trans rc, hl.trans rl, hj.trans rj, hh.trans rh, fun n hn => ?_⟩
  rw [getMod_coldReset_ok, restartRepaired, rm n hn]
  exact getMod_restart_ne now true s hn

/-! ### Power holds, dies and standby (R403, R404) -/

/-- A hold is taken where no hold stands in this cycle or the next one asked for, and no wake within 64 cycles (R404). -/
abbrev HoldFree (s : State) (c : Nat) : Prop :=
  let x := getCluster s c
  x.hold ≠ s.cycle ∧ x.hold ≠ s.cycle + 1 ∧ (x.lastWake = 0 ∨ x.lastWake + 64 ≤ s.cycle)

theorem powerHoldMove_eq (c : Nat) (s : State) :
    powerHoldMove c s = if HoldFree s c then updCluster s c fun x => { x with hold := s.cycle + 1 } else s := by
  have : HoldFree s c ↔ ¬ ((getCluster s c).hold = s.cycle ∨ (getCluster s c).hold = s.cycle + 1 ∨
      ((getCluster s c).lastWake ≠ 0 ∧ s.cycle < (getCluster s c).lastWake + 64)) := by dsimp only [HoldFree]; omega
  simp only [this, ite_not, powerHoldMove]

theorem dieUpdating_iff {s : State} {d : Nat} : dieUpdating s d = true ↔ (getMod s (d / 8)).updating = some d := beq_iff_eq

/-- A die that is turned off: no cluster of it is assigned, scrubbed or at work, no weight-store write, no update (R403). -/
abbrev DieUnused (s : State) (d : Nat) : Prop :=
  (∀ i, i < 12 → (getCluster s (12 * d + i)).part = 0 ∧ (getCluster s (12 * d + i)).scrub = none ∧ (getCluster s (12 * d + i)).task = .none) ∧
    (getDie s d).writing = false ∧ (getMod s (d / 8)).updating ≠ some d

theorem dieUnused_iff {s : State} {d : Nat} : DieUnused s d ↔
    ((dieClusters d).any fun c => (getCluster s c).part != 0 || (getCluster s c).scrub.isSome || (getCluster s c).task != .none) = false ∧
      ((getDie s d).writing || dieUpdating s d) = false := by
  simp [DieUnused, dieClusters, dieUpdating, and_assoc]

theorem dieOffMove_of_unused {d : Nat} {s : State} (h : DieUnused s d) :
    dieOffMove d s = loseDie d (updDie s d fun x => { x with power := .off, powerAt := 0 }) := by
  obtain ⟨hc, hd⟩ := dieUnused_iff.mp h
  rw [dieOffMove, hc, hd]; rfl

theorem dieOffMove_of_used {d : Nat} {s : State} (h : ¬ DieUnused s d) : dieOffMove d s = s := by
  rw [dieUnused_iff, Classical.not_and_iff_not_or_not, Bool.not_eq_false, Bool.not_eq_false] at h
  unfold dieOffMove
  split
  · rfl
  · next hc => exact if_pos (h.resolve_left hc)

theorem diePowerUpMove_refused {d : Nat} {s : State} (h : (getDie s d).power ≠ .off ∨ (getMod s (d / 8)).updating = some d) :
    diePowerUpMove d s = s := if_pos (h.imp id dieUpdating_iff.mpr)

/-- The scrub of one cluster begins, for a time that is open (R350). -/
def scrubStart (now : Nat) (s : State) (c : Nat) : State :=
  let (n, s) := openValue 1 149999 s
  updCluster s c fun y => { y with scrub := some (now + n), newPart := y.part }

/-- The scrubs of the clusters of a die that is powered up (R403). -/
def scrubStarts (now d : Nat) (s : State) : State := (dieClusters d).foldl (scrubStart now) s

theorem diePowerUpMove_off {d : Nat} {s : State} (h : (getDie s d).power = .off) (hu : (getMod s (d / 8)).updating ≠ some d) : diePowerUpMove d s =
    if (getDie s d).powerAt = 0 then again 1 d .diePowerUp (updDie s d fun x => { x with powerAt := nowOf s (d / 8) + 5000000 })
    else if nowOf s (d / 8) < (getDie s d).powerAt then again 1 d .diePowerUp s
    else scrubStarts (nowOf s (d / 8)) d (updDie s d fun x => { x with power := .idle, powerAt := 0 }) :=
  if_neg fun hc => hc.elim (· h) fun hc => hu (dieUpdating_iff.mp hc)

theorem scrubStarts_dies (now d : Nat) (s : State) : (scrubStarts now d s).dies = s.dies :=
  foldl_keeps (P := fun t : State => t.dies = s.dies) (fun _ _ h => h) rfl

/-- y is x with a scrub of less than 150 µs begun at a module time, its partition to stay (R350, R403). -/
def ScrubBegun (now : Nat) (x y : Cluster) : Prop := ∃ n, 1 ≤ n ∧ n ≤ 149999 ∧ y = { x with scrub := some (now + n), newPart := x.part }

/-- A scrub that has begun begins again as if it had not. -/
theorem scrubBegun_scrubStart {now c : Nat} {x : Cluster} {s : State} (h : getCluster s c = x ∨ ScrubBegun now x (getCluster s c)) :
    ScrubBegun now x (getCluster (scrubStart now s c) c) := by
  refine ⟨_, le_openValue 1 149999 s, openValue_le (by omega) s, ?_⟩
  rw [scrubStart, openValue, getCluster_updCluster]
  rcases h with rfl | ⟨n, -, -, h⟩
  · rfl
  · have : getCluster { s with free := s.free + 1 } c = getCluster s c := rfl
    rw [this, h]

theorem getCluster_scrubStart_ne (now : Nat) {a c : Nat} (s : State) (h : c ≠ a) : getCluster (scrubStart now s a) c = getCluster s c :=
  getCluster_updCluster_ne _ _ h

/-- Each cluster of a die that is powered up begins its scrub. -/
theorem scrubBegun_scrubStarts (now : Nat) {d c : Nat} (s : State) (hc : c / 12 = d) :
    ScrubBegun now (getCluster s c) (getCluster (scrubStarts now d s) c) := by
  refine foldl_establishes (R := fun t => getCluster t c = getCluster s c ∨ ScrubBegun now (getCluster s c) (getCluster t c))
    (P := fun t => ScrubBegun now (getCluster s c) (getCluster t c)) (mem_dieClusters.mpr hc) (fun t a h => ?_) (fun t a h => ?_)
    (fun t h => scrubBegun_scrubStart h) (.inl rfl)
  · by_cases ha : c = a
    · subst ha; exact .inr (scrubBegun_scrubStart h)
    · rw [getCluster_scrubStart_ne now t ha]; exact h
  · by_cases ha : c = a
    · subst ha; exact scrubBegun_scrubStart (.inr h)
    · rw [getCluster_scrubStart_ne now t ha]; exact h

/-- A launch or a task of the module is at work (R403). -/
abbrev ModuleWorks (s : State) (m : Nat) : Prop := (getMod s m).launches ≠ [] ∨ ∃ i, i < 96 ∧ (getCluster s (96 * m + i)).task ≠ .none

theorem standbyMove_of_works {m : Nat} {s : State} (h : ModuleWorks s m) : standbyMove m s = s := if_pos (by simpa [ModuleWorks] using h)

/-- What the compute dies of a parked module hold is lost (R403). -/
def loseDies (m : Nat) (s : State) : State := (List.range 8).foldl (fun s i => loseDie (8 * m + i) s) s

theorem standbyMove_of_not_works {m : Nat} {s : State} (h : ¬ ModuleWorks s m) :
    standbyMove m s = loseDies m (updMod s m fun md => { md with standby := true, exitAt := 0 }) := if_neg (by simpa [ModuleWorks] using h)

theorem getMod_loseDies (m n : Nat) (s : State) : getMod (loseDies m s) n = getMod s n := by
  have := foldl_keeps (P := fun t : State => t.mods = s.mods ∧ t.cycle = s.cycle) (f := fun s i => loseDie (8 * m + i) s) (xs := List.range 8)
    (fun t i h => ⟨(loseDie_mods t (8 * m + i)).trans h.1, (loseDie_cycle t (8 * m + i)).trans h.2⟩) ⟨rfl, rfl⟩
  rw [loseDies, getMod, this.1, this.2]; rfl

theorem weights_loseDies (m : Nat) {i : Nat} (s : State) (hi : i < 8) : (getDie (loseDies m s) (8 * m + i)).weights = [] := by
  have lost : ∀ t e, (getDie t (8 * m + i)).weights = [] ∨ 8 * m + i = e → (getDie (loseDie e t) (8 * m + i)).weights = [] := fun t e h => by
    rw [getDie_loseDie]
    split
    · rfl
    · next hne => exact h.resolve_right hne
  exact foldl_establishes (R := fun _ => True) (P := fun t => (getDie t (8 * m + i)).weights = []) (List.mem_range.mpr hi) (fun _ _ _ => trivial)
    (fun t j h => lost t _ (.inl h)) (fun t _ => lost t _ (.inr rfl)) trivial

theorem scratch_loseDies (m : Nat) {i : Nat} (s : State) (hi : i < 96) : (getCluster (loseDies m s) (96 * m + i)).scratch = [] := by
  have lost : ∀ t e, (getCluster t (96 * m + i)).scratch = [] ∨ (96 * m + i) / 12 = e → (getCluster (loseDie e t) (96 * m + i)).scratch = [] := fun t e h => by
    rw [getCluster_loseDie]
    split
    · rfl
    · next hne => exact h.resolve_right hne
  exact foldl_establishes (R := fun _ => True) (P := fun t => (getCluster t (96 * m + i)).scratch = []) (List.mem_range.mpr (show i / 12 < 8 by omega))
    (fun _ _ _ => trivial) (fun t j h => lost t _ (.inl h)) (fun t _ => lost t _ (.inr (by omega))) trivial

theorem standbyExitMove_of_not_standby {m : Nat} {s : State} (h : (getMod s m).standby = false) : standbyExitMove m s = s := if_pos (by simpa using h)

theorem standbyExitMove_of_standby {m : Nat} {s : State} (h : (getMod s m).standby = true) : standbyExitMove m s =
    if (getMod s m).exitAt = 0 then again 1 m .moduleStandbyExit (updMod s m fun md => { md with exitAt := nowOf s m + 20000000 })
    else if nowOf s m < (getMod s m).exitAt then again 1 m .moduleStandbyExit s
    else openWindows m (updMod s m fun md => { md with standby := false, exitAt := 0 }) := if_neg (by simpa using h)

/-! ### The events of O44 -/

theorem exec_coldReset (m now : Nat) (ok : Bool) (s : State) : exec (.coldReset m ok now) s = .next (coldResetMove m ok now s) := rfl
theorem exec_powerHold (s : State) : exec .powerHold s = .next (powerHoldMove s.place s) := rfl
theorem exec_dieOff (s : State) : exec .dieOff s = .next (dieOffMove s.place s) := rfl
theorem exec_diePowerUp (s : State) : exec .diePowerUp s = .next (diePowerUpMove s.place s) := rfl
theorem exec_moduleStandby (s : State) : exec .moduleStandby s = .next (standbyMove s.place s) := rfl
theorem exec_moduleStandbyExit (s : State) : exec .moduleStandbyExit s = .next (standbyExitMove s.place s) := rfl

/-- Settles O44, event by event: a cold reset in its two outcomes, a power hold, a die turned off and on, and a module parked and brought back. -/
theorem powerEvents : Obligations.PowerEvents := by
  unfold Obligations.PowerEvents
  refine ⟨fun m now ok s => ⟨_, exec_coldReset m now ok s, ?_⟩, fun s => ?_, fun s => ?_, fun s => ?_, fun s => ?_⟩
  -- A cold reset (R402).
  · cases ok with
    | false =>
      obtain ⟨hx, rc, rl, rj, rd, rh, rm⟩ := coldReset_failed_reads m now s
      obtain ⟨hc, hl, hk, hj⟩ := dropped_reads rc rl rj
      obtain ⟨h1, h2, h3, h4, h5, h6, h7, h8, h9, h10⟩ := restarted_reads ⟨_, _, hx⟩
      refine ⟨⟨h1, h2, h3, h4, h5, h6, h7, h8, h9, h10, fun _ => by rw [hx]; exact ⟨rfl, rfl⟩, nofun⟩, hc, hl, hk, rm, hj,
        nofun, fun _ => ⟨fun i hi => ?_, rh⟩⟩
      rw [getDie, rd]
      exact getDie_dropModule_of_mem m s (by omega)
    | true =>
      obtain ⟨rc, rl, rj, rh, rm⟩ := coldReset_ok_reads m now s
      obtain ⟨hc, hl, hk, hj⟩ := dropped_reads rc rl rj
      obtain ⟨hx, hr⟩ := coldReset_ok_module m now s
      obtain ⟨h1, h2, h3, h4, h5, h6, h7, h8, h9, h10⟩ := restarted_reads hx
      exact ⟨⟨h1, h2, h3, h4, h5, h6, h7, h8, h9, h10, nofun, fun _ => hr⟩, hc, hl, hk, rm, hj,
        fun _ => ⟨fun i hi => nearMaster_coldReset m now s hi, rh⟩, nofun⟩
  -- A power hold (R404).
  · refine ⟨fun h => ?_, fun h => ⟨_, exec_powerHold s, ?_⟩⟩
    · rw [exec_powerHold, powerHoldMove_eq, if_neg h]
    · rw [powerHoldMove_eq, if_pos h]
      exact ⟨getCluster_updCluster .., rfl, rfl, fun d hd => getCluster_updCluster_ne _ _ hd⟩
  -- A die turned off, and on (R403).
  · refine ⟨fun h => ?_, fun h => ⟨_, exec_dieOff s, ?_⟩⟩
    · rw [exec_dieOff, dieOffMove_of_used h]
    · rw [dieOffMove_of_unused h]
      refine ⟨?_, fun i hi => ⟨?_, fun r hr => ?_⟩⟩
      · rw [getDie_loseDie, if_pos rfl, getDie_updDie]
      · rw [getCluster_loseDie, if_pos (by omega)]; rfl
      · rw [getCore_loseDie, if_pos (by omega)]
  · refine ⟨fun h => ?_, fun hp hu => ⟨fun h0 => ?_, fun hn => ?_, fun h0 hn => ⟨_, exec_diePowerUp s, ?_⟩⟩⟩
    · rw [exec_diePowerUp, diePowerUpMove_refused h]
    · rw [exec_diePowerUp, diePowerUpMove_off hp hu, if_pos h0]; rfl
    · rw [exec_diePowerUp, diePowerUpMove_off hp hu, if_neg (Nat.ne_zero_of_lt hn), if_pos hn]; rfl
    · rw [diePowerUpMove_off hp hu, if_neg h0, if_neg (Nat.not_lt.mpr hn)]
      refine ⟨?_, fun i hi => scrubBegun_scrubStarts _ _ (by omega)⟩
      rw [getDie, scrubStarts_dies]
      exact getDie_updDie ..
  -- A module parked, and brought back (R403).
  · refine ⟨fun h => ?_, fun h => ⟨_, exec_moduleStandby s, ?_⟩, fun h => ?_, fun h => ⟨fun h0 => ?_, fun hn => ?_, fun h0 hn => ⟨_, exec_moduleStandbyExit s, ?_⟩⟩⟩
    · rw [exec_moduleStandby, standbyMove_of_works h]
    · rw [standbyMove_of_not_works h]
      exact ⟨(getMod_loseDies ..).trans (getMod_updMod ..), fun i hi => weights_loseDies _ _ hi, fun i hi => scratch_loseDies _ _ hi⟩
    · rw [exec_moduleStandbyExit, standbyExitMove_of_not_standby h]
    · rw [exec_moduleStandbyExit, standbyExitMove_of_standby h, if_pos h0]; rfl
    · rw [exec_moduleStandbyExit, standbyExitMove_of_standby h, if_neg (Nat.ne_zero_of_lt hn), if_pos hn]; rfl
    · rw [standbyExitMove_of_standby h, if_neg h0, if_neg (Nat.not_lt.mpr hn)]
      obtain ⟨hd, hr⟩ := refreshOnly_openWindows s.place (updMod s s.place fun md => { md with standby := false, exitAt := 0 })
      obtain ⟨hc, hl, hm, -⟩ := hd.reads
      exact ⟨hm, hc, hl, hr⟩

end Sys2Proof.Machine
end

section
/-! SUPPORT. O42: register messages by their offsets (R383, R401), and firmware (R390 to R392). -/

namespace Sys2Proof.Machine

open Sys2Proof.Claims

/-! ### Messages that arrive (R382, R391, R402) -/

theorem afterHeld_down {m : Nat} (i : Instr) {s : State} (k : State → State) (h : (getMod s m).up = false) : afterHeld m i s k = s := by
  simp [afterHeld, h]
theorem afterHeld_up {m : Nat} (i : Instr) {s : State} (k : State → State) (h : (getMod s m).up = true) (hh : (getMod s m).fwHeld = []) :
    afterHeld m i s k = k s := by simp [afterHeld, h, hh]
theorem unlessPaused_serving {m : Nat} (i : Instr) {s : State} (k : State → State) (h : Serving s m) : unlessPaused m i s k = k s := by
  obtain ⟨hu, hs, hp⟩ := h
  simp [unlessPaused, hu, hs, timeOf_eq, Nat.not_lt.mpr hp]

/-! ### Register messages (R383) -/

section messages
variable {m caller off : Nat} {s : State}

theorem exec_registerWrite_down {v : Option Nat} (h : (getMod s m).up = false) (ho : off < 2 ^ 32) : exec (.registerWrite m caller off v) s = .next s :=
  congrArg Host.Outcome.next ((if_neg (Nat.not_le.mpr ho)).trans (afterHeld_down _ _ h))

theorem exec_registerWrite_host (a v : Nat) : exec (.registerWrite m caller (2 ^ 32 + a) (some v)) s = .next (hostWrite m a v s) := by
  refine congrArg Host.Outcome.next ((if_pos (Nat.le_add_right ..)).trans ?_)
  rw [Nat.add_sub_cancel_left]

variable (hu : (getMod s m).up = true) (hh : (getMod s m).fwHeld = [])
include hu hh

theorem exec_registerWrite_some (ho : off < 2 ^ 32) (v : Nat) : exec (.registerWrite m caller off (some v)) s = .next (registerWriteMove m caller off v s) :=
  congrArg Host.Outcome.next ((if_neg (Nat.not_le.mpr ho)).trans (afterHeld_up _ _ hu hh))

theorem exec_registerWrite_none (ho : off < 2 ^ 32) : exec (.registerWrite m caller off none) s =
    .next { s with hostMsgs := s.hostMsgs ++ [.register m off (registerValue s m caller off)] } :=
  congrArg Host.Outcome.next ((if_neg (Nat.not_le.mpr ho)).trans (afterHeld_up _ _ hu hh))
end messages

/-! ### The register that begins at an offset (R383, R401): writes -/

section writes
variable (m caller v : Nat) (s : State)

theorem registerWriteMove_queue {n r : Nat} (hn : n < 64) (hr : r < 0x40) :
    registerWriteMove m caller (0x40 * n + r) v s = writeQueue m caller n r v s := by
  rw [registerWriteMove, if_pos (by omega), show (0x40 * n + r) / 0x40 = n by omega, show (0x40 * n + r) % 0x40 = r by omega]

theorem registerWriteMove_tmport : registerWriteMove m caller 0x10008 v s = onUnit s m fun t => { t with tmport := v % 2 ^ 32 } := rfl

theorem registerWriteMove_hwctl {i : Nat} (hi : i < 16) : registerWriteMove m caller (0x13000 + 0x40 * i) v s = writeHwctl m caller i v s := by
  rw [registerWriteMove]
  iterate 5 rw [if_neg (by omega)]
  rw [if_pos (by omega),
    if_pos (by omega), show (0x13000 + 0x40 * i - 0x13000) / 0x40 = i by omega]

theorem registerWriteMove_part {p r : Nat} (hp : p < 256) (hr : r < 0x40) :
    registerWriteMove m caller (0x18000 + 0x40 * p + r) v s = writePart m caller p r v s := by
  rw [registerWriteMove]
  iterate 6 rw [if_neg (by omega)]
  rw [if_pos (by omega),
    show (0x18000 + 0x40 * p + r - 0x18000) / 0x40 = p by omega, show (0x18000 + 0x40 * p + r) % 0x40 = r by omega]

theorem registerWriteMove_wsown {d : Nat} (hd : d < 8) : registerWriteMove m caller (0x1C000 + 0x40 * d) v s =
    if caller = 0 then wsownMove (8 * m + d) (v % 256) s else s := by
  rw [registerWriteMove]
  iterate 7 rw [if_neg (by omega)]
  rw [if_pos (by omega), show (0x1C000 + 0x40 * d - 0x1C000) / 0x40 = d by omega]
  simp [show (0x1C000 + 0x40 * d) % 0x40 = 0 by omega]

theorem registerWriteMove_clusterCounter {c i r : Nat} (hc : c < 96) (hi : i < 16) (hr : r < 0x10) :
    registerWriteMove m caller (0x30000 + 0x200 * c + 0x10 * i + r) v s = writeClusterCounter m caller c i r v s := by
  rw [registerWriteMove]
  iterate 8 rw [if_neg (by omega)]
  rw [if_pos (by omega), show (0x30000 + 0x200 * c + 0x10 * i + r - 0x30000) / 0x200 = c by omega,
    show (0x30000 + 0x200 * c + 0x10 * i + r) % 0x200 / 0x10 = i by omega, show (0x30000 + 0x200 * c + 0x10 * i + r) % 0x10 = r by omega]

theorem registerWriteMove_moduleCounter {i r : Nat} (hi : i < 32) (hr : r < 0x10) :
    registerWriteMove m caller (0x3C000 + 0x10 * i + r) v s = writeModuleCounter m caller i r v s := by
  rw [registerWriteMove]
  iterate 9 rw [if_neg (by omega)]
  rw [if_pos (by omega), show (0x3C000 + 0x10 * i + r - 0x3C000) / 0x10 = i by omega,
    show (0x3C000 + 0x10 * i + r) % 0x10 = r by omega]

theorem registerWriteMove_power : registerWriteMove m caller 0x51000 v s = writePower m caller v s := rfl

theorem registerWriteMove_owner {g : Nat} (hg : g < 0xC00000) : registerWriteMove m caller (2 ^ 31 + 4 * g) v s = writeOwner m caller g v s := by
  rw [registerWriteMove]
  iterate 12 rw [if_neg (by omega)]
  rw [if_pos (by omega),
    show (2 ^ 31 + 4 * g - 2 ^ 31) / 4 = g by omega]
end writes

/-! ### What a write leaves of its register (R228, R333, R348, R366, R384, R399, R404) -/

section effects
variable {m caller v : Nat} {s : State}

theorem bit_zero (v : Nat) : bit v 0 = decide (v % 2 = 1) := by simp [bit, ← Bool.beq_eq_decide_eq]

/-- The hypervisor writes QSCHED (R333). -/
theorem writeQueue_enable (n : Nat) : writeQueue m caller n 0x38 v s = if caller = 0 then
    onQueue s m n fun q => { q with en := decide (v % 2 = 1), part := fld v 15 8, lwdog := fld v 21 16, age := fld v 27 24 } else s := by
  rw [← bit_zero]; rfl

theorem writeQueue_refused {n r : Nat} (hr : r < 0x38) (h : ¬ Allowed caller (queueAt s m n).part) : writeQueue m caller n r v s = s := by
  unfold writeQueue
  rw [if_neg (by omega), if_pos (by simp [not_mayCall h])]

/-- The owner writes a queue's registers, the address registers and QLOG unless GO stands (R384). -/
theorem writeQueue_allowed {n : Nat} (h : Allowed caller (queueAt s m n).part) :
    writeQueue m caller n 0x00 v s = onQueue s m n (unlessGo fun q => { q with qbase := v % 2 ^ 57 }) ∧
    writeQueue m caller n 0x08 v s = onQueue s m n (unlessGo fun q => { q with qlog := v % 16 }) ∧
    writeQueue m caller n 0x0C v s = onQueue s m n (unlessGo fun q => { q with qcbase := v % 2 ^ 57 }) ∧
    writeQueue m caller n 0x14 v s = onQueue s m n (unlessGo fun q => { q with qroot := v % 2 ^ 52 }) ∧
    writeQueue m caller n 0x28 v s = readPacket m n s ∧
    writeQueue m caller n 0x2C v s = onQueue s m n fun q => { q with qcack := v % 2 ^ 32 } := by
  have may : ¬ (!mayCall caller (queueAt s m n).part) = true := by simp [mayCall_iff.mpr h]
  refine ⟨?_, ?_, ?_, ?_, ?_, ?_⟩
  all_goals exact if_neg may

/-- A queue is replaced by what a function makes of it as it stands. -/
theorem onQueue_congr {n : Nat} {f g : Queue → Queue} (h : f (queueAt s m n) = g (queueAt s m n)) : onQueue s m n f = onQueue s m n g :=
  congrArg (fun q => onMod s m fun x => { x with queues := Tbl.set x.queues n q }) h

theorem onQueue_unlessGo_of_go {n : Nat} (f : Queue → Queue) (h : (queueAt s m n).go = true) : onQueue s m n (unlessGo f) = onQueue s m n id :=
  onQueue_congr (if_pos h)
theorem onQueue_unlessGo_of_not_go {n : Nat} (f : Queue → Queue) (h : (queueAt s m n).go = false) : onQueue s m n (unlessGo f) = onQueue s m n f :=
  onQueue_congr (if_neg (by simp [h]))

/-- HWCTL is written by a caller that may act on the job the slot names before and on the one it names after; the record of another job goes (R366, R378). -/
theorem writeHwctl_eq (i : Nat) : writeHwctl m caller i v s =
    (let old := Tbl.get JobSlot.reset (getMod s m).slots i
     if (old.used = true ∧ ¬ Allowed caller (partOfJob s m old.job)) ∨ ¬ Allowed caller (partOfJob s m (fld v 47 32)) then s
     else onMod s m fun x => { x with slots := Tbl.set x.slots i { old with
       arm := decide (v % 2 = 1), cmask := fld v 13 8, job := fld v 47 32, causeRec := if fld v 47 32 = old.job then old.causeRec else .zero } }) := by
  unfold writeHwctl
  rw [bit_zero]
  refine ite_of_iff ?_ rfl rfl
  simp only [← mayCall_iff, Bool.or_eq_true, Bool.and_eq_true, Bool.not_eq_true', Bool.not_eq_true]

/-- The hypervisor writes a partition's registers (R348, R376). -/
theorem writePart_eq {p : Nat} (hp : 0 < p) :
    let part := fun (f : Part → Part) => if caller = 0 then onMod s m fun x => { x with parts := Tbl.set x.parts p (f (Tbl.get Part.reset x.parts p)) } else s
    writePart m caller p 0x00 v s = (part fun x => { x with frbase := v % 2 ^ 52, frsize := fld v 56 52 }) ∧
      writePart m caller p 0x08 v s = (part fun x => { x with nframes := v % 2 ^ 16 }) ∧
      writePart m caller p 0x10 v s = (part fun x => { x with dbase := v % 2 ^ 52 }) ∧
      writePart m caller p 0x18 v s = part fun x => { x with dsize := v % 2 ^ 16 } := by
  by_cases h : caller = 0
  · subst h
    refine ⟨?_, ?_, ?_, ?_⟩
    all_goals exact (if_neg (by omega)).trans (if_pos rfl).symm
  · refine ⟨?_, ?_, ?_, ?_⟩
    all_goals exact (if_pos (.inl h)).trans (if_neg h).symm

theorem writeClusterCounter_refused {c i r : Nat} (h : ¬ Allowed caller (getCluster s (96 * m + c)).part) : writeClusterCounter m caller c i r v s = s :=
  if_pos (.inr (.inr (by simp [not_mayCall h])))

theorem writeClusterCounter_allowed {c i : Nat} (hc : c < 96) (hi : i < 16) (h : Allowed caller (getCluster s (96 * m + c)).part) :
    writeClusterCounter m caller c i 0x0 v s = onClusterNo s (96 * m + c) (fun x => { x with evsel := Tbl.set x.evsel i (v % 512) }) ∧
      writeClusterCounter m caller c i 0x8 v s = onClusterNo s (96 * m + c) fun x => { x with evcnt := Tbl.set x.evcnt i (v % 2 ^ 64) } := by
  have may : ¬ (96 ≤ c ∨ 16 ≤ i ∨ (!mayCall caller (getCluster s (96 * m + c)).part) = true) := by simp [mayCall_iff.mpr h]; omega
  exact ⟨if_neg may, if_neg may⟩

theorem writeModuleCounter_select {i : Nat} (hi : i < 32) : writeModuleCounter m caller i 0x0 v s =
    if caller = 0 then onMod s m fun x => { x with evsel := Tbl.set x.evsel i (v % 512) } else s := by
  by_cases h : caller = 0
  · rw [if_pos h]; exact if_neg (by omega)
  · rw [if_neg h]; exact if_pos (.inl h)

theorem writeOwner_allowed {g : Nat} (h : Allowed caller (frameAt s m g).owner) : writeOwner m caller g v s =
    onMod s m fun x => { x with frames := Tbl.set x.frames g { frameAt s m g with owner := v % 256 } } := if_pos (mayCall_iff.mpr h)
theorem writeOwner_refused {g : Nat} (h : ¬ Allowed caller (frameAt s m g).owner) : writeOwner m caller g v s = s := if_neg (by simp [not_mayCall h])
end effects

/-! ### The register that begins at an offset (R383, R401): reads -/

section reads
variable (s : State) (m caller : Nat)

theorem registerValue_queue {n r : Nat} (hn : n < 64) (hr : r < 0x40) :
    registerValue s m caller (0x40 * n + r) = if mayCall caller (queueAt s m n).part then (queueAt s m n).readAt r else 0 := by
  rw [registerValue, if_pos (by omega), show (0x40 * n + r) / 0x40 = n by omega, show (0x40 * n + r) % 0x40 = r by omega]

theorem registerValue_tmcfg : registerValue s m caller 0x10000 = (unitOf s m).tmcfg := rfl
theorem registerValue_tmport : registerValue s m caller 0x10008 = (unitOf s m).tmport := rfl

theorem registerValue_errors {p w : Nat} (h0 : 0 < p) (hp : p < 256) (hw : w < 16) : registerValue s m caller (0x40000 + 0x40 * p + 4 * w) =
    if mayCall caller p then Tbl.get 0 (getMod s m).errs (16 * p + w) else 0 := by
  rw [registerValue]
  iterate 11 rw [if_neg (by omega)]
  rw [if_pos (by omega), show (0x40000 + 0x40 * p + 4 * w - 0x40000) / 0x40 = p by omega, show (0x40000 + 0x40 * p + 4 * w) % 0x40 / 4 = w by omega]

theorem registerValue_owner {g : Nat} (hg : g < 0xC00000) : registerValue s m caller (2 ^ 31 + 4 * g) =
    let f := frameAt s m g
    if mayCall caller f.owner then f.owner + f.pin * 2 ^ 8 + b2n f.swap * 2 ^ 24 else 0 := by
  rw [registerValue]
  iterate 14 rw [if_neg (by omega)]
  rw [if_pos (by omega), show (2 ^ 31 + 4 * g - 2 ^ 31) / 4 = g by omega]
end reads

/-! ### Error counters (R398) -/

theorem errs_clearErrors (m part k : Nat) (s : State) :
    Tbl.get 0 (getMod (clearErrors m part s) m).errs k = if k / 16 ≠ part then Tbl.get 0 (getMod s m).errs k else 0 := by
  rw [clearErrors, getMod_updMod]
  refine (Tbl.get_filter_key 0 (fun k => k / 16 != part) _ k).trans ?_
  simp

theorem shared_clearErrors (m part : Nat) (s : State) : (getMod (clearErrors m part s) m).shared = (getMod s m).shared := by
  rw [clearErrors, getMod_updMod]

/-! ### Firmware (R390 to R392) -/

section firmware
variable {m version : Nat} {signed accepts : Bool} {s : State}

/-- A load of firmware is under way (R390). -/
abbrev FwBusy (md : Module) : Prop := 1 ≤ md.sbst ∧ md.sbst ≤ 3

theorem fwloadMove_arrives (h : Serving s m) (hp : s.place < 2 ^ 32) : fwloadMove m signed accepts version s =
    if FwBusy (getMod s m) then refuseOp m s
    else if signed then { done m (comesBack (onMod s m fun x => { x with sbst := 1 }) ((openAny s).1 + 1) (2 ^ 32 + 1) (.fwload m signed accepts version)) with free := s.free + 1 }
    else refuseOp m (onMod s m fun x => { x with sbst := 4 }) := by
  unfold fwloadMove
  dsimp only
  rw [if_neg (by unfold loadPlace; omega), if_neg (by unfold loadPlace; omega), unlessPaused_serving _ _ h]
  refine ite_of_iff (by simp) rfl rfl

theorem fwloadMove_imports (h : s.place = 2 ^ 32 + 1) : fwloadMove m signed accepts version s =
    { comesBack (onMod s m fun x => { x with sbst := 2 }) ((openAny s).1 + 1) (2 ^ 32 + 2) (.fwload m signed accepts version) with free := s.free + 1 } := if_pos h

theorem fwloadMove_imported (h : s.place = 2 ^ 32 + 2) : fwloadMove m signed accepts version s =
    if accepts then { comesBack (onMod s m fun x => { x with sbst := 3, vsby := version }) ((openAny s).1 + 1) m .firmwareTakeover with free := s.free + 1 }
    else onMod s m fun x => { x with sbst := 4 } := (if_neg (by rw [h]; decide)).trans (if_pos h)

theorem Move.halfDone_eq_false_iff {x : Move} : x.halfDone m = false ↔
    (2 ^ 32 ≤ x.at_ → (∀ c p, x.i = .partAssign c p → c / 96 ≠ m) ∧ ∀ k b, x.i = .stepBundle k b → k / 768 ≠ m) := by
  obtain ⟨p, i⟩ := x
  unfold Move.halfDone halfPlace
  split
  · next c q h => obtain rfl : i = .partAssign c q := h; simp
  · next k b h => obtain rfl : i = .stepBundle k b := h; simp [modOf]
  · next h1 h2 => exact ⟨fun _ _ => ⟨fun c q h => (h1 c q h).elim, fun k b h => (h2 k b h).elim⟩, fun _ => Bool.and_false _⟩

theorem quiescent_iff : quiescent s m = true ↔ (∀ q ∈ (getMod s m).queues, q.2.retries = 0) ∧ (getMod s m).shoots = [] ∧
    (∀ w ∈ (getMod s m).swaps, w.2 = none) ∧ ∀ y, y ∈ s.inputs.map Prod.snd ∨ y ∈ s.agenda → y.halfDone m = false := by
  simp only [quiescent, Bool.and_eq_true, Bool.not_eq_true', List.any_eq_false, List.isEmpty_iff, decide_eq_true_eq, Nat.not_lt, Nat.le_zero,
    Option.isSome_iff_ne_none, ne_eq, Classical.not_not, Bool.not_eq_true, and_assoc, List.mem_map, or_imp, forall_and, forall_exists_index, and_imp,
    forall_apply_eq_imp_iff₂]

/-- A takeover at a quiescent boundary: the images change places, and what the new one accepts is open (R391, R392). -/
theorem takeoverMove_quiescent (h3 : (getMod s m).sbst = 3) (hq : quiescent s m = true) : ∃ d v lo hi, d ≤ 50000 ∧ lo ≤ hi ∧ takeoverMove m s =
    { onMod s m fun x => { x with
        act := !x.act, vact := x.vsby, vsby := x.vact, sbst := 0, tver := v, fwPause := nowOf s m + d, ioLo := lo, ioHi := hi, updHalted := false }
      with free := s.free + 4 } := by
  have go : ¬ (!quiescent s m) = true := by simp [hq]
  exact ⟨_, (openValue 0 65535 { s with free := s.free + 1 }).1, _, _, openValue_le (Nat.zero_le _) s,
    le_openValue (openValue 0 65535 { s with free := s.free + 2 }).1 65535 { s with free := s.free + 3 }, (if_neg fun hn => hn h3).trans (if_neg go)⟩

theorem takeoverMove_waits (h3 : (getMod s m).sbst = 3) (hq : quiescent s m = false) : takeoverMove m s = comesBack s 1 m .firmwareTakeover :=
  (if_neg fun hn => hn h3).trans (if_pos (by rw [hq]; rfl))
end firmware

/-! ### A die rejoins (R392) -/

section rejoin
variable {d lo hi : Nat} {ns : List (Nat × Nat)} {s : State}

/-- Nothing works on a compute die under update (R392). -/
abbrev DieQuiet (s : State) (d : Nat) : Prop :=
  dieIdle s d = true ∧ (getDie s d).writing = false ∧ ∀ v ∈ (getMod s (d / 8)).saves, v.cluster / 12 ≠ d

/-- The ranges of versions have one in common with the I/O die's and with each neighbour's (R392). -/
abbrev Compatible (lo hi : Nat) (ns : List (Nat × Nat)) (x : Module) : Prop :=
  max lo x.ioLo ≤ min hi x.ioHi ∧ ∀ n ∈ ns, max lo n.1 ≤ min hi n.2

theorem dieMod_of_lt (hd : d < 2 ^ 16) : dieMod d = d / 8 := if_pos hd

theorem dieQuiet_iff (hd : d < 2 ^ 16) : dieQuiet s d = true ↔ DieQuiet s d := by
  rw [dieQuiet, if_pos hd, dieMod_of_lt hd]
  simp [and_assoc]

theorem commonVersion_isSome {a b : Nat × Nat} : (commonVersion a b).isSome = true ↔ max a.1 b.1 ≤ min a.2 b.2 := by
  unfold commonVersion; split <;> simp_all

variable (hd : d < 2 ^ 16) (hu : (getMod s (d / 8)).up = true) (hs : (getMod s (d / 8)).standby = false)
include hd

theorem rejoinDie_compatible (h : Compatible lo hi ns (getMod s (d / 8))) : let t := rejoinDie d lo hi ns s
    getDie t d = { getDie s d with fwLo := lo, fwHi := hi, inService := true } ∧ (getMod t (d / 8)).updating = none ∧
      (getMod t (d / 8)).updHalted = (getMod s (d / 8)).updHalted ∧ Tbl.get 0 (getMod t (d / 8)).pairs d = min hi (getMod s (d / 8)).ioHi := by
  have common : commonVersion (lo, hi) ((getMod s (d / 8)).ioLo, (getMod s (d / 8)).ioHi) = some (min hi (getMod s (d / 8)).ioHi) := if_pos h.1
  have all : (ns.all fun n => (commonVersion (lo, hi) n).isSome) = true := List.all_eq_true.mpr fun n hn => commonVersion_isSome.mpr (h.2 n hn)
  unfold rejoinDie
  simp only [dieMod_of_lt hd, common, all, if_true, if_pos hd, getDie_updDie, getMod_updDie, getMod_updMod, getDie_updMod, Tbl.get_set_same, and_self]

theorem rejoinDie_incompatible (h : ¬ Compatible lo hi ns (getMod s (d / 8))) : let t := rejoinDie d lo hi ns s
    getDie t d = { getDie s d with inService := false } ∧ (getMod t (d / 8)).updating = none ∧ (getMod t (d / 8)).updHalted = true ∧
      (getMod t (d / 8)).pairs = (getMod s (d / 8)).pairs := by
  have halts : rejoinDie d lo hi ns s = haltUpdates (d / 8) d (updMod s (d / 8) fun x => { x with updating := none }) := by
    unfold rejoinDie
    rw [dieMod_of_lt hd]
    dsimp only
    split
    · next v hv =>
      refine if_neg fun hall => h ⟨?_, fun n hn => commonVersion_isSome.mp (List.all_eq_true.mp hall n hn)⟩
      exact commonVersion_isSome.mp (Option.isSome_of_eq_some hv)
    · rfl
  rw [halts, haltUpdates]
  simp only [if_pos hd, getDie_updDie, getMod_updDie, getMod_updMod, getDie_updMod, and_self]

include hu hs

theorem rejoinMove_arrives (hp : s.place < 2 ^ 32) : rejoinMove d lo hi ns s =
    if (getMod s (d / 8)).updHalted then s
    else if (getMod s (d / 8)).updating ≠ none ∨ FwBusy (getMod s (d / 8)) then comesBack s 1 s.place (.dieFirmwareRejoin d lo hi ns)
    else comesBack (onMod s (d / 8) fun x => { x with updating := some d }) 1 (2 ^ 32) (.dieFirmwareRejoin d lo hi ns) := by
  unfold rejoinMove
  dsimp only
  rw [dieMod_of_lt hd, if_neg (by simp [hu, hs]), if_neg (by unfold halfPlace; omega)]
  refine ite_of_iff Iff.rfl rfl (ite_of_iff ?_ rfl rfl)
  simp [Option.isSome_iff_ne_none]

theorem rejoinMove_half (hp : s.place = 2 ^ 32) : rejoinMove d lo hi ns s =
    if dieQuiet s d then rejoinDie d lo hi ns s else comesBack s 1 (2 ^ 32) (.dieFirmwareRejoin d lo hi ns) := by
  unfold rejoinMove
  dsimp only
  rw [dieMod_of_lt hd, if_neg (by simp [hu, hs]), if_pos (show s.place = halfPlace from hp)]
  rfl
end rejoin

/-! ### The events of O42 -/

theorem exec_errorCounterClear {m part : Nat} {s : State} (hu : (getMod s m).up = true) (hh : (getMod s m).fwHeld = []) :
    exec (.errorCounterClear m part) s = .next (clearErrors m part s) := congrArg Host.Outcome.next (afterHeld_up _ _ hu hh)
theorem exec_queueDoorbell {m n : Nat} {s : State} (hu : (getMod s m).up = true) (hh : (getMod s m).fwHeld = []) :
    exec (.queueDoorbell m n) s = .next (readPacket m n s) := congrArg Host.Outcome.next (afterHeld_up _ _ hu hh)
theorem exec_wsownWrite {d part : Nat} {s : State} (hu : (getMod s (d / 8)).up = true) (hh : (getMod s (d / 8)).fwHeld = []) :
    exec (.wsownWrite d part) s = .next (wsownMove d part s) := congrArg Host.Outcome.next (afterHeld_up _ _ hu hh)
theorem exec_fwload (m version : Nat) (signed accepts : Bool) (s : State) :
    exec (.fwload m signed accepts version) s = .next (fwloadMove m signed accepts version s) := rfl
theorem exec_firmwareTakeover (s : State) : exec .firmwareTakeover s = .next (takeoverMove s.place s) := rfl
theorem exec_dieFirmwareRejoin (d lo hi : Nat) (ns : List (Nat × Nat)) (s : State) :
    exec (.dieFirmwareRejoin d lo hi ns) s = .next (rejoinMove d lo hi ns s) := rfl

section messages
variable {m caller : Nat} {s : State} (hu : (getMod s m).up = true) (hh : (getMod s m).fwHeld = [])
include hu hh

/-- A write message does what the register at its offset does. -/
theorem put_eq {off v : Nat} {t : State} (ho : off < 2 ^ 32) (h : registerWriteMove m caller off v s = t) :
    exec (.registerWrite m caller off (some v)) s = .next t := h ▸ exec_registerWrite_some hu hh ho v

/-- A read message is answered with the value of the register at its offset. -/
theorem reads_eq {off x : Nat} (ho : off < 2 ^ 32) (h : registerValue s m caller off = x) :
    exec (.registerWrite m caller off none) s = .next { s with hostMsgs := s.hostMsgs ++ [.register m off x] } := h ▸ exec_registerWrite_none hu hh ho

theorem put_queue {n r v : Nat} {t : State} (hn : n < 64) (hr : r < 0x40) (h : writeQueue m caller n r v s = t) :
    exec (.registerWrite m caller (0x40 * n + r) (some v)) s = .next t :=
  put_eq hu hh (by omega) ((registerWriteMove_queue m caller v s hn hr).trans h)

theorem put_part {p r v : Nat} {t : State} (hp : p < 256) (hr : r < 0x40) (h : writePart m caller p r v s = t) :
    exec (.registerWrite m caller (0x18000 + 0x40 * p + r) (some v)) s = .next t :=
  put_eq hu hh (by omega) ((registerWriteMove_part m caller v s hp hr).trans h)

theorem put_clusterCounter {c i r v : Nat} {t : State} (hc : c < 96) (hi : i < 16) (hr : r < 0x10) (h : writeClusterCounter m caller c i r v s = t) :
    exec (.registerWrite m caller (0x30000 + 0x200 * c + 0x10 * i + r) (some v)) s = .next t :=
  put_eq hu hh (by omega) ((registerWriteMove_clusterCounter m caller v s hc hi hr).trans h)

theorem reads_queue {n r x : Nat} (hn : n < 64) (hr : r < 0x40) (ha : Allowed caller (queueAt s m n).part) (h : (queueAt s m n).readAt r = x) :
    exec (.registerWrite m caller (0x40 * n + r) none) s = .next { s with hostMsgs := s.hostMsgs ++ [.register m (0x40 * n + r) x] } :=
  reads_eq hu hh (by omega) (((registerValue_queue s m caller hn hr).trans (if_pos (mayCall_iff.mpr ha))).trans h)
end messages

theorem Queue.readAt_status (q : Queue) : q.readAt 0x1C = b2n q.go + 2 * b2n q.err + 4 * b2n q.flt + 8 * b2n q.irqen + 16 * q.irqv := by
  simp only [Queue.readAt]; omega

/-- Settles O42, message by message: writes and reads register block by register block, then firmware stage by stage. -/
theorem registerEvents : Obligations.RegisterEvents := by
  unfold Obligations.RegisterEvents
  refine ⟨fun m caller off v s h ho => exec_registerWrite_down h ho, fun m caller a v s => exec_registerWrite_host a v, fun m caller v s hu hh => ?_,
    fun m caller s hu hh => ?_, fun m part s hu hh => ?_, fun m version signed accepts s => ?_, fun s => ?_, fun d lo hi ns s hd => ?_⟩
  -- Write messages, by the block of registers that the offset lies in (R383, R401).
  · refine ⟨fun n hn => ⟨?_, fun h r hr => ?_, fun h hg => ?_, fun h hg => ?_, fun h => ?_, fun h => ?_⟩, ?_, fun i hi => ?_, fun p h0 hp => ?_,
      fun d hd => ?_, fun c i hc hi => ?_, fun i hi => ?_, ?_, fun g hg => ?_⟩
    · exact put_queue hu hh hn (by omega) (writeQueue_enable n)
    · exact put_queue hu hh hn (by omega) (writeQueue_refused hr h)
    · obtain ⟨h1, h2, -⟩ := writeQueue_allowed (v := v) h
      exact ⟨put_queue hu hh hn (by omega) (h1.trans (onQueue_unlessGo_of_go _ hg)), put_queue hu hh hn (by omega) (h2.trans (onQueue_unlessGo_of_go _ hg))⟩
    · obtain ⟨h1, h2, h3, h4, -⟩ := writeQueue_allowed (v := v) h
      exact ⟨put_queue hu hh hn (by omega) (h1.trans (onQueue_unlessGo_of_not_go _ hg)), put_queue hu hh hn (by omega) (h2.trans (onQueue_unlessGo_of_not_go _ hg)),
        put_queue hu hh hn (by omega) (h3.trans (onQueue_unlessGo_of_not_go _ hg)), put_queue hu hh hn (by omega) (h4.trans (onQueue_unlessGo_of_not_go _ hg))⟩
    · obtain ⟨-, -, -, -, -, h6⟩ := writeQueue_allowed (v := v) h
      exact put_queue hu hh hn (by omega) h6
    · obtain ⟨-, -, -, -, h5, -⟩ := writeQueue_allowed (v := v) h
      exact (put_queue hu hh hn (by omega) h5).trans (exec_queueDoorbell hu hh).symm
    · exact put_eq hu hh (by omega) (registerWriteMove_tmport m caller v s)
    · exact put_eq hu hh (by omega) ((registerWriteMove_hwctl m caller v s hi).trans (writeHwctl_eq i))
    · obtain ⟨h1, h2, h3, h4⟩ := writePart_eq (m := m) (caller := caller) (v := v) (s := s) h0
      exact ⟨put_part hu hh hp (by omega) h1, put_part hu hh hp (by omega) h2, put_part hu hh hp (by omega) h3, put_part hu hh hp (by omega) h4⟩
    · have hm : (8 * m + d) / 8 = m := by omega
      dsimp only
      rw [exec_wsownWrite (hm.symm ▸ hu) (hm.symm ▸ hh), put_eq hu hh (by omega) (registerWriteMove_wsown m caller v s hd)]
      split <;> rfl
    · refine ⟨fun h => put_clusterCounter (r := 0x0) hu hh hc hi (by omega) (writeClusterCounter_refused h), fun h => ?_⟩
      obtain ⟨h1, h2⟩ := writeClusterCounter_allowed (v := v) hc hi h
      exact ⟨put_clusterCounter hu hh hc hi (by omega) h1, put_clusterCounter hu hh hc hi (by omega) h2⟩
    · exact put_eq hu hh (by omega) ((registerWriteMove_moduleCounter m caller v s hi (by omega)).trans (writeModuleCounter_select hi))
    · exact put_eq hu hh (by omega) (registerWriteMove_power m caller v s)
    · exact ⟨fun h => put_eq hu hh (by omega) ((registerWriteMove_owner m caller v s hg).trans (writeOwner_allowed h)),
        fun h => put_eq hu hh (by omega) ((registerWriteMove_owner m caller v s hg).trans (writeOwner_refused h))⟩
  -- Read messages, by block.
  · refine ⟨fun n hn => ⟨fun h => ?_, fun h r hr => ?_⟩, reads_eq hu hh (by omega) (registerValue_tmcfg s m caller),
      reads_eq hu hh (by omega) (registerValue_tmport s m caller), fun p w h0 hp hw => ?_, fun g hg => ?_⟩
    · have get := fun r x (hr : r < 0x40) => reads_queue (x := x) hu hh hn hr h
      exact ⟨get 0x00 _ (by omega) rfl, get 0x08 _ (by omega) rfl, get 0x0C _ (by omega) rfl, get 0x14 _ (by omega) rfl, get 0x1C _ (by omega) (Queue.readAt_status _),
        get 0x20 _ (by omega) rfl, get 0x24 _ (by omega) rfl, get 0x28 _ (by omega) rfl, get 0x2C _ (by omega) rfl⟩
    · exact reads_eq hu hh (by omega) ((registerValue_queue s m caller hn hr).trans (if_neg (by simp [not_mayCall h])))
    · exact reads_eq hu hh (by omega) ((registerValue_errors s m caller h0 hp hw).trans (ite_of_iff mayCall_iff rfl rfl))
    · refine reads_eq hu hh (by omega) ((registerValue_owner s m caller hg).trans (ite_of_iff mayCall_iff ?_ rfl))
      rw [Nat.mul_comm (2 ^ 8), Nat.mul_comm (2 ^ 24)]; rfl
  -- A partition's error counters (R398).
  · refine ⟨_, exec_errorCounterClear hu hh, fun w hw => ?_, fun p w hp hw => ?_, shared_clearErrors m part s⟩
    · rw [errs_clearErrors, if_neg (by omega)]
    · rw [errs_clearErrors, if_pos (by omega)]
  -- A load of firmware as it arrives, imports the state table and has imported it (R391).
  · refine ⟨fun h hp => ⟨fun h1 h3 => ⟨_, exec_fwload .., ?_⟩, fun hb hs => ⟨_, exec_fwload .., ?_⟩, fun hb hs => ⟨_, (openAny s).1 + 1, exec_fwload .., ?_, ?_⟩⟩,
      fun hp => ⟨_, (openAny s).1 + 1, exec_fwload .., by omega, fwloadMove_imports hp⟩,
      fun hp => ⟨fun ha => ?_, fun ha => ⟨_, (openAny s).1 + 1, exec_fwload .., by omega, ?_⟩⟩⟩
    · rw [fwloadMove_arrives h hp, if_pos ⟨h1, h3⟩]
      exact refused_refuseOp m s
    · rw [fwloadMove_arrives h hp, if_neg (by omega), hs]
      exact refused_refuseOp m _
    · omega
    · rw [fwloadMove_arrives h hp, if_neg (by omega), if_pos hs]
    · rw [exec_fwload, fwloadMove_imported hp, ha]; rfl
    · rw [fwloadMove_imported hp, if_pos ha]
  -- The takeover: not awaited, away from a quiescent boundary, at one (R391).
  · refine ⟨fun h => ?_, fun h hq => ?_, fun h hq => ?_, quiescent_iff.trans ?_⟩
    · rw [exec_firmwareTakeover, takeoverMove, if_pos h]
    · rw [exec_firmwareTakeover, takeoverMove_waits h hq]
    · obtain ⟨d, v, lo, hi, hd, hl, ht⟩ := takeoverMove_quiescent h hq
      exact ⟨_, d, v, lo, hi, exec_firmwareTakeover s, hd, hl, ht⟩
    · simp only [Move.halfDone_eq_false_iff]
  -- A die that rejoins, as the update begins and once the die is quiet (R392).
  · refine fun hu hs => ⟨fun hp => ⟨fun hx => ?_, fun hx hb => ?_, fun hx hn hb => ?_⟩, fun hp => ⟨fun hq => ?_, fun hq hc => ⟨_, exec_dieFirmwareRejoin .., ?_⟩,
      fun hq hc => ⟨_, exec_dieFirmwareRejoin .., ?_⟩⟩⟩
    · rw [exec_dieFirmwareRejoin, rejoinMove_arrives hd hu hs hp, if_pos hx]
    · rw [exec_dieFirmwareRejoin, rejoinMove_arrives hd hu hs hp, if_neg (by simp [hx]), if_pos hb]
    · rw [exec_dieFirmwareRejoin, rejoinMove_arrives hd hu hs hp, if_neg (by simp [hx]), if_neg (by simp [hn]; omega)]
    · rw [exec_dieFirmwareRejoin, rejoinMove_half hd hu hs hp, if_neg fun h => hq ((dieQuiet_iff hd).mp h)]
    · rw [rejoinMove_half hd hu hs hp, if_pos ((dieQuiet_iff hd).mpr hq)]
      exact rejoinDie_compatible hd hc
    · rw [rejoinMove_half hd hu hs hp, if_pos ((dieQuiet_iff hd).mpr hq)]
      exact rejoinDie_incompatible hd hc

end Sys2Proof.Machine
end

section
/-! SUPPORT. Execution faults outside run-ahead (R71, R256), and the detail of an address fault (R20). -/

namespace Sys2Proof.Machine

open Sys2Proof.Claims

/-! ### A slot that acts, and what it raises -/

/-- A syllable whose guard reads 1 untagged acts (R59). -/
theorem guarded_enabled {g : Nat} {s : State} (h : Enabled s g) (k : State → State) : guarded g s k = k s := by
  obtain ⟨hTag, hOn⟩ := h
  simp [guarded, hTag, hOn]

theorem raise_eq (cause detail : Nat) (s : State) : raise cause detail s = raised s cause detail := rfl
theorem hardFault_outside {s : State} (h : inRa s = false) (cause detail : Nat) : hardFault cause detail s = raised s cause detail := by
  simp [hardFault, h, raise_eq]
theorem softFault_outside {s : State} (h : inRa s = false) (cause detail : Nat) (poison : Poison → State) :
    softFault cause detail poison s = raised s cause detail := by
  simp [softFault, h, raise_eq]

/-! ### The detail of an address fault: each test where those before it fail (R20) -/

section detail
variable {s : State} {hi store ok : Bool} {ea : Int} {n al : Nat}

/-- A write by a core touches the weight store. -/
abbrev WritesWeights (store : Bool) (ea : Int) (n : Nat) : Prop := store = true ∧ 0 ≤ ea ∧ ea < 0x80000000 ∧ 0x40000000 < ea + n

/-- The range touches an ALT half of a pair of the issuing core's cluster (R210). -/
abbrev InAltHalf (s : State) (ea : Int) (n : Nat) : Prop := 0 ≤ ea ∧ touchesAlt (itsCluster s) ea.toNat n = true

theorem writesWeights_iff : (store && decide (0 ≤ ea) && meets ea.toNat n 0x40000000 0x40000000) = true ↔ WritesWeights store ea n := by
  simp only [meets, Bool.and_eq_true, decide_eq_true_eq, and_assoc]
  refine and_congr_right fun _ => and_congr_right fun _ => ?_
  omega

theorem inAltHalf_iff : (decide (0 ≤ ea) && touchesAlt (getCluster s (clusterOf s.focus.core)) ea.toNat n) = true ↔ InAltHalf s ea n := by
  simp only [Bool.and_eq_true, decide_eq_true_eq]; rfl

theorem addrFault_upper (h : hi = true) : addrFault s hi ea n al store ok = some 2 := if_pos h

variable (h2 : ¬ hi = true)
include h2

theorem addrFault_misaligned (h : ea % al ≠ 0) : addrFault s hi ea n al store ok = some 3 := (if_neg h2).trans (if_pos h)

variable (h3 : ¬ ea % al ≠ 0)
include h3

theorem addrFault_weights (h : WritesWeights store ea n) : addrFault s hi ea n al store ok = some 4 :=
  (if_neg h2).trans <| (if_neg h3).trans <| if_pos (writesWeights_iff.mpr h)

variable (h4 : ¬ WritesWeights store ea n)
include h4

theorem addrFault_alt (h : InAltHalf s ea n) : addrFault s hi ea n al store ok = some 5 :=
  (if_neg h2).trans <| (if_neg h3).trans <| (if_neg (mt writesWeights_iff.mp h4)).trans <| if_pos (inAltHalf_iff.mpr h)

theorem addrFault_notAllowed (h5 : ¬ InAltHalf s ea n) (h : ¬ ok = true) : addrFault s hi ea n al store ok = some 1 :=
  (if_neg h2).trans <| (if_neg h3).trans <| (if_neg (mt writesWeights_iff.mp h4)).trans <| (if_neg (mt inAltHalf_iff.mp h5)).trans <|
    if_pos (by simp [h])
end detail

theorem highSet_iff {v : DWord} : highSet v = true ↔ 2 ^ 32 ≤ v.toNat := decide_eq_true_iff
theorem inLocal_iff {ea : Int} {n : Nat} : inLocal ea n = true ↔ 0 ≤ ea ∧ ownFiles ea.toNat n = true := by
  simp only [inLocal, Bool.and_eq_true, decide_eq_true_eq]; rfl

end Sys2Proof.Machine
end

section
/-! SUPPORT. O9: the address faults of scalar loads and stores (R20, R109). -/

namespace Sys2Proof.Machine

open Sys2Proof.Claims

theorem szBytes_eq (sz : Nat) : szBytes sz = sizeOfCode sz := rfl
theorem scalarEa_eq (s : State) (a sz : Nat) (off : Int) : scalarEa s a sz off = addrOf s a + off * sizeOfCode sz := rfl

/-- The detail of the address fault of an aligned access to n bytes at ea from a scalar, by a form that reaches the register space and the
scratchpad alone, or none (R20, R109). -/
abbrev localFault (s : State) (a : Nat) (ea : Int) (n : Nat) (store : Bool) : Option Nat :=
  addrFault s (highSet (srcS s a)) ea n n store (inLocal ea n)

section faults
variable {g a sz detail : Nat} {off : Int} {s : State} (hg : Enabled s g) (hr : inRa s = false) (ha : tagOfS s a = none)
include hg hr ha

theorem scalarLoad_faults (d : Nat) (hf : localFault s a (addrOf s a + off * sizeOfCode sz) (sizeOfCode sz) false = some detail) :
    scalarLoad g d a sz off s = raised s 0x10 detail := by
  simp only [scalarLoad, scalarEa_eq, szBytes_eq, guarded_enabled hg, ha, hf, softFault_outside hr]

theorem scalarStore_faults {v : Nat} (hv : tagOfS s v = none)
    (hf : localFault s a (addrOf s a + off * sizeOfCode sz) (sizeOfCode sz) true = some detail) :
    scalarStore g v a sz off s = raised s 0x10 detail := by
  simp [scalarStore, scalarEa_eq, szBytes_eq, guarded_enabled hg, unlessTagged, ha, hv, hf, hardFault_outside hr]
end faults

/-- Settles O9: each form raises the detail that `addrFault` finds, and that detail is the first of R20's order that applies. -/
theorem addressFaults : Obligations.AddressFaults := by
  unfold Obligations.AddressFaults
  intro i g r a sz off s store hi hg hr ha n ea
  have raises : ∀ detail, localFault s a ea n store = some detail → exec i s = .next (raised s 0x10 detail) := by
    intro detail hf
    rcases hi with ⟨rfl, rfl | rfl, hv⟩ | ⟨rfl, rfl | rfl⟩
    · exact congrArg Host.Outcome.next (scalarStore_faults hg hr ha hv hf)
    · exact congrArg Host.Outcome.next (scalarStore_faults hg hr ha hv hf)
    · exact congrArg Host.Outcome.next (scalarLoad_faults hg hr ha r hf)
    · exact congrArg Host.Outcome.next (scalarLoad_faults hg hr ha r hf)
  exact ⟨fun h => raises 2 (addrFault_upper (highSet_iff.mpr h)),
    fun h2 h => raises 3 (addrFault_misaligned (mt highSet_iff.mp h2) h),
    fun h2 h3 h => raises 4 (addrFault_weights (mt highSet_iff.mp h2) h3 h),
    fun h2 h3 h4 h => raises 5 (addrFault_alt (mt highSet_iff.mp h2) h3 h4 h),
    fun h2 h3 h4 h5 h => raises 1 (addrFault_notAllowed (mt highSet_iff.mp h2) h3 h4 h5 (mt inLocal_iff.mp h))⟩

end Sys2Proof.Machine
end

section
/-! SUPPORT. A posted result in the words of the statements (`withResult`), in run-ahead and outside it (R61, R62, R253), and the deferred
fault of a tagged source (R111). -/

namespace Sys2Proof.Machine

open Sys2Proof.Claims

/-- The journal entry of a result counts in run-ahead alone (R253). -/
theorem post_journal (L : Nat) (e : Eff) (j : Nat) (s : State) : post L e (journal j s) = withResult s L e j := by
  simp only [journal, withResult]
  by_cases h : (focusCore s).ra.isSome = true
  · rw [if_pos h, if_pos (show inRa s = true from h)]; rfl
  · rw [if_neg h, if_neg (show ¬ inRa s = true from h)]; rfl

theorem post_eq_withResult (L : Nat) (e : Eff) (s : State) : post L e s = withResult s L e 0 := by
  rw [← post_journal, journal]
  split <;> rfl

/-- A scalar result asks for journal bytes but for s0, whose write is discarded (R253). -/
theorem postS_eq_withResult (L d : Nat) (v : DWord) (tag : Option Poison) (s : State) :
    postS L d v tag s = withResult s L (.sreg d v tag) (scalarBytes d) := by
  unfold postS journalS scalarBytes
  split
  · exact post_eq_withResult ..
  · exact post_journal ..

theorem postPair_eq_withResult (p : Nat) (c : Bool) (tag : Option Poison) (s : State) :
    postPair p c tag s = withResult s 2 (.pair p c tag) 16 := post_journal ..

theorem firstTag_singleton (t : Option Poison) : firstTag [t] = t := by cases t <;> rfl

theorem unlessTagged_some {s : State} (h : inRa s = false) (p : Poison) (k : State → State) : unlessTagged [some p] s k = deferredAt s p := by
  simp [unlessTagged, takeDeferred, h, updFocus, deferredAt, onFocus]
theorem notInRa_outside {s : State} (h : inRa s = false) (k : State → State) : notInRa s k = k s := by simp [notInRa, h]

end Sys2Proof.Machine
end

section
/-! SUPPORT. O1: the scalar register forms (R107): the value of each as an integer expression, and the reserved sb field of `clz` and `popc` (R74). -/

namespace Sys2Proof.Machine

open Sys2Proof.Claims

/-! ### The values of R107 -/

theorem sub_eq_ofInt (x y : DWord) : x - y = BitVec.ofInt 64 ((x.toNat : Int) - y.toNat) := by
  apply BitVec.eq_of_toNat_eq
  simp only [BitVec.toNat_sub, BitVec.toNat_ofInt]
  omega

/-- The upper half of a product of 128 bits is its floor division by 2^64, whatever its sign. -/
theorem extractLsb'_ofInt_high (z : Int) : BitVec.extractLsb' 64 64 (BitVec.ofInt 128 z) = BitVec.ofInt 64 (z / 2 ^ 64) := by
  apply BitVec.eq_of_toNat_eq
  simp only [BitVec.extractLsb'_toNat, BitVec.toNat_ofInt, Nat.shiftRight_eq_div_pow]
  omega

theorem mulhVal_eq (x y : DWord) : mulhVal x y = BitVec.extractLsb' 64 64 (BitVec.signExtend 128 x * BitVec.signExtend 128 y) :=
  calc mulhVal x y = BitVec.extractLsb' 64 64 (BitVec.ofInt 128 (x.toInt * y.toInt)) := (extractLsb'_ofInt_high _).symm
    _ = _ := congrArg _ (BitVec.ofInt_mul ..)

theorem shlVal_eq (x y : DWord) : shlVal x y = BitVec.ofNat 64 (x.toNat * 2 ^ (y.toNat % 64)) := by
  apply BitVec.eq_of_toNat_eq
  simp [shlVal, Nat.shiftLeft_eq]

theorem shrVal_eq (x y : DWord) : shrVal x y = BitVec.ofNat 64 (x.toNat / 2 ^ (y.toNat % 64)) := by
  apply BitVec.eq_of_toNat_eq
  rw [shrVal, BitVec.toNat_ushiftRight, Nat.shiftRight_eq_div_pow, BitVec.toNat_ofNat,
    Nat.mod_eq_of_lt (Nat.lt_of_le_of_lt (Nat.div_le_self ..) x.isLt)]

theorem sraVal_eq (x y : DWord) : sraVal x y = BitVec.ofInt 64 (x.toInt / 2 ^ (y.toNat % 64)) := by
  rw [sraVal, BitVec.sshiftRight, Int.shiftRight_eq_div_pow]
  push_cast
  rfl

theorem minVal_eq (x y : DWord) : minVal x y = BitVec.ofInt 64 (min x.toInt y.toInt) := by
  rw [minVal, Int.min_def]
  split <;> simp

theorem maxVal_eq (x y : DWord) : maxVal x y = BitVec.ofInt 64 (max x.toInt y.toInt) := by
  rw [maxVal, Int.max_def]
  split <;> simp

/-- Counted from the top, the first bit that is set is the bit of the binary logarithm. -/
theorem leadingZeros_of_ne_zero {x : DWord} (h : x.toNat ≠ 0) : leadingZeros x = 63 - x.toNat.log2 := by
  have hl : x.toNat.log2 < 64 := (Nat.log2_lt h).mpr x.isLt
  have hfirst : (List.range 64).find? (fun i => x.getLsbD (63 - i)) = some (63 - x.toNat.log2) := by
    refine List.find?_range_eq_some.mpr ⟨?_, List.mem_range.mpr (by omega), fun j hj => ?_⟩
    · rw [show 63 - (63 - x.toNat.log2) = x.toNat.log2 by omega]
      exact Nat.testBit_log2 h
    · rw [Bool.not_eq_true']
      exact Nat.testBit_lt_two_pow ((Nat.log2_lt h).mp (by omega))
  rw [leadingZeros, hfirst, Option.getD_some]

theorem clzVal_eq (x : DWord) : clzVal x = BitVec.ofNat 64 (leadingZeros x) := by
  unfold clzVal
  split
  · next h =>
    obtain rfl : x = 0 := BitVec.eq_of_toNat_eq h
    decide
  · next h => rw [leadingZeros_of_ne_zero h]

theorem popcVal_eq (x : DWord) : popcVal x = BitVec.ofNat 64 ((List.range 64).countP fun i => x.getLsbD i) := by
  rw [popcVal, List.countP_eq_length_filter]

/-! ### The forms -/

theorem un_eq (f : DWord → DWord) (xs : List DWord) : un f xs = f (at_ xs 0) := by cases xs <;> rfl

/-- A scalar form whose guard reads 1 posts its value, or the first tag of its sources, at its latency, and nothing else changes. -/
theorem scalarForm_next {p : ScalarSpec} {s : State} {f : List DWord → DWord} (hg : Enabled s p.g) (hf : ∀ xs, f xs = p.val xs) :
    scalarForm p.lat p.g p.d p.srcs f s = p.next s := by
  rw [scalarForm, guarded_enabled hg, postS_eq_withResult, hf, ScalarSpec.next]

theorem exec_srForm {i : Instr} {p : ScalarSpec} {s : State} (h : srForm i = some p) (hg : Enabled s p.g) : exec i s = .next (p.next s) := by
  have runs : ∀ {f : List DWord → DWord}, (∀ xs, f xs = p.val xs) →
      Host.Outcome.next (φ := Fault) (ρ := Refusal) (scalarForm p.lat p.g p.d p.srcs f s) = .next (p.next s) :=
    fun hf => congrArg _ (scalarForm_next hg hf)
  unfold srForm at h
  split at h <;> cases h
  case h_1.refl g d a b => exact runs fun _ => BitVec.add_def ..
  case h_2.refl g d a b => exact runs fun _ => sub_eq_ofInt ..
  case h_3.refl g d a b => exact runs fun _ => BitVec.mul_def ..
  case h_4.refl g d a b => exact runs fun _ => mulhVal_eq ..
  case h_5.refl g d a b => exact runs fun _ => rfl
  case h_6.refl g d a b => exact runs fun _ => rfl
  case h_7.refl g d a b => exact runs fun _ => rfl
  case h_8.refl g d a b => exact runs fun _ => shlVal_eq ..
  case h_9.refl g d a b => exact runs fun _ => shrVal_eq ..
  case h_10.refl g d a b => exact runs fun _ => sraVal_eq ..
  case h_11.refl g d a b => exact runs fun _ => minVal_eq ..
  case h_12.refl g d a b => exact runs fun _ => maxVal_eq ..
  case h_13.refl g d a => exact runs fun xs => (un_eq ..).trans (clzVal_eq _)
  case h_14.refl g d a => exact runs fun xs => (un_eq ..).trans (popcVal_eq _)

/-! ### The reserved field -/

theorem decodeXY_sr {isX : Bool} {w : Nat} (h : fld w 31 26 = 1) : decodeXY isX w none = decodeSR w := by
  simp only [decodeXY, h, noExt]

/-- `clz` and `popc` have one source, and the field of a second one is 0 (R74). -/
theorem decodeSR_reserved {w : Nat} (hf : fld w 7 4 = 12 ∨ fld w 7 4 = 13) (hb : fld w 13 8 ≠ 0) : decodeSR w = .error 11 := by
  rcases hf with hf | hf <;> simp only [decodeSR, hf, chk, beq_iff_eq, hb, if_false]

/-- Settles O1: each form by the equation of its value, and the reserved field in either slot. -/
theorem scalarRegisterForms : Obligations.ScalarRegisterForms := by
  unfold Obligations.ScalarRegisterForms
  refine ⟨fun _ _ _ h hg => exec_srForm h hg, fun sl w hs ho hf hb => ?_⟩
  rcases hs with rfl | rfl
  · exact (decodeXY_sr ho).trans (decodeSR_reserved hf hb)
  · exact (decodeXY_sr ho).trans (decodeSR_reserved hf hb)

end Sys2Proof.Machine
end

section
/-! SUPPORT. O3: the compares and the predicate logic (R104, R114 to R116). -/

namespace Sys2Proof.Machine

open Sys2Proof.Claims

theorem cmpHolds_eq_condBool (c : Cond) (x y : DWord) : cmpHolds c x y = condBool c x y := by
  cases c
  case eq => rfl
  case ne => exact (decide_not (p := x = y)).symm
  all_goals rfl

theorem mask_eq_iff (m n : Mask) : m = n ↔ ∀ i < 128, m.getLsbD i = n.getLsbD i := ⟨fun h _ _ => h ▸ rfl, BitVec.eq_of_getLsbD_eq⟩

theorem mask_ne_zero_eq_any (m : Mask) : (m != 0) = (List.range 128).any fun i => m.getLsbD i := by
  rw [Bool.eq_iff_iff, bne_iff_ne, ne_eq, mask_eq_iff]
  simp

theorem mask_eq_allOnes_eq_all (m : Mask) : (m == BitVec.allOnes 128) = (List.range 128).all fun i => m.getLsbD i := by
  rw [Bool.eq_iff_iff, beq_iff_eq, mask_eq_iff]
  simp +contextual [-BitVec.reduceAllOnes]

section forms
variable {p : PairSpec} {s : State} (hg : Enabled s p.g)
include hg

theorem compareForm_next {srcs : List Nat} {f : List DWord → Bool} (hf : f (srcs.map (srcS s)) = p.res s)
    (ht : srcs.map (tagOfS s) = p.tags s) : compareForm p.g p.pair srcs f s = p.next s := by
  rw [compareForm, guarded_enabled hg, postPair_eq_withResult, hf, ht, PairSpec.next]

theorem predForm_next {a b : Nat} {na nb : Bool} {f : Bool → Bool → Bool}
    (hf : f ((focusCore s).regs.getP a != na) ((focusCore s).regs.getP b != nb) = p.res s)
    (ht : [(focusCore s).regs.tagP a, (focusCore s).regs.tagP b] = p.tags s) : predForm p.g p.pair a b na nb f s = p.next s := by
  rw [predForm, guarded_enabled hg, postPair_eq_withResult, hf, ht, PairSpec.next]

theorem maskForm_next {km : Nat} {f : Mask → Bool} (hf : f ((focusCore s).regs.getK km) = p.res s)
    (ht : [(focusCore s).regs.tagK km] = p.tags s) : maskForm p.g p.pair km f s = p.next s := by
  rw [maskForm, guarded_enabled hg, postPair_eq_withResult, hf, PairSpec.next, ← ht, firstTag_singleton]
end forms

/-- Settles O3: each form by the equation of its result. -/
theorem compareForms : Obligations.CompareForms := by
  unfold Obligations.CompareForms
  intro i p s h hg
  unfold pairForm at h
  split at h <;> cases h
  case h_1.refl g p c a b => exact congrArg Host.Outcome.next (compareForm_next hg (cmpHolds_eq_condBool ..) rfl)
  case h_2.refl g p c a i => exact congrArg Host.Outcome.next (compareForm_next hg (cmpHolds_eq_condBool ..) rfl)
  case h_3.refl g p c a i => exact congrArg Host.Outcome.next (compareForm_next hg (cmpHolds_eq_condBool ..) rfl)
  case h_4.refl g p c f a b => exact congrArg Host.Outcome.next (compareForm_next hg rfl rfl)
  case h_5.refl g p a b na nb => exact congrArg Host.Outcome.next (predForm_next hg rfl rfl)
  case h_6.refl g p a b na nb => exact congrArg Host.Outcome.next (predForm_next hg rfl rfl)
  case h_7.refl g p a b na nb => exact congrArg Host.Outcome.next (predForm_next hg rfl rfl)
  case h_8.refl g p k => exact congrArg Host.Outcome.next (maskForm_next hg (mask_ne_zero_eq_any _) rfl)
  case h_9.refl g p k => exact congrArg Host.Outcome.next (maskForm_next hg (mask_eq_allOnes_eq_all _) rfl)

end Sys2Proof.Machine
end

section
/-! SUPPORT. O10: the system registers (R38, R112, R113, R197, R366, R399). -/

namespace Sys2Proof.Machine

open Sys2Proof.Claims

theorem exec_rdsys {g : Nat} {s : State} (hg : Enabled s g) (d n : Nat) :
    exec (.rdsys g d n) s = .next (withResult s 1 (.sreg d (BitVec.ofNat 64 (sysRead s s.focus.core n)) none) (scalarBytes d)) :=
  congrArg Host.Outcome.next ((guarded_enabled hg _).trans (postS_eq_withResult ..))

theorem exec_wrsys {g : Nat} {s : State} (hg : Enabled s g) (hr : inRa s = false) (a n : Nat) :
    exec (.wrsys g a n) s = .next (unlessTagged [tagOfS s a] s fun s => post 1 (.sysw n (srcS s a).toNat) s) :=
  congrArg Host.Outcome.next ((guarded_enabled hg _).trans (notInRa_outside hr _))

/-! ### What each register reads (R113) -/

section reads
variable (s : State) (k : Nat)

theorem sysRead_loopCount {n : Nat} (h : n ≤ 5) :
    sysRead s k (0x012 + n) = (((getCore s k).loops.reverse[n]?).map fun l => l.count).getD 0 := by
  unfold sysRead
  simp (disch := omega) only [if_neg, if_pos, Nat.add_sub_cancel_left]

theorem sysRead_evsel {i : Nat} (h : i < 8) : sysRead s k (0x060 + i) = Tbl.get 0 (getCore s k).evsel i := by
  unfold sysRead
  simp (disch := omega) only [if_neg, if_pos, Nat.add_sub_cancel_left]

theorem sysRead_evcnt {i : Nat} (h : i < 8) : sysRead s k (0x068 + i) = Tbl.get 0 (getCore s k).evcnt i := by
  unfold sysRead
  simp (disch := omega) only [if_neg, if_pos, Nat.add_sub_cancel_left]

theorem sysRead_unlisted {n : Nat} (h : 0x070 ≤ n ∨ 0x051 ≤ n ∧ n < 0x060 ∨ 0x023 ≤ n ∧ n < 0x030) : sysRead s k n = 0 := by
  unfold sysRead
  simp (disch := omega) only [if_neg]

theorem sysRead_rank : sysRead s k 0x000 = if (getCore s k).seq = .off then 0 else k % 8 := ite_of_iff beq_iff_eq rfl rfl
theorem sysRead_coreNo : sysRead s k 0x003 = if (getCore s k).seq = .off then 0 else k % 768 := ite_of_iff beq_iff_eq rfl rfl
end reads

theorem bcastWord_off {x : Ctx} (h : x.bcast = false) : bcastWord x = 0 := by simp [bcastWord, h]

theorem sum_map_zipIdx_eight (f : Nat × Nat → Nat) (a b c d e g h i : Nat) : ([a, b, c, d, e, g, h, i].zipIdx.map f).sum =
    f (a, 0) + f (b, 1) + f (c, 2) + f (d, 3) + f (e, 4) + f (g, 5) + f (h, 6) + f (i, 7) := by
  simp [Nat.add_assoc]

/-- `sys.bcast` holds the skew of rank r in the four bits from 4r + 4 on (R38). -/
theorem bcastWord_on {x : Ctx} {a b d e f g h i : Nat} (hb : x.bcast = true) (hs : x.skew = [a, b, d, e, f, g, h, i]) (hlt : ∀ y ∈ x.skew, y < 16) :
    bcastWord x = 1 + a * 2 ^ 4 + b * 2 ^ 8 + d * 2 ^ 12 + e * 2 ^ 16 + f * 2 ^ 20 + g * 2 ^ 24 + h * 2 ^ 28 + i * 2 ^ 32 := by
  simp only [hs, List.forall_mem_cons] at hlt
  obtain ⟨ha, hb', hd, he, hf, hg, hh, hi, -⟩ := hlt
  rw [bcastWord, if_pos hb, hs, sum_map_zipIdx_eight]
  simp only [Nat.mod_eq_of_lt, ha, hb', hd, he, hf, hg, hh, hi, Nat.reduceMul, Nat.reduceAdd, ← Nat.add_assoc]

/-! ### What a write leaves -/

section writes
variable (c : Core) (v : Nat)
theorem sysWrite_evsel {i : Nat} (h : i < 8) : c.sysWrite (0x060 + i) v = { c with evsel := Tbl.set c.evsel i (v % 2 ^ 9) } := by
  unfold Core.sysWrite
  simp (disch := omega) only [if_neg, if_pos, Nat.add_sub_cancel_left]
theorem sysWrite_evcnt {i : Nat} (h : i < 8) : c.sysWrite (0x068 + i) v = { c with evcnt := Tbl.set c.evcnt i (v % 2 ^ 64) } := by
  unfold Core.sysWrite
  simp (disch := omega) only [if_neg, if_pos, Nat.add_sub_cancel_left]
theorem sysWrite_unlisted {n : Nat} (h34 : n ≠ 0x034) (h50 : n ≠ 0x050) (h : n < 0x060 ∨ 0x070 ≤ n) : c.sysWrite n v = c := by
  unfold Core.sysWrite
  simp (disch := omega) only [if_neg]
end writes

/-- Settles O10: the two syllables, what each number reads, and what a write to each leaves. -/
theorem systemRegisters : Obligations.SystemRegisters := by
  unfold Obligations.SystemRegisters
  refine ⟨fun g d n s hg => exec_rdsys hg d n, fun g a n s hg hr => ?_, fun s k => ?_, fun s k => ?_, fun c v => ?_⟩
  · rw [exec_wrsys hg hr]
    cases tagOfS s a with
    | none => exact congrArg Host.Outcome.next (post_eq_withResult ..)
    | some p => exact congrArg Host.Outcome.next (unlessTagged_some hr ..)
  · exact ⟨sysRead_rank s k, sysRead_coreNo s k, rfl, rfl, rfl, rfl, rfl, rfl, rfl, rfl, rfl⟩
  · refine ⟨rfl, rfl, rfl, rfl, rfl, rfl, rfl, rfl, bcastWord_off, fun _ _ _ _ _ _ _ _ => bcastWord_on, fun n l hn hl => ?_, fun n hn hl => ?_, rfl,
      rfl, rfl, rfl, rfl, fun i hi => ⟨sysRead_evsel s k hi, sysRead_evcnt s k hi⟩, fun n => sysRead_unlisted s k⟩
    · rw [sysRead_loopCount s k hn, hl]; rfl
    · rw [sysRead_loopCount s k hn, List.getElem?_eq_none (by simpa using hl)]; rfl
  · exact ⟨rfl, rfl, fun i hi => ⟨sysWrite_evsel c v hi, sysWrite_evcnt c v hi⟩, fun n => sysWrite_unlisted c v⟩

end Sys2Proof.Machine
end

section
/-! SUPPORT. O12: loop-bottom processing (R121). -/

namespace Sys2Proof.Machine

/-- Settles O12, by induction on the loop stack: an entry that closes goes before those that the rest of the stack closes. -/
theorem loopBottom_closes : Obligations.LoopBottom := by
  unfold Obligations.LoopBottom
  intro A len ls
  fun_induction loopBottom A len ls
  case case1 => exact ⟨[], [], rfl, by simp, .inr ⟨by simp, rfl⟩⟩
  case case2 l ls hs hc => exact ⟨[], l :: ls, rfl, by simp, .inl ⟨l, ls, rfl, hs, hc, rfl⟩⟩
  case case3 l ls hs hc ih =>
    obtain ⟨out, rest, rfl, hout, h⟩ := ih
    exact ⟨l :: out, rest, rfl, List.forall_mem_cons.mpr ⟨⟨hs, Nat.le_of_not_lt hc⟩, hout⟩, h⟩
  case case4 l ls hs => exact ⟨[], l :: ls, rfl, by simp, .inr ⟨by rintro _ _ ⟨⟩; exact hs, rfl⟩⟩

end Sys2Proof.Machine
end

section
/-! SUPPORT. O56: the values right after reset. -/

namespace Sys2Proof.Machine

open Sys2Proof.Claims

theorem Regs.tagS_clean (n : Nat) : Regs.clean.tagS n = none := ite_self none

/-- Settles O56: no table lists a key after reset, so each reads as its own reset value. -/
theorem resetValues : Obligations.ResetValues := by
  unfold Obligations.ResetValues
  refine ⟨fun k => ?_, fun c => ⟨rfl, rfl, rfl, rfl⟩, fun d => ⟨rfl, rfl⟩, fun m n => ?_, rfl, rfl, rfl⟩
  · exact ⟨rfl, rfl, rfl, rfl, rfl, rfl, rfl, rfl, rfl, rfl, rfl, rfl, rfl, rfl, rfl, rfl, Regs.tagS_clean, fun _ _ => rfl, fun _ _ => rfl,
      fun _ => rfl, fun _ => rfl, fun _ => rfl⟩
  · and_intros <;> rfl

end Sys2Proof.Machine
end
